-- ==== Sys2Proof/Word.lean ====
section
/-! DEFINITION. The word types of the D960 and their plainest arithmetic. -/

namespace Sys2Proof

/-- A register or instruction word (R82, R104). -/
abbrev Word := BitVec 32

/-- One byte of memory or scratchpad. -/
abbrev Byte := BitVec 8

/-- A 64-bit virtual address, or the low part of a physical one (R6). -/
abbrev Addr := BitVec 64

/-- The `len` bits of `x` from bit `lo` up, as a natural number. -/
def bits (x : Nat) (lo len : Nat) : Nat := (x >>> lo) % 2 ^ len

/-- Bit `i` of a natural number. -/
def bitAt (x : Nat) (i : Nat) : Bool := (x >>> i) % 2 == 1

/-- The two's-complement reading of the low `n` bits of `x`. -/
def sextNat (n x : Nat) : Int :=
  let m := x % 2 ^ n
  if m < 2 ^ (n - 1) then (m : Int) else (m : Int) - 2 ^ n

/-- `x` rounded up to a multiple of `m`. -/
def roundUp (x m : Nat) : Nat := (x + m - 1) / m * m

end Sys2Proof
end

