-- ==== Sys2Proof/Machine/Flags.lean ====
section
/-! DEFINITION. The floating-point formats, exact values, rounding and every floating-point flag (06_numbers R139 to
R142). A value is exact until it is rounded once. -/

namespace Sys2Proof.Machine

/-- The sticky flags in the bit order of sr.fpst (R93): NV, DZ, OF, UF, NX. -/
abbrev FpFlags := BitVec 5

def flagNV : FpFlags := 1
def flagDZ : FpFlags := 2
def flagOF : FpFlags := 4
def flagUF : FpFlags := 8
def flagNX : FpFlags := 16

/-- The sticky flags in the bit order of sr.ist (R93): DZI, DOV, SAT. -/
abbrev IntFlags := BitVec 3

def flagDZI : IntFlags := 1
def flagDOV : IntFlags := 2
def flagSAT : IntFlags := 4

/-- A binary floating-point format (R139): precision with the leading one, exponent of the smallest normal number and
of the largest finite one, and the fields' widths. -/
structure Fmt where
  prec : Nat
  emin : Int
  emax : Int
  expBits : Nat
  deriving DecidableEq, Repr

def fmtF32 : Fmt := ⟨24, -126, 127, 8⟩
def fmtF16 : Fmt := ⟨11, -14, 15, 5⟩
def fmtB16 : Fmt := ⟨8, -126, 127, 8⟩

namespace Fmt
def fracBits (f : Fmt) : Nat := f.prec - 1
def signBit (f : Fmt) : Nat := f.fracBits + f.expBits
def infBits (f : Fmt) : Nat := (2 ^ f.expBits - 1) * 2 ^ f.fracBits
def nanBits (f : Fmt) : Nat := f.infBits + 2 ^ (f.fracBits - 1)
def maxBits (f : Fmt) : Nat := f.infBits - 1
end Fmt

/-- Put the sign in front of a magnitude's bits. -/
def signed (f : Fmt) (neg : Bool) (mag : Nat) : Nat := if neg then mag + 2 ^ f.signBit else mag

/-- An exact value: a NaN (signalling or quiet), an infinity, or (-1)^neg * m * 2^e. -/
inductive Num where
  | nan (signalling : Bool)
  | inf (neg : Bool)
  | fin (neg : Bool) (m : Nat) (e : Int)
  deriving DecidableEq, Repr

/-- Read a value in a format (R139, R141). -/
def unpack (f : Fmt) (x : Nat) : Num :=
  let frac := x % 2 ^ f.fracBits
  let ex := (x / 2 ^ f.fracBits) % 2 ^ f.expBits
  let neg := bitAt x f.signBit
  if ex = 2 ^ f.expBits - 1 then
    if frac = 0 then .inf neg else .nan (!bitAt frac (f.fracBits - 1))
  else if ex = 0 then .fin neg frac (f.emin - f.fracBits)
  else .fin neg (frac + 2 ^ f.fracBits) (f.emin - f.fracBits + (ex - 1 : Nat))

/-- A rounded result: its bits and the flags it raises. -/
structure FpRes where
  bits : Nat
  fl : FpFlags := 0
  deriving DecidableEq, Repr

/-- Rounding modes in the order of sr.fpctl.RM (R93): 0 nearest even, 1 toward zero, 2 down, 3 up. -/
def roundsUp (rm : Nat) (neg odd : Bool) (cmpHalf : Ordering) (inexact : Bool) : Bool :=
  match rm with
  | 0 => match cmpHalf with
    | .lt => false
    | .eq => odd
    | .gt => true
  | 1 => false
  | 2 => neg && inexact
  | _ => !neg && inexact

/-- Drop the low `sh` bits of `m` (with a nonzero remainder below them when `sticky`), rounding; and say whether the
result is inexact. -/
def roundAt (rm : Nat) (neg : Bool) (m sh : Nat) (sticky : Bool) : Nat × Bool :=
  let q := m >>> sh
  let r := m % 2 ^ sh
  let inexact := r != 0 || sticky
  let c : Ordering :=
    if sh = 0 then .lt
    else match compare (2 * r) (2 ^ sh) with
      | .lt => .lt
      | .eq => if sticky then .gt else .eq
      | .gt => .gt
  (if roundsUp rm neg (q % 2 == 1) c inexact then q + 1 else q, inexact)

/-- Deliver an overflow for the rounding direction (R142). -/
def overflowTo (f : Fmt) (rm : Nat) (neg : Bool) : Nat :=
  let toInf := rm == 0 || (rm == 2 && neg) || (rm == 3 && !neg)
  signed f neg (if toInf then f.infBits else f.maxBits)

/-- Round the magnitude in [m, m+1) * 2^e, exactly m * 2^e unless `sticky`, once into the format (R140, R142). A
sticky magnitude has more than `prec + 1` bits. -/
def roundMag (f : Fmt) (rm : Nat) (neg : Bool) (m : Nat) (e : Int) (sticky : Bool) : FpRes :=
  if m = 0 then ⟨signed f neg 0, 0⟩ else
  let lead : Int := (Nat.log2 m : Int) + e
  -- rounded as if the exponent range were unbounded
  let shU : Int := lead - f.fracBits - e
  let unb := if 0 ≤ shU then (roundAt rm neg m shU.toNat sticky).1 else m <<< (-shU).toNat
  let leadU := if unb ≥ 2 ^ f.prec then lead + 1 else lead
  if leadU > f.emax then ⟨overflowTo f rm neg, flagOF ||| flagNX⟩ else
  let lsb : Int := max (lead - f.fracBits) (f.emin - f.fracBits)
  let sh : Int := lsb - e
  let (q, inexact) := if 0 ≤ sh then roundAt rm neg m sh.toNat sticky else (m <<< (-sh).toNat, sticky)
  let mag := if lsb = f.emin - f.fracBits then q
    else (lsb - (f.emin - f.fracBits)).toNat * 2 ^ f.fracBits + q
  let fl := (if inexact then flagNX else 0) ||| (if inexact && leadU < f.emin then flagUF else 0)
  ⟨signed f neg mag, fl⟩

/-- Round the exact quotient num / den * 2^e. -/
def roundFrac (f : Fmt) (rm : Nat) (neg : Bool) (num den : Nat) (e : Int) : FpRes :=
  let k := Nat.log2 den + 2 * f.prec + 8
  let q := (num <<< k) / den
  roundMag f rm neg q (e - k) ((num <<< k) % den != 0)

/-- The canonical NaN (R141), with NV when asked. -/
def nanRes (f : Fmt) (invalid : Bool) : FpRes := ⟨f.nanBits, if invalid then flagNV else 0⟩

/-- Deliver an exact value rounded once (R140). -/
def deliver (f : Fmt) (rm : Nat) : Num → FpRes
  | .nan s => nanRes f s
  | .inf neg => ⟨signed f neg f.infBits, 0⟩
  | .fin neg m e => roundMag f rm neg m e false

/-- The operand is a signalling NaN. -/
def Num.isSnan : Num → Bool
  | .nan s => s
  | _ => false

def Num.isNan : Num → Bool
  | .nan _ => true
  | _ => false

/-- The sign of a value that is no NaN. -/
def Num.neg : Num → Bool
  | .nan _ => false
  | .inf n => n
  | .fin n _ _ => n

/-- The value with the sign inverted. -/
def Num.negate : Num → Num
  | .nan s => .nan s
  | .inf n => .inf !n
  | .fin n m e => .fin (!n) m e

/-- A signed integer times 2^e. -/
def Num.ofInt (x : Int) (e : Int) : Num := .fin (x < 0) x.natAbs e

/-- The signed mantissa of a finite value at exponent `e0`, which is at most its own. -/
def mantAt (neg : Bool) (m : Nat) (e e0 : Int) : Int :=
  let v : Int := (m : Int) * 2 ^ (e - e0).toNat
  if neg then -v else v

def Num.isNegZero : Num → Bool
  | .fin n m _ => n && m == 0
  | _ => false

/-- The exact sum of two values; an exact zero is negative as `neg` says. `none`: infinity minus infinity. -/
def addSigned (neg : Bool) : Num → Num → Option Num
  | .nan s, .nan t => some (.nan (s || t))
  | .nan s, _ => some (.nan s)
  | _, .nan t => some (.nan t)
  | .inf a, .inf b => if a = b then some (.inf a) else none
  | .inf a, .fin .. => some (.inf a)
  | .fin .., .inf b => some (.inf b)
  | .fin na ma ea, .fin nb mb eb =>
    let e0 := min ea eb
    let v := mantAt na ma ea e0 + mantAt nb mb eb e0
    if v = 0 then some (.fin neg 0 e0) else some (Num.ofInt v e0)

/-- The sign of an exact zero sum or difference of two operands (R175): negative under down, and when both operands are
-0; positive otherwise, also where IEEE 754 would keep a sign. The packed F16 and B16 sums take the same sign, of which R180
says nothing (log 82). -/
def zeroSign (rm : Nat) (a b : Num) : Bool := rm == 2 || (a.isNegZero && b.isNegZero)

/-- The exact sum a + b, with the sign of a zero by R175. -/
def addExact (rm : Nat) (a b : Num) : Option Num := addSigned (zeroSign rm a b) a b
/-- The exact difference a - b, with the sign of a zero by R175. -/
def subExact (rm : Nat) (a b : Num) : Option Num := addSigned (zeroSign rm a b) a b.negate

/-- The exact product. `none`: zero times infinity. -/
def mulExact : Num → Num → Option Num
  | .nan s, .nan t => some (.nan (s || t))
  | .nan s, _ => some (.nan s)
  | _, .nan t => some (.nan t)
  | .inf a, .inf b => some (.inf (a != b))
  | .inf a, .fin b m _ => if m = 0 then none else some (.inf (a != b))
  | .fin a m _, .inf b => if m = 0 then none else some (.inf (a != b))
  | .fin a ma ea, .fin b mb eb => some (.fin (a != b) (ma * mb) (ea + eb))

/-- Deliver an exact value, or the canonical NaN with NV for an invalid operation. -/
def deliverOpt (f : Fmt) (rm : Nat) : Option Num → FpRes
  | none => nanRes f true
  | some x => deliver f rm x

end Sys2Proof.Machine
end

