-- ==== Sys2Proof/Machine/Float.lean ====
section
/-! DEFINITION. Floating-point operations on bit patterns (07_isa_alu R175 to R183, 06_numbers R145 to R149,
R159 to R163): exact evaluation and one rounding. The special functions are evaluated with 256 fraction bits, far beyond
what a correct rounding of an F32 argument needs, and rounded once. -/

namespace Sys2Proof.Machine

/-! ### Arithmetic -/

def fpAdd (f : Fmt) (rm a b : Nat) : FpRes := deliverOpt f rm (addExact rm (unpack f a) (unpack f b))
def fpSub (f : Fmt) (rm a b : Nat) : FpRes := deliverOpt f rm (subExact rm (unpack f a) (unpack f b))
def fpMul (f : Fmt) (rm a b : Nat) : FpRes := deliverOpt f rm (mulExact (unpack f a) (unpack f b))

/-- a * b + c, or with `sub` a * b - c, with one rounding; 0 times infinity raises NV even beside a quiet NaN (R175). -/
def fmaNum (f : Fmt) (rm : Nat) (sub : Bool) (a b c : Num) : FpRes :=
  match mulExact a b with
  | none => nanRes f true
  | some p =>
    let r := deliverOpt f rm (if sub then subExact rm p c else addExact rm p c)
    if a.isSnan || b.isSnan || c.isSnan then { r with fl := r.fl ||| flagNV } else r

def fpFma (f : Fmt) (rm a b c : Nat) : FpRes := fmaNum f rm false (unpack f a) (unpack f b) (unpack f c)
def fpFms (f : Fmt) (rm a b c : Nat) : FpRes := fmaNum f rm true (unpack f a) (unpack f b) (unpack f c)

/-- a / b (R175). -/
def fpDiv (f : Fmt) (rm a b : Nat) : FpRes :=
  match unpack f a, unpack f b with
  | .nan s, .nan t => nanRes f (s || t)
  | .nan s, _ => nanRes f s
  | _, .nan t => nanRes f t
  | .inf _, .inf _ => nanRes f true
  | .inf n, .fin k _ _ => ⟨signed f (n != k) f.infBits, 0⟩
  | .fin n _ _, .inf k => ⟨signed f (n != k) 0, 0⟩
  | .fin n ma ea, .fin k mb eb =>
    if mb = 0 then (if ma = 0 then nanRes f true else ⟨signed f (n != k) f.infBits, flagDZ⟩)
    else if ma = 0 then ⟨signed f (n != k) 0, 0⟩
    else roundFrac f rm (n != k) ma mb (ea - eb)

/-- The order of two values that are no NaNs; −0 equals +0. -/
def compareNum : Num → Num → Ordering
  | .inf a, .inf b => if a = b then .eq else if a then .lt else .gt
  | .inf a, _ => if a then .lt else .gt
  | _, .inf b => if b then .gt else .lt
  | .fin na ma ea, .fin nb mb eb =>
    let e0 := min ea eb
    compare (mantAt na ma ea e0) (mantAt nb mb eb e0)
  | _, _ => .eq

/-- minimumNumber and maximumNumber (R176): −0 below +0, and a NaN gives way to a number. -/
def fpMinMax (f : Fmt) (isMax : Bool) (a b : Nat) : FpRes :=
  let x := unpack f a
  let y := unpack f b
  let fl := if x.isSnan || y.isSnan then flagNV else 0
  if x.isNan && y.isNan then ⟨f.nanBits, fl⟩
  else if x.isNan then ⟨b, fl⟩
  else if y.isNan then ⟨a, fl⟩
  else
    let aFirst := match compareNum x y with
      | .lt => true
      | .gt => false
      | .eq => x.neg
    ⟨if aFirst != isMax then a else b, fl⟩

/-- The magnitude's bits. -/
def absBits (f : Fmt) (a : Nat) : Nat := a % 2 ^ f.signBit

/-- Square root with a structural digit loop: the largest r with r * r ≤ n, among numbers below 2^i. -/
def isqrtLoop (n : Nat) : Nat → Nat → Nat
  | 0, r => r
  | i + 1, r => let c := r + 2 ^ i; isqrtLoop n i (if c * c ≤ n then c else r)

def isqrt (n : Nat) : Nat := isqrtLoop n (Nat.log2 n / 2 + 1) 0

def fpSqrt (f : Fmt) (rm a : Nat) : FpRes :=
  match unpack f a with
  | .nan s => nanRes f s
  | .inf true => nanRes f true
  | .inf false => ⟨a, 0⟩
  | .fin neg m e =>
    if m = 0 then ⟨a, 0⟩ else if neg then nanRes f true else
    let odd := e % 2 != 0
    let m' := (if odd then 2 * m else m) <<< 80
    let e' := (if odd then e - 1 else e) - 80
    let r := isqrt m'
    roundMag f rm false r (e' / 2) (r * r != m')

def fpRcp (f : Fmt) (rm a : Nat) : FpRes :=
  match unpack f a with
  | .nan s => nanRes f s
  | .inf n => ⟨signed f n 0, 0⟩
  | .fin n m e => if m = 0 then ⟨signed f n f.infBits, flagDZ⟩ else roundFrac f rm n 1 m (-e)

def fpRsq (f : Fmt) (rm a : Nat) : FpRes :=
  match unpack f a with
  | .nan s => nanRes f s
  | .inf true => nanRes f true
  | .inf false => ⟨0, 0⟩
  | .fin neg m e =>
    if m = 0 then ⟨signed f neg f.infBits, flagDZ⟩ else if neg then nanRes f true else
    let odd := e % 2 != 0
    let m' := if odd then 2 * m else m
    let e' := if odd then e - 1 else e
    -- 1 / sqrt(m' * 2^e') = sqrt(2^200 / m') * 2^(-100 - e'/2)
    let r := isqrt (2 ^ 200 / m')
    roundMag f rm false r (-100 - e' / 2) (r * r * m' != 2 ^ 200)

/-! ### Special functions in fixed point with `fpBits` fraction bits -/

def fpBits : Nat := 256

/-- 2^256 * ln 2, rounded down, as the sum of 1 / (k * 2^k). -/
def ln2Loop : Nat → Nat → Nat → Nat
  | 0, _, acc => acc
  | n + 1, k, acc => ln2Loop n (k + 1) (acc + 2 ^ (fpBits + 32) / (k * 2 ^ k))

/-- ln 2 with 288 fraction bits. -/
def ln2Fix : Nat := ln2Loop 288 1 0

/-- arctan (1 / x) with 288 fraction bits. -/
def atanInvLoop (x2 : Nat) : Nat → Nat → Nat → Bool → Int → Int
  | 0, _, _, _, acc => acc
  | n + 1, t, k, pos, acc =>
    let term : Int := (t / k : Nat)
    atanInvLoop x2 n (t / x2) (k + 2) (!pos) (if pos then acc + term else acc - term)

/-- 2 * pi with 288 fraction bits (Machin's formula). -/
def twoPiFix : Nat :=
  let one := 2 ^ (fpBits + 32)
  (8 * (4 * atanInvLoop 25 70 (one / 5) 1 true 0 - atanInvLoop 57121 25 (one / 239) 1 true 0)).toNat

/-- exp of x / 2^256 for 0 ≤ x < 2^256, with 256 fraction bits. -/
def expLoop (x : Nat) : Nat → Nat → Nat → Nat → Nat
  | 0, _, _, acc => acc
  | n + 1, k, t, acc =>
    let t' := (t * x) / (k * 2 ^ fpBits)
    expLoop x n (k + 1) t' (acc + t')

/-- 2^(f / 2^256) with 256 fraction bits. -/
def exp2Frac (f : Nat) : Nat :=
  let x := (f * ln2Fix) / 2 ^ (fpBits + 32)
  expLoop x 64 1 (2 ^ fpBits) (2 ^ fpBits)

/-- x * 2^256 rounded down, for a finite value that is not too large, and whether bits were dropped. -/
def toFix (neg : Bool) (m : Nat) (e : Int) : Int :=
  let sh := e + fpBits
  let mag : Int := if 0 ≤ sh then (m * 2 ^ sh.toNat : Nat) else (m >>> (-sh).toNat : Nat)
  if neg then -mag else mag

def fpExp2 (f : Fmt) (rm a : Nat) : FpRes :=
  match unpack f a with
  | .nan s => nanRes f s
  | .inf n => ⟨if n then 0 else f.infBits, 0⟩
  | .fin n m e =>
    if m = 0 then roundMag f rm false 1 0 false
    else if (Nat.log2 m : Int) + e ≥ 9 then
      (if n then roundMag f rm false 1 (-100000) false else roundMag f rm false 1 100000 false)
    else
      let x := toFix n m e
      let k := x / (2 ^ fpBits : Nat)
      let fr := (x % (2 ^ fpBits : Nat)).toNat
      if fr = 0 then roundMag f rm false 1 k false
      else roundMag f rm false (exp2Frac fr) (k - fpBits) true

/-- atanh of z / 2^256, with 256 fraction bits. -/
def atanhLoop (z2 : Nat) : Nat → Nat → Nat → Nat → Nat
  | 0, _, _, acc => acc
  | n + 1, t, k, acc => atanhLoop z2 n ((t * z2) / 2 ^ fpBits) (k + 2) (acc + t / k)

def fpLog2 (f : Fmt) (rm a : Nat) : FpRes :=
  match unpack f a with
  | .nan s => nanRes f s
  | .inf n => if n then nanRes f true else ⟨f.infBits, 0⟩
  | .fin n m e =>
    if m = 0 then ⟨signed f true f.infBits, flagDZ⟩
    else if n then nanRes f true
    else
      let l := Nat.log2 m
      let k : Int := (l : Int) + e
      let one := 2 ^ l
      if m = one then
        (if k = 0 then ⟨0, 0⟩ else deliver f rm (Num.ofInt k 0))
      else
        let z := ((m - one) * 2 ^ fpBits) / (m + one)
        let ln := 2 * atanhLoop (z * z / 2 ^ fpBits) 90 z 1 0
        let fr := (ln * 2 ^ (fpBits + 32)) / ln2Fix
        let v : Int := k * (2 ^ fpBits : Nat) + fr
        if v ≥ 0 then roundMag f rm false v.toNat (-fpBits) true
        else roundMag f rm true ((-v).toNat - 1) (-fpBits) true

/-- sin(2 pi y) for the turn y = m * 2^e in (0, 1/8]: a mantissa and its exponent. -/
def sinSeries (t2 : Nat) : Nat → Nat → Nat → Bool → Int → Int
  | 0, _, _, _, acc => acc
  | n + 1, t, k, pos, acc =>
    let t' := (t * t2) / (k * (k + 1) * 2 ^ fpBits)
    sinSeries t2 n t' (k + 2) (!pos) (if pos then acc + t' else acc - t')

def sinTurn (m : Nat) (e : Int) : Nat × Int :=
  let theta := m * twoPiFix                       -- exponent e - 288
  let sh := e - 288 + fpBits
  let tf := if 0 ≤ sh then theta * 2 ^ sh.toNat else theta >>> (-sh).toNat
  let fac := (sinSeries ((tf * tf) / 2 ^ fpBits) 40 (2 ^ fpBits) 2 false (2 ^ fpBits : Nat)).toNat
  (theta * fac, e - 288 - fpBits)

/-- cos(2 pi y) for y = m * 2^e in [0, 1/8], y not zero: below 1. -/
def cosTurn (m : Nat) (e : Int) : Nat × Int :=
  let theta := m * twoPiFix
  let sh := e - 288 + fpBits
  let tf := if 0 ≤ sh then theta * 2 ^ sh.toNat else theta >>> (-sh).toNat
  let c := (sinSeries ((tf * tf) / 2 ^ fpBits) 40 (2 ^ fpBits) 1 false (2 ^ fpBits : Nat)).toNat
  (min c (2 ^ fpBits - 1), -fpBits)

/-- |a| modulo 1 turn as a numerator over 2^d (exact), for a finite a = m * 2^e. -/
def turnMod (m : Nat) (e : Int) : Nat × Nat :=
  if 0 ≤ e then (0, 0) else (m % 2 ^ (-e).toNat, (-e).toNat)

/-- sin(2 pi y) for the turn y = r / 2^d in [0, 1), with quarter points exact: sign, and either an exact 0 or 1 or a
mantissa with exponent. -/
def sinOfTurn (f : Fmt) (rm : Nat) (neg : Bool) (zeroNeg : Bool) (r d : Nat) : FpRes :=
  -- eighths: s = 8 r / 2^d
  let q := (4 * r) / 2 ^ d                        -- quarter turn 0..3
  let rq := r - q * 2 ^ d / 4                      -- position in the quarter, scaled 2^d (d ≥ 2 when q > 0)
  let sgn := neg != (q ≥ 2)
  if rq = 0 then
    (if q % 2 = 0 then ⟨signed f zeroNeg 0, 0⟩ else roundMag f rm sgn 1 0 false)
  else
    -- in an odd quarter, sin(pi/2 + x) = cos x
    let quarter := 2 ^ d / 4
    let useCos := q % 2 == 1
    let y := if 8 * rq ≤ 2 ^ d then rq else quarter - rq
    let cosForm := useCos != decide (8 * rq > 2 ^ d)
    let (mm, ee) := if cosForm then cosTurn y (-(d : Int)) else sinTurn y (-(d : Int))
    roundMag f rm sgn mm ee true

def fpSinTurn (f : Fmt) (rm a : Nat) : FpRes :=
  match unpack f a with
  | .nan s => nanRes f s
  | .inf _ => nanRes f true
  | .fin n m e =>
    let (r, d) := turnMod m e
    sinOfTurn f rm n n (if d < 3 then r * 8 else r) (if d < 3 then d + 3 else d)

def fpCosTurn (f : Fmt) (rm a : Nat) : FpRes :=
  match unpack f a with
  | .nan s => nanRes f s
  | .inf _ => nanRes f true
  | .fin _ m e =>
    let (r0, d0) := turnMod m e
    let r := if d0 < 3 then r0 * 8 else r0
    let d := if d0 < 3 then d0 + 3 else d0
    -- cos y = sin (y + 1/4)
    sinOfTurn f rm false false ((r + 2 ^ d / 4) % 2 ^ d) d

def fpTanh (f : Fmt) (rm a : Nat) : FpRes :=
  match unpack f a with
  | .nan s => nanRes f s
  | .inf n => roundMag f rm n 1 0 false
  | .fin n m e =>
    if m = 0 then ⟨a, 0⟩
    else
      let lead := (Nat.log2 m : Int) + e
      if lead < -40 then roundMag f rm n (m * 2 ^ 70 - 1) (e - 70) true
      else if lead ≥ 6 then roundMag f rm n (2 ^ 100 - 1) (-100) true
      else
        -- y = 2 |a| / ln 2
        let x := (toFix false m e).toNat
        let y := (2 * x * 2 ^ (fpBits + 32)) / ln2Fix
        let ex := (exp2Frac (y % 2 ^ fpBits)) * 2 ^ (y / 2 ^ fpBits)
        let one := 2 ^ fpBits
        let q := ((ex - one) * 2 ^ 300) / (ex + one)
        roundMag f rm n q (-300) true

/-! ### Comparison, classification, rounding to integers -/

/-- The sixteen conditions of R105, from the order of the operands; `none` is unordered. -/
def condHolds (c : Nat) (o : Option Ordering) : Bool :=
  match c with
  | 0 => o == some .eq
  | 1 => o != some .eq
  | 2 => o == some .lt
  | 3 => o == some .lt || o == some .eq
  | 4 => o == some .gt
  | 5 => o == some .gt || o == some .eq
  | 6 => o != none
  | 7 => o == none
  | 8 => o == some .eq || o == none
  | 9 => o == some .lt || o == some .gt
  | 10 => o == some .lt || o == none
  | 11 => o == some .lt || o == some .eq || o == none
  | 12 => o == some .gt || o == none
  | 13 => o == some .gt || o == some .eq || o == none
  | 14 => true
  | _ => false

def fpOrder (f : Fmt) (a b : Nat) : Option Ordering :=
  let x := unpack f a
  let y := unpack f b
  if x.isNan || y.isNan then none else some (compareNum x y)

/-- The class bit of R178. -/
def fpClass (f : Fmt) (a : Nat) : Nat :=
  match unpack f a with
  | .nan s => if s then 8 else 9
  | .inf n => if n then 0 else 7
  | .fin n m _ =>
    if m = 0 then (if n then 3 else 4)
    else if m < 2 ^ f.fracBits then (if n then 2 else 5)
    else (if n then 1 else 6)

/-- A finite value rounded to an integer, and whether that was inexact. -/
def roundToInt (rm : Nat) (neg : Bool) (m : Nat) (e : Int) : Int × Bool :=
  let (q, ix) := if 0 ≤ e then (m * 2 ^ e.toNat, false)
    else
      let sh := (-e).toNat
      -- a far smaller value rounds as a nonzero one below one half does
      if sh > Nat.log2 m + 3 then roundAt rm neg (if m = 0 then 0 else 1) 3 false
      else roundAt rm neg m sh false
  (if neg then -(q : Int) else q, ix)

/-- FRND (R179): an integral F32 value with the sign of a; NV for a signalling NaN, no NX. -/
def fpRoundInt (f : Fmt) (mode a : Nat) : FpRes :=
  match unpack f a with
  | .nan s => nanRes f s
  | .inf _ => ⟨a, 0⟩
  | .fin n m e =>
    if 0 ≤ e || m = 0 then ⟨a, 0⟩
    else
      let v := (roundToInt mode n m e).1
      ⟨(roundMag f 0 n v.natAbs 0 false).bits, 0⟩

/-- a * 2^s (R179); beyond a thousand doublings either way every result is the same. -/
def fpLdexp (f : Fmt) (rm a : Nat) (s : Int) : FpRes :=
  match unpack f a with
  | .fin n m e => roundMag f rm n m (e + max (-1000) (min 1000 s)) false
  | x => deliver f rm x

/-- FSAT (R179). -/
def fpSat (f : Fmt) (a : Nat) : FpRes :=
  let one := (roundMag f 0 false 1 0 false).bits
  match unpack f a with
  | .nan s => ⟨0, if s then flagNV else 0⟩
  | .inf n => ⟨if n then 0 else one, 0⟩
  | .fin n m e =>
    if n || m = 0 then ⟨0, 0⟩
    else if compareNum (.fin false m e) (.fin false 1 0) == .gt then ⟨one, 0⟩
    else ⟨a, 0⟩

/-- A result with the integer flags it sets beside its floating-point flags. -/
structure CvtRes where
  bits : Nat
  fl : FpFlags := 0
  ist : IntFlags := 0
  deriving DecidableEq, Repr

/-- A float converted to an integer range (R149): a clip or a NaN raises NV alone, an inexact value NX. -/
def fpToInt (f : Fmt) (rm : Nat) (lo hi : Int) (width a : Nat) : FpRes :=
  let out (v : Int) (fl : FpFlags) : FpRes := ⟨(BitVec.ofInt width v).toNat, fl⟩
  match unpack f a with
  | .nan _ => out 0 flagNV
  | .inf n => out (if n then lo else hi) flagNV
  | .fin n m e =>
    let (v, ix) := roundToInt rm n m e
    if v < lo then out lo flagNV
    else if v > hi then out hi flagNV
    else out v (if ix then flagNX else 0)

/-- A float converted to a float format (R149), with the sat bit of R181. -/
def fpToFp (src dst : Fmt) (rm : Nat) (sat : Bool) (a : Nat) : FpRes :=
  match unpack src a with
  | .nan s => nanRes dst s
  | .inf n => ⟨signed dst n (if sat then dst.maxBits else dst.infBits), 0⟩
  | .fin n m e =>
    let r := roundMag dst rm n m e false
    if sat && r.fl &&& flagOF != 0 then ⟨signed dst n dst.maxBits, r.fl⟩ else r

/-- An integer converted to F32 (R149). -/
def intToFp (f : Fmt) (rm : Nat) (v : Int) : FpRes := deliver f rm (Num.ofInt v 0)

/-! ### Tapered formats (R145 to R148) -/

/-- Length of the run of equal bits from bit `i` downward in the magnitude. -/
def regimeRun (mag : Nat) (r : Bool) : Nat → Nat
  | 0 => 0
  | i + 1 => if bitAt mag i == r then 1 + regimeRun mag r i else 0

/-- The magnitude of a T code with `w` magnitude bits, nonzero, as mantissa and exponent (R146). -/
def taperMag (w mag : Nat) : Nat × Int :=
  let r := bitAt mag (w - 1)
  let m := regimeRun mag r w
  let k : Int := if r then m - 1 else -(m : Int)
  if w ≤ m + 1 then (1, 2 * k)
  else
    let rest := w - m - 1
    let e : Int := if bitAt mag (rest - 1) then 1 else 0
    let fw := rest - 1
    (2 ^ fw + mag % 2 ^ fw, 2 * k + e - fw)

/-- Decode a T code; `none` is the escape code. -/
def taperDecode (w code : Nat) : Option Num :=
  let mag := code % 2 ^ w
  let neg := bitAt code w
  if mag = 0 then (if neg then none else some (.fin false 0 0))
  else let (m, e) := taperMag w mag; some (.fin neg m e)

/-- The magnitude code `c` times 2^20, exact for both formats; code 0 is zero. -/
def taperScaled (w c : Nat) : Nat :=
  if c = 0 then 0 else let (m, e) := taperMag w c; m * 2 ^ (e + 20).toNat

/-- The largest code among those below `2^i` more than `base` whose value is at most m * 2^e. -/
def taperFloor (w : Nat) (x : Num) : Nat → Nat → Nat
  | 0, base => base
  | i + 1, base =>
    let c := base + 2 ^ i
    taperFloor w x i (if compareNum (.fin false (taperScaled w c) (-20)) x != .gt then c else base)

/-- Encode a value into a T format (R147), never to the escape code from a number. -/
def taperEncode (w : Nat) : Num → FpRes
  | .nan _ => ⟨2 ^ w, flagNV⟩
  | .inf n => ⟨(if n then 2 ^ w else 0) + (2 ^ w - 1), flagOF ||| flagNX⟩
  | .fin n m e =>
    if m = 0 then ⟨0, 0⟩ else
    let x := Num.fin false m e
    let top := 2 ^ w - 1
    if compareNum x (.fin false (taperScaled w top) (-20)) == .gt then
      ⟨(if n then 2 ^ w else 0) + top, flagOF ||| flagNX⟩
    else
      let lo := taperFloor w x w 0
      let c :=
        if lo = top then top
        else match compareNum (.fin false (2 * m) e) (.fin false (taperScaled w lo + taperScaled w (lo + 1)) (-20)) with
          | .lt => lo
          | .gt => lo + 1
          | .eq => if lo % 2 = 0 then lo else lo + 1
      let exact := compareNum x (.fin false (taperScaled w c) (-20)) == .eq
      let tiny := compareNum x (.fin false (taperScaled w 1) (-20)) == .lt
      ⟨if c = 0 then 0 else (if n then 2 ^ w else 0) + c,
        (if exact then 0 else flagNX) ||| (if tiny && !exact then flagUF else 0)⟩

/-! ### Welford arithmetic (R159 to R163) -/

/-- A triple: count, mean and M2 as patterns. -/
structure Triple where
  n : Word := 0
  mean : Nat := 0
  m2 : Nat := 0
  deriving DecidableEq, Repr

/-- A triple with flags. -/
structure TripleRes where
  t : Triple
  fl : FpFlags := 0
  ist : IntFlags := 0
  deriving DecidableEq, Repr

/-- An exact rational with a sign for zero: (-1)^neg * num / den * 2^e. -/
structure Rat' where
  neg : Bool
  num : Nat
  den : Nat
  e : Int
  deriving DecidableEq, Repr

/-- The exact product of finite values over a natural divisor. -/
def ratOf (neg : Bool) (m : Nat) (e : Int) (den : Nat) : Rat' := ⟨neg, m, den, e⟩

/-- Sum of two rationals; zero is −0 only when both addends are zeros of negative sign (R159). -/
def ratAdd (a b : Rat') : Rat' :=
  let e0 := min a.e b.e
  let x : Int := mantAt a.neg (a.num * b.den) a.e e0 + mantAt b.neg (b.num * a.den) b.e e0
  if x = 0 then ⟨a.num = 0 && b.num = 0 && a.neg && b.neg, 0, 1, 0⟩
  else ⟨decide (x < 0), x.natAbs, a.den * b.den, e0⟩

def ratRound (a : Rat') : FpRes :=
  if a.num = 0 then ⟨signed fmtF32 a.neg 0, 0⟩ else roundFrac fmtF32 0 a.neg a.num a.den a.e

def invalidTriple (n : Word) : TripleRes := ⟨⟨n, fmtF32.nanBits, fmtF32.nanBits⟩, flagNV, 0⟩

/-- RNE of mean + delta * num / den, through infinities and NaNs (R159). -/
def rneMulAdd (c x y : Num) (num den : Nat) : FpRes :=
  let fl := if c.isSnan || x.isSnan || y.isSnan then flagNV else 0
  match mulExact x y with
  | none => nanRes fmtF32 true
  | some (.fin n m e) =>
    match c with
    | .fin nc mc ec =>
      let r := ratRound (ratAdd ⟨nc, mc, 1, ec⟩ ⟨n, m * num, den, e⟩)
      { r with fl := r.fl ||| fl }
    | other => let r := deliver fmtF32 0 other; { r with fl := r.fl ||| fl }
  | some p => let r := deliverOpt fmtF32 0 (addExact 0 c p); { r with fl := r.fl ||| fl }

/-- WELF (R160). -/
def welfordAdd (t : Triple) (x : Nat) : TripleRes :=
  if t.n.msb then invalidTriple t.n else
  let big := t.n.toNat = 2 ^ 31 - 1
  let n1 := if big then 2 ^ 31 - 1 else t.n.toNat + 1
  let xn := unpack fmtF32 x
  let d := deliverOpt fmtF32 0 (addExact 0 xn (unpack fmtF32 t.mean).negate)
  let dn := unpack fmtF32 d.bits
  let mean1 := rneMulAdd (unpack fmtF32 t.mean) dn (.fin false 1 0) 1 n1
  -- the exact difference x - mean1, multiplied by d and added to m2 with one rounding
  let m1n := unpack fmtF32 mean1.bits
  let m21 := match addExact 0 xn m1n.negate with
    | none => nanRes fmtF32 true
    | some df => rneMulAdd (unpack fmtF32 t.m2) dn df 1 1
  ⟨⟨BitVec.ofNat 32 n1, mean1.bits, m21.bits⟩, d.fl ||| mean1.fl ||| m21.fl, if big then flagSAT else 0⟩

/-- WMRG (R161). -/
def welfordMerge (a b : Triple) : TripleRes :=
  if a.n.msb || b.n.msb then invalidTriple a.n
  else if b.n = 0 then ⟨a, 0, 0⟩
  else if a.n = 0 then ⟨b, 0, 0⟩
  else
    let na := a.n.toNat
    let nb := b.n.toNat
    let tot := na + nb
    let delta := deliverOpt fmtF32 0 (addExact 0 (unpack fmtF32 b.mean) (unpack fmtF32 a.mean).negate)
    let dn := unpack fmtF32 delta.bits
    let mean := rneMulAdd (unpack fmtF32 a.mean) dn (.fin false 1 0) nb tot
    let qa := unpack fmtF32 a.m2
    let qb := unpack fmtF32 b.m2
    let m2 : FpRes := match mulExact dn dn with
      | none => nanRes fmtF32 true
      | some (.fin _ m e) =>
        match qa, qb with
        | .fin sa ma ea, .fin sb mb eb =>
          let q := ratAdd ⟨sa, ma, 1, ea⟩ ⟨sb, mb, 1, eb⟩
          let p : Rat' := ⟨false, m * na * nb, tot, e⟩
          -- an exact zero is −0 only when every addend is a negative zero
          ratRound (ratAdd q p)
        | x, y => deliverOpt fmtF32 0 (addExact 0 x y)
      | some p => deliverOpt fmtF32 0 ((addExact 0 qa qb).bind fun s => addExact 0 s p)
    let nv := if qa.isSnan || qb.isSnan then flagNV else 0
    ⟨⟨BitVec.ofNat 32 (min tot (2 ^ 31 - 1)), mean.bits, m2.bits⟩, delta.fl ||| mean.fl ||| m2.fl ||| nv,
      if tot > 2 ^ 31 - 1 then flagSAT else 0⟩

/-- WFIN (R162). -/
def welfordFinish (sample : Bool) (t : Triple) : FpRes :=
  let n : Int := sextNat 32 t.n.toNat
  let k : Int := if sample then n - 1 else n
  if k ≤ 0 then nanRes fmtF32 true
  else match unpack fmtF32 t.m2 with
    | .fin s m e => ratRound ⟨s, m, k.toNat, e⟩
    | x => deliver fmtF32 0 x

end Sys2Proof.Machine
end

