-- ==== Sys2Proof/Config.lean ====
section
/-! DEFINITION. What one D960 module fixes (R1) and the values the manual leaves open. The open values are opaque:
nothing can evaluate them, so a statement proved of this model holds whatever they are. -/

namespace Sys2Proof.Config

/-- Bytes of module memory (R1): of the grade of 512 GiB, or of the one of 256 GiB. -/
def moduleBytes (grade512 : Bool) : Nat := (if grade512 then 512 else 256) * 2 ^ 30

/-- Bytes of the save region (R386). That it lies at the top of module memory is a DESIGN CHOICE (log 4). -/
def saveBytes (grade512 : Bool) : Nat := (if grade512 then 4 else 2) * 2 ^ 30

/-- Physical address of the doorbell page of queue 0 (R34). -/
def doorbellBase : Nat := 0x000FFF0000000000

/-- An open natural number, one for each index (log 6). Safe: nothing constrains it. -/
opaque freeNat : Nat → Nat

/-- An open byte, one for each index (log 6). Safe: nothing constrains it. -/
opaque freeByte : Nat → BitVec 8

/-- An open register word, one for each index (log 6). Safe: nothing constrains it. -/
opaque freeWord : Nat → BitVec 32

/-- Base address of the thread-local area that the agent allocates (R195), by context, launch number, team index,
warp and lane (log 6). Safe: nothing constrains it. -/
opaque tlsBase : Nat → Nat → Nat → Nat → Nat → BitVec 64

/-- The timer source that the configuration record stores (R419; log 6). Safe: nothing constrains it. -/
opaque recordSrc : Nat

end Sys2Proof.Config
end

