-- ==== Sys2Proof/Syntax.lean ====
section
/-! DEFINITION. The instructions of the D960: one constructor for each row of the opcode table.
The words of 04_encoding R104 to R109 carry their fields by format; the commands of 02_launched R38 carry their
fields; the rows that are steps of the device or of its surroundings (95_what_each_step_holds) act on what the
state's `target` names. -/

namespace Sys2Proof

/-- Format A3 (R104): two sources with their empty policies, `bs` naming a uniform register. -/
structure A3 where
  d : BitVec 7
  a : BitVec 7
  b : BitVec 7
  ea : BitVec 1
  eb : BitVec 1
  bs : BitVec 1
  deriving DecidableEq, Repr

/-- Format AI (R104): a source and a 10-bit immediate. -/
structure AI where
  d : BitVec 7
  a : BitVec 7
  imm : BitVec 10
  deriving DecidableEq, Repr

/-- Format AW (R104): a 17-bit immediate. -/
structure AW where
  d : BitVec 7
  imm : BitVec 17
  deriving DecidableEq, Repr

/-- Format P3 (R104): a predicate destination, a condition and two sources. -/
structure P3 where
  pd : BitVec 3
  cond : BitVec 4
  a : BitVec 7
  b : BitVec 7
  ea : BitVec 1
  eb : BitVec 1
  bs : BitVec 1
  deriving DecidableEq, Repr

/-- Format PI (R104): a predicate destination, a condition, a source and a signed immediate. -/
structure PI where
  pd : BitVec 3
  cond : BitVec 4
  a : BitVec 7
  imm : BitVec 10
  deriving DecidableEq, Repr

/-- Format PS (R104): two sources and the selecting predicate. -/
structure PS where
  d : BitVec 7
  a : BitVec 7
  b : BitVec 7
  p : BitVec 3
  deriving DecidableEq, Repr

/-- Format CV (R104): conversions. -/
structure CV where
  d : BitVec 7
  a : BitVec 7
  tag : BitVec 4
  rm : BitVec 2
  sat : BitVec 1
  pos : BitVec 3
  deriving DecidableEq, Repr

/-- Format CQ (R104): scale-slot instructions. -/
structure CQ where
  d : BitVec 7
  a : BitVec 7
  tag : BitVec 4
  slot : BitVec 4
  esc : BitVec 1
  rz : BitVec 1
  deriving DecidableEq, Repr

/-- The two words of an M2 instruction (R106). -/
structure M2 where
  d : BitVec 7
  a : BitVec 7
  width : BitVec 3
  fmode : BitVec 2
  cache : BitVec 2
  pp : BitVec 3
  offset : BitVec 24
  sub : BitVec 4
  order : BitVec 2
  scope : BitVec 2
  deriving DecidableEq, Repr

/-- The two words of a collective copy (R255). -/
structure CopyF where
  shape : BitVec 9
  glob : BitVec 9
  ch : BitVec 3
  barr : BitVec 9
  nb : BitVec 1
  xreg : BitVec 9
  deriving DecidableEq, Repr

/-- The two words of MEMOL (R366). -/
structure MemolF where
  d : BitVec 7
  s : BitVec 7
  pd : BitVec 3
  cnt : BitVec 3
  p : BitVec 1
  v : BitVec 1
  kind : BitVec 4
  c : BitVec 7
  deriving DecidableEq, Repr

/-- The two words of MEMOS (R367). -/
structure MemosF where
  a : BitVec 7
  s : BitVec 7
  cnt : BitVec 3
  p : BitVec 1
  ck : BitVec 1
  kind : BitVec 4
  c : BitVec 7
  deriving DecidableEq, Repr

/-- The two words of EMIT (R137). -/
structure EmitF where
  mode : BitVec 1
  tgt : BitVec 3
  t : BitVec 7
  a : BitVec 7
  size : BitVec 6
  deriving DecidableEq, Repr

/-- What every command carries beside its own fields (R38), with the queue it came through. -/
structure CmdHead where
  q : BitVec 6
  after : Bool
  fence : Bool
  irq : Bool
  deriving DecidableEq, Repr

/-- What the governor measures of one cluster over an epoch (R416): its mean input power. -/
structure Measure where
  powerMilliwatt : Nat
  deriving DecidableEq, Repr

/-- How a start ends (R419): complete, or failed at a step. `lanes` gives each link port's trained width. -/
inductive StartOutcome where
  | complete (lanes : List Nat)
  | failed (step : BitVec 3)
  deriving DecidableEq, Repr

/-- The units whose errors R400 counts. -/
inductive HwUnit where
  | core (cl : BitVec 3) (co : BitVec 4)
  | slice (n : BitVec 6)
  | frame (pa : Nat)
  | oasisWay (w : BitVec 4)
  | tileSlot (cl : BitVec 3) (n : BitVec 4)
  | lane (port : BitVec 2) (lane : BitVec 3)
  deriving DecidableEq, Repr

/-- Where an uncorrectable corruption strikes (R458, R320, R340, R359, R388). -/
inductive ErrSite where
  | granule (pa : Nat)
  | scratch (team addr : Nat)
  | tile (team tile : Nat)
  | plane (team plane : Nat)
  | oasis (set way : Nat)
  | tileSlot (pass tile granule : Nat)
  | queueRow (team : Nat) (q : BitVec 3)
  | saved (team : Nat)
  deriving DecidableEq, Repr

/-- What a step of the device or of its surroundings acts on (95_what_each_step_holds): the turn that takes the step
says it, and each such instruction reads the fields it names. -/
structure Target where
  /-- Cluster, core, quadrant and bundle slot. -/
  cl : Nat := 0
  co : Nat := 0
  quad : Nat := 0
  slot : Nat := 0
  /-- Identity of a team, its warp and lane; `lane = 32` names the warp itself. -/
  team : Nat := 0
  warp : Nat := 0
  lane : Nat := 0
  /-- A numbered thing: an operation in flight, a launch, a pass, a batch, a queue, a peer, a port, a query slot. -/
  id : Nat := 0
  tile : Nat := 0
  /-- A register offset, a byte address or a physical address, the size of the access and the value written. -/
  addr : Nat := 0
  size : Nat := 0
  value : Nat := 0
  data : List Byte := []
  /-- The governor's readings, one for each cluster. -/
  meas : List Measure := []
  offset : Int := 0
  source : Nat := 0
  outcome : StartOutcome := .complete [8, 8, 8, 8]
  site : ErrSite := .granule 0
  unit : HwUnit := .frame 0
  isRead : Bool := false
  deriving DecidableEq, Repr

/-- The instructions: every row of spec/opcode_table.json. -/
inductive Instr where
  /-- IADD (R169): Adds a and b modulo 2^32 and writes an I32 result. -/
  | iadd (f : A3)
  /-- ISUB (R169): Subtracts b from a modulo 2^32. -/
  | isub (f : A3)
  /-- IADDS (R169): Signed saturating add that sets SAT on a clip. -/
  | iadds (f : A3)
  /-- NADDS (R169): Natural saturating add. -/
  | nadds (f : A3)
  /-- ISUBS (R169): Signed saturating subtract. -/
  | isubs (f : A3)
  /-- NSUBS (R169): Natural saturating subtract that clips at 0. -/
  | nsubs (f : A3)
  /-- IMUL (R169): Writes the low 32 bits of a times b. -/
  | imul (f : A3)
  /-- IMULH (R169): Writes the high 32 bits of the signed product. -/
  | imulh (f : A3)
  /-- NMULH (R169): Writes the high 32 bits of the natural product. -/
  | nmulh (f : A3)
  /-- IMAD (R169): Writes the low 32 bits of a times b plus d. -/
  | imad (f : A3)
  /-- IDIV (R144): Signed divide with the defined zero and overflow cases and flags. -/
  | idiv (f : A3)
  /-- NDIV (R144): Natural divide with the defined divide-by-zero result. -/
  | ndiv (f : A3)
  /-- IREM (R144): Signed remainder with the defined cases. -/
  | irem (f : A3)
  /-- NREM (R144): Natural remainder with the defined cases. -/
  | nrem (f : A3)
  /-- IMIN (R169): Signed minimum. -/
  | imin (f : A3)
  /-- IMAX (R169): Signed maximum. -/
  | imax (f : A3)
  /-- NMIN (R169): Natural minimum. -/
  | nmin (f : A3)
  /-- NMAX (R169): Natural maximum. -/
  | nmax (f : A3)
  /-- IABS (R169): Signed absolute value of a. -/
  | iabs (f : A3)
  /-- INEG (R169): Writes 0 minus a. -/
  | ineg (f : A3)
  /-- AND (R169): Bitwise AND. -/
  | and (f : A3)
  /-- OR (R169): Bitwise OR. -/
  | or (f : A3)
  /-- XOR (R169): Bitwise exclusive OR. -/
  | xor (f : A3)
  /-- ANDN (R169): Writes a AND NOT b. -/
  | andn (f : A3)
  /-- NOT (R169): Bitwise complement of a. -/
  | not (f : A3)
  /-- SHL (R170): Shifts left by n(b), giving 0 for amounts of 32 or more. -/
  | shl (f : A3)
  /-- SHR (R170): Logical shift right. -/
  | shr (f : A3)
  /-- SAR (R170): Arithmetic shift right. -/
  | sar (f : A3)
  /-- ROL (R170): Rotates left by the amount modulo 32. -/
  | rol (f : A3)
  /-- POPC (R169): Counts the one bits of a. -/
  | popc (f : A3)
  /-- CLZ (R169): Counts the leading zero bits of a. -/
  | clz (f : A3)
  /-- BREV (R169): Reverses the bit order of a. -/
  | brev (f : A3)
  /-- BFXI (R170): Extracts a sign-extended bit field. -/
  | bfxi (f : A3)
  /-- BFXN (R170): Extracts a zero-extended bit field. -/
  | bfxn (f : A3)
  /-- BFI (R170): Inserts a bit field into d. -/
  | bfi (f : A3)
  /-- IADDI (R171): Adds a sign-extended immediate. -/
  | iaddi (f : AI)
  /-- IMULI (R171): Multiplies by a sign-extended immediate. -/
  | imuli (f : AI)
  /-- ANDI (R171): Bitwise AND with an immediate. -/
  | andi (f : AI)
  /-- ORI (R171): Bitwise OR with an immediate. -/
  | ori (f : AI)
  /-- XORI (R171): Bitwise exclusive OR with an immediate. -/
  | xori (f : AI)
  /-- SHLI (R171): Shifts left by an immediate amount. -/
  | shli (f : AI)
  /-- SHRI (R171): Shifts right logically by an immediate amount. -/
  | shri (f : AI)
  /-- SARI (R171): Shifts right arithmetically by an immediate amount. -/
  | sari (f : AI)
  /-- MOVI (R172): Writes a sign-extended 17-bit immediate as I32. -/
  | movi (f : AW)
  /-- MOVH (R172): Writes the high half of d from an immediate and keeps the low half. -/
  | movh (f : AW)
  /-- ICMP (R173): Compares two signed values into a predicate. -/
  | icmp (f : P3)
  /-- NCMP (R173): Compares two natural values into a predicate. -/
  | ncmp (f : P3)
  /-- ICMPI (R173): Compares a signed value with an immediate into a predicate. -/
  | icmpi (f : PI)
  /-- AADD (R174): Adds two 64-bit address pairs. -/
  | aadd (f : A3)
  /-- AADDI (R174): Adds a sign-extended immediate to an address pair. -/
  | aaddi (f : AI)
  /-- ASHL (R174): Shifts an address pair left by an immediate amount. -/
  | ashl (f : AI)
  /-- ASUB (R174): Subtracts one address pair from another. -/
  | asub (f : A3)
  /-- ACMP (R174): Compares two address pairs as naturals into a predicate. -/
  | acmp (f : P3)
  /-- AMOV (R174): Copies an address pair with its tags. -/
  | amov (f : A3)
  /-- AEXTI (R174): Sign-extends a register into an address pair. -/
  | aexti (f : A3)
  /-- AEXTN (R174): Zero-extends a register into an address pair. -/
  | aextn (f : A3)
  /-- FADD (R175): F32 add rounded under RM. -/
  | fadd (f : A3)
  /-- FSUB (R175): F32 subtract. -/
  | fsub (f : A3)
  /-- FMUL (R175): F32 multiply. -/
  | fmul (f : A3)
  /-- FFMA (R175): Fused a times b plus d with one rounding. -/
  | ffma (f : A3)
  /-- FFMS (R175): Fused a times b minus d with one rounding. -/
  | ffms (f : A3)
  /-- FMIN (R176): IEEE minimumNumber. -/
  | fmin (f : A3)
  /-- FMAX (R176): IEEE maximumNumber. -/
  | fmax (f : A3)
  /-- FDIV (R175): Correctly rounded F32 divide. -/
  | fdiv (f : A3)
  /-- FSQRT (R177): Correctly rounded square root. -/
  | fsqrt (f : A3)
  /-- FRCP (R177): Correctly rounded reciprocal. -/
  | frcp (f : A3)
  /-- FRSQ (R177): Correctly rounded reciprocal square root. -/
  | frsq (f : A3)
  /-- FEXP2 (R177): Correctly rounded 2 to the power a. -/
  | fexp2 (f : A3)
  /-- FLOG2 (R177): Correctly rounded base-2 logarithm. -/
  | flog2 (f : A3)
  /-- FSINT (R177): Sine of 2 pi a, with a in turns. -/
  | fsint (f : A3)
  /-- FCOST (R177): Cosine of 2 pi a, with a in turns. -/
  | fcost (f : A3)
  /-- FTANH (R177): Correctly rounded hyperbolic tangent. -/
  | ftanh (f : A3)
  /-- FABS (R177): Clears the sign bit. -/
  | fabs (f : A3)
  /-- FNEG (R177): Inverts the sign bit. -/
  | fneg (f : A3)
  /-- FCMP (R178): F32 compare into a predicate under any of the 16 codes. -/
  | fcmp (f : P3)
  /-- FCLASS (R178): Writes a one-hot class mask of a. -/
  | fclass (f : A3)
  /-- FRND (R179): Rounds to an integral F32 value in the immediate mode. -/
  | frnd (f : AI)
  /-- FLDEX (R179): Multiplies a by 2 to the power of s(b). -/
  | fldex (f : A3)
  /-- FSAT (R179): Clamps a to [+0, 1]. -/
  | fsat (f : A3)
  /-- FAMAX (R176): Maximum of the magnitudes. -/
  | famax (f : A3)
  /-- HADD2 (R180): Packed F16 add. -/
  | hadd2 (f : A3)
  /-- HMUL2 (R180): Packed F16 multiply. -/
  | hmul2 (f : A3)
  /-- HFMA2 (R180): Packed F16 fused multiply-add. -/
  | hfma2 (f : A3)
  /-- HMIN2 (R180): Packed F16 minimum. -/
  | hmin2 (f : A3)
  /-- HMAX2 (R180): Packed F16 maximum. -/
  | hmax2 (f : A3)
  /-- BADD2 (R180): Packed B16 add. -/
  | badd2 (f : A3)
  /-- BMUL2 (R180): Packed B16 multiply. -/
  | bmul2 (f : A3)
  /-- BFMA2 (R180): Packed B16 fused multiply-add. -/
  | bfma2 (f : A3)
  /-- CVT (R181): Converts one value between F32, I32, N32, F16 and B16. -/
  | cvt (f : CV)
  /-- CVTQ (R154): Quantises a register group with a scale slot, escapes and the side list. -/
  | cvtq (f : CQ)
  /-- DEQ (R157): Dequantises packed codes into F32 registers. -/
  | deq (f : CQ)
  /-- PACK (R182): Converts a value into one element of a packed register. -/
  | pack (f : CV)
  /-- UNPK (R183): Extracts one element of a packed register exactly. -/
  | unpk (f : CV)
  /-- TAGS (R186): Copies a with a new format tag. -/
  | tags (f : AI)
  /-- TAGR (R186): Reads the format tag of a. -/
  | tagr (f : A3)
  /-- SSET (R185): Writes the whole state of a scale slot. -/
  | sset (f : CQ)
  /-- SROT (R152): Rotates a scale slot's history and chooses its exponent. -/
  | srot (f : CQ)
  /-- SGET (R185): Reads the state of a scale slot. -/
  | sget (f : CQ)
  /-- SMAX (R151): Folds a value into a scale slot's current maximum. -/
  | smax (f : CQ)
  /-- WELF (R160): Adds a sample to a Welford triple. -/
  | welf (f : A3)
  /-- WMRG (R161): Merges two Welford triples. -/
  | wmrg (f : A3)
  /-- WFIN (R162): Finishes a triple into a population or sample variance. -/
  | wfin (f : A3)
  /-- VOTE (R189): All, any or uniform vote over the partition tile. -/
  | vote (f : P3)
  /-- BALLOT (R189): Writes the mask of the tile lanes whose predicate is true. -/
  | ballot (f : A3)
  /-- SHFL (R190): Reads a from an indexed lane of the tile. -/
  | shfl (f : A3)
  /-- SHFLU (R190): Reads a from the lane imm below. -/
  | shflu (f : AI)
  /-- SHFLD (R190): Reads a from the lane imm above. -/
  | shfld (f : AI)
  /-- SHFLX (R190): Reads a from the lane i xor imm. -/
  | shflx (f : AI)
  /-- RED (R191): Tree reduction over the tile. -/
  | red (f : AI)
  /-- SCAN (R191): Inclusive or exclusive ordered scan over the tile. -/
  | scan (f : AI)
  /-- MATCH (R189): Writes the mask of tile lanes holding equal bits. -/
  | matchLanes (f : A3)
  /-- WRED (R192): Merges the tile's Welford triples in a fixed tree. -/
  | wred (f : A3)
  /-- BCAST (R190): Broadcasts a from one lane of the tile. -/
  | bcast (f : AI)
  /-- SEL (R193): Selects a or b by a predicate. -/
  | sel (f : PS)
  /-- PLOG (R193): Logical operation on predicates. -/
  | plog (f : P3)
  /-- PGET (R193): Packs the predicates into a mask register. -/
  | pget (f : A3)
  /-- PPUT (R193): Writes p0-p6 from a register. -/
  | pput (f : A3)
  /-- MOV (R194): Copies a register with its tag. -/
  | mov (f : A3)
  /-- RDLN (R194): Copies a uniform register into a vector register. -/
  | rdln (f : A3)
  /-- LDG (R236): Global load that parks or probes on an absent page. -/
  | ldg (f : M2)
  /-- STG (R238): Global store, held on an absent page or recorded on a protection outcome. -/
  | stg (f : M2)
  /-- LDS (R236): Scratchpad load. -/
  | lds (f : M2)
  /-- STS (R238): Scratchpad store. -/
  | sts (f : M2)
  /-- LDC (R236): Load from a cohort team's scratchpad. -/
  | ldc (f : M2)
  /-- STC (R238): Store to a cohort team's scratchpad. -/
  | stc (f : M2)
  /-- STCM (R239): Store to each cohort team in a mask. -/
  | stcm (f : M2)
  /-- LDB (R240): Load from the cluster's tile buffer. -/
  | ldb (f : M2)
  /-- STB (R240): Store to the cluster's tile buffer. -/
  | stb (f : M2)
  /-- ATOMG (R242): Global read-modify-write at home. -/
  | atomg (f : M2)
  /-- ATOMS (R242): Scratchpad read-modify-write. -/
  | atoms (f : M2)
  /-- CASG (R243): Global compare and swap. -/
  | casg (f : M2)
  /-- CASS (R243): Scratchpad compare and swap. -/
  | cass (f : M2)
  /-- LDK (R237): Load from an immutable page without a lease. -/
  | ldk (f : M2)
  /-- PREQ (R246): Posts page requests for the lanes whose predicate is set. -/
  | preq (f : M2)
  /-- DRAINS (R221): Waits until every earlier store of the thread has been translated. -/
  | drains
  /-- LDL (R250): Level-of-detail element load that falls back and logs. -/
  | ldl (d : BitVec 7) (a : BitVec 7) (c : BitVec 7)
  /-- SMPL (R251): Filtered texture sample with fallback. -/
  | smpl (d : BitVec 7) (a : BitVec 7) (c : BitVec 7) (filt : BitVec 2)
  /-- GATH4 (R251): Gathers the four texels of the bilinear footprint. -/
  | gath4 (d : BitVec 7) (a : BitVec 7) (c : BitVec 7)
  /-- RESQ (R253): Reports the residency of a region. -/
  | resq (d : BitVec 7) (a : BitVec 7) (c : BitVec 7)
  /-- FBCK (R254): Logs a wanted page to the feedback ring. -/
  | fbck (a : BitVec 7) (c : BitVec 7)
  /-- FENCE (R280): Acquire, release or full fence at a scope. -/
  | fence (kind : BitVec 2) (scope : BitVec 2)
  /-- PFCH (R245): Prefetches a line without writing a register. -/
  | pfch (f : M2)
  /-- CPT (R259): Collective copy from global memory into scratchpad. -/
  | cpt (f : CopyF)
  /-- CPTO (R259): Collective copy from scratchpad to global memory. -/
  | cpto (f : CopyF)
  /-- CPX (R259): Collective masked expanding copy into scratchpad. -/
  | cpx (f : CopyF)
  /-- CPM (R259): Collective copy multicast to cohort teams. -/
  | cpm (f : CopyF)
  /-- CPA (R263): Per-thread copy into the open batch. -/
  | cpa (d : BitVec 7) (a : BitVec 7) (sz : BitVec 2)
  /-- CSEAL (R264): Seals the thread's open batch and returns its number. -/
  | cseal (d : BitVec 7)
  /-- CWAIT (R265): Waits until at most n sealed batches are outstanding. -/
  | cwait (n : BitVec 4)
  /-- TBINIT (R287): Initialises a transaction barrier. -/
  | tbinit (a : BitVec 7) (b : BitVec 7) (coh : BitVec 1)
  /-- TBARR (R288): Releases and arrives once at a transaction barrier. -/
  | tbarr (d : BitVec 7) (a : BitVec 7) (coh : BitVec 1) (warpWide : BitVec 1)
  /-- TBEXP (R289): Adds expected granules and may also arrive. -/
  | tbexp (a : BitVec 7) (b : BitVec 7) (coh : BitVec 1) (warpWide : BitVec 1) (arr : BitVec 1)
  /-- TBWAIT (R290): Waits for a phase to pass, then acquires. -/
  | tbwait (a : BitVec 7) (b : BitVec 7) (coh : BitVec 1)
  /-- WPTR (R261): Reads a channel's landed-granule count as an acquire. -/
  | wptr (d : BitVec 7) (ch : BitVec 3)
  /-- STRM (R267): Configures a stream into a team queue. -/
  | strm (q : BitVec 3) (par : BitVec 9) (roww : BitVec 5) (lvl : BitVec 2)
  /-- POPQ (R269): Takes one stream row per thread. -/
  | popq (d : BitVec 7) (q : BitVec 3) (pd : BitVec 3)
  /-- SCLOS (R270): Closes a stream queue. -/
  | sclos (q : BitVec 3)
  /-- MLOAD (R313): Loads a B plane from scratchpad. -/
  | mload (plane : BitVec 4) (mir : BitVec 1) (shape : BitVec 9) (side : BitVec 9) (sl : BitVec 1)
  /-- MMA (R305): Queues an exact matrix multiply-accumulate into a tile. -/
  | mma (tile : BitVec 5) (plane : BitVec 4) (src : BitVec 2) (afmt : BitVec 3) (a : BitVec 7) (sa : BitVec 1)
  /-- MMAR (R311): Queues a redundant multiply-accumulate on a tile pair. -/
  | mmar (tile : BitVec 5) (plane : BitVec 4) (src : BitVec 2) (afmt : BitVec 3) (a : BitVec 7) (sa : BitVec 1)
  /-- MDRAIN (R316): Copies 8 tile columns to registers, comparing pairs. -/
  | mdrain (d : BitVec 7) (tile : BitVec 5) (group : BitVec 2)
  /-- MZERO (R317): Clears tile rows and sets the accumulator tag. -/
  | mzero (tile : BitVec 5) (atag : BitVec 1) (mir : BitVec 1)
  /-- MFILL (R317): Writes tile columns from registers. -/
  | mfill (a : BitVec 7) (tile : BitVec 5) (group : BitVec 2) (mir : BitVec 1)
  /-- MSIDE (R318): Sets or clears the thread's A side descriptor. -/
  | mside (a : BitVec 7) (clr : BitVec 1)
  /-- MZP (R319): Sets row zero points of a tile. -/
  | mzp (tile : BitVec 5) (a : BitVec 7) (range : BitVec 1)
  /-- MSCL (R319): Sets row exponents of a tile or column exponents of a plane. -/
  | mscl (mode : BitVec 1) (unit : BitVec 5) (a : BitVec 7) (mir : BitVec 1)
  /-- SIGB (R363): Begins signature absorption and clears signed-input bits. -/
  | sigb (kind : BitVec 4) (tol : BitVec 2)
  /-- SIGA (R364): Absorbs registers into the signature. -/
  | siga (a : BitVec 7) (cnt : BitVec 4) (tolsel : BitVec 3) (fl : BitVec 1) (pr : BitVec 1)
  /-- SIGX (R364): Marks registers signed without absorbing them. -/
  | sigx (a : BitVec 7) (cnt : BitVec 4) (pr : BitVec 1)
  /-- SIGE (R365): Finalises the signature and opens the pure region. -/
  | sige (d : BitVec 7)
  /-- MEMOL (R366): Looks a signature up in Oasis. -/
  | memol (f : MemolF)
  /-- MEMOS (R367): Inserts a payload into Oasis. -/
  | memos (f : MemosF)
  /-- PEND (R368): Closes a pure region and latches its cost. -/
  | pend
  /-- MEMOI (R369): Invalidates Oasis entries of the launch's domain. -/
  | memoi (form : BitVec 1) (kind : BitVec 4)
  /-- RQI (R371): Starts a ray query. -/
  | rqi (d : BitVec 7) (a : BitVec 7) (r : BitVec 7) (np : BitVec 1) (first : BitVec 1)
  /-- RQP (R372): Lets a query run to its next event. -/
  | rqp (a : BitVec 7)
  /-- RQC (R373): Commits the pending candidate or ends the query. -/
  | rqc (mode : BitVec 1) (a : BitVec 7)
  /-- RQG (R374): Reads query status or results. -/
  | rqg (d : BitVec 7) (a : BitVec 7) (sel : BitVec 2)
  /-- EMIT (R137): Sends a record to an output target after a device release. -/
  | emit (f : EmitF)
  /-- BR (R129): Predicated branch to a relative clause header. -/
  | br (p : BitVec 3) (neg : BitVec 1) (off : BitVec 20)
  /-- JMP (R129): Predicated jump to a register-pair target. -/
  | jmp (p : BitVec 3) (neg : BitVec 1) (a : BitVec 7)
  /-- CALL (R130): Pushes the return address and branches. -/
  | call (p : BitVec 3) (neg : BitVec 1) (off : BitVec 20)
  /-- CALLR (R130): Pushes the return address and jumps to a register target. -/
  | callr (p : BitVec 3) (neg : BitVec 1) (a : BitVec 7)
  /-- RET (R131): Pops the return stack and transfers there. -/
  | ret (p : BitVec 3) (neg : BitVec 1)
  /-- MEET (R133): Saves sr.mr and sets a new meeting point. -/
  | meet (d : BitVec 7) (off : BitVec 17)
  /-- MEETR (R133): Restores sr.mr from a register. -/
  | meetr (a : BitVec 7)
  /-- BAR (R281): Team or cohort barrier with release and acquire. -/
  | bar (mode : BitVec 1)
  /-- EXIT (R132): Ends the thread, or kills its team under mode 1. -/
  | exit (p : BitVec 3) (neg : BitVec 1) (mode : BitVec 2)
  /-- REP (R107): Repeats the next word with stepped register fields. -/
  | rep (count : BitVec 6) (mask : BitVec 3) (stride : BitVec 2)
  /-- LEASE (R136): Declares, boosts, ends or queries the warp's lease. -/
  | lease (form : BitVec 2) (a : BitVec 7) (lines : BitVec 10)
  /-- WAITT (R135): Waits until global time reaches an absolute deadline. -/
  | waitt (a : BitVec 7)
  /-- WAITT_D (R135): Waits for a delay in ns. -/
  | waittD (delay : BitVec 23)
  /-- TRAP (R381): Raises cause 0x14, or 0x15 as a breakpoint. -/
  | trap (p : BitVec 3) (neg : BitVec 1) (brk : BitVec 1) (code : BitVec 16)
  /-- RTT (R382): Ends handler mode and resumes, re-executing, skipping or substituting. -/
  | rtt (form : BitVec 2)
  /-- SPRW (R385): Reads or writes a special register. -/
  | sprw (wr : BitVec 1) (reg : BitVec 7) (id : BitVec 8)
  /-- TCTL (R394): Agent places, evicts, kills or resumes a team. -/
  | tctl (form : BitVec 2) (a : BitVec 9)
  /-- LAUNCH_GRAPH (R38): Command that launches root nodes whose graph completes under R14. -/
  | launchGraph (h : CmdHead) (roots : Addr) (count : BitVec 64) (recVA work : Addr) (bytes : BitVec 64)
  /-- LAUNCH_NODE (R38): Command that launches one node. -/
  | launchNode (h : CmdHead) (node recVA work : Addr) (bytes : BitVec 64)
  /-- SIGNAL (R40): Command that writes a value with a system release after earlier commands. -/
  | signal (h : CmdHead) (va : Addr) (value : BitVec 64)
  /-- WAIT (R40): Command that holds claiming until a value reaches a threshold. -/
  | wait (h : CmdHead) (va : Addr) (threshold : BitVec 64)
  /-- TIMESTAMP (R40): Command that writes sr.time. -/
  | timestamp (h : CmdHead) (va : Addr)
  /-- SET_DOMAIN (R56): Privileged command that sets the context's memo domain and key. -/
  | setDomain (h : CmdHead) (dom : BitVec 12) (share : Bool) (key : BitVec 128)
  /-- PARTITION (R56): Privileged command that writes a context entry. -/
  | partition (h : CmdHead) (ctx mask : BitVec 8) (excl : Bool) (slice : BitVec 7) (root : BitVec 64) (pool : Addr) (pages : BitVec 64)
  /-- DOORBELL_WRITE (R35): A QPROD write, from the host or a device store, checked and accepted. -/
  | doorbellWrite
  /-- HALT_CLEAR (R35): Writing 1 to HALT clears HALT and ERR and resumes claiming. -/
  | haltClear
  /-- REGISTER_WRITE (R460): A write to a register or window field that has no row of its own. -/
  | registerWrite
  /-- COMMAND_CLAIM (R40): An agent claims the next command of a queue and checks it. -/
  | commandClaim
  /-- WAIT_RECHECK (R40): The 2 us re-read of a WAIT value. -/
  | waitRecheck
  /-- TEAM_TICKET_CLAIM (R43): An agent takes a team or cohort ticket from a ready launch. -/
  | teamTicketClaim
  /-- TEAM_PASS (R61): A team that does not fit passes to the next core's agent. -/
  | teamPass
  /-- DEPENDENCE_RECHECK (R44): The 2 us retest of the held teams of a dependence list. -/
  | dependenceRecheck
  /-- COHORT_RESERVE_RETRY (R65): The 100 us retry of a cohort reservation. -/
  | cohortReserveRetry
  /-- COHORT_MAKE_ROOM (R65): After 100 us the reserving agent pre-empts teams to fit the cohort. -/
  | cohortMakeRoom
  /-- RAMP_WINDOW (R54): A 1 us ramp window boundary updates CUR. -/
  | rampWindow
  /-- SLICE_END (R57): A context's turn expires and its teams are pre-empted. -/
  | sliceEnd
  /-- ACTIVATION_STEP (R72): The 64-cycle recomputation of a core's active warps. -/
  | activationStep
  /-- LEASE_WINDOW_END (R70): The end of a 4,096-cycle sketch window sets MEAS. -/
  | leaseWindowEnd
  /-- BOOST_EXPIRY (R69): A lease boost reaches its expiry in global time. -/
  | boostExpiry
  /-- WAKE_WATCH_TIMEOUT (R80): Global time reaches a wake-watch entry's wake time and the team is re-queued. -/
  | wakeWatchTimeout
  /-- REGROUP_PERIOD (R117): Every 4 cycles Caravan fills free bundle slots. -/
  | regroupPeriod
  /-- MEETING_TIMEOUT (R121): A meeting group unreleased after sr.mto cycles is released. -/
  | meetingTimeout
  /-- COLLECTIVE_MISMATCH_TIMEOUT (R126): A mismatch lasting sr.mto cycles traps the warp with cause 0x13. -/
  | collectiveMismatchTimeout
  /-- BAR_MIXED_TIMEOUT (R282): Threads split between BAR.T and BAR.C trap after sr.mto cycles. -/
  | barMixedTimeout
  /-- WAITT_DEADLINE (R135): Global time reaches a WAITT deadline. -/
  | waittDeadline
  /-- LOAD_WRITEBACK (R86): A long-latency producer's data is written back and its registers marked full. -/
  | loadWriteback
  /-- REFILL_LAND (R127): A return-stack refill lands or fails. -/
  | refillLand
  /-- FILL_RETURN (R201): A miss fill returns and frees its miss-status entry. -/
  | fillReturn
  /-- MSHR_REPLAY (R201): A bundle replays an instruction for lanes that found no free miss-status entry. -/
  | mshrReplay
  /-- STORE_PERFORMED_AT_HOME (R273): A write is performed at its home and returns a GWCT. -/
  | storePerformedAtHome
  /-- STORE_TRANSLATED (R217): A store's translation completes, holding it or appending a fault record. -/
  | storeTranslated
  /-- STORE_FAULT_DELIVERY (R220): A store-fault record is delivered as cause 0x0D at a clause header. -/
  | storeFaultDelivery
  /-- STORE_FAULT_POP (R93): A write of sr.sfq moves the oldest store-fault record to scratchpad. -/
  | storeFaultPop
  /-- FAULT_REWALK (R211): A fault-table entry re-walks its unit after a store to its watched line or 50 us. -/
  | faultRewalk
  /-- WAITER_RETRANSLATE (R459): An access waiting for a fault-table entry translates again. -/
  | waiterRetranslate
  /-- PAGE_REQUEST_POP (R213): An aligned 64-bit read pops the oldest page request. -/
  | pageRequestPop
  /-- FILTER_EXPIRY (R228): A feedback filter entry leaves after 1 ms. -/
  | filterExpiry
  /-- GRANULE_LAND (R258): A copy granule lands and decrements its barrier. -/
  | granuleLand
  /-- TB_PHASE_CHANGE (R284): A barrier whose counts reach zero changes phase after its engine release. -/
  | tbPhaseChange
  /-- CPA_ENTRY_LAND (R263): A per-thread copy entry completes. -/
  | cpaEntryLand
  /-- STREAM_ROW_ARRIVE (R268): A stream row fetch completes into its queue or taken registers. -/
  | streamRowArrive
  /-- RELEASE_COMPLETE (R278): A waiting release completes and its releasing write proceeds. -/
  | releaseComplete
  /-- MATRIX_OP_EXECUTE (R299): A quadrant's macro executes the next queued matrix operation. -/
  | matrixOpExecute
  /-- GATHER_TIMEOUT (R46): A batch's gather timer lapses and fires it. -/
  | gatherTimeout
  /-- TEAM_DRAIN_DONE (R49): A team's drain finishes and it completes, setting its bits. -/
  | teamDrainDone
  /-- LAUNCH_ABORT (R395): A machine check kills the launch and restores its snapshot. -/
  | launchAbort
  /-- SHADOW_MISMATCH (R399): A compared access pair disagrees or times out, raising cause 0x11. -/
  | shadowMismatch
  /-- TRET_WRITE (R383): A write of sr.tret sets the tret-written flag. -/
  | tretWrite
  /-- TILE_START (R337): A cluster starts a tile, comparing signatures to skip or render it. -/
  | tileStart
  /-- DICE_TILE (R327): The dicing unit dices a tile's patches and fires grid shading. -/
  | diceTile
  /-- GRID_SAMPLE (R335): Seif samples a grid's micropolygons into the tile buffer. -/
  | gridSample
  /-- TILE_COMPLETE (R337): The last sample write of a tile is performed. -/
  | tileComplete
  /-- TILE_RESOLVE (R339): A tile resolves to the render target and its entry is written. -/
  | tileResolve
  /-- RAY_TRAVERSE_EVENT (R342): A ray query reaches a candidate or its end. -/
  | rayTraverseEvent
  /-- OASIS_INVALIDATE_ALL (R362): Host write that invalidates every Oasis entry. -/
  | oasisInvalidateAll
  /-- OASIS_INVALIDATE_DOMAIN (R362): Host write that invalidates one domain's entries. -/
  | oasisInvalidateDomain
  /-- HEALTH_LOG_POP (R403): An aligned 64-bit read pops the oldest health log entry. -/
  | healthLogPop
  /-- CORRECTABLE_ERROR (R400): A correctable error is counted and may disable a unit. -/
  | correctableError
  /-- LINK_LANE_DROP (R401): A link lane fails and the port narrows. -/
  | linkLaneDrop
  /-- DROOP_ALARM (R413): The supply falls by THR and the cluster stretches cycles and halves issue. -/
  | droopAlarm
  /-- DROOP_STRETCH_END (R413): The STR stretched cycles end and halved issue begins. -/
  | droopStretchEnd
  /-- DROOP_HALF_END (R413): The HALF halved-issue cycles end. -/
  | droopHalfEnd
  /-- CONV_WRITE (R406): A RATIO write starts a 2 us ratio change. -/
  | convWrite
  /-- RATIO_CHANGE_DONE (R406): The clock resumes at the new ratio and BUSY clears. -/
  | ratioChangeDone
  /-- FSTEP_WRITE (R406): A STEP write changes the frequency within 100 ns. -/
  | fstepWrite
  /-- PGATE_OFF (R409): An agent arrives at gating; the last arrival gates or refuses. -/
  | pgateOff
  /-- PGATE_CAN (R409): An agent cancels a pending gating request. -/
  | pgateCan
  /-- PGATE_WAKE (R408): An agent posts a wake request for a cluster. -/
  | pgateWake
  /-- HOST_WAKE (R422): The host posts wake requests for clusters. -/
  | hostWake
  /-- INRUSH_GRANT (R407): The in-rush arbiter grants the next queued domain. -/
  | inrushGrant
  /-- CLUSTER_WAKE_DONE (R411): A woken cluster's chain closes, SRAM clears and agents start. -/
  | clusterWakeDone
  /-- GOVERNOR_EPOCH (R416): Each 50 us epoch the governor moves cluster steps. -/
  | governorEpoch
  /-- TOFF_WRITE (R417): A write of CORR's high half slews the timer. -/
  | toffWrite
  /-- TSYNC_WRITE (R418): A SRC write selects the 1588 source and clears LOCK. -/
  | tsyncWrite
  /-- PTP_EXCHANGE (R418): A 125 us IEEE 1588 exchange updates OFFS and LOCK. -/
  | ptpExchange
  /-- PTP_TIMEOUT (R418): No exchange for 1 ms clears LOCK. -/
  | ptpTimeout
  /-- COLD_RESTART (R419): A REQ write of 1 kills all teams and runs a cold start. -/
  | coldRestart
  /-- WARM_RESTART (R419): A REQ write of 2 kills all teams and runs a warm start. -/
  | warmRestart
  /-- POWER_ON (R419): Power-up runs the start sequence. -/
  | powerOn
  /-- SOFT_ERROR (R458): Stored data in module memory, a tile, a plane, an Oasis entry or other SRAM takes an uncorrectable corruption, putting a granule or unit in error. -/
  | softError
  /-- HOST_WINDOW_WRITE (R231): The host writes module memory through its window onto module memory, for example translation nodes or page data. -/
  | hostWindowWrite
  /-- PEER_ACCESS (R421): An access from a peer chip to a line homed here arrives over the Lanteran Link, is performed at home and may grant a lease. -/
  | peerAccess
  /-- PEER_LOCK_LOSS_NOTICE (R294): A peer reports over the link that its timer has left lock, and this chip discards every copy homed on that peer within 1 us. -/
  | peerLockLossNotice
  /-- PIPE_CLOCK_GATING (R412): A vector pipe that has issued nothing for 256 cycles is clock-gated. -/
  | pipeClockGating
  /-- ILLEGAL_OPCODE (R108): A thread issues a word whose opcode is unassigned and takes cause 0x01. -/
  | illegalOpcode
  deriving DecidableEq, Repr

end Sys2Proof
end

