-- ==== Sys2Proof/WellFormed.lean ====
section
/-! DEFINITION. Which field values the entries of the manual give a meaning to. A word that is decoded but not well
formed raises cause 0x03 when it issues (R104, R167, R232, R312). -/

namespace Sys2Proof

/-- A one-source word leaves `b`, `eb` and `bs` zero (R104, R169). -/
def A3.oneSource (f : A3) : Bool := f.b == 0 && f.eb == 0 && f.bs == 0

/-- A predicate named through a 7-bit field has bits 6:3 zero (R87). -/
def predField (x : BitVec 7) : Bool := x.toNat < 8

/-- Condition codes of the integer compares (R105). -/
def intCond (c : BitVec 4) : Bool := c.toNat ≤ 5 || 14 ≤ c.toNat

/-- An immediate that uses its low `n` bits only. -/
def AI.immBelow (f : AI) (n : Nat) : Bool := f.imm.toNat < 2 ^ n

/-- One row of the field table of R232. -/
structure M2Row where
  useD : Bool := true
  widths : List Nat
  mayProbe : Bool := false
  mustProbe : Bool := false
  cache : Bool := false
  narrow : Bool := false
  orders : List Nat
  scopes : List Nat
  deriving DecidableEq, Repr

/-- The row `r` accepts the fields `f`; SUB is left to the caller for atomics (R232). -/
def M2Row.accepts (r : M2Row) (f : M2) : Bool :=
  (r.useD || f.d == 0) && r.widths.contains f.width.toNat
  && (if r.mustProbe then f.fmode == 1 else if r.mayProbe then f.fmode.toNat ≤ 1 else f.fmode == 0)
  && (f.fmode == 1 || f.pp == 0) && (r.cache || f.cache == 0)
  && r.orders.contains f.order.toNat && r.scopes.contains f.scope.toNat
  && (if r.narrow && f.width.toNat ≤ 1 then f.sub.toNat ≤ 1 else f.sub == 0)

/-- SUB and WIDTH of an atomic agree (R232). -/
def M2.atomOk (f : M2) : Bool :=
  f.sub.toNat ≤ 14 && (if f.sub.toNat = 14 then f.width == 3 else f.width == 2)

/-- A row whose SUB is an atomic sub-operation. -/
def M2Row.acceptsAtom (r : M2Row) (f : M2) : Bool := r.accepts { f with sub := 0 } && f.atomOk

/-- The fields of a collective copy whose XREG is used (`x`) or reserved (R255). -/
def CopyF.ok (f : CopyF) (x : Bool) : Bool := (f.nb == 0 || f.barr == 0) && (x || f.xreg == 0)

/-- CVT's fields (R181). rm must be 0 between the integer formats and for a conversion of one of them to itself; a conversion of a
float format to itself takes any rm (log 81). -/
def CV.cvtOk (f : CV) : Bool :=
  f.tag.toNat ∈ [1, 2, 3, 4, 5] && f.pos != 7
  && (if f.tag.toNat ≤ 2 then
        f.sat == 0 && (f.rm == 0 || (f.pos != 1 && f.pos != 2))
      else true)

/-- PACK's fields; what depends on the source's tag is checked at issue (R182). -/
def CV.packOk (f : CV) : Bool :=
  let t := f.tag.toNat
  4 ≤ t && t ≤ 9 && (if t == 6 || t == 7 then f.sat == 0 else true)
  && (if 8 ≤ t then f.rm == 0 || f.sat == 0 else true)

/-- The packed format of CVTQ, DEQ and SROT (R184). -/
def quantTag (t : BitVec 4) : Bool := 6 ≤ t.toNat && t.toNat ≤ 9

/-- CVTQ's and DEQ's fields (R184, R154). -/
def CQ.quantOk (f : CQ) : Bool := quantTag f.tag && f.rz == 0 && (f.esc == 0 || f.tag.toNat ≤ 7)

/-- RED's and SCAN's operation field (R191). -/
def redOk (imm : BitVec 10) (scan : Bool) : Bool :=
  let x := imm.toNat
  x < (if scan then 64 else 32) && bits x 3 2 != 3 && bits x 0 3 ≤ 5 && !(bits x 3 2 == 2 && 3 ≤ bits x 0 3)

/-- Sizes of a host access (R460). -/
def accessSize (n : Nat) : Bool := n == 1 || n == 2 || n == 4 || n == 8

/-- Every field holds a value that the instruction's entry gives a meaning to. -/
def Instr.wf : Instr → Bool
  | .iabs f | .ineg f | .not f | .popc f | .clz f | .brev f | .amov f | .aexti f | .aextn f | .fsqrt f | .frcp f
  | .frsq f | .fexp2 f | .flog2 f | .fsint f | .fcost f | .ftanh f | .fabs f | .fneg f | .fclass f | .fsat f
  | .tagr f | .welf f | .wmrg f | .matchLanes f | .wred f | .mov f => f.oneSource
  | .wfin f => f.b.toNat ≤ 1 && f.eb == 0 && f.bs == 0
  | .ballot f => f.oneSource && predField f.a
  | .pget f => f.oneSource && f.a == 0 && f.ea == 0
  | .pput f => f.oneSource && f.d == 0
  | .rdln f => f.a == 0 && f.ea == 0
  | .shli f | .shri f | .sari f | .shflu f | .shfld f | .shflx f | .bcast f => f.immBelow 5
  | .ashl f => f.immBelow 6
  | .frnd f => f.immBelow 2
  | .tags f => f.immBelow 4
  | .red f => redOk f.imm false
  | .scan f => redOk f.imm true
  | .movh f => f.imm.toNat < 2 ^ 16
  | .icmp f | .ncmp f | .acmp f => intCond f.cond
  | .icmpi f => intCond f.cond
  | .vote f => f.cond.toNat ≤ 2 && predField f.a && f.b == 0 && f.eb == 0 && f.bs == 0
  | .plog f => f.cond.toNat ≤ 5 && f.bs == 0 && predField f.a && predField f.b
      && (f.cond.toNat ≤ 3 || (f.b == 0 && f.eb == 0))
  | .cvt f => f.cvtOk
  | .pack f => f.packOk
  | .unpk f => f.rm == 0 && f.sat == 0 && 4 ≤ f.tag.toNat && f.tag.toNat ≤ 9
  | .cvtq f | .deq f => f.quantOk
  | .sset f => f.d == 0 && f.tag == 0 && f.esc == 0 && f.rz == 0
  | .srot f => f.d == 0 && f.a == 0 && f.esc == 0 && f.rz == 0 && quantTag f.tag
  | .sget f => f.a == 0 && f.tag == 0 && f.esc == 0 && f.rz == 0
  | .smax f => f.d == 0 && f.tag == 0 && f.esc == 0 && f.rz == 0
  | .ldg f => M2Row.accepts { widths := [0, 1, 2, 3, 4, 5], mayProbe := true, cache := true, narrow := true, orders := [0, 1], scopes := [0, 1, 2, 3] } f
  | .stg f => M2Row.accepts { widths := [0, 1, 2, 3, 4, 5], cache := true, orders := [0, 2], scopes := [0, 1, 2, 3] } f
  | .lds f => M2Row.accepts { widths := [0, 1, 2, 3, 4, 5], narrow := true, orders := [0, 1], scopes := [0] } f
  | .sts f => M2Row.accepts { widths := [0, 1, 2, 3, 4, 5], orders := [0, 2], scopes := [0] } f
  | .ldc f => M2Row.accepts { widths := [0, 1, 2, 3, 4, 5], narrow := true, orders := [0, 1], scopes := [0, 1] } f
  | .stc f | .stcm f => M2Row.accepts { widths := [0, 1, 2, 3, 4, 5], orders := [0, 2], scopes := [0, 1] } f
  | .ldb f => M2Row.accepts { widths := [2, 3, 4, 5], orders := [0, 1], scopes := [0, 1] } f
  | .stb f => M2Row.accepts { widths := [2, 3, 4, 5], orders := [0, 2], scopes := [0, 1] } f
  | .atomg f => M2Row.acceptsAtom { widths := [2, 3], cache := true, orders := [0, 1, 2, 3], scopes := [0, 1, 2, 3] } f
  | .atoms f => M2Row.acceptsAtom { widths := [2, 3], orders := [0, 1, 2, 3], scopes := [0] } f
  | .casg f => M2Row.accepts { widths := [2, 3], cache := true, orders := [0, 1, 2, 3], scopes := [0, 1, 2, 3] } f
  | .cass f => M2Row.accepts { widths := [2, 3], orders := [0, 1, 2, 3], scopes := [0] } f
  | .ldk f => M2Row.accepts { widths := [0, 1, 2, 3, 4, 5], mayProbe := true, cache := true, narrow := true, orders := [0], scopes := [0] } f
  | .preq f => M2Row.accepts { useD := false, widths := [0], mustProbe := true, orders := [0], scopes := [0] } f
  | .pfch f => M2Row.accepts { useD := false, widths := [0], cache := true, orders := [0], scopes := [0] } f
  | .cpt f | .cpto f => f.ok false
  | .cpx f | .cpm f => f.ok true
  | .memol f => (f.p == 0 || f.cnt == 0) && (f.v == 1 || f.c == 0)
  | .memos f => (f.p == 0 || f.cnt == 0) && (f.ck == 1 || f.c == 0)
  | .smpl _ _ _ filt => filt != 3
  | .fence kind _ => kind != 0
  | .cpa _ _ sz => sz != 3
  | .strm _ _ _ lvl => lvl != 0
  | .mma _ _ src afmt a sa | .mmar _ _ src afmt a sa =>
      afmt.toNat ≤ 5 && (sa == 0 || afmt.toNat ≤ 1) && (src != 1 || a.toNat < 8)
  | .mload _ _ _ side sl => sl == 1 || side == 0
  | .mside a clr => clr == 0 || a == 0
  | .mscl mode unit _ mir => if mode == 0 then mir == 0 else unit.toNat < 16
  | .siga a cnt tolsel _ pr => tolsel.toNat ≤ 4 && (pr == 0 || (a == 0 && cnt == 0))
  | .sigx a cnt pr => pr == 0 || (a == 0 && cnt == 0)
  | .memoi form kind => form == 1 || kind == 0
  | .exit _ _ mode => mode.toNat ≤ 1
  | .lease form a lines =>
      match form.toNat with
      | 0 => a == 0
      | 1 => true
      | 2 => a == 0 && lines == 0
      | _ => lines == 0
  | .rtt form => form != 3
  | .partition _ _ _ _ slice _ _ _ => 1 ≤ slice.toNat && slice.toNat ≤ 100
  | .launchGraph _ _ count _ _ _ => 1 ≤ count.toNat && count.toNat ≤ 64
  | _ => true

end Sys2Proof
end

