-- ==== Sys2Proof/Decode.lean ====
section
/-! DEFINITION. Decoding of instruction words (R104 to R109) and of commands (R38, R39), and their encoders, both
written from the manual's encoding tables. An unassigned opcode decodes to `illegalOpcode`; a word with a nonzero
reserved bit is refused by name. -/

namespace Sys2Proof

/-- Why words are no instruction. -/
inductive DecodeErr where
  /-- A reserved bit of the word is nonzero: cause 0x03 when it issues (R104). -/
  | reservedField (op : BitVec 8)
  /-- The second word of a two-word instruction is missing: cause 0x02 (R99). -/
  | secondWordMissing (op : BitVec 8)
  /-- Fewer than four bytes. -/
  | truncated
  deriving DecidableEq, Repr

def A3.ofBits (w : Word) : A3 :=
  ⟨w.extractLsb' 17 7, w.extractLsb' 10 7, w.extractLsb' 3 7, w.extractLsb' 2 1, w.extractLsb' 1 1, w.extractLsb' 0 1⟩
def A3.toBits (op : BitVec 8) (f : A3) : Word := op ++ f.d ++ f.a ++ f.b ++ f.ea ++ f.eb ++ f.bs
def AI.ofBits (w : Word) : AI := ⟨w.extractLsb' 17 7, w.extractLsb' 10 7, w.extractLsb' 0 10⟩
def AI.toBits (op : BitVec 8) (f : AI) : Word := op ++ f.d ++ f.a ++ f.imm
def AW.ofBits (w : Word) : AW := ⟨w.extractLsb' 17 7, w.extractLsb' 0 17⟩
def AW.toBits (op : BitVec 8) (f : AW) : Word := op ++ f.d ++ f.imm
def P3.ofBits (w : Word) : P3 :=
  ⟨w.extractLsb' 21 3, w.extractLsb' 17 4, w.extractLsb' 10 7, w.extractLsb' 3 7, w.extractLsb' 2 1,
   w.extractLsb' 1 1, w.extractLsb' 0 1⟩
def P3.toBits (op : BitVec 8) (f : P3) : Word := op ++ f.pd ++ f.cond ++ f.a ++ f.b ++ f.ea ++ f.eb ++ f.bs
def PI.ofBits (w : Word) : PI := ⟨w.extractLsb' 21 3, w.extractLsb' 17 4, w.extractLsb' 10 7, w.extractLsb' 0 10⟩
def PI.toBits (op : BitVec 8) (f : PI) : Word := op ++ f.pd ++ f.cond ++ f.a ++ f.imm
def PS.ofBits (w : Word) : PS := ⟨w.extractLsb' 17 7, w.extractLsb' 10 7, w.extractLsb' 3 7, w.extractLsb' 0 3⟩
def PS.toBits (op : BitVec 8) (f : PS) : Word := op ++ f.d ++ f.a ++ f.b ++ f.p
def CV.ofBits (w : Word) : CV :=
  ⟨w.extractLsb' 17 7, w.extractLsb' 10 7, w.extractLsb' 6 4, w.extractLsb' 4 2, w.extractLsb' 3 1, w.extractLsb' 0 3⟩
def CV.toBits (op : BitVec 8) (f : CV) : Word := op ++ f.d ++ f.a ++ f.tag ++ f.rm ++ f.sat ++ f.pos
def CQ.ofBits (w : Word) : CQ :=
  ⟨w.extractLsb' 17 7, w.extractLsb' 10 7, w.extractLsb' 6 4, w.extractLsb' 2 4, w.extractLsb' 1 1, w.extractLsb' 0 1⟩
def CQ.toBits (op : BitVec 8) (f : CQ) : Word := op ++ f.d ++ f.a ++ f.tag ++ f.slot ++ f.esc ++ f.rz

def M2.ofBits (w w2 : Word) : Except DecodeErr M2 :=
  .ok ⟨w.extractLsb' 17 7, w.extractLsb' 10 7, w.extractLsb' 7 3, w.extractLsb' 5 2, w.extractLsb' 3 2,
    w.extractLsb' 0 3, w2.extractLsb' 8 24, w2.extractLsb' 4 4, w2.extractLsb' 2 2, w2.extractLsb' 0 2⟩
def M2.toBits (op : BitVec 8) (f : M2) : List Word :=
  [op ++ f.d ++ f.a ++ f.width ++ f.fmode ++ f.cache ++ f.pp, f.offset ++ f.sub ++ f.order ++ f.scope]
def CopyF.ofBits (op : BitVec 8) (w w2 : Word) : Except DecodeErr CopyF :=
  if w &&& 0x7 = 0 ∧ w2 &&& 0x1FFF = 0 then
    .ok ⟨w.extractLsb' 15 9, w.extractLsb' 6 9, w.extractLsb' 3 3, w2.extractLsb' 23 9, w2.extractLsb' 22 1,
      w2.extractLsb' 13 9⟩
  else .error (.reservedField op)
def CopyF.toBits (op : BitVec 8) (f : CopyF) : List Word :=
  [op ++ f.shape ++ f.glob ++ f.ch ++ 0#3, f.barr ++ f.nb ++ f.xreg ++ 0#13]
def MemolF.ofBits (w w2 : Word) : Except DecodeErr MemolF :=
  if w &&& 0x3 = 0 ∧ w2 &&& 0x1FFFFF = 0 then
    .ok ⟨w.extractLsb' 17 7, w.extractLsb' 10 7, w.extractLsb' 7 3, w.extractLsb' 4 3, w.extractLsb' 3 1,
      w.extractLsb' 2 1, w2.extractLsb' 28 4, w2.extractLsb' 21 7⟩
  else .error (.reservedField 0xE4)
def MemolF.toBits (op : BitVec 8) (f : MemolF) : List Word :=
  [op ++ f.d ++ f.s ++ f.pd ++ f.cnt ++ f.p ++ f.v ++ 0#2, f.kind ++ f.c ++ 0#21]
def MemosF.ofBits (w w2 : Word) : Except DecodeErr MemosF :=
  if w &&& 0x1F = 0 ∧ w2 &&& 0x1FFFFF = 0 then
    .ok ⟨w.extractLsb' 17 7, w.extractLsb' 10 7, w.extractLsb' 7 3, w.extractLsb' 6 1, w.extractLsb' 5 1,
      w2.extractLsb' 28 4, w2.extractLsb' 21 7⟩
  else .error (.reservedField 0xE5)
def MemosF.toBits (op : BitVec 8) (f : MemosF) : List Word :=
  [op ++ f.a ++ f.s ++ f.cnt ++ f.p ++ f.ck ++ 0#5, f.kind ++ f.c ++ 0#21]
def EmitF.ofBits (w w2 : Word) : Except DecodeErr EmitF :=
  if w &&& 0x3F = 0 ∧ w2 &&& 0xFFFFFFC0 = 0 then
    .ok ⟨w.extractLsb' 23 1, w.extractLsb' 20 3, w.extractLsb' 13 7, w.extractLsb' 6 7, w2.extractLsb' 0 6⟩
  else .error (.reservedField 0xEC)
def EmitF.toBits (op : BitVec 8) (f : EmitF) : List Word :=
  [op ++ f.mode ++ f.tgt ++ f.t ++ f.a ++ 0#6, 0#26 ++ f.size]

/-- The opcodes whose instructions take two words (R104, R255, R366, R367, R137). -/
def twoWord (op : Nat) : Bool :=
  (0xA0 ≤ op && op ≤ 0xAE) || op == 0xB6 || (0xC0 ≤ op && op ≤ 0xC3) || op == 0xE4 || op == 0xE5 || op == 0xEC

/-- Go on with the second word, or say that it is missing. -/
def second (w2? : Option Word) (op : BitVec 8) (k : Word → Except DecodeErr Instr) : Except DecodeErr Instr :=
  match w2? with
  | some w2 => k w2
  | none => .error (.secondWordMissing op)

/-- Row 0x0_ of the opcode map (R108). -/
def decodeRow0 (w : Word) : Except DecodeErr Instr :=
  match (w.extractLsb' 24 4).toNat with
  | 0 => .ok (.iadd (A3.ofBits w))
  | 1 => .ok (.isub (A3.ofBits w))
  | 2 => .ok (.iadds (A3.ofBits w))
  | 3 => .ok (.nadds (A3.ofBits w))
  | 4 => .ok (.isubs (A3.ofBits w))
  | 5 => .ok (.nsubs (A3.ofBits w))
  | 6 => .ok (.imul (A3.ofBits w))
  | 7 => .ok (.imulh (A3.ofBits w))
  | 8 => .ok (.nmulh (A3.ofBits w))
  | 9 => .ok (.imad (A3.ofBits w))
  | 10 => .ok (.idiv (A3.ofBits w))
  | 11 => .ok (.ndiv (A3.ofBits w))
  | 12 => .ok (.irem (A3.ofBits w))
  | 13 => .ok (.nrem (A3.ofBits w))
  | 14 => .ok (.imin (A3.ofBits w))
  | _ => .ok (.imax (A3.ofBits w))

/-- Row 0x1_ of the opcode map (R108). -/
def decodeRow1 (w : Word) : Except DecodeErr Instr :=
  match (w.extractLsb' 24 4).toNat with
  | 0 => .ok (.nmin (A3.ofBits w))
  | 1 => .ok (.nmax (A3.ofBits w))
  | 2 => .ok (.iabs (A3.ofBits w))
  | 3 => .ok (.ineg (A3.ofBits w))
  | 4 => .ok (.and (A3.ofBits w))
  | 5 => .ok (.or (A3.ofBits w))
  | 6 => .ok (.xor (A3.ofBits w))
  | 7 => .ok (.andn (A3.ofBits w))
  | 8 => .ok (.not (A3.ofBits w))
  | 9 => .ok (.shl (A3.ofBits w))
  | 10 => .ok (.shr (A3.ofBits w))
  | 11 => .ok (.sar (A3.ofBits w))
  | 12 => .ok (.rol (A3.ofBits w))
  | 13 => .ok (.popc (A3.ofBits w))
  | 14 => .ok (.clz (A3.ofBits w))
  | _ => .ok (.brev (A3.ofBits w))

/-- Row 0x2_ of the opcode map (R108). -/
def decodeRow2 (w : Word) : Except DecodeErr Instr :=
  match (w.extractLsb' 24 4).toNat with
  | 0 => .ok (.bfxi (A3.ofBits w))
  | 1 => .ok (.bfxn (A3.ofBits w))
  | 2 => .ok (.bfi (A3.ofBits w))
  | 3 => .ok (.iaddi (AI.ofBits w))
  | 4 => .ok (.imuli (AI.ofBits w))
  | 5 => .ok (.andi (AI.ofBits w))
  | 6 => .ok (.ori (AI.ofBits w))
  | 7 => .ok (.xori (AI.ofBits w))
  | 8 => .ok (.shli (AI.ofBits w))
  | 9 => .ok (.shri (AI.ofBits w))
  | 10 => .ok (.sari (AI.ofBits w))
  | 11 => .ok (.movi (AW.ofBits w))
  | 12 => .ok (.movh (AW.ofBits w))
  | 13 => .ok (.icmp (P3.ofBits w))
  | 14 => .ok (.ncmp (P3.ofBits w))
  | _ => .ok (.icmpi (PI.ofBits w))

/-- Row 0x3_ of the opcode map (R108). -/
def decodeRow3 (w : Word) : Except DecodeErr Instr :=
  match (w.extractLsb' 24 4).toNat with
  | 0 => .ok (.aadd (A3.ofBits w))
  | 1 => .ok (.aaddi (AI.ofBits w))
  | 2 => .ok (.ashl (AI.ofBits w))
  | 3 => .ok (.asub (A3.ofBits w))
  | 4 => .ok (.acmp (P3.ofBits w))
  | 5 => .ok (.amov (A3.ofBits w))
  | 6 => .ok (.aexti (A3.ofBits w))
  | 7 => .ok (.aextn (A3.ofBits w))
  | _ => .ok .illegalOpcode

/-- Row 0x4_ of the opcode map (R108). -/
def decodeRow4 (w : Word) : Except DecodeErr Instr :=
  match (w.extractLsb' 24 4).toNat with
  | 0 => .ok (.fadd (A3.ofBits w))
  | 1 => .ok (.fsub (A3.ofBits w))
  | 2 => .ok (.fmul (A3.ofBits w))
  | 3 => .ok (.ffma (A3.ofBits w))
  | 4 => .ok (.ffms (A3.ofBits w))
  | 5 => .ok (.fmin (A3.ofBits w))
  | 6 => .ok (.fmax (A3.ofBits w))
  | 7 => .ok (.fdiv (A3.ofBits w))
  | 8 => .ok (.fsqrt (A3.ofBits w))
  | 9 => .ok (.frcp (A3.ofBits w))
  | 10 => .ok (.frsq (A3.ofBits w))
  | 11 => .ok (.fexp2 (A3.ofBits w))
  | 12 => .ok (.flog2 (A3.ofBits w))
  | 13 => .ok (.fsint (A3.ofBits w))
  | 14 => .ok (.fcost (A3.ofBits w))
  | _ => .ok (.ftanh (A3.ofBits w))

/-- Row 0x5_ of the opcode map (R108). -/
def decodeRow5 (w : Word) : Except DecodeErr Instr :=
  match (w.extractLsb' 24 4).toNat with
  | 0 => .ok (.fabs (A3.ofBits w))
  | 1 => .ok (.fneg (A3.ofBits w))
  | 2 => .ok (.fcmp (P3.ofBits w))
  | 3 => .ok (.fclass (A3.ofBits w))
  | 4 => .ok (.frnd (AI.ofBits w))
  | 5 => .ok (.fldex (A3.ofBits w))
  | 6 => .ok (.fsat (A3.ofBits w))
  | 7 => .ok (.famax (A3.ofBits w))
  | 8 => .ok (.hadd2 (A3.ofBits w))
  | 9 => .ok (.hmul2 (A3.ofBits w))
  | 10 => .ok (.hfma2 (A3.ofBits w))
  | 11 => .ok (.hmin2 (A3.ofBits w))
  | 12 => .ok (.hmax2 (A3.ofBits w))
  | 13 => .ok (.badd2 (A3.ofBits w))
  | 14 => .ok (.bmul2 (A3.ofBits w))
  | _ => .ok (.bfma2 (A3.ofBits w))

/-- Row 0x6_ of the opcode map (R108). -/
def decodeRow6 (w : Word) : Except DecodeErr Instr :=
  match (w.extractLsb' 24 4).toNat with
  | 0 => .ok (.cvt (CV.ofBits w))
  | 1 => .ok (.cvtq (CQ.ofBits w))
  | 2 => .ok (.deq (CQ.ofBits w))
  | 3 => .ok (.pack (CV.ofBits w))
  | 4 => .ok (.unpk (CV.ofBits w))
  | 5 => .ok (.tags (AI.ofBits w))
  | 6 => .ok (.tagr (A3.ofBits w))
  | 8 => .ok (.sset (CQ.ofBits w))
  | 9 => .ok (.srot (CQ.ofBits w))
  | 10 => .ok (.sget (CQ.ofBits w))
  | 11 => .ok (.smax (CQ.ofBits w))
  | _ => .ok .illegalOpcode

/-- Row 0x7_ of the opcode map (R108). -/
def decodeRow7 (w : Word) : Except DecodeErr Instr :=
  match (w.extractLsb' 24 4).toNat with
  | 0 => .ok (.welf (A3.ofBits w))
  | 1 => .ok (.wmrg (A3.ofBits w))
  | 2 => .ok (.wfin (A3.ofBits w))
  | _ => .ok .illegalOpcode

/-- Row 0x8_ of the opcode map (R108). -/
def decodeRow8 (w : Word) : Except DecodeErr Instr :=
  match (w.extractLsb' 24 4).toNat with
  | 0 => .ok (.vote (P3.ofBits w))
  | 1 => .ok (.ballot (A3.ofBits w))
  | 2 => .ok (.shfl (A3.ofBits w))
  | 3 => .ok (.shflu (AI.ofBits w))
  | 4 => .ok (.shfld (AI.ofBits w))
  | 5 => .ok (.shflx (AI.ofBits w))
  | 6 => .ok (.red (AI.ofBits w))
  | 7 => .ok (.scan (AI.ofBits w))
  | 8 => .ok (.matchLanes (A3.ofBits w))
  | 9 => .ok (.wred (A3.ofBits w))
  | 11 => .ok (.bcast (AI.ofBits w))
  | _ => .ok .illegalOpcode

/-- Row 0x9_ of the opcode map (R108). -/
def decodeRow9 (w : Word) : Except DecodeErr Instr :=
  match (w.extractLsb' 24 4).toNat with
  | 0 => .ok (.sel (PS.ofBits w))
  | 1 => .ok (.plog (P3.ofBits w))
  | 2 => .ok (.pget (A3.ofBits w))
  | 3 => .ok (.pput (A3.ofBits w))
  | 4 => .ok (.mov (A3.ofBits w))
  | 6 => .ok (.rdln (A3.ofBits w))
  | _ => .ok .illegalOpcode

/-- Row 0xA_ of the opcode map (R108). -/
def decodeRowA (w : Word) (w2? : Option Word) : Except DecodeErr Instr :=
  match (w.extractLsb' 24 4).toNat with
  | 0 => second w2? 0xA0 fun w2 => (M2.ofBits w w2).map .ldg
  | 1 => second w2? 0xA1 fun w2 => (M2.ofBits w w2).map .stg
  | 2 => second w2? 0xA2 fun w2 => (M2.ofBits w w2).map .lds
  | 3 => second w2? 0xA3 fun w2 => (M2.ofBits w w2).map .sts
  | 4 => second w2? 0xA4 fun w2 => (M2.ofBits w w2).map .ldc
  | 5 => second w2? 0xA5 fun w2 => (M2.ofBits w w2).map .stc
  | 6 => second w2? 0xA6 fun w2 => (M2.ofBits w w2).map .stcm
  | 7 => second w2? 0xA7 fun w2 => (M2.ofBits w w2).map .ldb
  | 8 => second w2? 0xA8 fun w2 => (M2.ofBits w w2).map .stb
  | 9 => second w2? 0xA9 fun w2 => (M2.ofBits w w2).map .atomg
  | 10 => second w2? 0xAA fun w2 => (M2.ofBits w w2).map .atoms
  | 11 => second w2? 0xAB fun w2 => (M2.ofBits w w2).map .casg
  | 12 => second w2? 0xAC fun w2 => (M2.ofBits w w2).map .cass
  | 13 => second w2? 0xAD fun w2 => (M2.ofBits w w2).map .ldk
  | 14 => second w2? 0xAE fun w2 => (M2.ofBits w w2).map .preq
  | _ => if w &&& 0xFFFFFF = 0x000000 then .ok (.drains) else .error (.reservedField 0xAF)

/-- Row 0xB_ of the opcode map (R108). -/
def decodeRowB (w : Word) (w2? : Option Word) : Except DecodeErr Instr :=
  match (w.extractLsb' 24 4).toNat with
  | 0 => if w &&& 0x000007 = 0x000000 then .ok (.ldl (w.extractLsb' 17 7) (w.extractLsb' 10 7) (w.extractLsb' 3 7)) else .error (.reservedField 0xB0)
  | 1 => if w &&& 0x000004 = 0x000000 then .ok (.smpl (w.extractLsb' 17 7) (w.extractLsb' 10 7) (w.extractLsb' 3 7) (w.extractLsb' 0 2)) else .error (.reservedField 0xB1)
  | 2 => if w &&& 0x000007 = 0x000000 then .ok (.gath4 (w.extractLsb' 17 7) (w.extractLsb' 10 7) (w.extractLsb' 3 7)) else .error (.reservedField 0xB2)
  | 3 => if w &&& 0x000007 = 0x000000 then .ok (.resq (w.extractLsb' 17 7) (w.extractLsb' 10 7) (w.extractLsb' 3 7)) else .error (.reservedField 0xB3)
  | 4 => if w &&& 0xFE0007 = 0x000000 then .ok (.fbck (w.extractLsb' 10 7) (w.extractLsb' 3 7)) else .error (.reservedField 0xB4)
  | 5 => if w &&& 0x0FFFFF = 0x000000 then .ok (.fence (w.extractLsb' 22 2) (w.extractLsb' 20 2)) else .error (.reservedField 0xB5)
  | 6 => second w2? 0xB6 fun w2 => (M2.ofBits w w2).map .pfch
  | _ => .ok .illegalOpcode

/-- Row 0xC_ of the opcode map (R108). -/
def decodeRowC (w : Word) (w2? : Option Word) : Except DecodeErr Instr :=
  match (w.extractLsb' 24 4).toNat with
  | 0 => second w2? 0xC0 fun w2 => (CopyF.ofBits 0xC0 w w2).map .cpt
  | 1 => second w2? 0xC1 fun w2 => (CopyF.ofBits 0xC1 w w2).map .cpto
  | 2 => second w2? 0xC2 fun w2 => (CopyF.ofBits 0xC2 w w2).map .cpx
  | 3 => second w2? 0xC3 fun w2 => (CopyF.ofBits 0xC3 w w2).map .cpm
  | 4 => if w &&& 0x0000FF = 0x000000 then .ok (.cpa (w.extractLsb' 17 7) (w.extractLsb' 10 7) (w.extractLsb' 8 2)) else .error (.reservedField 0xC4)
  | 5 => if w &&& 0x01FFFF = 0x000000 then .ok (.cseal (w.extractLsb' 17 7)) else .error (.reservedField 0xC5)
  | 6 => if w &&& 0xFFFFF0 = 0x000000 then .ok (.cwait (w.extractLsb' 0 4)) else .error (.reservedField 0xC6)
  | 7 => if w &&& 0xFE0003 = 0x000000 then .ok (.tbinit (w.extractLsb' 10 7) (w.extractLsb' 3 7) (w.extractLsb' 2 1)) else .error (.reservedField 0xC7)
  | 8 => if w &&& 0x0003F9 = 0x000000 then .ok (.tbarr (w.extractLsb' 17 7) (w.extractLsb' 10 7) (w.extractLsb' 2 1) (w.extractLsb' 1 1)) else .error (.reservedField 0xC8)
  | 9 => if w &&& 0xFE0000 = 0x000000 then .ok (.tbexp (w.extractLsb' 10 7) (w.extractLsb' 3 7) (w.extractLsb' 2 1) (w.extractLsb' 1 1) (w.extractLsb' 0 1)) else .error (.reservedField 0xC9)
  | 10 => if w &&& 0xFE0003 = 0x000000 then .ok (.tbwait (w.extractLsb' 10 7) (w.extractLsb' 3 7) (w.extractLsb' 2 1)) else .error (.reservedField 0xCA)
  | 11 => if w &&& 0x003FFF = 0x000000 then .ok (.wptr (w.extractLsb' 17 7) (w.extractLsb' 14 3)) else .error (.reservedField 0xCB)
  | 12 => if w &&& 0x00001F = 0x000000 then .ok (.strm (w.extractLsb' 21 3) (w.extractLsb' 12 9) (w.extractLsb' 7 5) (w.extractLsb' 5 2)) else .error (.reservedField 0xCC)
  | 13 => if w &&& 0x0007FF = 0x000000 then .ok (.popq (w.extractLsb' 17 7) (w.extractLsb' 14 3) (w.extractLsb' 11 3)) else .error (.reservedField 0xCD)
  | 14 => if w &&& 0x1FFFFF = 0x000000 then .ok (.sclos (w.extractLsb' 21 3)) else .error (.reservedField 0xCE)
  | _ => .ok .illegalOpcode

/-- Row 0xD_ of the opcode map (R108). -/
def decodeRowD (w : Word) : Except DecodeErr Instr :=
  match (w.extractLsb' 24 4).toNat with
  | 0 => .ok (.mload (w.extractLsb' 20 4) (w.extractLsb' 19 1) (w.extractLsb' 10 9) (w.extractLsb' 1 9) (w.extractLsb' 0 1))
  | 1 => if w &&& 0x000003 = 0x000000 then .ok (.mma (w.extractLsb' 19 5) (w.extractLsb' 15 4) (w.extractLsb' 13 2) (w.extractLsb' 10 3) (w.extractLsb' 3 7) (w.extractLsb' 2 1)) else .error (.reservedField 0xD1)
  | 2 => if w &&& 0x000003 = 0x000000 then .ok (.mmar (w.extractLsb' 19 5) (w.extractLsb' 15 4) (w.extractLsb' 13 2) (w.extractLsb' 10 3) (w.extractLsb' 3 7) (w.extractLsb' 2 1)) else .error (.reservedField 0xD2)
  | 3 => if w &&& 0x0003FF = 0x000000 then .ok (.mdrain (w.extractLsb' 17 7) (w.extractLsb' 12 5) (w.extractLsb' 10 2)) else .error (.reservedField 0xD3)
  | 4 => if w &&& 0x01FFFF = 0x000000 then .ok (.mzero (w.extractLsb' 19 5) (w.extractLsb' 18 1) (w.extractLsb' 17 1)) else .error (.reservedField 0xD4)
  | 5 => if w &&& 0x0001FF = 0x000000 then .ok (.mfill (w.extractLsb' 17 7) (w.extractLsb' 12 5) (w.extractLsb' 10 2) (w.extractLsb' 9 1)) else .error (.reservedField 0xD5)
  | 6 => if w &&& 0x00FFFF = 0x000000 then .ok (.mside (w.extractLsb' 17 7) (w.extractLsb' 16 1)) else .error (.reservedField 0xD6)
  | 7 => if w &&& 0x0007FF = 0x000000 then .ok (.mzp (w.extractLsb' 19 5) (w.extractLsb' 12 7) (w.extractLsb' 11 1)) else .error (.reservedField 0xD7)
  | 8 => if w &&& 0x0003FF = 0x000000 then .ok (.mscl (w.extractLsb' 23 1) (w.extractLsb' 18 5) (w.extractLsb' 11 7) (w.extractLsb' 10 1)) else .error (.reservedField 0xD8)
  | _ => .ok .illegalOpcode

/-- Row 0xE_ of the opcode map (R108). -/
def decodeRowE (w : Word) (w2? : Option Word) : Except DecodeErr Instr :=
  match (w.extractLsb' 24 4).toNat with
  | 0 => if w &&& 0x03FFFF = 0x000000 then .ok (.sigb (w.extractLsb' 20 4) (w.extractLsb' 18 2)) else .error (.reservedField 0xE0)
  | 1 => if w &&& 0x0000FF = 0x000000 then .ok (.siga (w.extractLsb' 17 7) (w.extractLsb' 13 4) (w.extractLsb' 10 3) (w.extractLsb' 9 1) (w.extractLsb' 8 1)) else .error (.reservedField 0xE1)
  | 2 => if w &&& 0x001EFF = 0x000000 then .ok (.sigx (w.extractLsb' 17 7) (w.extractLsb' 13 4) (w.extractLsb' 8 1)) else .error (.reservedField 0xE2)
  | 3 => if w &&& 0x01FFFF = 0x000000 then .ok (.sige (w.extractLsb' 17 7)) else .error (.reservedField 0xE3)
  | 4 => second w2? 0xE4 fun w2 => (MemolF.ofBits w w2).map .memol
  | 5 => second w2? 0xE5 fun w2 => (MemosF.ofBits w w2).map .memos
  | 6 => if w &&& 0xFFFFFF = 0x000000 then .ok (.pend) else .error (.reservedField 0xE6)
  | 7 => if w &&& 0x07FFFF = 0x000000 then .ok (.memoi (w.extractLsb' 23 1) (w.extractLsb' 19 4)) else .error (.reservedField 0xE7)
  | 8 => if w &&& 0x000001 = 0x000000 then .ok (.rqi (w.extractLsb' 17 7) (w.extractLsb' 10 7) (w.extractLsb' 3 7) (w.extractLsb' 2 1) (w.extractLsb' 1 1)) else .error (.reservedField 0xE8)
  | 9 => if w &&& 0xFE03FF = 0x000000 then .ok (.rqp (w.extractLsb' 10 7)) else .error (.reservedField 0xE9)
  | 10 => if w &&& 0x7E03FF = 0x000000 then .ok (.rqc (w.extractLsb' 23 1) (w.extractLsb' 10 7)) else .error (.reservedField 0xEA)
  | 11 => if w &&& 0x0000FF = 0x000000 then .ok (.rqg (w.extractLsb' 17 7) (w.extractLsb' 10 7) (w.extractLsb' 8 2)) else .error (.reservedField 0xEB)
  | 12 => second w2? 0xEC fun w2 => (EmitF.ofBits w w2).map .emit
  | _ => .ok .illegalOpcode

/-- Row 0xF_ of the opcode map (R108). -/
def decodeRowF (w : Word) : Except DecodeErr Instr :=
  match (w.extractLsb' 24 4).toNat with
  | 0 => .ok (.br (w.extractLsb' 21 3) (w.extractLsb' 20 1) (w.extractLsb' 0 20))
  | 1 => if w &&& 0x001FFF = 0x000000 then .ok (.jmp (w.extractLsb' 21 3) (w.extractLsb' 20 1) (w.extractLsb' 13 7)) else .error (.reservedField 0xF1)
  | 2 => .ok (.call (w.extractLsb' 21 3) (w.extractLsb' 20 1) (w.extractLsb' 0 20))
  | 3 => if w &&& 0x001FFF = 0x000000 then .ok (.callr (w.extractLsb' 21 3) (w.extractLsb' 20 1) (w.extractLsb' 13 7)) else .error (.reservedField 0xF3)
  | 4 => if w &&& 0x0FFFFF = 0x000000 then .ok (.ret (w.extractLsb' 21 3) (w.extractLsb' 20 1)) else .error (.reservedField 0xF4)
  | 5 => .ok (.meet (w.extractLsb' 17 7) (w.extractLsb' 0 17))
  | 6 => if w &&& 0xFE03FF = 0x000000 then .ok (.meetr (w.extractLsb' 10 7)) else .error (.reservedField 0xF6)
  | 7 => if w &&& 0x7FFFFF = 0x000000 then .ok (.bar (w.extractLsb' 23 1)) else .error (.reservedField 0xF7)
  | 8 => if w &&& 0x03FFFF = 0x000000 then .ok (.exit (w.extractLsb' 21 3) (w.extractLsb' 20 1) (w.extractLsb' 18 2)) else .error (.reservedField 0xF8)
  | 9 => if w &&& 0x001FFF = 0x000000 then .ok (.rep (w.extractLsb' 18 6) (w.extractLsb' 15 3) (w.extractLsb' 13 2)) else .error (.reservedField 0xF9)
  | 10 => if w &&& 0x007C00 = 0x000000 then .ok (.lease (w.extractLsb' 22 2) (w.extractLsb' 15 7) (w.extractLsb' 0 10)) else .error (.reservedField 0xFA)
  | 11 => if w &&& 0x80FFFF = 0x000000 then .ok (.waitt (w.extractLsb' 16 7)) else if w &&& 0x800000 = 0x800000 then .ok (.waittD (w.extractLsb' 0 23)) else .error (.reservedField 0xFB)
  | 12 => if w &&& 0x070000 = 0x000000 then .ok (.trap (w.extractLsb' 21 3) (w.extractLsb' 20 1) (w.extractLsb' 19 1) (w.extractLsb' 0 16)) else .error (.reservedField 0xFC)
  | 13 => if w &&& 0x3FFFFF = 0x000000 then .ok (.rtt (w.extractLsb' 22 2)) else .error (.reservedField 0xFD)
  | 14 => if w &&& 0x0000FF = 0x000000 then .ok (.sprw (w.extractLsb' 23 1) (w.extractLsb' 16 7) (w.extractLsb' 8 8)) else .error (.reservedField 0xFE)
  | _ => if w &&& 0x001FFF = 0x000000 then .ok (.tctl (w.extractLsb' 22 2) (w.extractLsb' 13 9)) else .error (.reservedField 0xFF)

/-- Decode one word, with the word that follows it in the clause where there is one (R104 to R109). -/
def decodeWord (w : Word) (w2? : Option Word) : Except DecodeErr Instr :=
  match (w.extractLsb' 28 4).toNat with
  | 0 => decodeRow0 w
  | 1 => decodeRow1 w
  | 2 => decodeRow2 w
  | 3 => decodeRow3 w
  | 4 => decodeRow4 w
  | 5 => decodeRow5 w
  | 6 => decodeRow6 w
  | 7 => decodeRow7 w
  | 8 => decodeRow8 w
  | 9 => decodeRow9 w
  | 10 => decodeRowA w w2?
  | 11 => decodeRowB w w2?
  | 12 => decodeRowC w w2?
  | 13 => decodeRowD w
  | 14 => decodeRowE w w2?
  | 15 => decodeRowF w
  | _ => .ok .illegalOpcode

/-- The words of an instruction; a command has the words of `encodeCommand`, and a step of the device has none. -/
def encode : Instr → Option (List Word)
  | .iadd f => some [f.toBits 0x00]
  | .isub f => some [f.toBits 0x01]
  | .iadds f => some [f.toBits 0x02]
  | .nadds f => some [f.toBits 0x03]
  | .isubs f => some [f.toBits 0x04]
  | .nsubs f => some [f.toBits 0x05]
  | .imul f => some [f.toBits 0x06]
  | .imulh f => some [f.toBits 0x07]
  | .nmulh f => some [f.toBits 0x08]
  | .imad f => some [f.toBits 0x09]
  | .idiv f => some [f.toBits 0x0A]
  | .ndiv f => some [f.toBits 0x0B]
  | .irem f => some [f.toBits 0x0C]
  | .nrem f => some [f.toBits 0x0D]
  | .imin f => some [f.toBits 0x0E]
  | .imax f => some [f.toBits 0x0F]
  | .nmin f => some [f.toBits 0x10]
  | .nmax f => some [f.toBits 0x11]
  | .iabs f => some [f.toBits 0x12]
  | .ineg f => some [f.toBits 0x13]
  | .and f => some [f.toBits 0x14]
  | .or f => some [f.toBits 0x15]
  | .xor f => some [f.toBits 0x16]
  | .andn f => some [f.toBits 0x17]
  | .not f => some [f.toBits 0x18]
  | .shl f => some [f.toBits 0x19]
  | .shr f => some [f.toBits 0x1A]
  | .sar f => some [f.toBits 0x1B]
  | .rol f => some [f.toBits 0x1C]
  | .popc f => some [f.toBits 0x1D]
  | .clz f => some [f.toBits 0x1E]
  | .brev f => some [f.toBits 0x1F]
  | .bfxi f => some [f.toBits 0x20]
  | .bfxn f => some [f.toBits 0x21]
  | .bfi f => some [f.toBits 0x22]
  | .iaddi f => some [f.toBits 0x23]
  | .imuli f => some [f.toBits 0x24]
  | .andi f => some [f.toBits 0x25]
  | .ori f => some [f.toBits 0x26]
  | .xori f => some [f.toBits 0x27]
  | .shli f => some [f.toBits 0x28]
  | .shri f => some [f.toBits 0x29]
  | .sari f => some [f.toBits 0x2A]
  | .movi f => some [f.toBits 0x2B]
  | .movh f => some [f.toBits 0x2C]
  | .icmp f => some [f.toBits 0x2D]
  | .ncmp f => some [f.toBits 0x2E]
  | .icmpi f => some [f.toBits 0x2F]
  | .aadd f => some [f.toBits 0x30]
  | .aaddi f => some [f.toBits 0x31]
  | .ashl f => some [f.toBits 0x32]
  | .asub f => some [f.toBits 0x33]
  | .acmp f => some [f.toBits 0x34]
  | .amov f => some [f.toBits 0x35]
  | .aexti f => some [f.toBits 0x36]
  | .aextn f => some [f.toBits 0x37]
  | .fadd f => some [f.toBits 0x40]
  | .fsub f => some [f.toBits 0x41]
  | .fmul f => some [f.toBits 0x42]
  | .ffma f => some [f.toBits 0x43]
  | .ffms f => some [f.toBits 0x44]
  | .fmin f => some [f.toBits 0x45]
  | .fmax f => some [f.toBits 0x46]
  | .fdiv f => some [f.toBits 0x47]
  | .fsqrt f => some [f.toBits 0x48]
  | .frcp f => some [f.toBits 0x49]
  | .frsq f => some [f.toBits 0x4A]
  | .fexp2 f => some [f.toBits 0x4B]
  | .flog2 f => some [f.toBits 0x4C]
  | .fsint f => some [f.toBits 0x4D]
  | .fcost f => some [f.toBits 0x4E]
  | .ftanh f => some [f.toBits 0x4F]
  | .fabs f => some [f.toBits 0x50]
  | .fneg f => some [f.toBits 0x51]
  | .fcmp f => some [f.toBits 0x52]
  | .fclass f => some [f.toBits 0x53]
  | .frnd f => some [f.toBits 0x54]
  | .fldex f => some [f.toBits 0x55]
  | .fsat f => some [f.toBits 0x56]
  | .famax f => some [f.toBits 0x57]
  | .hadd2 f => some [f.toBits 0x58]
  | .hmul2 f => some [f.toBits 0x59]
  | .hfma2 f => some [f.toBits 0x5A]
  | .hmin2 f => some [f.toBits 0x5B]
  | .hmax2 f => some [f.toBits 0x5C]
  | .badd2 f => some [f.toBits 0x5D]
  | .bmul2 f => some [f.toBits 0x5E]
  | .bfma2 f => some [f.toBits 0x5F]
  | .cvt f => some [f.toBits 0x60]
  | .cvtq f => some [f.toBits 0x61]
  | .deq f => some [f.toBits 0x62]
  | .pack f => some [f.toBits 0x63]
  | .unpk f => some [f.toBits 0x64]
  | .tags f => some [f.toBits 0x65]
  | .tagr f => some [f.toBits 0x66]
  | .sset f => some [f.toBits 0x68]
  | .srot f => some [f.toBits 0x69]
  | .sget f => some [f.toBits 0x6A]
  | .smax f => some [f.toBits 0x6B]
  | .welf f => some [f.toBits 0x70]
  | .wmrg f => some [f.toBits 0x71]
  | .wfin f => some [f.toBits 0x72]
  | .vote f => some [f.toBits 0x80]
  | .ballot f => some [f.toBits 0x81]
  | .shfl f => some [f.toBits 0x82]
  | .shflu f => some [f.toBits 0x83]
  | .shfld f => some [f.toBits 0x84]
  | .shflx f => some [f.toBits 0x85]
  | .red f => some [f.toBits 0x86]
  | .scan f => some [f.toBits 0x87]
  | .matchLanes f => some [f.toBits 0x88]
  | .wred f => some [f.toBits 0x89]
  | .bcast f => some [f.toBits 0x8B]
  | .sel f => some [f.toBits 0x90]
  | .plog f => some [f.toBits 0x91]
  | .pget f => some [f.toBits 0x92]
  | .pput f => some [f.toBits 0x93]
  | .mov f => some [f.toBits 0x94]
  | .rdln f => some [f.toBits 0x96]
  | .ldg f => some (f.toBits 0xA0)
  | .stg f => some (f.toBits 0xA1)
  | .lds f => some (f.toBits 0xA2)
  | .sts f => some (f.toBits 0xA3)
  | .ldc f => some (f.toBits 0xA4)
  | .stc f => some (f.toBits 0xA5)
  | .stcm f => some (f.toBits 0xA6)
  | .ldb f => some (f.toBits 0xA7)
  | .stb f => some (f.toBits 0xA8)
  | .atomg f => some (f.toBits 0xA9)
  | .atoms f => some (f.toBits 0xAA)
  | .casg f => some (f.toBits 0xAB)
  | .cass f => some (f.toBits 0xAC)
  | .ldk f => some (f.toBits 0xAD)
  | .preq f => some (f.toBits 0xAE)
  | .drains => some [0xAF#8 ++ 0#24]
  | .ldl d a c => some [0xB0#8 ++ d ++ a ++ c ++ 0#3]
  | .smpl d a c filt => some [0xB1#8 ++ d ++ a ++ c ++ 0#1 ++ filt]
  | .gath4 d a c => some [0xB2#8 ++ d ++ a ++ c ++ 0#3]
  | .resq d a c => some [0xB3#8 ++ d ++ a ++ c ++ 0#3]
  | .fbck a c => some [0xB4#8 ++ 0#7 ++ a ++ c ++ 0#3]
  | .fence kind scope => some [0xB5#8 ++ kind ++ scope ++ 0#20]
  | .pfch f => some (f.toBits 0xB6)
  | .cpt f => some (f.toBits 0xC0)
  | .cpto f => some (f.toBits 0xC1)
  | .cpx f => some (f.toBits 0xC2)
  | .cpm f => some (f.toBits 0xC3)
  | .cpa d a sz => some [0xC4#8 ++ d ++ a ++ sz ++ 0#8]
  | .cseal d => some [0xC5#8 ++ d ++ 0#17]
  | .cwait n => some [0xC6#8 ++ 0#20 ++ n]
  | .tbinit a b coh => some [0xC7#8 ++ 0#7 ++ a ++ b ++ coh ++ 0#2]
  | .tbarr d a coh warpWide => some [0xC8#8 ++ d ++ a ++ 0#7 ++ coh ++ warpWide ++ 0#1]
  | .tbexp a b coh warpWide arr => some [0xC9#8 ++ 0#7 ++ a ++ b ++ coh ++ warpWide ++ arr]
  | .tbwait a b coh => some [0xCA#8 ++ 0#7 ++ a ++ b ++ coh ++ 0#2]
  | .wptr d ch => some [0xCB#8 ++ d ++ ch ++ 0#14]
  | .strm q par roww lvl => some [0xCC#8 ++ q ++ par ++ roww ++ lvl ++ 0#5]
  | .popq d q pd => some [0xCD#8 ++ d ++ q ++ pd ++ 0#11]
  | .sclos q => some [0xCE#8 ++ q ++ 0#21]
  | .mload plane mir shape side sl => some [0xD0#8 ++ plane ++ mir ++ shape ++ side ++ sl]
  | .mma tile plane src afmt a sa => some [0xD1#8 ++ tile ++ plane ++ src ++ afmt ++ a ++ sa ++ 0#2]
  | .mmar tile plane src afmt a sa => some [0xD2#8 ++ tile ++ plane ++ src ++ afmt ++ a ++ sa ++ 0#2]
  | .mdrain d tile group => some [0xD3#8 ++ d ++ tile ++ group ++ 0#10]
  | .mzero tile atag mir => some [0xD4#8 ++ tile ++ atag ++ mir ++ 0#17]
  | .mfill a tile group mir => some [0xD5#8 ++ a ++ tile ++ group ++ mir ++ 0#9]
  | .mside a clr => some [0xD6#8 ++ a ++ clr ++ 0#16]
  | .mzp tile a range => some [0xD7#8 ++ tile ++ a ++ range ++ 0#11]
  | .mscl mode unit a mir => some [0xD8#8 ++ mode ++ unit ++ a ++ mir ++ 0#10]
  | .sigb kind tol => some [0xE0#8 ++ kind ++ tol ++ 0#18]
  | .siga a cnt tolsel fl pr => some [0xE1#8 ++ a ++ cnt ++ tolsel ++ fl ++ pr ++ 0#8]
  | .sigx a cnt pr => some [0xE2#8 ++ a ++ cnt ++ 0#4 ++ pr ++ 0#8]
  | .sige d => some [0xE3#8 ++ d ++ 0#17]
  | .memol f => some (f.toBits 0xE4)
  | .memos f => some (f.toBits 0xE5)
  | .pend => some [0xE6#8 ++ 0#24]
  | .memoi form kind => some [0xE7#8 ++ form ++ kind ++ 0#19]
  | .rqi d a r np first => some [0xE8#8 ++ d ++ a ++ r ++ np ++ first ++ 0#1]
  | .rqp a => some [0xE9#8 ++ 0#7 ++ a ++ 0#10]
  | .rqc mode a => some [0xEA#8 ++ mode ++ 0#6 ++ a ++ 0#10]
  | .rqg d a sel => some [0xEB#8 ++ d ++ a ++ sel ++ 0#8]
  | .emit f => some (f.toBits 0xEC)
  | .br p neg off => some [0xF0#8 ++ p ++ neg ++ off]
  | .jmp p neg a => some [0xF1#8 ++ p ++ neg ++ a ++ 0#13]
  | .call p neg off => some [0xF2#8 ++ p ++ neg ++ off]
  | .callr p neg a => some [0xF3#8 ++ p ++ neg ++ a ++ 0#13]
  | .ret p neg => some [0xF4#8 ++ p ++ neg ++ 0#20]
  | .meet d off => some [0xF5#8 ++ d ++ off]
  | .meetr a => some [0xF6#8 ++ 0#7 ++ a ++ 0#10]
  | .bar mode => some [0xF7#8 ++ mode ++ 0#23]
  | .exit p neg mode => some [0xF8#8 ++ p ++ neg ++ mode ++ 0#18]
  | .rep count mask stride => some [0xF9#8 ++ count ++ mask ++ stride ++ 0#13]
  | .lease form a lines => some [0xFA#8 ++ form ++ a ++ 0#5 ++ lines]
  | .waitt a => some [0xFB#8 ++ 0#1 ++ a ++ 0#16]
  | .waittD delay => some [0xFB#8 ++ 1#1 ++ delay]
  | .trap p neg brk code => some [0xFC#8 ++ p ++ neg ++ brk ++ 0#3 ++ code]
  | .rtt form => some [0xFD#8 ++ form ++ 0#22]
  | .sprw wr reg id => some [0xFE#8 ++ wr ++ reg ++ id ++ 0#8]
  | .tctl form a => some [0xFF#8 ++ form ++ a ++ 0#13]
  | .launchGraph .. => none
  | .launchNode .. => none
  | .signal .. => none
  | .wait .. => none
  | .timestamp .. => none
  | .setDomain .. => none
  | .partition .. => none
  | .doorbellWrite => none
  | .haltClear => none
  | .registerWrite => none
  | .commandClaim => none
  | .waitRecheck => none
  | .teamTicketClaim => none
  | .teamPass => none
  | .dependenceRecheck => none
  | .cohortReserveRetry => none
  | .cohortMakeRoom => none
  | .rampWindow => none
  | .sliceEnd => none
  | .activationStep => none
  | .leaseWindowEnd => none
  | .boostExpiry => none
  | .wakeWatchTimeout => none
  | .regroupPeriod => none
  | .meetingTimeout => none
  | .collectiveMismatchTimeout => none
  | .barMixedTimeout => none
  | .waittDeadline => none
  | .loadWriteback => none
  | .refillLand => none
  | .fillReturn => none
  | .mshrReplay => none
  | .storePerformedAtHome => none
  | .storeTranslated => none
  | .storeFaultDelivery => none
  | .storeFaultPop => none
  | .faultRewalk => none
  | .waiterRetranslate => none
  | .pageRequestPop => none
  | .filterExpiry => none
  | .granuleLand => none
  | .tbPhaseChange => none
  | .cpaEntryLand => none
  | .streamRowArrive => none
  | .releaseComplete => none
  | .matrixOpExecute => none
  | .gatherTimeout => none
  | .teamDrainDone => none
  | .launchAbort => none
  | .shadowMismatch => none
  | .tretWrite => none
  | .tileStart => none
  | .diceTile => none
  | .gridSample => none
  | .tileComplete => none
  | .tileResolve => none
  | .rayTraverseEvent => none
  | .oasisInvalidateAll => none
  | .oasisInvalidateDomain => none
  | .healthLogPop => none
  | .correctableError => none
  | .linkLaneDrop => none
  | .droopAlarm => none
  | .droopStretchEnd => none
  | .droopHalfEnd => none
  | .convWrite => none
  | .ratioChangeDone => none
  | .fstepWrite => none
  | .pgateOff => none
  | .pgateCan => none
  | .pgateWake => none
  | .hostWake => none
  | .inrushGrant => none
  | .clusterWakeDone => none
  | .governorEpoch => none
  | .toffWrite => none
  | .tsyncWrite => none
  | .ptpExchange => none
  | .ptpTimeout => none
  | .coldRestart => none
  | .warmRestart => none
  | .powerOn => none
  | .softError => none
  | .hostWindowWrite => none
  | .peerAccess => none
  | .peerLockLossNotice => none
  | .pipeClockGating => none
  | .illegalOpcode => none

/-- Decode a run of bytes, each word little-endian, and return what follows the instruction. -/
def decodeBytes : List Byte → Except DecodeErr (Instr × List Byte)
  | b0 :: b1 :: b2 :: b3 :: rest =>
    let w : Word := b3 ++ b2 ++ b1 ++ b0
    if twoWord (w.extractLsb' 24 8).toNat then
      match rest with
      | c0 :: c1 :: c2 :: c3 :: rest' => (decodeWord w (some (c3 ++ c2 ++ c1 ++ c0))).map (·, rest')
      | _ => .error (.secondWordMissing (w.extractLsb' 24 8))
    else (decodeWord w none).map (·, rest)
  | _ => .error .truncated

/-- The bytes of a word, lowest address first. -/
def wordBytes (w : Word) : List Byte :=
  [w.extractLsb' 0 8, w.extractLsb' 8 8, w.extractLsb' 16 8, w.extractLsb' 24 8]

/-- The instruction that the decoder reads from the words whose bits are `w`, the bits above `nbits` being zero. -/
def decodeTableWord (nbits w : Nat) : Option Instr :=
  if nbits = 0 then none else
  let x := w % 2 ^ nbits
  match decodeBytes (wordBytes (BitVec.ofNat 32 x) ++ wordBytes (BitVec.ofNat 32 (x / 2 ^ 32))) with
  | .ok (i, _) => some i
  | .error _ => none

/-! ### Commands -/

/-- Bits 63:57 equal bit 56 (R6). -/
def canonicalAddr (va : Addr) : Bool :=
  let top := va.toNat / 2 ^ 56
  top == 0 || top == 2 ^ 8 - 1

/-- The address lies on a multiple of `n` and is canonical. -/
def vaAligned (va : Addr) (n : Nat) : Bool := canonicalAddr va && va.toNat % n == 0

/-- The errors of R39 for the address fields and the counts of a command, in the table's order. -/
def commandErr (priv : Bool) : Instr → Option (BitVec 8)
  | .launchGraph _ roots count recVA work bytes =>
    if !(vaAligned roots 8 && vaAligned recVA 64 && canonicalAddr work) then some 0x12
    else if !(1 ≤ count.toNat && count.toNat ≤ 64) || bytes.toNat < 65536 || work.toNat % 4096 != 0 then some 0x13
    else none
  | .launchNode _ node recVA work bytes =>
    if !(vaAligned node 256 && vaAligned recVA 64 && canonicalAddr work) then some 0x12
    else if bytes.toNat < 65536 || work.toNat % 4096 != 0 then some 0x13
    else none
  | .signal _ va _ | .wait _ va _ | .timestamp _ va => if vaAligned va 8 then none else some 0x12
  | .setDomain _ _ _ _ => if priv then none else some 0x11
  | .partition _ _ _ _ slice root pool _ =>
    if !priv then some 0x11
    else if !(root.toNat < 2 ^ 52 && root.toNat % 256 == 0 && vaAligned pool 65536) then some 0x12
    else if !(1 ≤ slice.toNat && slice.toNat ≤ 100) then some 0x13
    else none
  | _ => some 0x10

/-- The fields of a 64-byte command given as eight words, or `none` when OP is not in the table or a reserved bit is
nonzero (R38). -/
def commandOf (q : BitVec 6) (ws : List (BitVec 64)) : Option Instr :=
  match ws with
  | [w0, w1, w2, w3, w4, w5, w6, w7] =>
    let h : CmdHead := ⟨q, w0.getLsbD 10, w0.getLsbD 9, w0.getLsbD 8⟩
    let op := (w0.extractLsb' 0 8).toNat
    let z67 := w6 == 0 && w7 == 0
    let z3 := w3 == 0 && w4 == 0 && w5 == 0 && z67
    if w0.toNat / 2 ^ 11 != 0 || (h.after && op != 5) then none
    else if op == 1 && z67 then some (.launchGraph h w1 w2 w3 w4 w5)
    else if op == 2 && z67 && w2 == 0 then some (.launchNode h w1 w3 w4 w5)
    else if op == 3 && z3 then some (.signal h w1 w2)
    else if op == 4 && z3 then some (.wait h w1 w2)
    else if op == 5 && z3 && w2 == 0 then some (.timestamp h w1)
    else if op == 6 && w4 == 0 && w5 == 0 && z67 && w1.toNat < 2 ^ 13 then
      some (.setDomain h (w1.extractLsb' 0 12) (w1.getLsbD 12) (w3 ++ w2))
    else if op == 7 && w5 == 0 && z67 && w1.toNat < 2 ^ 24 then
      some (.partition h (w1.extractLsb' 0 8) (w1.extractLsb' 8 8) (w1.getLsbD 16) (w1.extractLsb' 17 7) w2 w3 w4)
    else none
  | _ => none

/-- A command read from queue `q`, or the ERR code that halts the queue (R39). -/
def decodeCommand (q : BitVec 6) (priv : Bool) (ws : List (BitVec 64)) : Except (BitVec 8) Instr :=
  match commandOf q ws with
  | none => .error 0x10
  | some i => match commandErr priv i with
    | some e => .error e
    | none => .ok i

/-- Word 0 of a command (R38). -/
def CmdHead.word (h : CmdHead) (op : BitVec 8) : BitVec 64 :=
  0#53 ++ BitVec.ofBool h.after ++ BitVec.ofBool h.fence ++ BitVec.ofBool h.irq ++ op

/-- The eight words of a command (R38). -/
def encodeCommand : Instr → Option (List (BitVec 64))
  | .launchGraph h roots count recVA work bytes => some [h.word 1, roots, count, recVA, work, bytes, 0, 0]
  | .launchNode h node recVA work bytes => some [h.word 2, node, 0, recVA, work, bytes, 0, 0]
  | .signal h va value => some [h.word 3, va, value, 0, 0, 0, 0, 0]
  | .wait h va threshold => some [h.word 4, va, threshold, 0, 0, 0, 0, 0]
  | .timestamp h va => some [h.word 5, va, 0, 0, 0, 0, 0, 0]
  | .setDomain h dom share key =>
    some [h.word 6, 0#51 ++ BitVec.ofBool share ++ dom, key.extractLsb' 0 64, key.extractLsb' 64 64, 0, 0, 0, 0]
  | .partition h ctx mask excl slice root pool pages =>
    some [h.word 7, 0#40 ++ slice ++ BitVec.ofBool excl ++ mask ++ ctx, root, pool, pages, 0, 0, 0]
  | _ => none

end Sys2Proof
end

