-- ==== Sys2Proof/Machine/State.lean ====
section
/-! DEFINITION. The state of the whole chip as plain data: every register, queue, table and operation in flight that the
manual names. Addresses and counts inside the chip are natural numbers; what software reads and writes as a word is a
bit vector. -/

namespace Sys2Proof.Machine

/-! ### Registers (04_encoding R82 to R87) -/

/-- Format tags (R83), in the order of their codes. -/
inductive Tag where
  | raw | i32 | n32 | f32 | f16x2 | b16x2 | t8x4 | t6x5 | i8x4 | n8x4 | addr | wel | sig | stat | mask | poison
  deriving DecidableEq, Repr

/-- A vector register with its tag, full/empty bit and signed-input bit (R82). -/
structure Reg where
  val : Word := 0
  tag : Tag := .raw
  full : Bool := true
  signed : Bool := false
  deriving DecidableEq, Repr

/-- A uniform register (R82). -/
structure SReg where
  val : Word := 0
  full : Bool := true
  signed : Bool := false
  deriving DecidableEq, Repr

/-- A predicate p0-p6 or sp0-sp6 (R82, R87). -/
structure PReg where
  val : Bool := false
  full : Bool := true
  signed : Bool := false
  deriving DecidableEq, Repr

/-- A thread's position (R96, R114): clause header, index of the next word, and the repetition when that word stands
under REP (R107). -/
structure Pos where
  hdr : Nat := 0
  word : Nat := 1
  rep : Option Nat := none
  deriving DecidableEq, Repr

/-- Region states of absorption (R354): IDLE, ABSORB, OPEN, LAPSED. -/
inductive Region where
  | idle | absorbing | opened | lapsed
  deriving DecidableEq, Repr

/-- Absorption state of an owner (R346, R354). `acc` is the cost counted before the last save, `since` the cluster cycle
from which it counts on (R357). -/
structure Absorb where
  a : Word := 0
  b : Word := 0
  c : Word := 0
  d : Word := 0
  count : Nat := 0
  kind : Nat := 0
  tol : Nat := 0
  region : Region := .idle
  acc : Nat := 0
  since : Nat := 0
  latched : Nat := 0
  /-- Cost of a MEMOS that waits for its release (R367). -/
  waiting : Option Nat := none
  deriving DecidableEq, Repr

/-- What a thread waits for (R115); `none` when it does not. -/
inductive Wait where
  | none
  /-- Parked at its meeting point since the cluster cycle given (R120, R121). -/
  | meeting (since : Nat)
  /-- Parked at the header of a class 0 or CL clause (R123). -/
  | collective
  /-- Parked at a cross-lane word (R123, R125). -/
  | crossLane
  /-- Parked on an absent page (R214). -/
  | page
  /-- Waiting for global time (R135). -/
  | time (deadline : Nat)
  /-- Waiting at a header for its release horizon (R97, WTM). -/
  | horizon (deadline : Nat)
  /-- Arrived at BAR.T or BAR.C (R281). -/
  | barrier (cohort : Bool)
  /-- Waiting for a transaction barrier of team `team` to leave a phase (R290). -/
  | tbarrier (team addr phase : Nat) (coh : Bool)
  /-- Waiting for a release (R278), of every live thread of the warp when `whole`; the word goes on when it completes. -/
  | release (scope : Nat) (whole : Bool)
  /-- The word waits for something that no step of its own ends; it tries again as time passes. -/
  | retry
  /-- Waiting for an empty register (R78, R86, R97); it looks again as time passes. -/
  | regs
  /-- A queue-fed matrix word waits for a row of its stream (R78, R315); it looks again as time passes. -/
  | stream
  /-- Waiting for a record pool slot (R45, R138). -/
  | pool
  /-- A compared access of a protected launch waits for its partner since the cycle given (R399). -/
  | pair (since : Nat) (access : List Nat)
  /-- Its access has been compared with its partner's, and both have issued it; the partner's word performs it (R399). -/
  | partner
  /-- An MDRAIN of a paired tile waits for its comparison (R316). -/
  | drain
  /-- An agent's OFF write waits for its cluster (R409). -/
  | gated
  /-- The access found no free miss-status entry and is replayed (R201). -/
  | mshr
  /-- Its own access was accepted; the lanes of replay `grp` are not all accepted yet (R201). -/
  | mates (grp : Nat)
  /-- A TBARR whose update is held behind an engine release (R284). -/
  | tbheld
  deriving DecidableEq, Repr

/-- Where the destination of a late write-back lies (R86): lane 32 is the warp's uniform file. -/
structure Dest where
  team : Nat
  warp : Nat
  lane : Nat
  n : Nat
  cnt : Nat
  pd : Option Nat := none
  deriving DecidableEq, Repr

/-- A return-stack entry held in hardware (R127): its number, its value, and whether a refill is in flight or failed
with a cause. -/
structure Held where
  e : Nat
  val : Nat := 0
  ready : Bool := true
  failed : Option Nat := none
  deriving DecidableEq, Repr

/-- A thread's A side descriptor (R298, R318). -/
structure ASide where
  addr : Nat := 0
  count : Nat := 0
  base : Nat := 0
  deriving DecidableEq, Repr

/-- A thread (R9, R82, R91). -/
structure Thread where
  /-- No longer live, or never declared (R124, R132). -/
  exited : Bool := false
  pos : Pos := {}
  mr : Word := 0xFFFFFFFF
  rsd : Nat := 0
  held : List Held := []
  v : List Reg := []
  p : List PReg := List.replicate 7 {}
  fpst : FpFlags := 0
  fpctl : BitVec 8 := 0
  ist : IntFlags := 0
  perm : Bool := false
  mxst : BitVec 5 := 0
  tinfo0 : Word := 0
  tinfo1 : Word := 0
  tinfo2 : Word := 0
  tinfo3 : Word := 0
  tret : BitVec 64 := 0
  tretWritten : Bool := false
  /-- The trapping word stood under REP (R382). -/
  trapRep : Bool := false
  tsub : Word := 0
  latch : Word := 0
  handler : Bool := false
  sidel : Word := 0
  sidex : BitVec 16 := 0
  swapt : BitVec 24 := 200
  tls : BitVec 64 := 0
  aside : ASide := {}
  /-- Release horizon (R274) and acquire time (R279). -/
  horizon : Nat := 0
  tacq : Nat := 0
  /-- Entries in the open batch and the next batch number (R264). -/
  openBatch : Nat := 0
  batch : Word := 0
  wait : Wait := .none
  /-- Global time since which the thread has waited without interruption in ways that count toward swap-out (R78). -/
  waitSince : Option Nat := none
  /-- The release of the word it stands at has completed (R278). -/
  relDone : Bool := false
  /-- Lower lanes of its bundle instruction whose records must be accepted before its own (R137). -/
  behind : List (Nat × Nat) := []
  /-- Its record of the word it stands at has been accepted (R138). -/
  sent : Bool := false
  /-- The replay it belongs to until its access is accepted (R201). -/
  replay : Option Nat := none
  /-- The destination that stands empty while it is parked on a page, until its word restarts (R214, R236). -/
  restart : Option Dest := none
  /-- Words of the clause it stands in, as its header gave them when it last issued. -/
  clauseN : Nat := 15
  /-- In a protected launch: its partner trapped here, so it must trap here too (R399). -/
  mustTrap : Option Pos := none
  /-- Cross-lane words it has resumed past while its tile stands there (R188). -/
  skipped : List Pos := []
  ab : Absorb := {}
  deriving DecidableEq, Repr

/-- A scale slot (R150): patterns of non-negative F32 values and the exponent. -/
structure ScaleSlot where
  h0 : Nat := 0
  h1 : Nat := 0
  h2 : Nat := 0
  h3 : Nat := 0
  cm : Nat := 0
  s : Int := 0
  deriving DecidableEq, Repr

/-- A warp (R9, R82, R67). -/
structure Warp where
  threads : List Thread := []
  s : List SReg := []
  sp : List PReg := List.replicate 7 {}
  part : Nat := 0
  mto : Nat := 1024
  slots : List ScaleSlot := List.replicate 16 {}
  decl : Nat := 0
  meas : Nat := 0
  lost : Nat := 0
  boostLines : Nat := 0
  boostExp : Nat := 0
  /-- Distinct lines of the measurement window, lost-locality events in it, and its start (R70). -/
  sketch : List Nat := []
  winLost : Nat := 0
  winStart : Nat := 0
  /-- Active under R72. -/
  active : Bool := true
  ab : Absorb := {}
  /-- Cluster cycle at which a collective mismatch began (R126). -/
  mismatchSince : Option Nat := none
  /-- Collective copies issued on each channel (R257). -/
  copySeq : List Nat := List.replicate 8 0
  deriving DecidableEq, Repr

/-! ### Programs and descriptors (01_described R16, R20) -/

/-- What a program header declares (R16). -/
structure Prog where
  hdr : Nat := 0
  entry : Nat := 0x80
  handler : Nat := 0
  sregs : Nat := 0
  vregs : Nat := 16
  scratch : Nat := 0
  slots : Nat := 0
  queues : Nat := 0
  planes : Nat := 0
  acc : Nat := 0
  lmode : Nat := 0
  lease : Nat := 0
  cohort : Nat := 1
  threads : Nat := 32
  tls : Nat := 0
  fpctl : BitVec 8 := 0
  perm : Bool := false
  progid : Nat := 0
  memo : Bool := false
  protcap : Bool := false
  w16 : Bool := false
  deriving DecidableEq, Repr

/-- An input port (R21). -/
structure Port where
  timeout : Nat := 0
  anyTag : Bool := false
  join : Bool := false
  batch : Nat := 0
  rsize : Nat := 0
  deriving DecidableEq, Repr

/-- An output target (R26). -/
structure OutTgt where
  v : Bool := false
  port : Nat := 0
  node : Nat := 0
  deriving DecidableEq, Repr

/-- A node descriptor (R20). `wset` holds the valid ranges as first page and number of pages (R29). -/
structure Node where
  va : Nat := 0
  prog : Nat := 0
  memo : Bool := false
  prot : Bool := false
  prio : Nat := 0
  tx : Nat := 1
  ty : Nat := 1
  tz : Nat := 1
  ports : List Port := List.replicate 4 {}
  tgts : List OutTgt := List.replicate 8 {}
  producer : Nat := 0
  gamma : Nat := 0
  beta : Int := 0
  alpha : Nat := 0
  wset : List (Nat × Nat) := []
  deriving DecidableEq, Repr

/-! ### Team state -/

/-- A store-fault record (R218) with the first word of the store and whether it has been delivered (R220). -/
structure SfRecord where
  va : Nat
  pc : Nat
  width : Nat
  word : Nat
  warp : Nat
  lane : Nat
  data : Nat
  raw : Word
  delivered : Bool := false
  deriving DecidableEq, Repr

/-- An accumulator tile (R298); `bad` when its storage holds an uncorrectable error (R320). -/
structure Tile where
  int : Bool := false
  ea : List Int := List.replicate 32 0
  z : List Int := List.replicate 32 0
  paired : Bool := false
  words : List (List Word) := List.replicate 32 (List.replicate 32 0)
  bad : Bool := false
  deriving DecidableEq, Repr

/-- A macro plane (R298), rows k of columns j; an empty row list is a plane of zeros. `colsum` holds the exact column sums,
`escb` the row, column and F32 value of each covered escape. -/
structure Plane where
  etag : Nat := 0
  eb : List Int := List.replicate 32 0
  elems : List (List Num) := []
  colsum : List Num := List.replicate 32 (.fin false 0 0)
  uncov : List Bool := List.replicate 32 false
  escb : List (Nat × Nat × Word) := []
  bad : Bool := false
  deriving DecidableEq, Repr

/-- One warp's slice of a collective copy (R255 to R259). -/
structure Slice where
  warp : Nat
  shape : List Word
  glob : Nat
  gs : List Int
  barr : Option Nat
  xmask : Nat
  tacq : Nat
  pc : Nat
  word : Nat
  raw : Word
  deriving DecidableEq, Repr

/-- The four collective copies (R255). -/
inductive CopyKind where
  | cpt | cpto | cpx | cpm
  deriving DecidableEq, Repr

/-- A collective copy handed over (R257, R258): its next granule, and for CPX the set bits passed. -/
structure Copy where
  seq : Nat
  kind : CopyKind
  slices : List Slice
  next : Nat := 0
  packed : Nat := 0
  parked : Bool := false
  /-- A protection record that waits for room in the store-fault queue (R262). -/
  blocked : Option SfRecord := none
  deriving DecidableEq, Repr

/-- A row of a stream: its words, or a poisoned row (R271). -/
structure Row where
  idx : Nat
  words : List Word
  bad : Bool := false
  deriving DecidableEq, Repr

/-- A row taken by a POPQ or a queue-fed MMA and not yet arrived (R269): the queue and the stream it belongs to, and the
load it fills. -/
structure Taken where
  q : Nat
  strm : Nat
  idx : Nat
  va : Nat
  words : Nat
  load : Nat
  /-- Its page is absent (R271). -/
  parked : Bool := false
  /-- Its protection record waits for room in the store-fault queue (R219, R271). -/
  blocked : Option SfRecord := none
  /-- The STRM word of its stream, for a protection record (R271). -/
  warp : Nat := 0
  pc : Nat := 0
  word : Nat := 0
  raw : Word := 0
  deriving DecidableEq, Repr

/-- A row that one member of a protected pair took from a stream and that its partner is to compute with too (R321). -/
structure MateRow where
  q : Nat
  warp : Nat
  lane : Nat
  words : List Word
  bad : Bool
  deriving DecidableEq, Repr

/-- A stream queue (R267 to R271). -/
structure Stream where
  isOpen : Bool := false
  /-- Which STRM opened it. -/
  id : Nat := 0
  base : Nat := 0
  counts : List Nat := []
  strides : List Int := []
  roww : Nat := 0
  total : Nat := 0
  /-- Next row to fetch and next row to take. -/
  fetched : Nat := 0
  next : Nat := 0
  queue : List Row := []
  parked : Bool := false
  blocked : Option SfRecord := none
  tacq : Nat := 0
  warp : Nat := 0
  pc : Nat := 0
  word : Nat := 0
  raw : Word := 0
  deriving DecidableEq, Repr

/-- A TBARR's answer: the threads that wait for it and their destination register (R288). -/
structure TbReply where
  team : Nat
  warp : Nat
  lanes : List Nat
  dst : Nat
  deriving DecidableEq, Repr

/-- An update of a transaction barrier (R284): changes of both counts, with the answer that a TBARR takes and the completion
time of a CPTO granule, `true` with one homed on a peer (R285); or TBINIT. -/
inductive TbUpd where
  | bump (arr gran : Int) (reply : Option TbReply) (far : Option (Nat × Bool) := none)
  | init (n : Nat)
  deriving DecidableEq, Repr

/-- An engine release of a transaction barrier (R284, R285): the barrier, the moment its granules' writes are everywhere,
and the updates held meanwhile in order. -/
structure TbHold where
  addr : Nat
  until_ : Nat
  held : List TbUpd := []
  deriving DecidableEq, Repr

/-- Greatest GWCT that the CPTO granules of the present phase of a barrier returned, and whether one was homed on a peer
(R285). -/
structure TbGwct where
  addr : Nat
  gwct : Nat
  peer : Bool := false
  deriving DecidableEq, Repr

/-- A hit of a ray query (R342): t, u and v as F32 patterns, the primitive and the triangle's VA. -/
structure Hit where
  t : Nat
  u : Nat
  v : Nat
  prim : Nat
  va : Nat
  leaf : Nat
  deriving DecidableEq, Repr

/-- What of a structure remains to be visited: a reference, or a leaf from a triangle on. -/
structure RayWork where
  ref : Nat
  tri : Nat := 0
  /-- It is the leaf Mirage proposed (R343). -/
  proposed : Bool := false
  /-- Where the ray enters its box, as a fraction, for the interval in force when it is visited (R342). -/
  near : Option (Int × Nat) := none
  deriving DecidableEq, Repr

/-- Query states (R370): 0 running. -/
inductive QState where
  | running | candidate | hit | miss
  deriving DecidableEq, Repr

/-- A command that the ray unit has received for a query (R370): run on, commit the candidate, end the query, or bind a
load to what is selected (R374). -/
inductive QCmd where
  | run | commit | end_
  | read (load sel : Nat)
  deriving DecidableEq, Repr

/-- A ray query (R341, R370 to R375). -/
structure Query where
  id : Nat
  slot : Nat
  gen : Nat
  team : Nat
  ctx : Nat
  header : Nat
  version : Nat
  orig : List Nat
  dir : List Nat
  tmin : Nat
  tmax : Nat
  np : Bool
  first : Bool
  st : QState := .running
  err : Bool := false
  pred : Bool := false
  ncand : Nat := 0
  work : List RayWork := []
  tested : Option Nat := none
  cand : Option Hit := none
  commit : Option Hit := none
  sig : Nat := 0
  tacq : Nat := 0
  parked : Bool := false
  /-- The header has been read (R371). -/
  started : Bool := false
  /-- Commands received and not yet performed, oldest first. -/
  cmds : List QCmd := []
  deriving DecidableEq, Repr

/-- Where a team stands (R59 to R63, R78 to R80, R386). -/
inductive Place where
  | resident (cl co : Nat)
  | claimed (cl co : Nat)
  | saved
  | swapped (cl : Nat)
  | gone
  deriving DecidableEq, Repr

/-- A team (R9, R82, R387). -/
structure Team where
  id : Nat
  launch : Nat := 0
  ctx : Nat := 0
  index : Nat := 0
  /-- An agent's warp: privileged (R42). -/
  priv : Bool := false
  prog : Prog := {}
  place : Place := .claimed 0 0
  /-- Placement order on its core: smaller is older (R62). -/
  age : Nat := 0
  /-- Its warps may issue: the whole cohort is placed (R65). -/
  started : Bool := true
  failed : Bool := false
  /-- Killed (R391): its scratchpad is gone for its cohort. -/
  killed : Bool := false
  /-- All threads have exited; the drain runs (R49). -/
  draining : Bool := false
  /-- First byte of its scratchpad run in the core (R59), and the warp slots it holds. -/
  run : Nat := 0
  slots : List Nat := []
  warps : List Warp := []
  scratch : List Host.Cell := []
  scratchBad : List Nat := []
  /-- 4 KiB granules of its scratchpad whose content at placement is unspecified (R390), with the index of their free
  values (log 7): `scratch` holds what differs from those. -/
  stale : Option (Nat × List Nat) := none
  tiles : List (Nat × Tile) := []
  planes : List (Nat × Plane) := []
  queues : List Stream := List.replicate 8 {}
  taken : List Taken := []
  /-- Rows that members of protected pairs took before their partners (R321). -/
  mates : List MateRow := []
  chans : List (List Copy) := List.replicate 8 []
  landed : List Word := List.replicate 8 0
  sfq : List SfRecord := []
  /-- Records popped before their delivery (R220). -/
  owed : List SfRecord := []
  /-- Threads arrived at BAR.T and BAR.C in the present generation (R281). -/
  arrT : List (Nat × Nat) := []
  arrC : List (Nat × Nat) := []
  mixedSince : Option Nat := none
  tbHolds : List TbHold := []
  tbGwct : List TbGwct := []
  /-- Pass and tile of a tile team (R338). -/
  tileSlot : Option (Nat × Nat) := none
  savedBad : Bool := false
  /-- Order in which it entered its context's resume list (R63). -/
  saveSeq : Nat := 0
  /-- Where it will stand once its save is complete: its issue has stopped, its work in flight and its release go on
  (R293, R388). -/
  saving : Option Place := none
  /-- Its ray queries while it is saved (R375), and how far the generations of its ray unit's slots had come (R370). -/
  savedQueries : List Query := []
  savedGens : List (Nat × Nat) := []
  deriving DecidableEq, Repr

/-! ### Memory side -/

/-- Where a physical address is served (R204, R205). -/
inductive Home where
  | own
  | peer (chip : Nat)
  | host
  deriving DecidableEq, Repr

/-- A translation's outcome when present (R208): the physical address and the page's attributes. -/
structure Xlat where
  home : Home := .own
  pa : Nat := 0
  r : Bool := true
  w : Bool := true
  x : Bool := true
  u : Bool := true
  imm : Bool := false
  lclass : Nat := 0
  deriving DecidableEq, Repr

/-- A cached translation of the `size` bytes at `va` (R210). -/
structure TlbEntry where
  ctx : Nat
  root : Nat
  va : Nat
  size : Nat
  xl : Xlat
  expiry : Nat
  /-- It is an entry for a range, not for a page. -/
  range : Bool := false
  deriving DecidableEq, Repr

/-- A cached 64-byte sector with its lease (R202, R272); `expiry = none` for an LDK copy. -/
structure Sector where
  key : Nat
  data : List Byte
  grant : Nat
  expiry : Option Nat
  used : Nat := 0
  cls : Nat := 0
  slot : Nat := 64
  bad : List Nat := []
  deriving DecidableEq, Repr

/-- A line of 128 bytes that the system cache slice of its home holds (R204). `State.mem` holds what the home answers; `old`
holds what the memory below holds while the line has not been written back. -/
structure SysLine where
  line : Nat
  old : Option (List Byte) := none
  deriving DecidableEq, Repr

/-- A miss-status entry (R201): one for a sector. `ldk` when every waiter is an LDK, `cls` the policy it allocates under (2
for none), `direct` when some waiter must read the home (R202). -/
structure Miss where
  key : Nat
  home : Home
  lclass : Nat
  ldk : Bool
  cls : Nat
  slot : Nat
  direct : Bool := false
  deriving DecidableEq, Repr

/-- What a long-latency producer still needs before it can write back. -/
inductive LoadState where
  /-- A global load not yet bound: it waits for earlier own accesses. -/
  | unbound
  /-- A global load that waits for the fill of its sector. -/
  | missed
  /-- An atomic or CAS not yet performed at home. -/
  | atHome
  /-- A row not yet arrived, a matrix operation not yet executed, or a query that runs. -/
  | engine
  /-- Data bound: values and tags to write, and the predicate's value. -/
  | bound (ws : List (Word × Tag)) (pv : Option Bool)
  deriving DecidableEq, Repr

/-- A load or another long-latency producer in flight (R86, R236). -/
structure LoadOp where
  id : Nat
  dst : Dest
  va : Nat := 0
  xl : Xlat := {}
  ctx : Nat := 0
  bytes : Nat := 4
  sext : Bool := false
  cache : Nat := 0
  ldk : Bool := false
  cl : Nat := 0
  co : Nat := 0
  tacq : Nat := 0
  /-- Scope of an acquire that the data's return performs (R279). -/
  acq : Option Nat := none
  /-- The return-stack entry a refill fills (R127). -/
  refill : Option Nat := none
  st : LoadState := .unbound
  /-- Write-backs are discarded: its thread has exited (R132). -/
  dropped : Bool := false
  /-- It is a load, atomic or CAS, whose binding fences and releases wait for (R278). -/
  mem : Bool := true
  /-- The load whose data a shadow's access takes (R399). -/
  twin : Option Nat := none
  /-- It is an MDRAIN's write-back (R97, WMX). -/
  mat : Bool := false
  deriving DecidableEq, Repr

/-- Stages of a store, atomic or CAS (R217). -/
inductive StoreState where
  | issued
  /-- Waits on an absent page. -/
  | held
  /-- A protection record waits for room in the store-fault queue (R219). -/
  | blocked
  | translated
  deriving DecidableEq, Repr

/-- What is done at the home. -/
inductive HomeOp where
  | store (data : List Byte)
  | atom (sub : Nat) (x : Nat) (load : Nat)
  | cas (cmp new : Nat) (load : Nat)
  deriving DecidableEq, Repr

/-- A global store, atomic or CAS in flight (R238, R242, R243). -/
structure StoreOp where
  id : Nat
  /-- The issue it belongs to (R234, R244). -/
  grp : Nat
  team : Nat
  warp : Nat
  lane : Nat
  ctx : Nat
  launch : Nat
  va : Nat
  xl : Xlat := {}
  bytes : Nat
  op : HomeOp
  cache : Nat := 0
  cl : Nat
  co : Nat
  pc : Nat
  word : Nat
  raw : Word
  width : Nat
  st : StoreState := .issued
  /-- It has been held on an absent page (R217). -/
  wasHeld : Bool := false
  /-- A releasing write of the device is not performed before this time (R227). -/
  notBefore : Nat := 0
  deriving DecidableEq, Repr

/-- A per-thread copy entry (R263). -/
structure CpaOp where
  id : Nat
  team : Nat
  warp : Nat
  lane : Nat
  batch : Word
  dst : Nat
  va : Nat
  bytes : Nat
  tacq : Nat
  pc : Nat
  word : Nat
  raw : Word
  /-- Performed: written, or recorded. -/
  done : Bool := false
  parked : Bool := false
  deriving DecidableEq, Repr

/-- A sealed batch (R264). -/
structure Batch where
  team : Nat
  warp : Nat
  lane : Nat
  num : Word
  deriving DecidableEq, Repr

/-- Who waits on an absent unit (R211, R459). -/
inductive Waiter where
  | thread (team warp lane : Nat)
  | store (id : Nat)
  | copy (team ch : Nat)
  | cpa (id : Nat)
  | stream (team q : Nat)
  | dice (pass : Nat)
  | ray (id : Nat)
  | refill (load : Nat)
  | agent (cmd : Nat)
  deriving DecidableEq, Repr

/-- A fault-table entry (R211). -/
structure FaultEntry where
  id : Nat
  ctx : Nat
  base : Nat
  size : Nat
  /-- Physical address of the absent entry, whose line is watched. -/
  watch : Nat
  va : Nat
  lastWalk : Nat
  waiters : List Waiter
  /-- A store has been performed at home to the watched line since the last walk. -/
  due : Bool := false
  deriving DecidableEq, Repr

/-- A page request (R213). -/
structure PageReq where
  acc : Nat
  ctx : Nat
  vpn : Nat
  time : Nat
  deriving DecidableEq, Repr

/-- A feedback filter entry (R228). -/
structure FiltEntry where
  resid : Nat
  lvl : Nat
  px : Nat
  py : Nat
  time : Nat
  deriving DecidableEq, Repr

/-! ### Matrix queues (11_matrix R299) -/

/-- One A row of an MMA (R302, R304): the thread that supplied it; an uncovered escape is `none`. -/
structure ARow where
  warp : Nat
  lane : Nat
  elems : List (Option Num)
  deriving DecidableEq, Repr

/-- A queued matrix operation; registers and scratchpad have been read (R300). What an operation finds in a tile's ATAG
and PAIR or a plane's ETAG was fixed in the order of issue, which is the order of execution (R299). -/
inductive MatWork where
  | mload (plane : Nat) (content : Plane) (mirror : Bool)
  | mma (tile plane : Nat) (rows : List ARow) (zp int red : Bool)
  | mdrain (tile group : Nat) (pair : Bool) (tag : Tag) (dsts : List ((Nat × Nat) × Nat))
  | mzero (tile : Nat) (mirror : Bool) (lanes : List Nat)
  | mfill (tile group : Nat) (mirror : Bool) (rows : List (Nat × List Word))
  | mzp (tile : Nat) (vals : List (Nat × Int))
  | msclRow (tile : Nat) (vals : List (Nat × Int))
  | msclCol (plane : Nat) (mirror : Bool) (vals : List (Nat × Int))
  deriving DecidableEq, Repr

structure MatOp where
  id : Nat
  team : Nat
  /-- The threads that took part (R301). -/
  members : List (Nat × Nat)
  pos : Pos := {}
  header : Word := 0
  raw : Word := 0
  work : MatWork
  /-- It stands in the partner quadrant's queue too, and both entries execute together (R299). -/
  both : Bool := false
  /-- The entry in the partner quadrant's queue. -/
  shadow : Bool := false
  deriving DecidableEq, Repr

/-! ### Bundles and cores -/

/-- A bundle (R116): threads of one team at one position, at most one a lane, ascending. -/
structure Bundle where
  team : Nat
  members : List (Nat × Nat)
  /-- The clause header, once the bundle has fetched it. -/
  header : Option Word := none
  deriving DecidableEq, Repr

/-- The warp slot and the quadrant that every core keeps for its firmware agent (R42). -/
def agentSlot : Nat := 63
def agentQuad : Nat := 3

/-- The firmware agent that a start or a wake has loaded on a core: a privileged warp on the scalar path of its quadrant
(R42, R411, R419). Its image is the firmware's; what the manual gives it to do are turns of the model, taken while it
stands there (log 8). -/
structure Agent where
  slot : Nat := agentSlot
  quad : Nat := agentQuad
  priv : Bool := true
  deriving DecidableEq, Repr

/-- A core (R4, R59, R74, R94). -/
structure Core where
  exists_ : Bool := true
  agent : Option Agent := some {}
  lresOff : Bool := false
  lresReserve : Nat := 256
  lresNext : Option (Bool × Nat) := none
  troot : BitVec 64 := 0
  trootLow : Word := 0
  ctx : Nat := 0
  qsel : Word := 0
  l1 : List Sector := []
  /-- The core's micro TLB (R210). -/
  utlb : List TlbEntry := []
  victims : List (Nat × Nat) := []
  misses : List Miss := []
  filter : List FiltEntry := []
  /-- Bundle slots: two for each quadrant (R116). -/
  bundles : List (Option Bundle) := List.replicate 8 none
  gated : List Bool := List.replicate 4 false
  lastIssue : List Nat := List.replicate 4 0
  /-- Positions that hold a ready thread none of which a bundle has taken, each with its cycle (R117). -/
  ready : List (Nat × Pos × Nat) := []
  matq : List (List MatOp) := List.replicate 4 []
  lastStep : Nat := 0
  /-- Last context to use each 4 KiB granule of the scratchpad since the last start (R390). -/
  users : List (Nat × Nat) := []
  deriving DecidableEq, Repr

/-- A claimed team's place in a list of its cluster (R44, R61). -/
structure Ticket where
  launch : Nat
  first : Nat
  co : Nat := 0
  /-- Cores tried since the claim (R61). -/
  tried : Nat := 0
  requeued : Bool := false
  /-- After a refused pre-emption its agent tries again from this time on (R65). -/
  after : Nat := 0
  deriving DecidableEq, Repr

/-- A wake-watch entry (R79); the missing pages it counts stand in the fault table, and `fault` is its FAULT watch. -/
structure WakeEntry where
  team : Nat
  cohort : List Nat
  fault : Bool
  wake : Option Nat
  deriving DecidableEq, Repr

/-- The reservation word (R64). -/
structure Reservation where
  busy : Bool := false
  ctx : Nat := 0
  launch : Nat := 0
  coh : Nat := 0
  since : Nat := 0
  holder : Nat := 0
  deriving DecidableEq, Repr

/-- A Mirage entry (R343). -/
structure MirageEntry where
  idx : Nat
  tag : Nat
  ctx : Nat
  header : Nat
  version : Nat
  leaf : Nat
  deriving DecidableEq, Repr

/-- Gating states (R408). -/
inductive Gate where
  | on | quiescing | off | waking
  deriving DecidableEq, Repr

/-- The registers a cluster keeps while it is off (R410). -/
structure ClusterRegs where
  rampCur : Nat := 16
  rampCeil : Nat := 255
  rampStep : Nat := 16
  rampInit : Nat := 16
  pass : Nat := 0
  ratio : Nat := 1
  step : Nat := 0
  dthrEn : Bool := true
  acnt : Nat := 0
  thr : Nat := 40
  str : Nat := 6
  half : Nat := 64
  cred : Word := 0
  clk : Nat := 0
  deriving DecidableEq, Repr

/-- A cluster (R3, R53, R64, R76, R210, R405 to R415). -/
structure Cluster where
  r : ClusterRegs := {}
  enabled : Bool := true
  cores : List Core := []
  /-- Ramp: starts in the window, the window's start, and a written value that takes effect next (R54). -/
  starts : Nat := 0
  window : Nat := 0
  rampNext : Option (Nat × Nat × Nat) := none
  /-- Fraction of a cycle, in 1/100 of a nominal cycle. -/
  frac : Nat := 0
  /-- Ratio change in progress: the new ratio and the time it ends (R406). -/
  change : Option (Nat × Nat) := none
  gate : Gate := .on
  refused : Bool := false
  /-- Cores whose agents have written OFF (R409). -/
  arrived : List Nat := []
  wakeAt : Nat := 0
  stretch : Nat := 0
  halved : Nat := 0
  credMark : Word := 0
  busyCycles : Nat := 0
  /-- A user bundle has issued since the clock last counted (R416; log 56). -/
  issued : Bool := false
  epochClk : Nat := 0
  resv : Reservation := {}
  /-- Teams claimed that go round the ring (R61). -/
  hands : List Ticket := []
  placing : List Ticket := []
  depend : List Ticket := []
  cohorts : List Ticket := []
  watch : List WakeEntry := []
  /-- The context whose turn it is and the end of the turn (R57). -/
  turn : Option (Nat × Nat) := none
  tlb : List TlbEntry := []
  queries : List Query := []
  qgen : List (Nat × Nat) := []
  mirage : List MirageEntry := []
  slotsDown : Nat := 0
  deriving DecidableEq, Repr

/-! ### Launching -/

/-- A hardware queue (R34, R40, R43). -/
structure Queue where
  base : BitVec 64 := 0
  en : Bool := false
  priv : Bool := false
  ctx : Nat := 0
  log : Nat := 4
  prod : Word := 0
  cons : Word := 0
  halt : Bool := false
  err : Nat := 0
  claim : Word := 0
  /-- The WAIT that holds claiming: address, threshold, command and the last read (R40). -/
  waiting : Option (Nat × Nat × Nat × Nat) := none
  deriving DecidableEq, Repr

/-- A context entry (R55, R56, R345). -/
structure Context where
  id : Nat
  root : Nat := 0
  pool : Nat := 0
  pages : Nat := 0
  used : Nat := 0
  dom : Nat := 0
  share : Bool := false
  key : BitVec 128 := 0
  mask : Nat := 0
  excl : Bool := false
  slice : Nat := 1
  launches : Nat := 0
  deriving DecidableEq, Repr

/-- What caused a launch. -/
inductive Cause where
  | command
  | firing
  | grid (pass tile draw patch grid : Nat)
  | tileProg (pass tile : Nat)
  deriving DecidableEq, Repr

/-- Records of a firing with the register values of R24. -/
structure Fired where
  image : List Byte
  s0 : Nat
  s1 : Nat
  s2 : Nat
  count : Nat
  deriving DecidableEq, Repr

/-- A launch's life (R40, R44). -/
inductive Phase where
  | checking | deferred | running
  /-- A machine check with its cause: its killed teams drain (R395). -/
  | aborting (cause : Nat)
  | done
  deriving DecidableEq, Repr

/-- A snapshot page (R51): VA[56:16], its page of the context's pool, and where the sixteen 4 KiB parts of the pool's page lie
and those of the page that have been copied, each with its place. -/
structure Snap where
  page : Nat
  slot : Nat
  pool : List (Nat × Nat)
  parts : List (Nat × Nat)
  deriving DecidableEq, Repr

/-- A snapshot pool as the context's entry gave it: translation root, first page and number of pages (R51, R55, R56). -/
structure PoolRef where
  root : Nat := 0
  va : Nat := 0
  pages : Nat := 0
  deriving DecidableEq, Repr

/-- A launch (R9, R31, R40 to R52, R395 to R398). -/
structure Launch where
  id : Nat
  ctx : Nat
  number : Nat := 0
  cmd : Nat := 0
  cause : Cause := .command
  node : Node := {}
  prog : Prog := {}
  dom : Nat := 0
  share : Bool := false
  key : BitVec 128 := 0
  phase : Phase := .checking
  total : Nat := 0
  next : Nat := 0
  doneTeams : List Nat := []
  failedTeams : List Nat := []
  /-- VA of its completion bitmap (R49), 0 when it has none. -/
  bitmap : Nat := 0
  producer : Option Nat := none
  /-- Teams of its producer's node, as the descriptor gave them at the check (R27). -/
  prodTeams : Nat := 0
  /-- The snapshot pool of its context when it was claimed (R56). -/
  pool : PoolRef := {}
  wset : List (Nat × Nat) := []
  snaps : List Snap := []
  poolTaken : Nat := 0
  replayable : Bool := true
  checks : Nat := 0
  fired : Option Fired := none
  started : Bool := false
  q : Nat := 0
  order : Nat := 0
  deriving DecidableEq, Repr

/-- A command in flight (R38 to R41). -/
structure Command where
  id : Nat
  q : Nat
  idx : Nat
  ctx : Nat
  instr : Instr
  isLaunch : Bool := false
  isGraph : Bool := false
  recVA : Nat := 0
  work : Nat := 0
  bytes : Nat := 0
  code : Nat := 0
  /-- Memo domain of its launches (R31). -/
  dom : Nat := 0
  share : Bool := false
  key : BitVec 128 := 0
  /-- Snapshot pool of its launches (R56). -/
  pool : PoolRef := {}
  noReplay : Bool := false
  failed : Bool := false
  fteams : Nat := 0
  dropped : Nat := 0
  launches : Nat := 0
  replays : Nat := 0
  tstart : Option Nat := none
  /-- The command has acted; it is done once it has completed. -/
  acted : Bool := false
  finished : Bool := false
  /-- Its graph has completed (R14). -/
  graphDone : Bool := false
  roots : List Nat := []
  poolSize : Nat := 0
  /-- Greatest GWCT of the writes made for it: completion bits, restored pages and its record (R41, R49, R292). -/
  mark : Nat := 0
  deriving DecidableEq, Repr

/-- A record accepted and not yet fired (R45). -/
structure Rec where
  tag : Nat
  data : List Byte
  deriving DecidableEq, Repr

/-- An open batch of a port (R46), or the list of a join port and tag (R47). -/
structure Gather where
  id : Nat
  cmd : Nat
  node : Nat
  port : Nat
  tag : Option Nat
  join : Bool
  recs : List Rec
  rsize : Nat
  deadline : Option Nat
  deriving DecidableEq, Repr

/-! ### Rendering -/

/-- A draw of a pass (R325) with its signature (R349), `none` while unread or invalid. -/
structure Draw where
  index : Nat
  /-- The command whose graph emitted it. -/
  cmd : Nat
  drawd : Nat
  patches : Nat
  first : Nat
  count : Nat
  tri : Bool
  shade : Nat
  sig : Option (List Word) := none
  deriving DecidableEq, Repr

/-- A grid of a tile (R327, R329): sub-patch bounds as F32 patterns, its vertex array and how far it is. -/
structure Grid where
  draw : Nat
  patch : Nat
  gidx : Nat
  u0 : Nat
  u1 : Nat
  v0 : Nat
  v1 : Nat
  nu : Nat
  nv : Nat
  box : List Int
  array : Option Nat := none
  fired : Bool := false
  /-- 0 waiting, 1 ready, 2 ready and empty, 3 failed. -/
  ready : Nat := 0
  sampled : Bool := false
  deriving DecidableEq, Repr

/-- Steps of a tile's life (R337). -/
inductive TilePhase where
  | idle | started | diced | complete | done | skipped
  deriving DecidableEq, Repr

/-- A screen tile of a pass. `cells` holds the slot's bytes that differ from the clear values. -/
structure RTile where
  k : Nat
  cl : Nat
  phase : TilePhase := .idle
  patches : List (Nat × Nat) := []
  grids : List Grid := []
  cells : List Host.Cell := []
  slot : Option Nat := none
  launch : Option Nat := none
  sig : List Word := []
  startClk : Nat := 0
  bad : List Nat := []
  deriving DecidableEq, Repr

/-- A pass (R322 to R324): its descriptor's 32 words of 64 bits. -/
structure Pass where
  id : Nat
  va : Nat
  ctx : Nat
  /-- The command whose graph emitted its END draw (R324), and those whose graphs emitted any record of it. -/
  cmd : Nat
  cmds : List Nat := []
  words : List Nat := []
  err : Nat := 0
  draws : List Draw := []
  endIndex : Option Nat := none
  received : List Nat := []
  ready : Bool := false
  readyAt : Nat := 0
  binned : Bool := false
  tiles : List RTile := []
  nTiles : Nat := 0
  nSkipped : Nat := 0
  nGrids : Nat := 0
  nFail : Nat := 0
  nCulled : Nat := 0
  /-- Patches that dicing has culled, each counted once (R328). -/
  lostPatches : List (Nat × Nat) := []
  nLost : Nat := 0
  nErr : Nat := 0
  /-- Its statistics block has been written, and then its completion word (R323, R324). -/
  stated : Bool := false
  written : Bool := false
  /-- The greatest write completion time of the units' writes for it, which its release waits for (R292, R324). -/
  mark : Nat := 0
  finished : Bool := false
  /-- Binning waits on an absent page (R326). -/
  parked : Bool := false
  /-- Clusters whose dicing unit waits on an absent page (R328). -/
  parkedCl : List Nat := []
  /-- Memory as it stood when the pass opened: versions raised since do not count for it (R349). -/
  mem0 : List Host.Cell := []
  /-- Draw records held for the next pass of the descriptor, with the commands of their graphs (R323). -/
  waiting : List (Nat × List Byte) := []
  deriving DecidableEq, Repr

/-! ### The memo table, power, health -/

/-- A valid entry of Oasis (R358), with its set and way. -/
structure OasisEntry where
  set : Nat
  way : Nat
  sig : Nat
  dom : Nat
  kind : Nat
  ptr : Bool
  pay : List (Word × Tag)
  cost : Nat
  age : Nat
  check : Word
  deriving DecidableEq, Repr

/-- Oasis (R358, R362). -/
structure Oasis where
  entries : List OasisEntry := []
  waysDown : List Nat := []
  hits : BitVec 64 := 0
  misses : BitVec 64 := 0
  coll : BitVec 64 := 0
  inserts : BitVec 64 := 0
  evicts : BitVec 64 := 0
  deriving DecidableEq, Repr

/-- The health window (R400, R403). -/
structure Health where
  window : Nat := 1000
  thresh : Nat := 16
  log : List (BitVec 64 × BitVec 64) := []
  info : BitVec 64 := 0
  saveFull : Nat := 0
  counts : List (HwUnit × Nat × Nat) := []
  disabled : List HwUnit := []
  deriving DecidableEq, Repr

/-- Power domains (R407): clusters and link ports. -/
inductive Domain where
  | cluster (n : Nat)
  | port (n : Nat)
  deriving DecidableEq, Repr

/-- A link port (R401, R421): lanes in use 8, 4, 2 or 0. -/
structure LinkPort where
  lanes : Nat := 8
  powered : Bool := true
  deriving DecidableEq, Repr

/-- A peer chip (R205, R294). -/
structure Peer where
  chip : Nat
  locked : Bool := false
  /-- Some port of `via` is up (R401). -/
  routed : Bool := true
  /-- The ports through which routes reach it: the topology is the module's (log 54). -/
  via : List Nat := [0, 1, 2, 3]
  deriving DecidableEq, Repr

/-- The global timer (R417, R418). `slew` counts nanoseconds toward the next step of a correction. -/
structure Timer where
  time : Nat := 0
  slew : Nat := 0
  corr : Int := 0
  corrLow : Word := 0
  lock : Bool := false
  src : Nat := 7
  offs : Int := 0
  goodRun : Nat := 0
  lastExchange : Nat := 0
  jumped : Bool := false
  lossUntil : Nat := 0
  deriving DecidableEq, Repr

/-- The signed configuration record in module flash (R1, R419): the grade of 512 GiB or the one of 256 GiB, the serial
identity, and the clusters and units that are disabled. -/
structure ConfigRecord where
  grade512 : Bool := false
  serial : Nat := 0
  clustersOff : List Nat := []
  units : List HwUnit := []
  deriving DecidableEq, Repr

/-- Start state (R419, R422). -/
structure Start where
  step : Nat := 7
  safe : Bool := false
  fails : Nat := 0
  lastOk : Bool := true
  deriving DecidableEq, Repr

/-! ### The turn that is taken -/

/-- A word as it issues: the threads that issue it, where it stands, its header, and the fetched words (R116, R118);
`has2` when word N does not end the clause before `raw2`. Under REP, `rep` is the repetition, `cnt` the prefix's count6
and `stepD`, `stepA`, `stepB` what is added to the fields (R107). -/
structure Issue where
  team : Nat
  members : List (Nat × Nat)
  cl : Nat := 0
  co : Nat := 0
  hdr : Nat
  header : Word
  word : Nat
  rep : Option Nat := none
  cnt : Option Nat := none
  stepD : Nat := 0
  stepA : Nat := 0
  stepB : Nat := 0
  raw : Word := 0
  raw2 : Word := 0
  has2 : Bool := false
  deriving DecidableEq, Repr

/-- A turn: a step of the device or its surroundings with what it acts on, a bundle slot that issues, a thread whose
readiness for its next word is looked at before a regroup period (R115), a team whose save goes on (R388), or the passing
of nanoseconds. The order of turns is open (log 2). -/
inductive Turn where
  | event (i : Instr) (t : Target)
  | look (team warp lane : Nat)
  | save (team : Nat)
  | issue (cl co slot : Nat)
  | tick (ns : Nat)
  deriving DecidableEq, Repr

/-- The chip. -/
structure State where
  timer : Timer := {}
  start : Start := {}
  record : ConfigRecord := {}
  gbudEn : Bool := true
  gbudWatt : Nat := 550
  /-- Epochs of 50 us of global time at which the governor has acted (R416). -/
  epoch : Nat := 0
  inrush : List Domain := []
  closing : Option (Domain × Nat) := none
  ports : List LinkPort := List.replicate 4 {}
  peers : List Peer := []
  health : Health := {}
  requests : List PageReq := []
  ptime : Nat := 0
  faults : List FaultEntry := []
  /-- Accesses that wait without an entry (R459), with their context and address. -/
  unlisted : List (Waiter × Nat × Nat) := []
  oasis : Oasis := {}
  queues : List Queue := List.replicate 64 {}
  contexts : List Context := []
  commands : List Command := []
  launches : List Launch := []
  gathers : List Gather := []
  clusters : List Cluster := []
  teams : List Team := []
  /-- Module, host and peer memory as one list of cells keyed by home (R1, R204, R205), in canonical form. -/
  mem : List Host.Cell := []
  /-- Lines in the 64 slices of the system cache, the last used first (R204). -/
  sysCache : List SysLine := []
  /-- 32-byte granules of module memory in error (R458). -/
  badGranules : List Nat := []
  watermarks : List (Nat × Nat) := []
  remote : List Sector := []
  loads : List LoadOp := []
  stores : List StoreOp := []
  cpas : List CpaOp := []
  batches : List Batch := []
  passes : List Pass := []
  msix : List Nat := []
  nextId : Nat := 0
  /-- Index of the next free value (log 6): the model's own. -/
  free : Nat := 0
  /-- The agenda of turns and what the present one acts on: the model's own (log 2). -/
  agenda : List Turn := []
  target : Target := {}
  issue : Option Issue := none
  deriving DecidableEq, Repr

/-- Why the machine stops. No rule of the manual stops the whole machine, and no definition raises this fault (safe). -/
inductive Fault where
  | machineStopped
  deriving DecidableEq, Repr

/-- Why an instruction is refused. -/
inductive Refusal where
  /-- The instruction has no meaning yet; raised by its arm of `exec` alone (safe). -/
  | notModelled (mnemonic : String)
  deriving DecidableEq, Repr

abbrev Out := Host.Outcome State Fault Refusal

/-- A cluster after reset: sixteen cores, ratio 4:1, step 0 (R405, R419). -/
def Cluster.reset : Cluster := { cores := List.replicate 16 {} }

/-- The chip after a successful cold start of a 256 GiB module with every unit enabled, the ports' wakes posted (R407, R419;
log 4, log 57). -/
def State.reset : State :=
  { clusters := List.replicate 8 Cluster.reset
    ports := List.replicate 4 { powered := false }
    inrush := [.port 0, .port 1, .port 2, .port 3] }

end Sys2Proof.Machine
end

