-- ==== Sys2Proof/Machine/Ops.lean ====
section
/-! DEFINITION. The named operations over memory, teams and threads that every meaning uses: cells in canonical form,
reading and updating a thread, moving it, taking a trap (R377), ending a thread or a team (R132, R391), and returning
from a trap (R382). -/

namespace Sys2Proof.Machine

/-! ### Lists -/

/-- Put `x` before the first element that it may precede. -/
def insertBy {α : Type} (le : α → α → Bool) (x : α) : List α → List α
  | [] => [x]
  | y :: l => if le x y then x :: y :: l else y :: insertBy le x l

/-- Sort a list; elements that may precede each other keep their order. -/
def sortBy {α : Type} (le : α → α → Bool) : List α → List α
  | [] => []
  | x :: l => insertBy le x (sortBy le l)

/-- Replace element `i`. -/
def setAt {α : Type} (l : List α) (i : Nat) (x : α) : List α :=
  match l, i with
  | [], _ => []
  | _ :: t, 0 => x :: t
  | h :: t, i + 1 => h :: setAt t i x

/-- Apply `f` to element `i`. -/
def updAt {α : Type} (l : List α) (i : Nat) (f : α → α) : List α :=
  match l, i with
  | [], _ => []
  | h :: t, 0 => f h :: t
  | h :: t, i + 1 => h :: updAt t i f

/-! ### Cells (log 1: an unlisted byte reads 0) -/

/-- A memory: cells in rising order of address, none of them zero. -/
abbrev Memory := List Host.Cell

namespace Memory

/-- The byte at an address. -/
def read : Memory → Nat → Byte
  | [], _ => 0
  | (a, b) :: m, x => if a = x then b else if x < a then 0 else read m x

/-- Put a byte; a zero is not listed. -/
def write : Memory → Nat → Byte → Memory
  | [], x, v => if v = 0 then [] else [(x, v)]
  | (a, b) :: m, x, v =>
    if x < a then (if v = 0 then (a, b) :: m else (x, v) :: (a, b) :: m)
    else if x = a then (if v = 0 then m else (a, v) :: m)
    else (a, b) :: write m x v

/-- The canonical form: rising addresses above `lo`, no zero. -/
def wfFrom : Nat → Memory → Bool
  | _, [] => true
  | lo, (a, b) :: m => lo ≤ a && b != 0 && wfFrom (a + 1) m

def wf (m : Memory) : Bool := wfFrom 0 m

def readBytes (m : Memory) (x : Nat) : Nat → List Byte
  | 0 => []
  | n + 1 => m.read x :: readBytes m (x + 1) n

def writeBytes (m : Memory) (x : Nat) : List Byte → Memory
  | [] => m
  | b :: bs => writeBytes (m.write x b) (x + 1) bs

end Memory

/-- Little-endian reading of bytes. -/
def leNat : List Byte → Nat
  | [] => 0
  | b :: bs => b.toNat + 256 * leNat bs

/-- The low `n` bytes of a number, lowest first. -/
def leBytes (x : Nat) : Nat → List Byte
  | 0 => []
  | n + 1 => BitVec.ofNat 8 x :: leBytes (x / 256) n

/-- Bytes as register words, the lowest-addressed word first (R234). -/
def toWords : List Byte → List Word
  | a :: b :: c :: d :: t => (d ++ c ++ b ++ a) :: toWords t
  | _ => []

def ofWords : List Word → List Byte
  | [] => []
  | w :: ws => wordBytes w ++ ofWords ws

/-- The key of a physical address in the one list of cells (R204, R205). -/
def Home.key (h : Home) (pa : Nat) : Nat :=
  match h with
  | .own => pa
  | .host => 2 ^ 60 + pa
  | .peer c => 2 ^ 61 + c * 2 ^ 53 + pa

def Xlat.key (x : Xlat) : Nat := x.home.key x.pa

/-! ### Finding and updating -/

abbrev State.time (s : State) : Nat := s.timer.time

def State.fresh (s : State) : State × Nat := ({ s with nextId := s.nextId + 1 }, s.nextId)

def State.team? (s : State) (id : Nat) : Option Team := s.teams.find? (·.id == id)
def State.updTeam (s : State) (id : Nat) (f : Team → Team) : State :=
  { s with teams := s.teams.map fun t => if t.id == id then f t else t }
def State.launch? (s : State) (id : Nat) : Option Launch := s.launches.find? (·.id == id)
def State.updLaunch (s : State) (id : Nat) (f : Launch → Launch) : State :=
  { s with launches := s.launches.map fun l => if l.id == id then f l else l }
def State.command? (s : State) (id : Nat) : Option Command := s.commands.find? (·.id == id)
def State.updCommand (s : State) (id : Nat) (f : Command → Command) : State :=
  { s with commands := s.commands.map fun c => if c.id == id then f c else c }
def State.context (s : State) (id : Nat) : Context := (s.contexts.find? (·.id == id)).getD { id := id }
def State.updContext (s : State) (id : Nat) (f : Context → Context) : State :=
  if s.contexts.any (·.id == id) then
    { s with contexts := s.contexts.map fun c => if c.id == id then f c else c }
  else { s with contexts := f { id := id } :: s.contexts }
def State.cluster (s : State) (cl : Nat) : Cluster := s.clusters.getD cl {}
def State.updCluster (s : State) (cl : Nat) (f : Cluster → Cluster) : State :=
  { s with clusters := updAt s.clusters cl f }
def State.core (s : State) (cl co : Nat) : Core := (s.cluster cl).cores.getD co {}
def State.updCore (s : State) (cl co : Nat) (f : Core → Core) : State :=
  s.updCluster cl fun c => { c with cores := updAt c.cores co f }
def State.pass? (s : State) (id : Nat) : Option Pass := s.passes.find? (·.id == id)
def State.updPass (s : State) (id : Nat) (f : Pass → Pass) : State :=
  { s with passes := s.passes.map fun p => if p.id == id then f p else p }

/-- A lane that holds no live thread. -/
def Thread.gone : Thread := { exited := true }

def Warp.thread (w : Warp) (l : Nat) : Thread := w.threads.getD l Thread.gone
def Team.warp (t : Team) (w : Nat) : Warp := t.warps.getD w {}
def Team.thread (t : Team) (w l : Nat) : Thread := (t.warp w).thread l
def Team.updWarp (t : Team) (w : Nat) (f : Warp → Warp) : Team := { t with warps := updAt t.warps w f }
def Warp.updThread (w : Warp) (l : Nat) (f : Thread → Thread) : Warp := { w with threads := updAt w.threads l f }
def Team.updThread (t : Team) (w l : Nat) (f : Thread → Thread) : Team := t.updWarp w (·.updThread l f)

def State.warp (s : State) (tm w : Nat) : Warp := ((s.team? tm).map (·.warp w)).getD {}
def State.thread (s : State) (tm w l : Nat) : Thread := ((s.team? tm).map (·.thread w l)).getD Thread.gone
def State.updWarp (s : State) (tm w : Nat) (f : Warp → Warp) : State := s.updTeam tm (·.updWarp w f)
def State.updThread (s : State) (tm w l : Nat) (f : Thread → Thread) : State := s.updTeam tm (·.updThread w l f)

/-- Lanes of the live threads of a warp, ascending (R124). -/
def Warp.live (w : Warp) : List Nat := (List.range w.threads.length).filter fun l => !(w.thread l).exited

/-- All live threads of a team. -/
def Team.live (t : Team) : List (Nat × Nat) :=
  (List.range t.warps.length).flatMap fun w => ((t.warp w).live).map fun l => (w, l)

/-- The core a team stands on. -/
def Team.at? (t : Team) : Option (Nat × Nat) :=
  match t.place with
  | .resident cl co => some (cl, co)
  | _ => none

/-- The team's copies, streams and queries go on: it stands on a core and no save has stopped them (R388). -/
def Team.engines (t : Team) : Bool := t.at?.isSome && t.saving.isNone

/-- Cycle stamps of timers lie this far above sr.clk, so that a timer that a team takes to another cluster keeps the
cycles it has counted (R387). -/
def clkBase : Nat := 2 ^ 80

/-- Cluster cycles as the team's core counts them, for timers; a team that is not resident sees none pass (R387). -/
def State.clkOf (s : State) (tm : Nat) : Nat :=
  match (s.team? tm).bind Team.at? with
  | some (cl, _) => clkBase + (s.cluster cl).r.clk
  | none => clkBase

/-- The teams of a team's cohort (R10). -/
def State.cohortOf (s : State) (t : Team) : List Team :=
  s.teams.filter fun u => u.launch == t.launch && u.index / t.prog.cohort == t.index / t.prog.cohort

/-- Team `k` of the cohort (R195), when it still has its scratchpad. -/
def State.cohortTeam? (s : State) (t : Team) (k : Nat) : Option Team :=
  s.teams.find? fun u => !u.killed && u.place != .gone && u.launch == t.launch && u.index == t.index / t.prog.cohort * t.prog.cohort + k

/-- Mask with the bits of the lanes. -/
def laneMask (ls : List Nat) : Word := ls.foldl (fun m l => m ||| BitVec.ofNat 32 (2 ^ l)) 0

/-- A launch whose threads come in pairs (R11). -/
def State.isProtected (s : State) (t : Team) : Bool :=
  match s.launch? t.launch with
  | some l => l.node.prot
  | none => false

/-! ### Scratchpad (R195 to R197) -/

/-- What a scratchpad byte held when the team was placed: zero, or unspecified (R390; log 7). -/
def Team.fill (t : Team) (a : Nat) : Byte :=
  match t.stale with
  | none => 0
  | some (k, gs) => if gs.contains (a / 4096) then Config.freeByte (k + a) else 0

/-- Bytes with what the scratchpad held at placement added or taken away. -/
def Team.mask (t : Team) (a : Nat) (bs : List Byte) : List Byte :=
  match t.stale with
  | none => bs
  | some _ => (bs.zipIdx).map fun (b, i) => b ^^^ t.fill (a + i)

def Team.readScratch (t : Team) (a n : Nat) : List Byte := t.mask a (Memory.readBytes t.scratch a n)
def State.writeScratch (s : State) (tm a : Nat) (bs : List Byte) : State :=
  s.updTeam tm fun t =>
    { t with scratch := Memory.writeBytes t.scratch a (t.mask a bs),
             scratchBad := t.scratchBad.filter fun g => !(a ≤ g && g + 32 ≤ a + bs.length) }

/-! ### Bundles (R116, R118) -/

/-- Take a thread out of whatever bundle holds it. -/
def State.unbundle (s : State) (tm w l : Nat) : State :=
  match (s.team? tm).bind Team.at? with
  | none => s
  | some (cl, co) => s.updCore cl co fun c =>
    { c with bundles := c.bundles.map fun b? => b?.bind fun b =>
        if b.team = tm then
          let ms := b.members.filter (· != (w, l))
          if ms.isEmpty then none else some { b with members := ms }
        else some b }

/-- Dissolve every bundle of a team (R119). -/
def State.dissolve (s : State) (tm : Nat) : State :=
  match (s.team? tm).bind Team.at? with
  | none => s
  | some (cl, co) => s.updCore cl co fun c =>
    { c with bundles := c.bundles.map fun b? => b?.bind fun b => if b.team = tm then none else some b }

/-! ### Waiting (R78, R115) -/

/-- The wait is of a kind that counts toward swap-out; WST, WMX and WCP waits are of none (R78, R97). -/
def Wait.kindSwaps : Wait → Bool
  | .barrier _ | .tbarrier .. | .regs | .stream | .page | .time _ | .horizon _ => true
  | _ => false

/-- A thread waits. The time from which its wait counts toward swap-out goes on while it waits in ways that count, and ends
with any other wait (R78). -/
def Thread.park (th : Thread) (now : Nat) (w : Wait) : Thread :=
  { th with wait := w, waitSince := if w.kindSwaps then some (th.waitSince.getD now) else none }

def Thread.unpark (th : Thread) : Thread := { th with wait := .none, waitSince := none }

/-- A wait that no event ends: whether it holds is looked at again as time passes (R115). -/
def Wait.polled : Wait → Bool
  | .regs | .stream | .retry | .pool => true
  | _ => false

/-- The thread is waiting in a way that counts for R72 (R121, R123). -/
def Wait.counts : Wait → Bool
  | .meeting _ | .collective | .crossLane | .page | .time _ | .horizon _ | .barrier _ | .tbarrier .. => true
  | _ => false

/-! ### Meeting points (R120, R121) -/

/-- The thread is parked at its meeting point. -/
def Thread.atMeeting (th : Thread) : Bool :=
  match th.wait with
  | .meeting _ => true
  | _ => false

/-- Release every meeting group of a warp whose live threads have all parked (R120). -/
def Warp.settleMeetings (w : Warp) : Warp :=
  let ths := w.threads
  { w with threads := ths.map fun th =>
      if !th.exited && th.atMeeting && ths.all fun u => u.exited || u.mr != th.mr || u.atMeeting then
        th.unpark
      else th }

/-- The thread parks when it arrives at the header its meeting register names (R120). -/
def Thread.arriveAt (th : Thread) (hdr : Nat) (prog : Prog) (clk now : Nat) : Thread :=
  let th := { th with pos := { hdr := hdr }, relDone := false, behind := [], sent := false, replay := none, wait := .none, waitSince := none }
  if th.mr != 0xFFFFFFFF && hdr == prog.hdr + th.mr.toNat then th.park now (.meeting clk) else th

/-- Move a thread to a clause header: it leaves its bundle and may park there (R118, R120). -/
def State.arrive (s : State) (tm w l hdr : Nat) : State :=
  match s.team? tm with
  | none => s
  | some t =>
    let clk := s.clkOf tm
    let s := s.unbundle tm w l
    s.updWarp tm w fun wp => (wp.updThread l fun th => th.arriveAt (hdr % 2 ^ 64) t.prog clk s.time).settleMeetings

/-- Where a thread goes after a word of `len` words in a clause of `n` words, repeated `cnt + 1` times under REP. -/
def nextPos (p : Pos) (len n : Nat) (cnt : Option Nat) : Pos :=
  let seq : Pos := if p.word + len ≤ n then { hdr := p.hdr, word := p.word + len }
    else { hdr := p.hdr + 4 * (1 + n), word := 1 }
  match p.rep, cnt with
  | some i, some c => if i < c then { p with rep := some (i + 1) } else seq
  | _, _ => seq

/-- A thread has done its word: it goes on, and arrives at the next header after the last word (R99). -/
def State.advance (s : State) (tm w l len : Nat) (cnt : Option Nat := none) : State :=
  let th := s.thread tm w l
  let q := nextPos th.pos len th.clauseN cnt
  if q.hdr = th.pos.hdr then
    s.updThread tm w l fun th =>
      { th with pos := q, relDone := false, behind := [], sent := false, replay := none, wait := .none, waitSince := none }
  else s.arrive tm w l q.hdr

/-! ### Barriers (R281, R282) -/

/-- Let the threads that wait at a barrier go on, with T_a taken at the release for cohort scope. -/
def State.releaseBarrier (s : State) (tm : Nat) (cohort : Bool) : State :=
  match s.team? tm with
  | none => s
  | some t =>
    t.live.foldl (fun s (w, l) =>
      let th := s.thread tm w l
      if th.wait = .barrier cohort then
        let s := s.updThread tm w l fun th =>
          { th.unpark with tacq := if cohort then max th.tacq s.time else th.tacq }
        s.advance tm w l 1
      else s) s

/-- Complete the team's BAR.T generation when every live thread has arrived. -/
def State.settleBarT (s : State) (tm : Nat) : State :=
  match s.team? tm with
  | none => s
  | some t =>
    if !t.arrT.isEmpty && t.live.all (t.arrT.contains ·) then
      (s.releaseBarrier tm false).updTeam tm fun t => { t with arrT := [] }
    else s

/-- Complete the cohort's BAR.C generation. -/
def State.settleBarC (s : State) (tm : Nat) : State :=
  match s.team? tm with
  | none => s
  | some t =>
    let co := s.cohortOf t
    if co.any (fun u => !u.arrC.isEmpty) && co.all (fun u => u.live.all (u.arrC.contains ·)) then
      co.foldl (fun s u => (s.releaseBarrier u.id true).updTeam u.id fun u => { u with arrC := [] }) s
    else s

/-! ### The ends of a region (R354, R357) -/

/-- The cost counted in a region until the cluster cycle `clk` (R357, R358). -/
def Absorb.cost (a : Absorb) (clk : Nat) : Nat := min 65535 (a.acc + (clk - a.since))

/-- PEND of an owner, which EXIT does too (R132, R354, R368): an open region latches its cost. -/
def Absorb.pend (a : Absorb) (clk : Nat) : Absorb :=
  { a with region := .idle, latched := if a.region = .opened then a.cost clk else a.latched }

/-! ### Streams are closed (R270, R271) -/

def State.updStream (s : State) (tm q : Nat) (f : Stream → Stream) : State :=
  s.updTeam tm fun t => { t with queues := updAt t.queues q f }

/-- Close a queue: rows not taken are discarded, rows taken still arrive (R270). -/
def Stream.close (q : Stream) : Stream :=
  { q with isOpen := false, queue := [], total := 0, fetched := 0, next := 0, blocked := none, roww := 0, parked := false }

/-- A queue's stream is closed: it waits on no page, unless a row taken from it does (R270, R271). -/
def State.closeStream (s : State) (tm q : Nat) : State :=
  let w : Waiter := .stream tm q
  let s := s.updStream tm q Stream.close
  if (s.team? tm).any fun t => t.taken.any fun k => k.q == q && k.parked then s
  else { s with faults := s.faults.map fun (e : FaultEntry) => { e with waiters := e.waiters.filter (· != w) }
                unlisted := s.unlisted.filter fun x => x.1 != w }

/-! ### Ending a thread or a team (R132, R391) -/

/-- EXIT of one thread (R132): it counts as exited everywhere at once. With the last thread the team's streams close, and
the rows already taken go on (R271). -/
def State.exitThread (s : State) (tm w l : Nat) : State :=
  let clk := s.clkOf tm
  let s := s.unbundle tm w l
  let s := s.updWarp tm w fun wp => (wp.updThread l fun th =>
    { th.unpark with exited := true, held := [], rsd := 0, ab := th.ab.pend clk }).settleMeetings
  let last := (s.warp tm w).live.isEmpty
  let s := { s with loads := s.loads.map fun (o : LoadOp) =>
    if o.dst.team == tm && o.dst.warp == w && (o.dst.lane == l || (o.dst.lane == 32 && last)) then { o with dropped := true }
    else o }
  let s := ((s.settleBarT tm).settleBarC tm).updTeam tm fun t => { t with draining := t.draining || t.live.isEmpty }
  if (s.team? tm).any (·.draining) then (List.range 8).foldl (fun s q => s.closeStream tm q) s else s

def Waiter.ofTeam (tm : Nat) (s : State) : Waiter → Bool
  | .thread t _ _ => t == tm
  | .store id => s.stores.any fun o => o.id == id && o.team == tm
  | .copy t _ => t == tm
  | .cpa id => s.cpas.any fun o => o.id == id && o.team == tm
  | .stream t _ => t == tm
  | .dice _ => false
  | .ray id => (s.clusters.any fun c => c.queries.any fun q => q.id == id && q.team == tm)
      || s.teams.any fun t => t.id == tm && t.savedQueries.any (·.id == id)
  | .refill id => s.loads.any fun o => o.id == id && o.dst.team == tm
  | .agent _ => false

/-- Remove the waiters of a team from the fault table (R216, R391). -/
def State.dropWaiters (s : State) (tm : Nat) : State :=
  { s with faults := s.faults.map (fun (e : FaultEntry) => { e with waiters := e.waiters.filter fun w => !w.ofTeam tm s }),
           unlisted := s.unlisted.filter fun x => !x.1.ofTeam tm s }

/-- A team's missing-page count (R212). -/
def State.missingPages (s : State) (tm : Nat) : Nat :=
  (s.faults.filter fun e => e.waiters.any (·.ofTeam tm s)).length
    + (s.unlisted.filter fun x => x.1.ofTeam tm s).length

/-- The earliest time a thread of the teams waits for. -/
def wakeTime (ts : List Team) : Option Nat :=
  (ts.flatMap fun t => t.live.filterMap fun m => match (t.thread m.1 m.2).wait with
    | .time d | .horizon d => some d
    | _ => none).foldl (fun (b : Option Nat) d => some (match b with
      | none => d
      | some x => min x d)) none

/-- A team of a swapped-out unit is killed: its entry goes on for the others, with the time that they wait for and with the
FAULT watch as it was set, so that it fires when no page is missing any more (R80, R81, R391, R392). -/
def WakeEntry.without (e : WakeEntry) (s : State) (tm : Nat) : Option WakeEntry :=
  let ids := (e.team :: e.cohort).eraseDups
  if !ids.contains tm then some e
  else match ids.filter (· != tm) with
  | [] => none
  | x :: l =>
    some { team := x, cohort := x :: l, fault := e.fault
           wake := wakeTime (s.teams.filter fun t => (x :: l).contains t.id) }

/-- Victim tags of a team's slots go when the slots are free (R71, R75). -/
def State.dropVictims (s : State) (t : Team) : State :=
  match t.at? with
  | some (cl, co) => s.updCore cl co fun k =>
      { k with victims := k.victims.filter fun (v : Nat × Nat) => !t.slots.contains v.2 }
  | none => s

/-- Kill a team (R391): every thread stops where it is; what has passed translation is performed, the rest of its work
ends. Its completion bits are set when its drain is done (R49). -/
def State.killTeam (s : State) (tm : Nat) : State :=
  match s.team? tm with
  | none => s
  | some t =>
    let s := ((s.dissolve tm).dropWaiters tm).dropVictims t
    let s := { s with
      loads := s.loads.filter fun (o : LoadOp) => o.dst.team != tm || o.st == LoadState.atHome
      stores := s.stores.filter fun (o : StoreOp) => o.team != tm || o.st == StoreState.translated
      cpas := s.cpas.filter fun (o : CpaOp) => o.team != tm
      batches := s.batches.filter fun (b : Batch) => b.team != tm
      clusters := s.clusters.map fun (c : Cluster) => { c with
        queries := c.queries.filter fun (q : Query) => q.team != tm
        watch := c.watch.filterMap fun (w : WakeEntry) => w.without s tm
        cores := c.cores.map fun (k : Core) =>
          { k with matq := k.matq.map fun (q : List MatOp) => q.filter fun (o : MatOp) => o.team != tm } } }
    let s := { s with loads := s.loads.map fun (o : LoadOp) => if o.dst.team == tm then { o with dropped := true } else o }
    let s := s.updTeam tm fun t => { t with
      failed := true, killed := true, draining := true, saving := none, savedQueries := [], sfq := [], owed := [], chans := List.replicate 8 [], queues := List.replicate 8 {}
      taken := [], tbHolds := [], arrT := [], arrC := []
      warps := t.warps.map fun (w : Warp) => { w with
        decl := 0, boostLines := 0, boostExp := 0
        threads := w.threads.map fun (th : Thread) => { th.unpark with exited := true } } }
    (s.cohortOf t).foldl (fun (s : State) (u : Team) => s.settleBarC u.id) s

/-- A machine check of a launch (R395): the abort is the next turn taken. -/
def State.machineCheck (s : State) (launch cause : Nat) : State :=
  { s with agenda := .event .launchAbort { id := launch, value := cause } :: s.agenda }

/-- The owners' regions when a trap is taken (R354). -/
def Absorb.trapped (a : Absorb) : Absorb :=
  match a.region with
  | .absorbing => { a with region := .idle }
  | .opened => { a with region := .lapsed }
  | _ => a

/-- What a trap reports (R377). -/
structure TrapInfo where
  cause : Nat
  word : Nat
  rep : Option Nat
  hdr : Nat
  raw : Word
  mask : Word
  data : Word := 0
  deriving DecidableEq, Repr

/-- A thread takes a trap (R377): the save registers are written, and the handler is entered; a double trap or a
missing handler kills the team (R379). Machine checks abort the launch instead (R395). -/
def State.takeTrap (s : State) (tm w l : Nat) (ti : TrapInfo) : State :=
  match s.team? tm with
  | none => s
  | some t =>
    if ti.cause = 0x11 ∨ ti.cause = 0x18 then s.machineCheck t.launch ti.cause else
    let th := t.thread w l
    let i := ti.rep.getD 0
    let s := s.updThread tm w l fun th => { th with
      tinfo0 := BitVec.ofNat 32 (i % 64 * 2 ^ 12 + ti.word % 16 * 2 ^ 8 + ti.cause)
      tinfo1 := if ti.word = 0 ∧ ti.cause ≠ 0x0D then 0 else ti.raw
      tinfo2 := ti.mask
      tinfo3 := ti.data
      tret := BitVec.ofNat 64 ti.hdr
      trapRep := ti.rep.isSome
      tretWritten := false }
    if th.handler || t.prog.handler == 0 then s.killTeam tm else
    let s := s.unbundle tm w l
    s.updWarp tm w fun wp => { (wp.updThread l fun th => { th.unpark with
        handler := true, relDone := false, behind := [], sent := false, replay := none, ab := th.ab.trapped
        pos := { hdr := t.prog.hdr + t.prog.handler } }).settleMeetings with ab := wp.ab.trapped }

/-- Return from a trap (R382): handler mode ends and the thread stands where `pos` says. It does not park at a meeting point
there: it comes neither by a transfer nor by falling through (R120; log 15). -/
def State.resumeAt (s : State) (tm w l : Nat) (pos : Pos) : State :=
  let s := s.unbundle tm w l
  s.updThread tm w l fun th =>
    { th.unpark with
      handler := false, tretWritten := false, pos := pos, relDone := false, behind := [], sent := false, replay := none }

end Sys2Proof.Machine
end

