-- ==== Sys2Proof/Machine/Operands.lean ====
section
/-! DEFINITION. Every operand form (04_encoding R84 to R89, R98, R104, R107), the checks a word makes before it acts in
the order of R102, and how a word acts in the threads of its bundle or once for its warp (R118, R123, R166). -/

namespace Sys2Proof.Machine

/-! ### Tags -/

/-- The code of a tag (R83). -/
def Tag.code : Tag → Nat
  | .raw => 0 | .i32 => 1 | .n32 => 2 | .f32 => 3 | .f16x2 => 4 | .b16x2 => 5 | .t8x4 => 6 | .t6x5 => 7
  | .i8x4 => 8 | .n8x4 => 9 | .addr => 10 | .wel => 11 | .sig => 12 | .stat => 13 | .mask => 14 | .poison => 15

def Tag.ofCode (n : Nat) : Tag :=
  match n with
  | 0 => .raw | 1 => .i32 | 2 => .n32 | 3 => .f32 | 4 => .f16x2 | 5 => .b16x2 | 6 => .t8x4 | 7 => .t6x5
  | 8 => .i8x4 | 9 => .n8x4 | 10 => .addr | 11 => .wel | 12 => .sig | 13 => .stat | 14 => .mask | _ => .poison

/-! ### Clause headers (R95) -/

def hdrMark (h : Word) : Nat := bits h.toNat 28 4
def hdrN (h : Word) : Nat := bits h.toNat 24 4
def hdrClass (h : Word) : Nat := bits h.toNat 21 3
def hdrWld (h : Word) : Bool := bitAt h.toNat 20
def hdrWst (h : Word) : Bool := bitAt h.toNat 19
def hdrWmx (h : Word) : Bool := bitAt h.toNat 18
def hdrWcp (h : Word) : Bool := bitAt h.toNat 17
def hdrWtm (h : Word) : Bool := bitAt h.toNat 16
def hdrNr (h : Word) : Bool := bitAt h.toNat 15
def hdrCl (h : Word) : Bool := bitAt h.toNat 14
def hdrSb (h : Word) : Nat := bits h.toNat 12 2

/-- The clause is a collective point (R100). -/
def hdrCollective (h : Word) : Bool := hdrClass h == 0 || hdrCl h

abbrev Issue.cls (iss : Issue) : Nat := hdrClass iss.header
abbrev Issue.sb (iss : Issue) : Nat := hdrSb iss.header

/-- The bundle stays together (R100). -/
def Issue.together (iss : Issue) : Bool := hdrNr iss.header || hdrCollective iss.header

/-! ### Groups of opcodes and the classes that accept them (R98) -/

inductive Group where
  /-- 0x00 to 0x72 and 0x90 to 0x96. -/
  | alu
  /-- SSET and SROT: class 0 alone (R153, R185). -/
  | slot
  | cross
  /-- Memory words for classes 2 and 7. -/
  | mem
  /-- Memory words that class 0 accepts too. -/
  | mem0
  | copy
  | matrix
  /-- SIGB to PEND, and MEMOI. -/
  | memo0
  | memo
  | ray
  | emit
  | transfer
  | repeat_
  /-- MEET and MEETR. -/
  | meet
  | ctl
  /-- LEASE declare, boost and end (R136). -/
  | lease
  | tctl
  deriving DecidableEq, Repr

def Group.accepts (g : Group) (c : Nat) : Bool :=
  match g with
  | .alu => c == 0 || c == 1 || c == 7
  | .slot | .lease => c == 0
  | .cross => c == 1 || c == 7
  | .mem => c == 2 || c == 7
  | .mem0 => c == 0 || c == 2 || c == 7
  | .copy => c == 4 || c == 7
  | .matrix => c == 3 || c == 7
  | .memo0 | .emit => c == 0 || c == 5 || c == 7
  | .memo | .ray => c == 5 || c == 7
  | .transfer | .repeat_ => true
  | .meet => c == 6 || c == 7
  | .ctl | .tctl => c == 0 || c == 6 || c == 7

/-- The opcodes a header with MEMO = 0 makes illegal (R17, R108). -/
def Group.needsMemo : Group → Bool
  | .memo0 | .memo => true
  | _ => false

/-! ### Operands -/

/-- The files a register or predicate field names (R98). -/
inductive RFile where
  | vec | uni | pred | upred
  deriving DecidableEq, Repr

/-- A use of registers or of a predicate by a word: `n` is absolute in its file; `pol` is the policy of an empty source
(R86); `tags` are the tags accepted beside RAW, `none` for any. -/
structure Opnd where
  file : RFile
  n : Nat
  cnt : Nat := 1
  align : Nat := 1
  rd : Bool := false
  wr : Bool := false
  pol : Bool := false
  tags : Option (List Tag) := none
  /-- Its POISON is a machine check (R85). -/
  machine : Bool := true
  deriving DecidableEq, Repr

/-- The registers a 7-bit field names: v, or s of the clause's bank in class 0 (R98). -/
def Issue.reg (iss : Issue) (n : Nat) : Opnd :=
  if iss.cls = 0 then { file := .uni, n := 128 * iss.sb + n } else { file := .vec, n := n }

/-- A predicate: p, or sp in class 0. -/
def Issue.prd (iss : Issue) (n : Nat) : Opnd :=
  { file := if iss.cls = 0 then .upred else .pred, n := n }

/-- A uniform register by its 9-bit number (R255, R393). -/
def uniOpnd (n cnt align : Nat) : Opnd := { file := .uni, n := n, cnt := cnt, align := align, rd := true }

/-- A field that names a unit the warp has not got is out of its range (R88, R89): an operand that breaks its range and
nothing else, so that cause 0x04 takes its place in R102's order. -/
def absentUnit : Opnd := { file := .upred, n := 1, cnt := 0, align := 2 }

def Opnd.src (o : Opnd) (tags : Option (List Tag)) : Opnd := { o with rd := true, tags := tags }
def Opnd.dst (o : Opnd) : Opnd := { o with wr := true }
def Opnd.grp (o : Opnd) (cnt align : Nat) : Opnd := { o with cnt := cnt, align := align }
/-- A group whose size a field gives: four and eight registers are aligned, other sizes need no alignment (R89; log 76). -/
def Opnd.many (o : Opnd) (cnt : Nat) : Opnd := o.grp cnt (if cnt = 4 ∨ cnt = 8 then cnt else 1)

/-! ### What a word sees -/

/-- A word in one thread, or in its warp with `l` the lowest live lane (R166). -/
structure Ctx where
  t : Team
  w : Nat
  l : Nat
  iss : Issue
  deriving DecidableEq, Repr

abbrev Ctx.wp (c : Ctx) : Warp := c.t.warp c.w
abbrev Ctx.th (c : Ctx) : Thread := c.t.thread c.w c.l

/-- A register or predicate as a word reads it: uniform registers read as RAW (R84), p7 and sp7 as true (R87). -/
def Ctx.cell (c : Ctx) (f : RFile) (n : Nat) : Reg :=
  match f with
  | .vec => c.th.v.getD n {}
  | .uni => let r := c.wp.s.getD n {}; { val := r.val, full := r.full, signed := r.signed }
  | .pred => if n = 7 then { val := 1, signed := true } else
      let r := c.th.p.getD n {}; { val := if r.val then 1 else 0, full := r.full, signed := r.signed }
  | .upred => if n = 7 then { val := 1, signed := true } else
      let r := c.wp.sp.getD n {}; { val := if r.val then 1 else 0, full := r.full, signed := r.signed }

def Ctx.rd (c : Ctx) (o : Opnd) (k : Nat := 0) : Word := (c.cell o.file (o.n + k)).val
def Ctx.tag (c : Ctx) (o : Opnd) (k : Nat := 0) : Tag := (c.cell o.file (o.n + k)).tag
def Ctx.isTrue (c : Ctx) (o : Opnd) : Bool := c.rd o != 0
/-- A 64-bit pair, low half first. -/
def Ctx.pair (c : Ctx) (o : Opnd) : Nat := (c.rd o).toNat + 2 ^ 32 * (c.rd o 1).toNat

/-- The declared number of registers of a file (R17). -/
def Ctx.declared (c : Ctx) : RFile → Nat
  | .vec => c.t.prog.vregs
  | .uni => c.t.prog.sregs
  | _ => 8

/-- The operand breaks a declared count or its alignment (R89). -/
def Ctx.outOfRange (c : Ctx) (o : Opnd) : Bool :=
  o.n + o.cnt > c.declared o.file || o.n % o.align != 0

def Ctx.anyEmpty (c : Ctx) (o : Opnd) : Bool := (List.range o.cnt).any fun k => !(c.cell o.file (o.n + k)).full

/-- The word waits: a destination or a blocking source is empty (R86). -/
def Ctx.blocked (c : Ctx) (os : List Opnd) : Bool :=
  os.any fun o => (o.wr || (o.rd && !o.pol)) && c.anyEmpty o

/-- A source refuses its register's tag (R84). -/
def Ctx.badTag (c : Ctx) (o : Opnd) : Bool :=
  match o.tags with
  | none => false
  | some ts => o.rd && !c.th.perm && (List.range o.cnt).any fun k =>
      let t := c.tag o k
      t != .raw && t != .poison && !ts.contains t

def Ctx.poisoned (c : Ctx) (o : Opnd) : Bool :=
  o.rd && o.machine && (List.range o.cnt).any fun k => c.tag o k == .poison

/-- A thread is in a pure region of its own or of its warp (R354); a class 0 word acts for every live thread. -/
def Ctx.inRegion (c : Ctx) : Bool :=
  c.wp.ab.region == .opened || (if c.iss.cls = 0 then c.wp.live else [c.l]).any fun l => (c.wp.thread l).ab.region == .opened

/-- A source reads an unsigned input inside a region (R355). A class 0 word reads for every live thread of its warp, so that a
region of any of them forbids it the uniform files. -/
def Ctx.unsigned (c : Ctx) (o : Opnd) : Bool :=
  let own := (if c.iss.cls = 0 then c.wp.live else [c.l]).any fun l => (c.wp.thread l).ab.region == .opened
  let isUni := o.file == .uni || (o.file == .upred && o.n != 7)
  o.rd && ((own && isUni)
    || ((if isUni then c.wp.ab.region == .opened else own)
      && (List.range o.cnt).any fun k => !(c.cell o.file (o.n + k)).signed))

/-- Why a word does not act in a thread. -/
inductive Stop where
  | hold
  | trap (cause : Nat)
  deriving DecidableEq, Repr

/-- The checks of one thread in the order of R102, then the machine check of R85 and the region's checks (R355, R356);
`value` is the cause of a bad operand value (0x03, 0x04, 0x09 or 0x0A), `pure` says that a region forbids the word. -/
def Ctx.checks (c : Ctx) (os : List Opnd) (value : Option Nat) (pure : Bool) : Option Stop :=
  if value = some 0x03 ∧ !c.blocked os then some (.trap 0x03)
  else if os.any c.outOfRange then some (.trap 0x04)
  else if c.blocked os then some .hold
  else match value with
  | some k => some (.trap k)
  | none =>
    if os.any fun o => o.rd && o.pol && c.anyEmpty o then some (.trap 0x06)
    else if os.any c.badTag then some (.trap 0x05)
    else if os.any c.poisoned then some (.trap 0x18)
    else if os.any c.unsigned then some (.trap 0x0F)
    else if pure && c.inRegion then some (.trap 0x0E)
    else none

/-! ### A word as a whole -/

/-- What is known of a word before any thread's registers are looked at. -/
structure Form where
  grp : Group
  wf : Bool := true
  /-- Words it takes. -/
  len : Nat := 1
  /-- A field stepped under REP left its range (R107). -/
  past : Bool := false
  /-- A user warp may not issue it (R90, R108). -/
  priv : Bool := false
  /-- It must be the last word of its clause (R99, R382). -/
  last : Bool := false
  /-- It must stand in a collective clause (R255, R267, R393). -/
  coll : Bool := false
  os : List Opnd := []
  /-- A pure region forbids it (R356). -/
  pure : Bool := false
  /-- The register whose value a trapping store reports (R91). -/
  data : Option Opnd := none
  /-- No thread acts before a lower one of the issue that found no miss-status entry (R201, R434). -/
  inOrder : Bool := false
  deriving DecidableEq, Repr

/-- The causes common to every thread of the issue (R102): 0x01, 0x16, 0x02, 0x03, and 0x04 for a stepped field. -/
def Form.precheck (fm : Form) (iss : Issue) (t : Team) : Option Nat :=
  if fm.grp.needsMemo && !t.prog.memo then some 0x01
  else if fm.priv && !t.priv then some 0x16
  else if !fm.grp.accepts iss.cls || (fm.last && iss.word != hdrN iss.header)
    || (fm.coll && !hdrCollective iss.header)
    || iss.word + fm.len > hdrN iss.header + 1 then some 0x02
  else if !fm.wf then some 0x03
  else if fm.past then some 0x04
  else none

/-! ### Writing -/

/-- Write a register full, with the signed-input bit that R355 gives it. -/
def Thread.setReg (th : Thread) (n : Nat) (v : Word) (tag : Tag) (signed : Bool) : Thread :=
  { th with v := setAt th.v n { val := v, tag := tag, full := true, signed := signed } }
def Thread.setPred (th : Thread) (n : Nat) (v : Bool) (signed : Bool) : Thread :=
  { th with p := setAt th.p n { val := v, full := true, signed := signed } }
def Warp.setUni (wp : Warp) (n : Nat) (v : Word) : Warp :=
  { wp with s := setAt wp.s n { val := v, full := true, signed := wp.ab.region == .opened } }
def Warp.setUpred (wp : Warp) (n : Nat) (v : Bool) : Warp :=
  { wp with sp := setAt wp.sp n { val := v, full := true, signed := wp.ab.region == .opened } }

/-- Write one register or predicate of a warp; a write to p7 or sp7 is discarded (R87). -/
def Warp.setCell (wp : Warp) (l : Nat) (f : RFile) (n : Nat) (v : Word) (tag : Tag) : Warp :=
  let sg := (wp.thread l).ab.region == .opened || wp.ab.region == .opened
  match f with
  | .vec => wp.updThread l (·.setReg n v tag sg)
  | .uni => wp.setUni n v
  | .pred => if n = 7 then wp else wp.updThread l (·.setPred n (v != 0) sg)
  | .upred => if n = 7 then wp else wp.setUpred n (v != 0)

/-- Mark a register or predicate empty (R86). -/
def Warp.emptyCell (wp : Warp) (l : Nat) (f : RFile) (n : Nat) : Warp :=
  match f with
  | .vec => wp.updThread l fun th => { th with v := updAt th.v n fun r => { r with full := false } }
  | .uni => { wp with s := updAt wp.s n fun r => { r with full := false } }
  | .pred => if n = 7 then wp else wp.updThread l fun th => { th with p := updAt th.p n fun r => { r with full := false } }
  | .upred => if n = 7 then wp else { wp with sp := updAt wp.sp n fun r => { r with full := false } }

/-- Write the registers of a group, `ws` in ascending order. -/
def Warp.setGroup (wp : Warp) (l : Nat) (o : Opnd) (ws : List (Word × Tag)) : Warp :=
  (ws.zipIdx).foldl (fun wp (x, k) => wp.setCell l o.file (o.n + k) x.1 x.2) wp

/-! ### Acting in the threads of an issue -/

/-- How a word went in one thread, or in its warp. -/
inductive LaneRes where
  | done
  /-- The thread waits; the word is not done (R115). -/
  | stay (w : Wait)
  | trap (cause : Nat)
  /-- The thread's position has been set by the word itself. -/
  | moved
  deriving DecidableEq, Repr

/-- The threads that a result concerns: every live thread of the warp in class 0 (R114, R124). -/
def Issue.lanes (iss : Issue) (t : Team) (m : Nat × Nat) : List (Nat × Nat) :=
  if iss.cls = 0 then ((t.warp m.1).live).map fun l => (m.1, l) else [m]

/-- The word of the trap report. -/
def Issue.trapInfo (iss : Issue) (cause : Nat) (mask data : Word) : TrapInfo :=
  { cause := cause, word := iss.word, rep := iss.rep, hdr := iss.hdr, raw := iss.raw, mask := mask, data := data }

/-- The position of the word that issues. -/
def Issue.pos (iss : Issue) : Pos := { hdr := iss.hdr, word := iss.word, rep := iss.rep }

/-- In a protected launch a precise trap must be raised by both members at one word (R399): the partner of a thread that
traps alone must trap where it stands, and a partner that has gone on breaks the pair. -/
def Issue.pairTrap (iss : Issue) (traps : List ((Nat × Nat) × Nat × Word)) (m : Nat × Nat) (cause : Nat) (s : State) :
    State :=
  match s.team? iss.team with
  | none => s
  | some t =>
    let p := (m.1, m.2 ^^^ 1)
    let me := t.thread m.1 m.2
    let other := t.thread p.1 p.2
    if !s.isProtected t || iss.cls = 0 then s
    else if traps.any fun x => x.1 == p && x.2.1 == cause then s
    else if me.mustTrap = some iss.pos then s.updThread iss.team m.1 m.2 fun th => { th with mustTrap := none }
    else if me.mustTrap.isSome || other.exited || (iss.members.contains p && other.pos != iss.pos) || other.mustTrap.isSome then
      s.machineCheck t.launch 0x11
    else s.updThread iss.team p.1 p.2 fun th => { th with mustTrap := some iss.pos }

/-- Deliver the traps of one issue with the masks of R377. -/
def Issue.deliverTraps (iss : Issue) (traps : List ((Nat × Nat) × Nat × Word)) (s : State) : State :=
  traps.foldl (fun s (m, cause, data) =>
    if (s.thread iss.team m.1 m.2).exited then s else
    let mask := laneMask ((traps.filter fun x => x.2.1 == cause).map fun x => x.1.2)
    (iss.pairTrap traps m cause s).takeTrap iss.team m.1 m.2 (iss.trapInfo cause mask data)) s

/-- A thread that must trap where its partner trapped has gone past the word instead (R399). -/
def Issue.missedTrap (iss : Issue) (x : Nat × Nat) (s : State) : State :=
  if (s.thread iss.team x.1 x.2).mustTrap = some iss.pos then
    s.machineCheck (((s.team? iss.team).map (·.launch)).getD 0) 0x11
  else s

/-- The members that act: the whole warp once in class 0, through its lowest live lane (R98). -/
def Issue.actors (iss : Issue) (t : Team) : List (Nat × Nat) :=
  if iss.cls = 0 then
    match iss.members with
    | [] => []
    | (w, l) :: _ => [(w, ((t.warp w).live).headD l)]
  else iss.members.filter fun m => !(t.thread m.1 m.2).exited

/-- A thread that is not ready waits, and leaves its bundle or holds it (R78, R100, R118). -/
def State.holdLane (s : State) (tm : Nat) (leave : Bool) (w : Wait) (m : Nat × Nat) : State :=
  let s := s.updThread tm m.1 m.2 fun th => th.park s.time w
  if leave then s.unbundle tm m.1 m.2 else s

/-- A wait for the rest of a tile takes a thread out of its bundle; in a clause that keeps its bundle any other holds it
(R118). -/
def Issue.leaves (iss : Issue) (w : Wait) : Bool := !iss.together || w == .crossLane

/-- Some lanes of the issue found no free miss-status entry and are replayed: the others, whose accesses were accepted,
issue no word after it until all are (R201). A bundle that stays together holds them by itself. -/
def Issue.holdMates (iss : Issue) (rs : List ((Nat × Nat) × LaneRes × Word)) (s : State) : State :=
  let short := (rs.filter fun x => x.2.1 == .stay .mshr).map (·.1)
  if short.isEmpty then s else
  let g := ((short.filterMap fun m => (s.thread iss.team m.1 m.2).replay).head?).getD s.nextId
  let s := short.foldl (fun s m => s.updThread iss.team m.1 m.2 fun th => { th with replay := some g }) s
  rs.foldl (fun s x =>
    let th := s.thread iss.team x.1.1 x.1.2
    if x.2.1 == .done && !th.exited && th.wait == .none && (!iss.together || th.pos.hdr != iss.hdr) then
      s.holdLane iss.team true (.mates g) x.1
    else s) s

/-- Finish a word in the threads it concerns. -/
def Issue.finish (iss : Issue) (len : Nat) (rs : List ((Nat × Nat) × LaneRes × Word)) (s : State) : State :=
  match s.team? iss.team with
  | none => s
  | some t =>
    let s := rs.foldl (fun s (m, r, _) =>
      match r with
      | .done => (iss.lanes t m).foldl (fun s x =>
          if (s.thread iss.team x.1 x.2).exited then s
          else iss.missedTrap x (s.advance iss.team x.1 x.2 len iss.cnt)) s
      | .stay w => (iss.lanes t m).foldl (fun s x => s.holdLane iss.team (iss.leaves w) w x) s
      | .moved => if (s.thread iss.team m.1 m.2).pos = iss.pos then s else iss.missedTrap m s
      | .trap _ => s) s
    iss.holdMates rs (iss.deliverTraps (rs.flatMap fun (m, r, d) =>
      match r with
      | .trap c => (iss.lanes t m).map fun x => (x, c, d)
      | _ => []) s)

/-- One thread's part of a word: its own checks, then its action upon what the threads before it have left. `t` is the team
as the word found it, whose operands are read. -/
def Form.lane (fm : Form) (iss : Issue) (value : Ctx → Option Nat) (act : State → Ctx → State × LaneRes) (t : Team)
    (acc : State × List ((Nat × Nat) × LaneRes × Word)) (m : Nat × Nat) : State × List ((Nat × Nat) × LaneRes × Word) :=
  let c : Ctx := ⟨t, m.1, m.2, iss⟩
  let data := (fm.data.map c.rd).getD 0
  match c.checks fm.os (value c) fm.pure with
  | some .hold => acc
  | some (.trap k) => (acc.1, acc.2 ++ [(m, LaneRes.trap k, data)])
  | none =>
    if fm.inOrder && acc.2.any (·.2.1 == .stay .mshr) then (acc.1, acc.2 ++ [(m, LaneRes.stay .mshr, data)]) else
    match acc.1.team? iss.team with
    | none => acc
    | some t' =>
      let (s, r) := act acc.1 ⟨t', m.1, m.2, iss⟩
      (s, acc.2 ++ [(m, r, data)])

/-- Run a word: the common checks; then, unless its bundle must be held (R100), the checks and the action of each thread
in ascending lane order, or once for the warp in class 0. -/
def Form.perform (fm : Form) (iss : Issue) (value : Ctx → Option Nat) (act : State → Ctx → State × LaneRes)
    (s : State) : State :=
  match s.team? iss.team with
  | none => s
  | some t =>
    match fm.precheck iss t with
    | some c =>
      let ms := (iss.actors t).flatMap (iss.lanes t)
      iss.deliverTraps (ms.map fun m => (m, c, 0)) s
    | none =>
      let ms := iss.actors t
      let held := ms.filter fun m => let c : Ctx := ⟨t, m.1, m.2, iss⟩; c.checks fm.os (value c) fm.pure == some .hold
      if iss.together && !held.isEmpty then
        (held.flatMap (iss.lanes t)).foldl (fun s m => s.holdLane iss.team false .regs m) s
      else
        let s := held.foldl (fun s m => s.holdLane iss.team true .regs m) s
        let (s, rs) := ms.foldl (fm.lane iss value act t) (s, [])
        iss.finish fm.len rs s

/-- Run a word once for its warp, outside class 0 too: every operand is looked at in each thread, the action is taken
through the lowest live thread, and its outcome holds for all of them (R255, R286, R393). -/
def Form.performOnce (fm : Form) (iss : Issue) (value : Ctx → Option Nat) (act : State → Ctx → State × LaneRes)
    (s : State) : State :=
  match s.team? iss.team with
  | none => s
  | some t =>
    let ms := (iss.actors t).flatMap (iss.lanes t)
    let all (c : Nat) (s : State) : State := iss.deliverTraps (ms.map fun m => (m, c, 0)) s
    match fm.precheck iss t with
    | some c => all c s
    | none =>
      let stops := ms.filterMap fun m => let c : Ctx := ⟨t, m.1, m.2, iss⟩; c.checks fm.os (value c) fm.pure
      if stops.contains .hold then ms.foldl (fun s m => s.holdLane iss.team false .regs m) s
      else match stops, ms with
      | .trap c :: _, _ => all c s
      | _, [] => s
      | _, m :: _ =>
        let (s, r) := act s ⟨t, m.1, m.2, iss⟩
        iss.finish fm.len (match r with
          | .done | .stay _ | .trap _ => if iss.cls = 0 then [(m, r, 0)] else ms.map fun x => (x, r, 0)
          | .moved => []) s

/-- Run a meaning on the word that issues; with no word issuing nothing happens. -/
def withIssue (s : State) (k : Issue → State → State) : Out :=
  match s.issue with
  | none => .next s
  | some iss => .next (k iss { s with issue := none })

/-! ### Effects of a word on registers and flags alone (R142, R166) -/

/-- What a register word does in one thread or once for the warp. -/
structure Eff where
  regs : List (Opnd × List (Word × Tag)) := []
  fl : FpFlags := 0
  ist : IntFlags := 0
  /-- Patterns of magnitudes folded into a scale slot (R151). -/
  folds : List (Nat × Nat) := []
  slot : Option (Nat × ScaleSlot) := none
  /-- New side-list state and the entries appended (R156). -/
  side : Option (Word × BitVec 16) := none
  scratch : List (Nat × List Byte) := []
  trap : Option Nat := none
  deriving DecidableEq, Repr

/-- The enabled floating-point traps in the order of the flags (R93). -/
def Thread.fpTraps (th : Thread) : FpFlags := th.fpctl.extractLsb' 2 5
def Thread.rm (th : Thread) : Nat := (th.fpctl.extractLsb' 0 2).toNat
def Thread.idte (th : Thread) : Bool := th.fpctl.getLsbD 7

/-- The cause an effect's flags raise, if any (R142, R144). -/
def Eff.cause (e : Eff) (th : Thread) : Option Nat :=
  match e.trap with
  | some k => some k
  | none =>
    if e.fl &&& th.fpTraps ≠ 0 then some 0x07
    else if th.idte && (e.ist &&& 3) ≠ 0 then some 0x08
    else none

/-- Fold a magnitude into a slot (R151): a NaN is not folded. -/
def ScaleSlot.fold (k : ScaleSlot) (mag : Nat) : ScaleSlot :=
  if mag > fmtF32.infBits then k else { k with cm := max k.cm mag }

/-- Set flags in a thread, or in every live thread of the warp in class 0. -/
def Issue.setFlags (iss : Issue) (m : Nat × Nat) (fl : FpFlags) (ist : IntFlags) (s : State) : State :=
  if fl = 0 ∧ ist = 0 then s else
  match s.team? iss.team with
  | none => s
  | some t => (iss.lanes t m).foldl (fun s x => s.updThread iss.team x.1 x.2 fun th =>
      { th with fpst := th.fpst ||| fl, ist := th.ist ||| ist }) s

/-- Carry an effect out. -/
def Eff.apply (e : Eff) (iss : Issue) (m : Nat × Nat) (s : State) : State :=
  let s := iss.setFlags m e.fl e.ist s
  let s := s.updWarp iss.team m.1 fun wp =>
    let wp := e.regs.foldl (fun wp x => wp.setGroup m.2 x.1 x.2) wp
    let wp := e.folds.foldl (fun (wp : Warp) x => { wp with slots := updAt wp.slots x.1 (·.fold x.2) }) wp
    let wp := match e.slot with
      | some (k, v) => { wp with slots := setAt wp.slots k v }
      | none => wp
    match e.side with
    | some (sl, sx) => wp.updThread m.2 fun th => { th with sidel := sl, sidex := sx }
    | none => wp
  e.scratch.foldl (fun s x => s.writeScratch iss.team x.1 x.2) s

/-- The action of a register word: its effect, or the trap its flags raise, which sets them (R142). -/
def effAct (iss : Issue) (run : Ctx → Eff) (s : State) (c : Ctx) : State × LaneRes :=
  let e := run c
  match e.cause c.th with
  | none => (e.apply iss (c.w, c.l) s, .done)
  | some 0x07 => (iss.setFlags (c.w, c.l) e.fl 0 s, .trap 0x07)
  | some 0x08 => (iss.setFlags (c.w, c.l) 0 e.ist s, .trap 0x08)
  | some k => (s, .trap k)

/-- A register word: no value check. -/
def regWord (fm : Issue → Form) (run : Issue → Ctx → Eff) (s : State) : Out :=
  withIssue s fun iss => (fm iss).perform iss (fun _ => none) (effAct iss (run iss))

/-! ### Fields stepped under REP (R107) -/

def Issue.dF (iss : Issue) (d : BitVec 7) : Nat := d.toNat + iss.stepD
def Issue.aF (iss : Issue) (a : BitVec 7) : Nat := a.toNat + iss.stepA
def Issue.bF (iss : Issue) (b : BitVec 7) : Nat := b.toNat + iss.stepB
def Issue.pdF (iss : Issue) (pd : BitVec 3) : Nat := pd.toNat + iss.stepD

/-- A stepped register field beyond 127. A field that the format has and the instruction does not use is stepped too; only its
encoded value, which is 0, is held to R104's reserved fields, and what the steps make of it matters here alone (log 78). -/
def Issue.past (iss : Issue) (d a b : Nat) : Bool :=
  (iss.stepD != 0 && d > 127) || (iss.stepA != 0 && a > 127) || (iss.stepB != 0 && b > 127)

end Sys2Proof.Machine

namespace Sys2Proof

open Machine

/-! ### The register formats (R104) -/

def A3.dst (f : A3) (iss : Issue) : Opnd := (iss.reg (iss.dF f.d)).dst
def A3.srcA (f : A3) (iss : Issue) (tags : Option (List Tag)) : Opnd :=
  { (iss.reg (iss.aF f.a)).src tags with pol := f.ea == 1 }

/-- The b source: with bs = 1 outside class 0, a uniform register of the clause's bank (R98). -/
def Machine.bOpnd (iss : Issue) (b : BitVec 7) (bs eb : BitVec 1) (tags : Option (List Tag)) : Opnd :=
  let o : Opnd := if bs == 1 && iss.cls != 0 then { file := .uni, n := 128 * iss.sb + iss.bF b } else iss.reg (iss.bF b)
  { o.src tags with pol := eb == 1 }

def A3.srcB (f : A3) (iss : Issue) (tags : Option (List Tag)) : Opnd := bOpnd iss f.b f.bs f.eb tags
def A3.past (f : A3) (iss : Issue) : Bool := iss.past (iss.dF f.d) (iss.aF f.a) (iss.bF f.b)

def P3.srcA (f : P3) (iss : Issue) (tags : Option (List Tag)) : Opnd :=
  { (iss.reg (iss.aF f.a)).src tags with pol := f.ea == 1 }
def P3.srcB (f : P3) (iss : Issue) (tags : Option (List Tag)) : Opnd := bOpnd iss f.b f.bs f.eb tags
def P3.pdst (f : P3) (iss : Issue) : Opnd := (iss.prd (iss.pdF f.pd)).dst
/-- The stepped predicate destination leaves p0-p7. -/
def Machine.pdOver (iss : Issue) (pd : BitVec 3) : Bool := iss.stepD != 0 && iss.pdF pd > 7
/-- A stepped source field that names a predicate leaves p0-p7. -/
def Machine.predOver (iss : Issue) (a : BitVec 7) : Bool := iss.stepA != 0 && iss.aF a > 7
def P3.past (f : P3) (iss : Issue) : Bool := pdOver iss f.pd || iss.past 0 (iss.aF f.a) (iss.bF f.b)

/-- A 7-bit field that names a predicate, stepped. -/
def Machine.Issue.predA (iss : Issue) (a : BitVec 7) (ea : BitVec 1) : Opnd :=
  { (iss.prd (iss.aF a)).src none with pol := ea == 1 }
def Machine.Issue.predB (iss : Issue) (b : BitVec 7) (eb : BitVec 1) : Opnd :=
  { (iss.prd (iss.bF b)).src none with pol := eb == 1 }

/-- The result of a predicate word (R168). -/
def Machine.predRes (o : Opnd) (b : Bool) : Opnd × List (Word × Tag) := (o, [(if b then 1 else 0, .raw)])

/-- Format A3 with two sources; `useD` reads the destination too. -/
def A3.form (f : A3) (iss : Issue) (wf useB useD : Bool) (ta tb td : Option (List Tag)) : Form :=
  { grp := .alu, wf := wf, past := f.past iss
    os := [f.srcA iss ta] ++ (if useB then [f.srcB iss tb] else [])
      ++ [{ f.dst iss with rd := useD, tags := if useD then td else none }] }

def AI.form (f : AI) (iss : Issue) (wf : Bool) (ta : Option (List Tag)) : Form :=
  { grp := .alu, wf := wf, past := iss.past (iss.dF f.d) (iss.aF f.a) 0
    os := [(iss.reg (iss.aF f.a)).src ta, (iss.reg (iss.dF f.d)).dst] }

def P3.form (f : P3) (iss : Issue) (wf : Bool) (ta tb : Option (List Tag)) : Form :=
  { grp := .alu, wf := wf, past := f.past iss, os := [f.srcA iss ta, f.srcB iss tb, f.pdst iss] }

end Sys2Proof
end

