-- ==== Sys2Proof/Machine/Translate.lean ====
section
/-! DEFINITION. Translation (08_memory_paths R206 to R210), the fault table and page requests (R211 to R213, R215, R459). -/

namespace Sys2Proof.Machine

/-! ### Module memory -/

/-- The 64-bit word at a physical address of module memory. -/
def State.mem64 (s : State) (pa : Nat) : Nat := leNat (Memory.readBytes s.mem pa 8)

/-- Bytes of module memory and of the save region on the grade that the configuration record names (R1, R386). -/
def State.moduleBytes (s : State) : Nat := Config.moduleBytes s.record.grade512
def State.saveBytes (s : State) : Nat := Config.saveBytes s.record.grade512

/-- `n` bytes from `pa` lie in module memory. -/
def State.inModule (s : State) (pa n : Nat) : Bool := pa + n ≤ s.moduleBytes

/-- The pages of R34, which translations may name. -/
def isDoorbell (pa : Nat) : Bool := Config.doorbellBase ≤ pa && pa < Config.doorbellBase + 64 * 4096

/-- A local physical address that a translation may give (R209). -/
def State.localOk (s : State) (pa : Nat) : Bool := pa < s.moduleBytes - s.saveBytes || isDoorbell pa

/-- Some 32-byte granule of `n` bytes from `pa` is in error (R458). -/
def State.badAt (s : State) (pa n : Nat) : Bool := s.badGranules.any fun g => g < pa + n && pa < g + 32

/-- A canonical virtual address (R6). -/
def canonical (va : Nat) : Bool := bits va 57 7 == if bitAt va 56 then 127 else 0

/-! ### The walk (R206 to R209) -/

/-- How a walk ends. An absent unit carries its base, its size and the physical address of the entry with V = 0. -/
inductive Walk where
  | ok (xl : Xlat) (base size : Nat) (range : Bool)
  | absent (base size watch : Nat)
  | prot
  /-- An uncorrectable error met by the walk (R395). -/
  | bad
  deriving DecidableEq, Repr

/-- The attributes of bits 9:0 of an entry (R208). -/
def xlatOf (s : State) (attr peer pa : Nat) : Option Xlat :=
  let x : Xlat := { pa := pa, r := bitAt attr 1, w := bitAt attr 2, x := bitAt attr 3, u := bitAt attr 4
                    imm := bitAt attr 7, lclass := bits attr 5 2 }
  match bits attr 8 2 with
  | 0 => if s.localOk pa then some x else none
  | 1 => if s.peers.any fun p => p.chip == peer && p.routed then some { x with home := .peer peer } else none
  | 2 => some { x with home := .host }
  | _ => none

/-- The sixteen entries of a 64 KiB page agree and step by 4 KiB (R208). -/
def c64Ok (s : State) (table idx : Nat) : Bool :=
  let e0 := s.mem64 (table + 8 * (idx / 16 * 16))
  (List.range 16).all fun k => s.mem64 (table + 8 * (idx / 16 * 16 + k)) == e0 + k * 4096

/-- Walk a page table from level `4 - n` down for the offset `off` from the address `base` (R207, R208). -/
def tableWalk (s : State) (base off : Nat) : Nat → Nat → Walk × List Nat
  | 0, _ => (.prot, [])
  | n + 1, table =>
    if !s.inModule table 4096 then (.prot, []) else
    let shift := 12 + 9 * n
    let idx := off >>> shift % 512
    let pa := table + 8 * idx
    if s.badAt pa 8 then (.bad, [pa]) else
    let e := s.mem64 pa
    let at_ := base + off / 2 ^ shift * 2 ^ shift
    let epa := bits e 12 40 * 4096
    let c64 := bitAt e 11
    let leaf := bitAt e 10
    if bits e 56 8 != 0 || (c64 && n != 0) || (leaf && n != 1) then (.prot, [pa])
    else if c64 && s.badAt (table + 8 * (idx / 16 * 16)) 128 then (.bad, [pa])
    else if c64 && !c64Ok s table idx then (.prot, [pa])
    else if c64 then
      let base64 := base + off / 2 ^ 16 * 2 ^ 16
      if !bitAt e 0 then (.absent base64 (2 ^ 16) pa, [pa])
      else match xlatOf s e (bits e 52 4) (epa + off % 4096) with
        | none => (.prot, [pa])
        | some x => (.ok { x with pa := epa - idx % 16 * 4096 } base64 (2 ^ 16) false, [pa])
    else if !bitAt e 0 then (.absent at_ (2 ^ shift) pa, [pa])
    else if n == 0 || leaf then
      if leaf && epa % 2 ^ 21 != 0 then (.prot, [pa])
      else match xlatOf s e (bits e 52 4) (epa + off % 2 ^ shift) with
        | none => (.prot, [pa])
        | some x => (.ok { x with pa := epa } at_ (2 ^ shift) false, [pa])
    else
      let (r, ls) := tableWalk s base off n epa
      (r, pa :: ls)

/-- Signed sum of an address and a 64-bit offset, as a physical address. -/
def offsetPa (va off : Nat) : Nat := (va + off) % 2 ^ 64

/-- Walk the leaf entry at `pa` for an address whose page number of 64 KiB is `k16`, from the entry's key (R207). Its
three words are read, which may stand on two lines. -/
def entryWalk (s : State) (va k16 key pa : Nat) : Walk × List Nat :=
  if s.badAt pa 24 then (.bad, [pa, pa + 16]) else
  let w0 := s.mem64 pa
  let w1 := s.mem64 (pa + 8)
  let w2 := s.mem64 (pa + 16)
  let limit := bits w0 0 41
  let va0 := va - (k16 - key) * 65536 - va % 65536
  let read := [pa, pa + 16]
  if bits w0 41 22 != 0 || bits w2 14 50 != 0 || limit ≤ k16 then (.prot, read)
  else if bitAt w0 63 then
    if bits w1 0 12 != 0 || limit - key > 2 ^ 32 then (.prot, read)
    else if !bitAt w2 0 then (.absent va0 ((limit - key) * 65536) (pa + 16), read)
    else
      let (r, ls) := tableWalk s va0 (va - va0) 4 w1
      (r, read ++ ls)
  else if bits w1 0 16 != 0 || (bits w2 8 2 != 1 && bits w2 10 4 != 0) then (.prot, read)
  else if !bitAt w2 0 then (.absent va0 ((limit - key) * 65536) (pa + 16), read)
  else match xlatOf s w2 (bits w2 10 4) (if bits w2 8 2 = 0 then offsetPa va w1 else offsetPa va w1 % 2 ^ 52) with
    | none => (.prot, read)
    | some x => (.ok { x with pa := offsetPa va0 w1 } va0 ((limit - key) * 65536) true, read)

/-- The keys of a node, ascending, are strictly so. -/
def strictlyRising : List Nat → Bool
  | a :: b :: l => a < b && strictlyRising (b :: l)
  | _ => true

/-- Descend the B-tree: at most 8 interior nodes before a leaf (R206, R209). -/
def nodeWalk (s : State) (va k16 : Nat) : Nat → Bool → Nat → Walk × List Nat
  | 0, _, _ => (.prot, [])
  | fuel + 1, root, node =>
    if node % 256 != 0 || !s.inModule node 256 then (.prot, []) else
    if s.badAt node 64 then (.bad, [node]) else
    let w0 := s.mem64 node
    let nkey := bits w0 0 3
    if nkey != 0 && s.badAt node 256 then (.bad, [node, node + 128]) else
    let words := (List.range nkey).map fun i => s.mem64 (node + 8 + 8 * i)
    let keys := words.map fun k => bits k 0 41
    let used := if bitAt w0 3 then 0x40 + 24 * nkey else 0x40 + 8 * (nkey + 1)
    if bits w0 4 60 != 0 || words.any (fun k => bits k 41 23 != 0) || !strictlyRising keys || (nkey == 0 && !root)
      || (nkey != 0 && (Memory.readBytes s.mem (node + used) (256 - used)).any (· != 0)) then (.prot, [node])
    else if bitAt w0 3 then
      let i := (keys.filter (· ≤ k16)).length
      if i = 0 then (.prot, [node])
      else
        let (r, ls) := entryWalk s va k16 (keys.getD (i - 1) 0) (node + 0x40 + 24 * (i - 1))
        (r, node :: (node + 128) :: ls)
    else if nkey = 0 ∨ fuel = 0 then (.prot, [node])
    else
      let i := (keys.filter (· ≤ k16)).length
      let cpa := node + 0x40 + 8 * i
      if s.badAt cpa 8 then (.bad, [node, cpa]) else
      let child := s.mem64 cpa
      if bits child 52 12 != 0 || child % 256 != 0 then (.prot, [node, cpa])
      else
        let (r, ls) := nodeWalk s va k16 fuel false child
        (r, node :: (node + 128) :: cpa :: ls)

/-- Walk a canonical address from a root; the physical addresses read come with the answer. -/
def walk (s : State) (root va : Nat) : Walk × List Nat := nodeWalk s va (bits va 16 41) 9 true root

/-! ### Cached translations (R210, R272) -/

/-- Lines a home has granted copies of, with the latest expiry granted (R273). -/
def State.watermark (s : State) (key : Nat) : Nat :=
  ((s.watermarks.find? fun w => w.1 == key / 128).map (·.2)).getD 0

def State.raiseMark (s : State) (key t : Nat) : State :=
  { s with watermarks := (key / 128, max t (s.watermark key)) :: s.watermarks.filter fun w => w.1 != key / 128 }

/-- Read lease of a class in ns (R208). -/
def leaseNs (c : Nat) : Nat := match c with
  | 0 => 2000
  | 1 => 250
  | 2 => 8000
  | _ => 64000

/-! ### The class under which a walked line is held (R210)

A line of a node or table has a physical address; the page that contains it is looked for among the pages that the
context maps, in the order of its tree, and a line that none of them contains is held under class 0 (log 9). -/

/-- LCLASS of the page of a table, from level `4 - n` down, that contains the line at `line`. -/
def tableClass (s : State) (line : Nat) : Nat → Nat → Option Nat
  | 0, _ => none
  | n + 1, table =>
    if !s.inModule table 4096 then none else
    (List.range 512).findSome? fun idx =>
      let e := s.mem64 (table + 8 * idx)
      let epa := bits e 12 40 * 4096
      if !bitAt e 0 then none
      else if n == 0 || bitAt e 10 then
        if bits e 8 2 == 0 && epa ≤ line && line < epa + 2 ^ (12 + 9 * n) then some (bits e 5 2) else none
      else tableClass s line n epa

/-- VA of a page that VA[56:16] numbers (R6, R29). -/
def pageVA (page : Nat) : Nat := if bitAt page 40 then page * 65536 + (2 ^ 64 - 2 ^ 57) else page * 65536

/-- The pages `[a, b)`, of one half of the virtual space, stand at a distance `off` from memory that holds the line. -/
def rangeHolds (line a b off : Nat) : Bool :=
  (line + 2 ^ 64 - offsetPa (pageVA a) off) % 2 ^ 64 < (b - a) * 65536

/-- LCLASS of the page of a node's entry that contains the line: a range, or a page of a table. -/
def entryClass (s : State) (line key pa : Nat) : Option Nat :=
  let w0 := s.mem64 pa
  let w1 := s.mem64 (pa + 8)
  let w2 := s.mem64 (pa + 16)
  let limit := bits w0 0 41
  if !bitAt w2 0 then none
  else if bitAt w0 63 then tableClass s line 4 w1
  else if bits w2 8 2 == 0
      && (rangeHolds line key (min limit (2 ^ 40)) w1 || rangeHolds line (max key (2 ^ 40)) limit w1) then some (bits w2 5 2)
  else none

def nodeClass (s : State) (line : Nat) : Nat → Nat → Option Nat
  | 0, _ => none
  | fuel + 1, node =>
    if node % 256 != 0 || !s.inModule node 256 then none else
    let w0 := s.mem64 node
    let n := bits w0 0 3
    if bitAt w0 3 then
      (List.range n).findSome? fun i => entryClass s line (bits (s.mem64 (node + 8 + 8 * i)) 0 41) (node + 0x40 + 24 * i)
    else (List.range (n + 1)).findSome? fun i => nodeClass s line fuel (s.mem64 (node + 0x40 + 8 * i))

/-- Read lease of a walked line (R210). -/
def State.lineLease (s : State) (root pa : Nat) : Nat := leaseNs ((nodeClass s (pa / 128 * 128) 9 root).getD 0)

/-- What an access does (R213). -/
inductive Acc where
  | read | write | exec
  deriving DecidableEq, Repr

def Acc.code : Acc → Nat
  | .read => 0 | .write => 1 | .exec => 2

/-- The page's bits allow the access (R208). -/
def Xlat.permits (x : Xlat) (a : Acc) (priv : Bool) : Bool :=
  (x.u || priv) && match a with
    | .read => x.r
    | .write => x.w
    | .exec => x.x

/-- The entry translates `va` and its lease still runs. -/
def TlbEntry.hits (e : TlbEntry) (now ctx root va : Nat) : Bool :=
  e.ctx == ctx && e.root == root && e.va ≤ va && va < e.va + e.size && now + 2 < e.expiry

def TlbEntry.at_ (e : TlbEntry) (va : Nat) : Xlat := { e.xl with pa := e.xl.pa + (va - e.va) }

/-- A cached translation of `va` that may still be used: the core's micro TLB, then the cluster's entries (R210). -/
def State.cached (s : State) (cl co ctx root va : Nat) : Option TlbEntry :=
  ((s.core cl co).utlb.find? (·.hits s.time ctx root va)).or ((s.cluster cl).tlb.find? (·.hits s.time ctx root va))

/-- Entries that stand beside a new one: those that another unit holds and whose lease still runs. -/
def tlbKeep (now : Nat) (e : TlbEntry) (l : List TlbEntry) : List TlbEntry :=
  l.filter fun x => now + 2 < x.expiry && !(x.ctx == e.ctx && x.root == e.root && x.va == e.va)

/-- Put a translation into the core's micro TLB of 64 entries; the newest are kept (log 9). -/
def State.fillMicro (s : State) (cl co : Nat) (e : TlbEntry) : State :=
  s.updCore cl co fun k => { k with utlb := e :: (tlbKeep s.time e k.utlb).take 63 }

/-- Put a translation into the cluster's cache: 4,096 entries for pages and 256 for ranges (R210). -/
def State.fillTlb (s : State) (cl co : Nat) (e : TlbEntry) : State :=
  (s.updCluster cl fun c =>
    let old := tlbKeep s.time e c.tlb
    { c with tlb := e :: ((old.filter fun x => x.range == e.range).take (if e.range then 255 else 4095)
        ++ old.filter fun x => x.range != e.range) }).fillMicro cl co e

/-- What an access of a context meets at an address (R209, R211). -/
inductive Trans where
  | ok (xl : Xlat)
  | absent (base size watch : Nat)
  | prot
  | bad
  deriving DecidableEq, Repr

/-- The root that a core's walks for a context start from: its sr.troot while it runs the context (R56, R206). -/
def State.rootOn (s : State) (cl co ctx : Nat) : Nat :=
  let k := s.core cl co
  if k.ctx = ctx ∧ k.troot ≠ 0 then k.troot.toNat else (s.context ctx).root

/-- An access can reach the home: a peer only while it has a route (R401). -/
def State.homeUp (s : State) (h : Home) : Bool := match h with
  | .peer c => s.peers.any fun p => p.chip == c && p.routed
  | _ => true

/-- Translate an address for an access, keeping what the walk found in the cluster's cache (log 9). -/
def State.translate (s : State) (cl co ctx : Nat) (priv : Bool) (a : Acc) (va : Nat) : State × Trans :=
  if !canonical va then (s, .prot) else
  let root := s.rootOn cl co ctx
  let done (s : State) (x : Xlat) : State × Trans :=
    let x := { x with pa := if x.home == .own then x.pa % 2 ^ 64 else x.pa % 2 ^ 52 }
    if (x.home != .own || s.localOk x.pa) && s.homeUp x.home && x.permits a priv then (s, .ok x) else (s, .prot)
  match s.cached cl co ctx root va with
  | some e => done (if (s.core cl co).utlb.contains e then s else s.fillMicro cl co e) (e.at_ va)
  | none =>
    match walk s root va with
    | (.ok x base size range, ls) =>
      let ends := ls.map fun l => (l, s.time + s.lineLease root l)
      let ex := ends.foldl (fun m y => min m y.2) (s.time + leaseNs 3)
      let s := ends.foldl (fun s y => s.raiseMark y.1 y.2) s
      let e : TlbEntry := { ctx := ctx, root := root, va := base, size := size, xl := x, expiry := ex, range := range }
      done (s.fillTlb cl co e) (e.at_ va)
    | (.absent b n w, _) => (s, .absent b n w)
    | (.prot, _) => (s, .prot)
    | (.bad, _) => (s, .bad)

/-! ### The fault table (R211 to R213) -/

def faultEntries : Nat := 4096

/-- The table takes no new entry: it is full, or the request FIFO is (R213). -/
def State.faultFull (s : State) : Bool := s.faults.length ≥ faultEntries || s.requests.length ≥ 4096

/-- The entry of an absent unit: the span of the context that its table or range entry covers (R211). -/
def State.faultOf (s : State) (ctx base size : Nat) : Option FaultEntry :=
  s.faults.find? fun e => e.ctx == ctx && e.base == base && e.size == size

/-- Post a page request; vector 64 is raised when the FIFO was empty (R213). -/
def State.postRequest (s : State) (acc ctx va : Nat) : State :=
  { s with requests := s.requests ++ [{ acc := acc, ctx := ctx, vpn := bits va 12 45, time := s.time }]
           msix := if s.requests.isEmpty then s.msix ++ [64] else s.msix }

/-- Join or take the entry of an absent unit; `false` when none is free (R211). -/
def State.joinFault (s : State) (ctx va base size watch acc : Nat) (ws : List Waiter) : State × Bool :=
  match s.faultOf ctx base size with
  | some e =>
    ({ s with faults := s.faults.map fun (f : FaultEntry) =>
        if f.id == e.id then { f with waiters := f.waiters ++ ws.filter fun w => !f.waiters.contains w } else f }, true)
  | none =>
    if s.faultFull then (s, false) else
    let (s, id) := s.fresh
    let s := s.postRequest acc ctx va
    ({ s with faults := s.faults ++ [{ id := id, ctx := ctx, base := base, size := size, watch := watch, va := va
                                       lastWalk := s.time, waiters := ws }] }, true)

/-- Join, or wait without an entry when the table is full (R459). -/
def State.joinOrWait (s : State) (ctx va base size watch acc : Nat) (w : Waiter) : State :=
  let (s, ok) := s.joinFault ctx va base size watch acc [w]
  let un := s.unlisted.filter fun x => x.1 != w
  if ok then { s with unlisted := un } else { s with unlisted := un ++ [(w, ctx, va)] }

/-- Stores to a watched line make its entries walk again (R211). -/
def State.touchWatch (s : State) (pa n : Nat) : State :=
  let hit (e : FaultEntry) : Bool := e.watch / 128 * 128 < pa + n && pa < e.watch / 128 * 128 + 128
  { s with faults := s.faults.map fun (e : FaultEntry) => if hit e then { e with due := true } else e }

end Sys2Proof.Machine
end

