-- ==== Sys2Proof/Machine/Memory.lean ====
section
/-! DEFINITION. The global memory paths (08_memory_paths R200 to R205, R217 to R219, R458; 10_synchronised R272 to R279):
the L1 and its leases, loads in flight, stores on their way to their homes, releases and acquires. -/

namespace Sys2Proof.Machine

/-! ### Homes -/

/-- XOR of the six-bit groups of a number below 2^52 (R204). -/
def xorGroups (x : Nat) : Nat := (List.range 9).foldl (fun a k => a ^^^ bits x (6 * k) 6) 0

/-- The system cache slice that is the home of a physical address, and the channel its line is written back over (R204). -/
def homeSlice (pa : Nat) : Nat := xorGroups (bits pa 7 45)
def memChannel (pa : Nat) : Nat := xorGroups (bits pa 8 44)

/-- Lines of 128 bytes that a slice of 2 MiB holds. -/
def sliceLines : Nat := 16384

/-- A slice that the configuration record or a lasting fault has taken out of use: it caches nothing (R1, R400). -/
def State.sliceOff (s : State) (n : Nat) : Bool := (s.record.units ++ s.health.disabled).any fun u => match u with
  | .slice k => k.toNat == n
  | _ => false

/-- A line is read or written at its home: it enters its slice, and a full slice evicts its least recently used line, which
is written back (R204; log 61). A write keeps what the memory below holds. -/
def State.useLine (s : State) (dirty : Bool) (l : List SysLine) (line : Nat) : List SysLine :=
  let n := homeSlice (128 * line)
  if s.sliceOff n then l else
  let x := (l.find? (·.line == line)).getD { line := line }
  let x := if dirty && x.old.isNone then { x with old := some (Memory.readBytes s.mem (128 * line) 128) } else x
  let rest := l.filter (·.line != line)
  let mine := rest.filter fun y => homeSlice (128 * y.line) == n
  x :: match (mine.drop (sliceLines - 1)).getLast? with
    | some y => rest.filter (·.line != y.line)
    | none => rest

/-- The slices after an access to `n` bytes of module memory at `pa`. -/
def State.useLines (s : State) (dirty : Bool) (pa n : Nat) : List SysLine :=
  (List.range ((pa + n + 127) / 128 - pa / 128)).foldl (fun l k => s.useLine dirty l (pa / 128 + k)) s.sysCache

/-- Module memory once every slice has been zeroed: what has not been written back is lost (R419). -/
def State.memBelow (s : State) : Memory :=
  s.sysCache.foldl (fun m x => match x.old with
    | some bs => Memory.writeBytes m (128 * x.line) bs
    | none => m) s.mem

/-- Queue of a doorbell page (R34). -/
def doorbellQueue (pa : Nat) : Nat := (pa - Config.doorbellBase) / 4096

/-- Bytes of the doorbell pages: QPROD at offset 0, zeros elsewhere (R34). -/
def State.doorbellByte (s : State) (pa : Nat) : Byte :=
  if pa % 4096 < 4 then (wordBytes (s.queues.getD (doorbellQueue pa) {}).prod).getD (pa % 4096) 0 else 0

def Xlat.doorbell (x : Xlat) : Bool := x.home == .own && isDoorbell x.pa

/-- Bytes as the home holds them. -/
def State.homeBytes (s : State) (x : Xlat) (n : Nat) : List Byte :=
  if x.doorbell then (List.range n).map fun k => s.doorbellByte (x.pa + k)
  else Memory.readBytes s.mem x.key n

/-- Ranges of bytes that meet. -/
def overlap (a n b m : Nat) : Bool := a < b + m && b < a + n

/-- The granule of an access is in error at its home (R458). -/
def State.xlatBad (s : State) (x : Xlat) (n : Nat) : Bool := x.home == .own && s.badAt x.pa n


/-- Put the bytes that a core's stores carry to their homes over `bs`, which stand from `key` (R277): translated stores
stand in the list in the order in which they were translated. -/
def State.throughPath (s : State) (cl co key : Nat) (bs : List Byte) : List Byte :=
  s.stores.foldl (fun bs (o : StoreOp) =>
    match o.op with
    | .store data =>
      if o.cl == cl && o.co == co && o.st == .translated && overlap o.xl.key o.bytes key bs.length then
        (bs.zipIdx).map fun (b, i) => if o.xl.key ≤ key + i && key + i < o.xl.key + o.bytes
          then data.getD (key + i - o.xl.key) b else b
      else bs
    | _ => bs) bs

/-- A store on its way from the core replaces the whole granule, so that the core reads new data there (R277, R458). -/
def State.covered (s : State) (cl co g : Nat) : Bool := s.stores.any fun o => match o.op with
  | .store _ => o.cl == cl && o.co == co && o.st == .translated && o.xl.home == .own && !o.xl.doorbell
      && o.xl.key ≤ g && g + 32 ≤ o.xl.key + o.bytes
  | _ => false

/-- What a core's plain read meets an error in: a granule in error that no store on its way replaces (R277, R458). -/
def State.pathBad (s : State) (cl co : Nat) (x : Xlat) (n : Nat) : Bool :=
  x.home == .own && s.badGranules.any fun g => overlap g 32 x.pa n && !s.covered cl co g

/-- What a core's plain read takes from the home (R277); a doorbell page answers for itself (R34). -/
def State.readPath (s : State) (cl co : Nat) (x : Xlat) (n : Nat) : List Byte :=
  if x.doorbell then s.homeBytes x n else s.throughPath cl co x.key (s.homeBytes x n)

/-! ### The L1 (R202, R272) -/

/-- The guard a holder applies (R272): 2 ns on the home's chip, 20 ns for a peer's line. -/
def keyGuard (key : Nat) : Nat := if key < 2 ^ 61 then 2 else 20

/-- The lease still runs; a copy made by LDK has none (R237). -/
def Sector.live (x : Sector) (now : Nat) : Bool :=
  match x.expiry with
  | none => true
  | some e => now + keyGuard x.key < e

/-- The copy serves an access: any copy serves LDK (R237). -/
def Sector.serves (x : Sector) (now tacq : Nat) (ldk : Bool) : Bool :=
  ldk || (x.expiry.isSome && x.live now && tacq ≤ x.grant)

/-- Lines this chip may cache (R205, R34). -/
def State.cacheable (s : State) (x : Xlat) : Bool :=
  !x.doorbell && match x.home with
    | .own => true
    | .host => x.imm
    | .peer c => s.timer.lock && s.peers.any fun p => p.chip == c && p.locked

/-- The slot whose miss last filled a line. -/
def lastFiller (l : List Sector) : Nat :=
  ((l.foldl (fun (b : Option Sector) x => match b with
    | some y => if y.grant < x.grant then some x else some y
    | none => some x) none).map (·.slot)).getD 64

/-- Write a line's tag to the victim array (R71). -/
def Core.victim (k : Core) (key slot : Nat) : Core :=
  { k with victims := ((key / 128, slot) :: k.victims).take 1024 }

def setOf (key : Nat) : Nat := key / 128 % 256

/-- The line to evict from a full set (R202): streamed lines first, then the least recently used that is neither kept
nor dirty, then a kept one; none when every line is dirty. -/
def Core.evictee (k : Core) (dirty : Nat → Bool) (key : Nat) : Option Nat :=
  let inSet := k.l1.filter fun x => setOf x.key == setOf key && !dirty (x.key / 128)
  let pick (l : List Sector) : Option Nat :=
    (l.foldl (fun (b : Option Sector) x => match b with
      | none => some x
      | some y => if x.used < y.used then some x else some y) none).map (·.key / 128)
  let lineUsed (x : Sector) : Sector :=
    { x with used := (k.l1.filter fun y => y.key / 128 == x.key / 128).foldl (fun m y => max m y.used) 0 }
  let inSet := inSet.map lineUsed
  (pick (inSet.filter (·.cls == 1))).or ((pick (inSet.filter (·.cls != 3))).or (pick inSet))

/-- Put a sector into the L1, evicting a line when its set has no way free. -/
def Core.insert (k : Core) (dirty : Nat → Bool) (x : Sector) : Core :=
  let k := { k with l1 := k.l1.filter fun (y : Sector) => y.key != x.key }
  let lines := ((k.l1.filter fun y => setOf y.key == setOf x.key).map (·.key / 128)).eraseDups
  if lines.contains (x.key / 128) || lines.length < 16 then { k with l1 := x :: k.l1 }
  else match k.evictee dirty x.key with
  | none => k
  | some line =>
    let slot := lastFiller (k.l1.filter fun y => y.key / 128 == line)
    { (k.victim (128 * line) slot) with l1 := x :: k.l1.filter fun (y : Sector) => y.key / 128 != line }

/-- Lines of a core that hold a store not yet performed at home (R202). -/
def State.dirtyLine (s : State) (cl co line : Nat) : Bool :=
  s.stores.any fun o => o.cl == cl && o.co == co && o.st == .translated && o.xl.key / 128 == line

/-- Write a store's bytes into a sector they fall in; granules they cover are no longer in error (R458). -/
def Sector.patch (x : Sector) (key : Nat) (data : List Byte) : Sector :=
  if overlap x.key 64 key data.length then
    { x with data := (x.data.zipIdx).map fun (b, i) =>
               if key ≤ x.key + i then data.getD (x.key + i - key) b else b
             bad := x.bad.filter fun g => !(key ≤ g && g + 32 ≤ key + data.length) }
  else x

/-! ### Lost locality and the sketch (R70, R71) -/

/-- A reference to a line by a warp. -/
def State.noteLine (s : State) (tm w key : Nat) : State :=
  s.updWarp tm w fun wp => if wp.sketch.contains (key / 128) then wp else { wp with sketch := key / 128 :: wp.sketch }

/-- A miss of a warp: a victim tag of its own slot is a lost-locality event. -/
def State.noteMiss (s : State) (tm w cl co slot key : Nat) : State :=
  match (s.core cl co).victims.find? (·.1 == key / 128) with
  | none => s
  | some v =>
    let s := s.updCore cl co fun k => { k with victims := k.victims.erase v }
    if v.2 = slot then
      s.updWarp tm w fun wp =>
        { wp with meas := min 4095 (wp.meas + 1), lost := min 4095 (wp.lost + 1), winLost := wp.winLost + 1 }
    else s

/-! ### Late write-backs (R86) -/

/-- The group a write-back names: of the warp's uniform file when its lane is 32. -/
def Dest.opnd (d : Dest) : Opnd := { file := if d.lane = 32 then .uni else .vec, n := d.n, cnt := d.cnt }
def Dest.pred (d : Dest) (p : Nat) : Opnd := { file := if d.lane = 32 then .upred else .pred, n := p }

/-- Mark a register full as it stands. -/
def Warp.fillCell (wp : Warp) (l : Nat) (f : RFile) (n : Nat) : Warp :=
  match f with
  | .vec => wp.updThread l fun th => { th with v := updAt th.v n fun r => { r with full := true } }
  | .uni => { wp with s := updAt wp.s n fun r => { r with full := true } }
  | .pred => wp.updThread l fun th => { th with p := updAt th.p n fun r => { r with full := true } }
  | .upred => { wp with sp := updAt wp.sp n fun r => { r with full := true } }

/-- The destination of a word that restarts is as it was before the word parked (R214). -/
def Warp.refill (wp : Warp) (d : Dest) : Warp :=
  (List.range d.cnt).foldl (fun wp k => wp.fillCell d.lane d.opnd.file (d.n + k)) wp

/-! ### Loads -/

def laneMatch (l l' : Nat) : Bool := l == l' || l == 32 || l' == 32

def LoadOp.bound? (o : LoadOp) : Bool :=
  match o.st with
  | .bound .. => true
  | _ => false

def LoadOp.ofThread (o : LoadOp) (tm w l : Nat) : Bool := o.dst.team == tm && o.dst.warp == w && laneMatch o.dst.lane l
def StoreOp.ofThread (o : StoreOp) (tm w l : Nat) : Bool := o.team == tm && o.warp == w && laneMatch o.lane l

/-- An access of lane `l'` counts for a wait of lane `l`; a wait of the whole warp (32) asks for its live threads' accesses
alone (R247, R278, R280). -/
def State.counted (s : State) (tm w l l' : Nat) : Bool := l != 32 || l' == 32 || !(s.thread tm w l').exited
def State.waitsLoad (s : State) (tm w l : Nat) (o : LoadOp) : Bool := o.ofThread tm w l && s.counted tm w l o.dst.lane
def State.waitsStore (s : State) (tm w l : Nat) (o : StoreOp) : Bool := o.ofThread tm w l && s.counted tm w l o.lane

/-- The load need not wait for an earlier access of its thread to the same bytes (R276, second row). -/
def State.mayBind (s : State) (o : LoadOp) : Bool :=
  let d := o.dst
  !(s.stores.any fun x => x.id < o.id && x.ofThread d.team d.warp d.lane && overlap x.va x.bytes o.va o.bytes
      && (x.st != .translated || match x.op with | .store _ => false | _ => true))
  && !(s.loads.any fun x => x.mem && x.id < o.id && x.ofThread d.team d.warp d.lane && overlap x.va x.bytes o.va o.bytes
      && !x.bound?)

/-- The words a load writes (R236): narrow forms extend, an error gives POISON. -/
def loadWords (bytes : Nat) (sext bad : Bool) (bs : List Byte) : List (Word × Tag) :=
  if bad then List.replicate ((bytes + 3) / 4) (0, .poison)
  else if bytes < 4 then
    let x := leNat bs
    if sext then [(BitVec.ofInt 32 (sextNat (8 * bytes) x), .i32)] else [(BitVec.ofNat 32 x, .n32)]
  else (toWords bs).map fun w => (w, .raw)

/-- A load binds its data; a probe that found its page writes a false predicate (R214). -/
def LoadOp.bind (o : LoadOp) (bs : List Byte) (bad : Bool) : LoadOp :=
  { o with st := .bound (loadWords o.bytes o.sext bad bs) (o.dst.pd.map fun _ => false) }

def sectorKey (key : Nat) : Nat := key / 64 * 64

/-- Some granule of the bytes that a copy holds was in error. -/
def Sector.badAt (x : Sector) (key n : Nat) : Bool := x.bad.any fun g => overlap g 32 key n

/-- Miss class of an access under CACHE `cache`: 2 when the line may not be allocated. -/
def State.missClass (s : State) (cache : Nat) (x : Xlat) : Nat := if cache = 2 ∨ !s.cacheable x then 2 else cache

/-- A copy of the sector that serves an access (R202). -/
def State.hit? (s : State) (cl co cls tacq : Nat) (ldk : Bool) (x : Xlat) : Option Sector :=
  (s.core cl co).l1.find? fun y => y.key == sectorKey x.key && cls != 2 && y.serves s.time tacq ldk

/-- A copy has been used (R202). -/
def State.touch (s : State) (cl co key : Nat) : State :=
  s.updCore cl co fun k => { k with l1 := k.l1.map fun (y : Sector) =>
    if y.key == key then { y with used := s.nextId } else y }

/-- A missed sector whose lease has run out goes. A line leaves the L1 once the leases of all its sectors have run out: its tag
and the slot that last filled it enter the victim array (R71). -/
def Core.dropExpired (k : Core) (now key : Nat) : Core :=
  let line := k.l1.filter fun (y : Sector) => y.key / 128 == key / 128
  if !line.isEmpty && line.all (!·.live now) then
    { (k.victim key (lastFiller line)) with l1 := k.l1.filter fun (y : Sector) => y.key / 128 != key / 128 }
  else { k with l1 := k.l1.filter fun (y : Sector) => y.key != key || y.live now }

/-- Another access waits for the entry's sector: it is allocated when one of them allocates it (R201). -/
def Miss.join (m : Miss) (ldk : Bool) (cls : Nat) : Miss :=
  { m with ldk := m.ldk && ldk, cls := if m.cls = 2 then cls else m.cls, direct := m.direct || cls == 2 }

/-- Join the miss-status entry of a sector or take one; `false` when none is free (R201). A warp's new miss is looked for
in the victim array (R71). -/
def State.takeMiss (s : State) (tm w slot cl co cls : Nat) (ldk : Bool) (x : Xlat) : State × Bool :=
  let key := sectorKey x.key
  let s := s.updCore cl co (·.dropExpired s.time key)
  let ms := (s.core cl co).misses
  if ms.any (·.key == key) then
    (s.updCore cl co fun k => { k with misses := k.misses.map fun m => if m.key == key then m.join ldk cls else m }, true)
  else if ms.length ≥ 256 then (s, false)
  else
    let s := s.noteMiss tm w cl co slot key
    let m : Miss := { key := key, home := x.home, lclass := x.lclass, ldk := ldk, cls := cls, slot := slot
                      direct := cls == 2 }
    (s.updCore cl co fun k => { k with misses := k.misses ++ [m] }, true)

/-- Look a load up and start its miss; `none` when no miss-status entry is free (R201). One that must wait for an earlier
access of its thread to its bytes is not served yet: it takes an entry like a miss, and keeps it until it binds (R276; log
84). -/
def State.lookup (s : State) (o : LoadOp) (slot : Nat) : State × Option LoadOp :=
  let cls := s.missClass o.cache o.xl
  match if s.mayBind o then s.hit? o.cl o.co cls o.tacq o.ldk o.xl else none with
  | some x => (s.touch o.cl o.co x.key
      , some (o.bind ((x.data.drop (o.xl.key - x.key)).take o.bytes) (x.badAt o.xl.key o.bytes)))
  | none =>
    match s.takeMiss o.dst.team o.dst.warp slot o.cl o.co cls o.ldk o.xl with
    | (s, true) => (s, some { o with st := .missed })
    | (s, false) => (s, none)

/-- The remote data cache's copy of a sector that serves an access with acquire time `tacq` (R205). -/
def State.farCopy (s : State) (key tacq : Nat) : Option Sector :=
  s.remote.find? fun y => y.key == key && y.live s.time && tacq ≤ y.grant

/-- What a read that misses in the L1 takes: the bytes of a peer's line from the remote data cache while its copy serves, of
any other from the home (R205). -/
def State.nearBytes (s : State) (cl co tacq : Nat) (x : Xlat) (n : Nat) : List Byte :=
  match x.home, s.farCopy (sectorKey x.key) tacq with
  | .peer _, some y => s.throughPath cl co x.key ((y.data.drop (x.key - y.key)).take n)
  | _, _ => s.readPath cl co x n

/-- A copy's stamp and end: taken from the remote data cache when it still serves, else granted by the home now (R205,
R272); a load that bypasses reads the home (R202). The answer is the bytes, the grant time, the expiry and the granules in
error. -/
def State.grant (s : State) (m : Miss) (cl co tacq : Nat) : State × Sector :=
  let x : Xlat := { home := m.home, pa := m.key - m.home.key 0 }
  match m.home, (if m.direct then none else s.farCopy m.key tacq) with
  | .peer _, some y => (s, { y with data := s.throughPath cl co m.key y.data, used := s.nextId })
  | _, _ =>
    let bad := if m.home == .own then
      ([m.key, m.key + 32].filter fun g => s.badGranules.contains g && !s.covered cl co g) else []
    let ex := s.time + leaseNs m.lclass
    let y : Sector := { key := m.key, data := s.homeBytes x 64, grant := s.time, expiry := some ex, used := s.nextId
                        cls := m.cls, slot := m.slot, bad := bad }
    let (leased, far) : Bool × Bool := match m.home with
      | .peer _ => (m.cls != 2, m.cls != 2)
      | _ => (m.cls != 2 && !m.ldk, false)
    let s := if leased then s.raiseMark m.key ex else s
    let s := if far then
        { s with remote := (y :: s.remote.filter fun (z : Sector) => z.key != m.key).take 131072 }
      else s
    let s := if m.home == .own then { s with sysCache := s.useLines false x.pa 64 } else s
    (s, { y with data := s.readPath cl co x 64 })

/-- The loads once those that `waits` names have bound, in their order, as far as their thread's earlier accesses allow
(R201, R276). -/
def State.bindWaiting (s : State) (waits : LoadOp → Bool) (bind : LoadOp → LoadOp) : List LoadOp → List LoadOp → List LoadOp
  | done, [] => done
  | done, o :: rest =>
    s.bindWaiting waits bind
      (done ++ [if waits o && ({ s with loads := done ++ o :: rest } : State).mayBind o then bind o else o]) rest

/-- A fill returns (R201): the sector enters the L1 and the loads that wait for it bind, in their order; the entry stays for
one that must wait for an earlier access of its thread (R276). A line that may no longer be cached when it returns is cached
nowhere (R205, R294). -/
def State.fill (s : State) (cl co : Nat) (m : Miss) : State :=
  let waits (o : LoadOp) : Bool := o.cl == cl && o.co == co && o.st == .missed && sectorKey o.xl.key == m.key
  let tacq := (s.loads.filter waits).foldl (fun t o => max t o.tacq) 0
  let peerOff := match m.home with
    | .peer c => !s.cacheable { home := .peer c }
    | _ => false
  let entry := m
  let m := if peerOff then { m with cls := 2, direct := true } else m
  let (s, y) := s.grant m cl co tacq
  let y := { y with cls := m.cls, slot := m.slot, expiry := if m.ldk then none else y.expiry }
  let dirty := s.dirtyLine cl co
  let s := s.updCore cl co fun k =>
    if m.cls == 2 then { k with l1 := k.l1.filter fun (z : Sector) => z.key != m.key || z.data == y.data }
    else k.insert dirty (if m.cls == 1 then { y with used := 0 } else y)
  let s := { s with loads := s.bindWaiting waits (fun o => o.bind ((y.data.drop (o.xl.key - m.key)).take o.bytes)
    (y.badAt o.xl.key o.bytes)) [] s.loads }
  if s.loads.any waits then s else s.updCore cl co fun k => { k with misses := k.misses.erase entry }

/-- Start a refill of a return stack, or a load that its team's resumption brings to another core: with no entry free it is
tried again. -/
def State.retryLoad (s : State) (o : LoadOp) : State :=
  let slot := (((s.team? o.dst.team).map (·.slots)).getD []).getD o.dst.warp 64
  match s.lookup o slot with
  | (s, some o') => { s with loads := s.loads.map fun (x : LoadOp) => if x.id == o.id then o' else x }
  | (s, none) => s

/-! ### Releases and acquires (R274, R277 to R279) -/

/-- The lanes an access by lane `l` concerns; 32 names every live thread of the warp. -/
def State.lanesOf (s : State) (tm w l : Nat) : List Nat := if l = 32 then (s.warp tm w).live else [l]

/-- Set T_a := now in a thread. -/
def State.acquire (s : State) (tm w l : Nat) : State :=
  (s.lanesOf tm w l).foldl (fun s l => s.updThread tm w l fun th => { th with tacq := max th.tacq s.time }) s

/-- Every earlier load of the thread has bound its value. -/
def State.loadsBound (s : State) (tm w l : Nat) : Bool := !(s.loads.any fun o => o.mem && s.waitsLoad tm w l o)

/-- The value of every earlier load of the thread is settled, so that what it stores now is performed after that (R276, third
row). -/
def State.loadsSettled (s : State) (tm w l : Nat) : Bool :=
  !(s.loads.any fun o => o.mem && s.waitsLoad tm w l o && !o.bound?)

/-- An earlier acquire of the thread has not got its data yet (R279). -/
def State.acquiring (s : State) (tm w l : Nat) : Bool :=
  s.loads.any fun o => o.acq.isSome && s.waitsLoad tm w l o

/-- The thread's acquire time; a class 0 access has the latest of its warp's live threads (R279). -/
def Ctx.tacq (c : Ctx) : Nat :=
  if c.iss.cls = 0 then c.wp.live.foldl (fun m l => max m (c.wp.thread l).tacq) 0 else c.th.tacq

/-- Something of the thread waits for an entry of the fault table, beside its stores: a per-thread copy, a copy that its
warp has handed a slice to, a stream that its warp opened, or a query of its team. Each holds back what a held store does
(R459). -/
def State.unlistedFor (s : State) (tm w l : Nat) : Bool :=
  s.unlisted.any fun x => match x.1 with
    | .cpa id => s.cpas.any fun o => o.id == id && o.team == tm && o.warp == w && laneMatch o.lane l
        && s.counted tm w l o.lane
    | .copy t ch => t == tm && (s.team? tm).any fun t => ((t.chans.getD ch []).take 1).any fun k =>
        k.slices.any (·.warp == w)
    | .stream t q => t == tm && (s.team? tm).any fun t => (t.queues.getD q {}).warp == w
    | .ray _ => x.1.ofTeam tm s
    | _ => false

/-- DRAINS may end: every earlier store of the thread has been translated, and performed where it had been held (R217,
R221). -/
def State.storesTranslated (s : State) (tm w l : Nat) : Bool :=
  (s.stores.all fun o => !s.waitsStore tm w l o || (o.st == .translated && !o.wasHeld)) && !s.unlistedFor tm w l

/-- Earlier writes are performed at home and the horizon has passed (R278, fourth and sixth steps). -/
def State.storesPerformed (s : State) (tm w l : Nat) : Bool :=
  !(s.stores.any (s.waitsStore tm w l ·)) && !s.unlistedFor tm w l
def State.horizonPassed (s : State) (tm w l : Nat) (extra : Nat) : Bool :=
  (s.lanesOf tm w l).all fun x => (s.thread tm w x).horizon + extra ≤ s.time

/-- The conditions of a release (R278, R294). -/
def State.relReady (s : State) (tm w l scope : Nat) : Bool :=
  s.loadsBound tm w l
  && (if scope = 0 then s.storesTranslated tm w l
      else s.storesPerformed tm w l && s.horizonPassed tm w l (if scope = 3 then 20 else 0)
        && (scope != 3 || s.timer.lossUntil ≤ s.time))

/-- Wait for a release: `some` wait when it has not completed for the thread yet. -/
def State.releaseGate (s : State) (c : Ctx) (scope : Nat) (whole : Bool) : Option Wait :=
  let l := if c.iss.cls = 0 ∨ whole then 32 else c.l
  if c.th.relDone || s.relReady c.t.id c.w l scope then none else some (.release scope (l == 32))

/-! ### Stores -/

/-- Lane of an access: 32 for the warp's in class 0. -/
def Ctx.own (c : Ctx) : Nat := if c.iss.cls = 0 then 32 else c.l

/-- A store's record (R218). -/
def StoreOp.record (o : StoreOp) : SfRecord :=
  { va := o.va, pc := o.pc, width := o.width, word := o.word, warp := o.warp, lane := if o.lane = 32 then 0 else o.lane
    raw := o.raw
    data := match o.op with
      | .store d => leNat (d.take 8)
      | _ => 0 }

/-- Append a store-fault record, or `false` when the queue is full (R219). -/
def State.appendRecord (s : State) (tm : Nat) (r : SfRecord) : State × Bool :=
  match s.team? tm with
  | none => (s, true)
  | some t =>
    if t.sfq.length ≥ 16 then (s, false)
    else (s.updTeam tm fun t => { t with sfq := t.sfq ++ [r] }, true)

def State.dropStore (s : State) (id : Nat) : State :=
  { s with stores := s.stores.filter fun (o : StoreOp) => o.id != id }
def State.setStore (s : State) (o : StoreOp) : State :=
  { s with stores := s.stores.map fun (x : StoreOp) => if x.id == o.id then o else x }

/-- The core's copy of a sector that a store hits (R202, R238). -/
def State.hitStore (s : State) (o : StoreOp) (data : List Byte) : State :=
  s.updCore o.cl o.co fun k =>
    if o.cache == 2 then { k with l1 := k.l1.filter fun (x : Sector) => !overlap x.key 64 o.xl.key o.bytes }
    else { k with l1 := k.l1.map (·.patch o.xl.key data) }

/-- An earlier store of the thread has not been translated: its record, should it come to one, comes first (R218). -/
def State.earlierStore (s : State) (o : StoreOp) : Bool :=
  s.stores.any fun x => x.id < o.id && x.st != .translated && x.ofThread o.team o.warp o.lane

/-- A protection outcome of a store: its record is appended in its thread's issue order, or it waits for its turn or for
room; with no warp left to pop the queue it is discarded and its team fails (R217 to R219). -/
def State.storeProtected (s : State) (o : StoreOp) : State :=
  if s.earlierStore o then s.setStore { o with st := .blocked } else
  match s.appendRecord o.team o.record with
  | (s, true) => s.dropStore o.id
  | (s, false) =>
    if ((s.team? o.team).map (·.draining)).getD true then
      (s.dropStore o.id).updTeam o.team fun t => { t with failed := true }
    else s.setStore { o with st := .blocked }

/-- The unit of a held store: base, size and the entry watched while it is absent; a page once it is not. -/
def State.heldSpan (s : State) (o : StoreOp) : Nat × Nat × Option Nat :=
  match walk s (s.context o.ctx).root o.va with
  | (.absent b n w, _) => (b, n, some w)
  | (.ok _ b n _, _) => (b, n, none)
  | _ => (o.va / 4096 * 4096, 4096, none)

/-- An earlier held store of the thread whose unit covers the address (R217), with that unit. -/
def State.heldUnit (s : State) (o : StoreOp) : Option (Nat × Nat × Option Nat) :=
  (s.stores.filter fun x => x.id < o.id && x.st == .held && x.ofThread o.team o.warp o.lane && x.ctx == o.ctx).findSome?
    fun x => let u := s.heldSpan x
      if u.1 ≤ o.va && o.va < u.1 + u.2.1 then some u else none

/-- No earlier store that must be translated before this one is pending: earlier ones of the thread, and the lower lanes
of its issue on the same bytes (R218, R234). A store to a page on which an earlier one of the thread is held goes after it
once the page is there (R217). -/
def State.storeTurn (s : State) (o : StoreOp) : Bool :=
  !(s.stores.any fun x => x.id < o.id && (x.st == .issued || x.st == .blocked)
    && (x.ofThread o.team o.warp o.lane || (x.grp == o.grp && overlap x.va x.bytes o.va o.bytes)))
  && (match s.heldUnit o with
    | some (_, _, none) => false
    | _ => true)

/-- Hold a store on an absent unit (R217, R459). -/
def State.holdStore (s : State) (o : StoreOp) (b n w : Nat) : State :=
  (s.joinOrWait o.ctx o.va b n w 1 (.store o.id)).setStore { o with st := .held, wasHeld := true }

/-- A store's translation completes (R217). -/
def State.translateStore (s : State) (o : StoreOp) : State :=
  let priv := ((s.team? o.team).map (·.priv)).getD false
  match s.heldUnit o with
  | some (b, n, some w) => s.holdStore o b n w
  | _ =>
    match s.translate o.cl o.co o.ctx priv .write o.va with
    | (s, .absent b n w) => s.holdStore o b n w
    | (s, .prot) => s.storeProtected o
    | (s, .bad) => (s.dropStore o.id).machineCheck o.launch 0x18
    | (s, .ok x) =>
      if x.imm && !x.doorbell then s.storeProtected o
      else
        let o := { o with xl := x, st := .translated }
        let s := { s with stores := s.stores.filter (fun (y : StoreOp) => y.id != o.id) ++ [o] }
        match o.op with
        | .store d => s.hitStore o d
        | _ => s

/-! ### Performing at home (R51, R273, R458) -/

/-- Where the page of an address lies, when it is present. -/
def State.pageKey (s : State) (root va : Nat) : Option Nat :=
  match walk s root va with
  | (.ok x b _ _, _) => some ({ x with pa := x.pa + (va - b) } : Xlat).key
  | _ => none

/-- Where the sixteen 4 KiB parts of the 64 KiB from an address lie: the place of each that is present, with its key. -/
def State.parts (s : State) (root va : Nat) : List (Nat × Nat) :=
  (List.range 16).filterMap fun k => (s.pageKey root ((va + 4096 * k) % 2 ^ 64)).map fun a => (k, a)

/-- The bytes of a 4 KiB part stand at another place too. -/
def Memory.copyPart (m : Memory) (src dst : Nat) : Memory :=
  (m.filter fun x => src ≤ x.1 && x.1 < src + 4096).foldl (fun m x => m.write (dst + (x.1 - src)) x.2)
    (m.filter fun x => !(dst ≤ x.1 && x.1 < dst + 4096))

/-- Copy a 4 KiB part at home, with the granules of it that are in error (R51, R458). -/
def State.copyPart (s : State) (src dst : Nat) : State :=
  let bad := (s.badGranules.filter fun g => src ≤ g && g < src + 4096).map fun g => dst + (g - src)
  ({ s with
    mem := Memory.copyPart s.mem src dst
    sysCache := if dst < 2 ^ 60 then s.useLines true dst 4096 else s.sysCache
    remote := s.remote.filter fun (x : Sector) => !overlap x.key 64 dst 4096
    badGranules := bad ++ s.badGranules.filter fun g => !(dst ≤ g && g < dst + 4096) } : State).touchWatch dst 4096

/-- VA of a page of a pool. -/
def PoolRef.page (p : PoolRef) (k : Nat) : Nat := (p.va + 65536 * k) % 2 ^ 64

/-- The first free page of the snapshot pool that a launch was claimed with: its number and where its parts lie. A page of
the pool that is not present whole is no free page (R51, R56; log 43). -/
def State.poolPage (s : State) (l : Launch) : Option (Nat × List (Nat × Nat)) :=
  let used := (s.launches.filter (·.ctx == l.ctx)).flatMap fun o => o.snaps.map fun n => o.pool.page n.slot
  match (List.range (used.length + 1)).find? fun k => !used.contains (l.pool.page k) with
  | none => none
  | some k =>
    let ps := s.parts l.pool.root (l.pool.page k)
    if k < l.pool.pages && ps.length == 16 then some (k, ps) else none

/-- Copy parts of a page into a page of the pool. -/
def State.copyParts (s : State) (pool parts : List (Nat × Nat)) : State :=
  parts.foldl (fun s p => match pool.find? (·.1 == p.1) with
    | some q => s.copyPart p.2 q.2
    | none => s) s

/-- What the first write of a launch to a page does before it is performed: the whole page is copied into the pool, and a part
that was absent then is copied before it is first written (R30, R51). -/
def State.beforeWrite (s : State) (launch va : Nat) : State :=
  match s.launch? launch with
  | none => s
  | some l =>
    let page := bits va 16 41
    if l.wset.any fun r => r.1 ≤ page && page < r.1 + r.2 then
      match l.snaps.find? (·.page == page) with
      | some n =>
        let k := bits va 12 4
        if n.parts.any (·.1 == k) then s
        else
          let new := (s.parts (s.context l.ctx).root (pageVA page)).filter (·.1 == k)
          (s.copyParts n.pool new).updLaunch launch fun l =>
            { l with snaps := l.snaps.map fun (x : Snap) => if x.page == page then { x with parts := x.parts ++ new } else x }
      | none =>
        match s.poolPage l with
        | some (slot, pool) =>
          let parts := s.parts (s.context l.ctx).root (pageVA page)
          ((s.copyParts pool parts).updContext l.ctx fun c => { c with used := c.used + 1 }).updLaunch launch fun l =>
            { l with snaps := l.snaps ++ [{ page := page, slot := slot, pool := pool, parts := parts }], poolTaken := l.poolTaken + 1 }
        | none => s.updLaunch launch fun l => { l with replayable := false }
    else s.updLaunch launch fun l => { l with replayable := false }

/-- A write is performed: the bytes stand at the home, errors it covers are gone, watched lines are seen (R211, R458). -/
def State.writeHome (s : State) (x : Xlat) (bs : List Byte) : State :=
  let s := { s with mem := Memory.writeBytes s.mem x.key bs
                    sysCache := if x.home == .own then s.useLines true x.pa bs.length else s.sysCache
                    remote := s.remote.map (·.patch x.key bs) }
  if x.home == .own then
    { s with badGranules := s.badGranules.filter fun g => !(x.pa ≤ g && g + 32 ≤ x.pa + bs.length) }.touchWatch x.pa bs.length
  else s

/-- The write completion time a home returns now (R273, R294, R295). -/
def State.gwct (s : State) (x : Xlat) : Nat :=
  match x.home with
  | .host => s.time
  | .own => max s.time (s.watermark x.key)
  | .peer _ => if s.cacheable x then max s.time (s.watermark x.key) else s.time

/-- A thread's horizon takes a completion time (R274). -/
def State.noteGwct (s : State) (tm w l g : Nat) : State :=
  (s.lanesOf tm w l).foldl (fun s x => s.updThread tm w x fun th => { th with horizon := max th.horizon g }) s

/-- A write of QPROD with the checks of R35: one that moves too far or backwards halts the queue with ERR 0x14. -/
def Queue.doorbell (q : Queue) (v : Word) : Queue :=
  if (v - q.cons).toNat > 2 ^ q.log ∨ (v - q.prod).toNat ≥ 2 ^ 31 then
    if q.halt then q else { q with halt := true, err := 0x14 }
  else { q with prod := v }

def State.updQueue (s : State) (n : Nat) (f : Queue → Queue) : State := { s with queues := updAt s.queues n f }

/-- The stores that must be performed before this one: earlier ones of its core that meet its bytes, and earlier ones of
its thread to its address that are not translated yet (R234, R276); a releasing write of the device waits for its time
(R227). -/
def State.homeTurn (s : State) (o : StoreOp) : Bool :=
  let before := s.stores.takeWhile (·.id != o.id)
  o.notBefore ≤ s.time
  && !(before.any fun x => x.st == .translated && x.cl == o.cl && x.co == o.co
      && overlap x.xl.key x.bytes o.xl.key o.bytes)
  && !(s.stores.any fun x => x.id < o.id && x.st != .translated && x.ofThread o.team o.warp o.lane
      && overlap x.va x.bytes o.va o.bytes)

/-- A load of the thread issued before the store has not bound its value (R276, third row). -/
def State.loadsBefore (s : State) (o : StoreOp) : Bool :=
  s.loads.any fun x => x.mem && x.id < o.id && x.ofThread o.team o.warp o.lane && !(match o.op with
    | .store _ => false
    | .atom _ _ ld => x.id == ld || x.twin == some ld
    | .cas _ _ ld => x.id == ld || x.twin == some ld)

/-- One plain store at its home. A doorbell page takes 32- and 64-bit stores at offset 0; any other store to it, a wider one
at offset 0 among them, changes nothing (R34; log 62). -/
def State.performPlain (s : State) (o : StoreOp) (data : List Byte) : State :=
  let s := (s.dropStore o.id).beforeWrite o.launch o.va
  if o.xl.doorbell then
    if o.xl.pa % 4096 = 0 ∧ (o.bytes = 4 ∨ o.bytes = 8) then
      (s.updQueue (doorbellQueue o.xl.pa) (·.doorbell (BitVec.ofNat 32 (leNat (data.take 4))))).noteGwct
        o.team o.warp o.lane s.time
    else s
  else
    let g := s.gwct o.xl
    (s.writeHome o.xl data).noteGwct o.team o.warp o.lane g

/-! ### Atomics (R242 to R244) -/

/-- Rounded sum of an F32 atomic (R242). -/
def atomFadd (a b : Word) : Word := BitVec.ofNat 32 (fpAdd fmtF32 0 a.toNat b.toNat).bits
/-- New value of a sub-operation (R242). -/
def atomNew (sub : Nat) (old x : Nat) : Nat :=
  let o := BitVec.ofNat 32 old
  let v := BitVec.ofNat 32 x
  match sub with
  | 0 => (o + v).toNat
  | 1 => v.toNat
  | 2 => (if o.slt v then o else v).toNat
  | 3 => (if o.slt v then v else o).toNat
  | 4 => (if o.ult v then o else v).toNat
  | 5 => (if o.ult v then v else o).toNat
  | 6 => (o &&& v).toNat
  | 7 => (o ||| v).toNat
  | 8 => (o ^^^ v).toNat
  | 9 => if v.toNat ≤ o.toNat then 0 else (o + 1).toNat
  | 10 => if o = 0 ∨ v.toNat < o.toNat then v.toNat else (o - 1).toNat
  | 11 => (atomFadd o v).toNat
  | 12 => (fpMinMax fmtF32 false o.toNat v.toNat).bits
  | 13 => (fpMinMax fmtF32 true o.toNat v.toNat).bits
  | _ => (old + x) % 2 ^ 64

end Sys2Proof.Machine
end

