-- ==== Sys2Proof/Machine/TileBuffer.lean ====
section
/-! DEFINITION. Tile-buffer slots (12_rendering R322, R332, R333, R339, R340): a slot's cells hold its bytes combined by
exclusive or with the clear values, so that a slot just cleared lists nothing. -/

namespace Sys2Proof.Machine

/-- Word `k` (64 bits) of a pass descriptor (R322). -/
def Pass.word (p : Pass) (off : Nat) : Nat := p.words.getD (off / 8) 0

def Pass.width (p : Pass) : Nat := bits (p.word 0x08) 0 16
def Pass.height (p : Pass) : Nat := bits (p.word 0x08) 16 16
def Pass.clmask (p : Pass) : Nat := bits (p.word 0x08) 32 8
/-- Tile edge (R322, TSIZE). -/
def Pass.edge (p : Pass) : Nat := 8 * 2 ^ bits (p.word 0x30) 6 2
/-- Samples of a pixel: 1, 4 or 16, of which the tile holds S (R322, R334). -/
def Pass.sppCode (p : Pass) : Nat := bits (p.word 0x30) 8 2
def Pass.samples (p : Pass) : Nat := 4 ^ p.sppCode
def Pass.clearC (p : Pass) : Nat := p.word 0x78
def Pass.clearZ (p : Pass) : Nat := bits (p.word 0x80) 32 32

/-- Bytes of a slot: 12 T^2 S (R332). -/
def Pass.slotUsed (p : Pass) : Nat := 12 * p.edge * p.edge * p.samples
def Pass.slotBytes (p : Pass) : Nat := roundUp p.slotUsed 4096

/-- The clear value of a byte of a slot (R333). -/
def Pass.clearByte (p : Pass) (n : Nat) : Byte :=
  let colours := 8 * p.edge * p.edge * p.samples
  if n < colours then BitVec.ofNat 8 (p.clearC >>> (8 * (n % 8)))
  else if n < p.slotUsed then BitVec.ofNat 8 (p.clearZ >>> (8 * (n % 4)))
  else 0

def Pass.tile (p : Pass) (k : Nat) : RTile := p.tiles.getD k { k := k, cl := 0 }

def Pass.slotRead (p : Pass) (k a n : Nat) : List Byte :=
  (List.range n).map fun i => Memory.read (p.tile k).cells (a + i) ^^^ p.clearByte (a + i)

def Pass.slotWrite (p : Pass) (k a : Nat) (bs : List Byte) : Pass :=
  { p with tiles := updAt p.tiles k fun t =>
      { t with cells := (bs.zipIdx).foldl (fun m (b, i) => Memory.write m (a + i) (b ^^^ p.clearByte (a + i))) t.cells } }

/-- A granule of a slot is in error (R340). -/
def RTile.badAt (t : RTile) (a n : Nat) : Bool := t.bad.any fun g => g < a + n && a < g + 32

end Sys2Proof.Machine
end

