-- ==== Sys2Proof/Machine/MemWords.lean ====
section
/-! DEFINITION. The M2 instructions, DRAINS and FENCE (09_isa_memory R232 to R247, 10_synchronised R280). -/

namespace Sys2Proof

open Machine

/-! ### Fields (R106, R233, R234) -/

def M2.bytes (f : M2) : Nat := 2 ^ f.width.toNat
/-- Registers of a group of the width. -/
def M2.cnt (f : M2) : Nat := if f.width.toNat ≤ 2 then 1 else 2 ^ (f.width.toNat - 2)
def M2.group (f : M2) (iss : Issue) : Opnd := (iss.reg f.d.toNat).grp f.cnt f.cnt
def M2.pairA (f : M2) (iss : Issue) : Opnd := ((iss.reg f.a.toNat).grp 2 2).src (some [.addr])
def M2.regA (f : M2) (iss : Issue) : Opnd := (iss.reg f.a.toNat).src (some [.n32, .i32])
def M2.dst (f : M2) (iss : Issue) : Opnd := (f.group iss).dst
def M2.data (f : M2) (iss : Issue) : Opnd := (f.group iss).src none
/-- The probe predicate (R214). -/
def M2.probe (f : M2) (iss : Issue) : List Opnd := if f.fmode == 1 then [(iss.prd f.pp.toNat).dst] else []

def M2.addr64 (f : M2) (c : Ctx) : Nat :=
  (((c.pair (f.pairA c.iss) : Int) + sextNat 24 f.offset.toNat) % (2 ^ 64 : Int)).toNat
def M2.addr32 (f : M2) (c : Ctx) : Nat :=
  ((((c.rd (f.regA c.iss)).toNat : Int) + sextNat 24 f.offset.toNat) % (2 ^ 32 : Int)).toNat

/-- Two words; `data` is the register a trapping store reports (R91). -/
def m2Form (g : Group) (wf pure : Bool) (os : List Opnd) (data : Option Opnd) : Form :=
  { grp := g, wf := wf, len := 2, os := os, pure := pure, data := data }

/-! ### Address checks (R195, R196) -/

def alignCheck (a n : Nat) : Option Nat := if a % n = 0 then none else some 0x09

def scratchCheck (c : Ctx) (a n : Nat) : Option Nat :=
  (alignCheck a n).or (if a / 2 ^ 18 ≠ 0 ∨ a + n > c.t.prog.scratch then some 0x0A else none)

/-- Offset and team of a cohort address. -/
def cohOffset (a : Nat) : Nat := bits a 0 18
def cohTeam (a : Nat) : Nat := bits a 18 5

def cohortCheck (c : Ctx) (a n : Nat) : Option Nat :=
  (alignCheck a n).or (if a / 2 ^ 23 ≠ 0 ∨ c.t.prog.cohort ≤ cohTeam a ∨ cohOffset a + n > c.t.prog.scratch
    then some 0x0A else none)

/-- Bounds of a tile-buffer access (R339): the slot's bytes rounded up to 4 KiB. -/
def tileCheck (s : State) (c : Ctx) (a n : Nat) : Option Nat :=
  (alignCheck a n).or (match c.t.tileSlot.bind fun x => s.pass? x.1 with
    | some p => if a / 2 ^ 18 ≠ 0 ∨ a + n > p.slotBytes then some 0x0A else none
    | none => some 0x0A)

/-! ### Gates: acquires before, releases (R235, R279), pairs of a protected launch (R399) -/

/-- The access waits for an acquire whose data is not there, or for its own release. -/
def Machine.State.memGate (s : State) (c : Ctx) (order scope : Nat) : Option Wait :=
  if s.acquiring c.t.id c.w c.own then some .retry
  else if order = 2 ∨ order = 3 then s.releaseGate c scope false
  else none

/-- A compared access (R399): it is performed once, for the visible thread, when both members have issued it; a pair that
disagrees raises the mismatch. `go` performs it for the visible thread. -/
def Machine.State.pairGate (s : State) (c : Ctx) (len : Nat) (access : List Nat) (go : State → Ctx → State × LaneRes) :
    State × LaneRes :=
  if !s.isProtected c.t || c.iss.cls = 0 then go s c else
  let p := c.l ^^^ 1
  let other := s.thread c.t.id c.w p
  let now := s.clkOf c.t.id
  let wait (s : State) : State := s.updThread c.t.id c.w c.l fun th => th.park s.time (.pair now access)
  let mismatch (s : State) : State :=
    { s with agenda := .event .shadowMismatch { team := c.t.id, warp := c.w, lane := c.l } :: s.agenda }
  -- both members have issued it: the visible one performs it, or waits, and its partner with it
  let both (s : State) : State × LaneRes :=
    let v := if c.l % 2 = 0 then c.l else p
    match go s { c with l := v } with
    | (s, .done) =>
      let s := s.updThread c.t.id c.w p fun th => th.unpark
      (s.advance c.t.id c.w p len, .done)
    | (s, .stay w) =>
      let hold (l : Nat) (s : State) : State := s.updThread c.t.id c.w l fun th =>
        th.park s.time (if l = v then w else .partner)
      (hold p (hold c.l s), .moved)
    | (s, .trap k) => (c.iss.deliverTraps [((c.w, p), k, 0), ((c.w, c.l), k, 0)] s, .moved)
    | (s, .moved) => (s, .moved)
  match other.wait with
  | .pair _ a => if a != access then (mismatch (wait s), .moved) else both s
  | .partner => both s
  | _ => (wait s, .moved)

/-! ### Marking destinations and starting loads (R86, R214, R234) -/

/-- Where a write-back goes. -/
def Machine.Ctx.dest (c : Ctx) (d : Opnd) (pp : List Opnd) : Dest :=
  { team := c.t.id, warp := c.w, lane := c.own, n := d.n, cnt := d.cnt, pd := pp.head?.map (·.n) }

/-- Mark the registers of operands empty. -/
def Machine.State.markEmpty (s : State) (c : Ctx) (os : List Opnd) : State :=
  s.updWarp c.t.id c.w fun wp => os.foldl (fun wp o =>
    (List.range o.cnt).foldl (fun wp k => wp.emptyCell c.l o.file (o.n + k)) wp) wp

/-- Put a load in flight. -/
def Machine.State.pushLoad (s : State) (c : Ctx) (os : List Opnd) (o : LoadOp) : State :=
  let s := s.markEmpty c os
  { s with loads := s.loads ++ [o] }

/-- A load that is bound as it issues, with its copy for a shadow when `twin`. -/
def Machine.State.boundLoad (s : State) (c : Ctx) (d : Opnd) (ws : List (Word × Tag)) (acq : Option Nat) : State :=
  let (s, id) := s.fresh
  s.pushLoad c [d] { id := id, dst := c.dest d [], bytes := 4 * ws.length, acq := acq, st := .bound ws none }

/-- Scope of an acquire, when the order asks for one. -/
def acqOf (order scope : Nat) : Option Nat := if order = 1 ∨ order = 3 then some scope else none

/-- What a thread does on an absent page in park mode: it parks, or traps when the table is full (R214, R215). -/
def Machine.State.parkThread (s : State) (c : Ctx) (va base size watch acc : Nat) : State × LaneRes :=
  match s.joinFault c.t.ctx va base size watch acc [.thread c.t.id c.w c.own] with
  | (s, true) => (s, .stay .page)
  | (s, false) => (s, .trap 0x0B)

/-- A parked word with a destination `d`: it stays empty until the word restarts (R236). -/
def Machine.State.parkOn (s : State) (c : Ctx) (d : Opnd) (va base size watch acc : Nat) : State × LaneRes :=
  match s.parkThread c va base size watch acc with
  | (s, .stay w) => ((s.markEmpty c [d]).updThread c.t.id c.w c.l fun th => { th with restart := some (c.dest d []) }, .stay w)
  | r => r

/-- Cluster and core of the word that issues. -/
abbrev Machine.Ctx.slot (c : Ctx) : Nat := c.t.slots.getD c.w 64

/-! ### Global loads (R236, R237) -/

def loadGlobal (ldk : Bool) (f : M2) (s : State) (c : Ctx) : State × LaneRes :=
  let a := f.addr64 c
  let d := f.dst c.iss
  let pp := f.probe c.iss
  if !canonical a then (s, .trap 0x0C) else
  match s.memGate c f.order.toNat f.scope.toNat with
  | some w => (s, .stay w)
  | none =>
    match s.translate c.iss.cl c.iss.co c.t.ctx c.t.priv .read a with
    | (s, .prot) => (s, .trap 0x0C)
    | (s, .bad) => (s.machineCheck c.t.launch 0x18, .stay .retry)
    | (s, .absent b n w) =>
      if f.fmode = 1 then
        let s := s.updWarp c.t.id c.w fun wp =>
          let wp := wp.setGroup c.l d (List.replicate d.cnt (0, .raw))
          pp.foldl (fun wp o => wp.setCell c.l o.file o.n 1 .raw) wp
        (s, .done)
      else s.parkOn c d a b n w 0
    | (s, .ok x) =>
      if ldk && (!x.imm || x.doorbell) then (s, .trap 0x0C) else
      let s := s.noteLine c.t.id c.w a
      let (s, id) := s.fresh
      let o : LoadOp := { id := id, dst := c.dest d pp, va := a, xl := x, ctx := c.t.ctx, bytes := f.bytes
                          sext := bitAt f.sub.toNat 0, cache := f.cache.toNat, ldk := ldk, cl := c.iss.cl, co := c.iss.co
                          tacq := c.tacq, acq := acqOf f.order.toNat f.scope.toNat }
      match s.lookup o c.slot with
      | (s, some o) => (s.pushLoad c (d :: pp) o, .done)
      | (s, none) => (s, .stay .mshr)

/-- Value check of a global form: alignment (R196). -/
def M2.global (f : M2) (c : Ctx) : Option Nat := alignCheck (f.addr64 c) f.bytes

def Machine.execLdg (f : M2) (s : State) : Out :=
  withIssue s fun iss => (m2Form .mem0 (Instr.ldg f).wf false ([f.pairA iss, f.dst iss] ++ f.probe iss) none).perform iss
    (M2.global f) (loadGlobal false f)

def Machine.execLdk (f : M2) (s : State) : Out :=
  withIssue s fun iss => (m2Form .mem0 (Instr.ldk f).wf false ([f.pairA iss, f.dst iss] ++ f.probe iss) none).perform iss
    (M2.global f) (loadGlobal true f)

/-! ### Scratchpad, cohort and tile-buffer loads (R236, R240) -/

/-- Bytes of a team's scratchpad as a load's words. -/
def Machine.Team.scratchLoad (t : Team) (f : M2) (a : Nat) : List (Word × Tag) :=
  loadWords f.bytes (bitAt f.sub.toNat 0) (t.scratchBad.any fun g => overlap g 32 a f.bytes) (t.readScratch a f.bytes)

def Machine.execLds (f : M2) (s : State) : Out :=
  withIssue s fun iss => (m2Form .mem0 (Instr.lds f).wf false [f.regA iss, f.dst iss] none).perform iss
    (fun c => scratchCheck c (f.addr32 c) f.bytes)
    fun s c =>
      match s.memGate c f.order.toNat f.scope.toNat with
      | some w => (s, .stay w)
      | none => (s.boundLoad c (f.dst iss) (c.t.scratchLoad f (f.addr32 c)) none, .done)

def Machine.execLdc (f : M2) (s : State) : Out :=
  withIssue s fun iss => (m2Form .mem0 (Instr.ldc f).wf false [f.regA iss, f.dst iss] none).perform iss
    (fun c => cohortCheck c (f.addr32 c) f.bytes)
    fun s c =>
      let a := f.addr32 c
      match s.cohortTeam? c.t (cohTeam a), s.memGate c f.order.toNat f.scope.toNat with
      | none, _ => (s, .trap 0x17)
      | _, some w => (s, .stay w)
      | some u, none =>
        (s.boundLoad c (f.dst iss) (u.scratchLoad f (cohOffset a)) (acqOf f.order.toNat f.scope.toNat), .done)

def Machine.execLdb (f : M2) (s : State) : Out :=
  withIssue s fun iss => (m2Form .mem (Instr.ldb f).wf false [f.regA iss, f.dst iss] none).perform iss
    (fun c => tileCheck s c (f.addr32 c) f.bytes)
    fun s c =>
      let a := f.addr32 c
      match c.t.tileSlot.bind (fun x => (s.pass? x.1).map fun p => (p, x.2)), s.memGate c f.order.toNat f.scope.toNat with
      | _, some w => (s, .stay w)
      | none, _ => (s, .trap 0x0A)
      | some (p, k), none =>
        (s.boundLoad c (f.dst iss) (loadWords f.bytes false ((p.tile k).badAt a f.bytes) (p.slotRead k a f.bytes))
          (acqOf f.order.toNat f.scope.toNat), .done)

/-! ### Stores (R238, R239) -/

/-- The bytes a store writes. -/
def M2.storeBytes (f : M2) (c : Ctx) : List Byte :=
  (ofWords ((List.range f.cnt).map fun k => c.rd (f.data c.iss) k)).take f.bytes

/-- What is compared of a store (R399). -/
def M2.access (f : M2) (c : Ctx) (addr : List Nat) : List Nat :=
  [c.iss.raw.toNat, c.iss.raw2.toNat] ++ addr ++ [leNat (f.storeBytes c)]

/-- Put a store, atomic or CAS on its way. -/
def Machine.State.pushStore (s : State) (c : Ctx) (f : M2) (grp id va : Nat) (op : HomeOp) : State :=
  let o : StoreOp := { id := id, grp := grp, team := c.t.id, warp := c.w, lane := c.own, ctx := c.t.ctx
                       launch := c.t.launch, va := va, bytes := f.bytes, op := op, cache := f.cache.toNat
                       cl := c.iss.cl, co := c.iss.co, pc := c.iss.hdr, word := c.iss.word, raw := c.iss.raw
                       width := f.width.toNat }
  { s with stores := s.stores ++ [o] }

/-- The checks and waits common to stores, then the access, compared in a protected launch. -/
def storeAct (f : M2) (addr : Ctx → List Nat) (go : State → Ctx → State × LaneRes) (s : State) (c : Ctx) :
    State × LaneRes :=
  match s.memGate c f.order.toNat f.scope.toNat with
  | some w => (s, .stay w)
  | none => s.pairGate c 2 (f.access c (addr c)) go

/-- A gate for accesses that write as they issue: the thread's earlier loads have their values first (R276, third row). -/
def Machine.State.writeGate (s : State) (c : Ctx) (order scope : Nat) : Option Wait :=
  (s.memGate c order scope).or (if s.loadsSettled c.t.id c.w c.own then none else some .retry)

/-- The checks and waits of a store that is performed as it issues. -/
def localStore (f : M2) (addr : Ctx → List Nat) (go : State → Ctx → State × LaneRes) (s : State) (c : Ctx) :
    State × LaneRes :=
  match s.writeGate c f.order.toNat f.scope.toNat with
  | some w => (s, .stay w)
  | none => s.pairGate c 2 (f.access c (addr c)) go

def Machine.execStg (f : M2) (s : State) : Out :=
  withIssue s fun iss =>
    (m2Form .mem0 (Instr.stg f).wf true [f.pairA iss, f.data iss] (some (f.data iss))).perform iss (M2.global f)
      fun s' c =>
        if !canonical (f.addr64 c) then (s', .trap 0x0C)
        else storeAct f (fun c => [f.addr64 c]) (fun s' c =>
          let s' := s'.noteLine c.t.id c.w (f.addr64 c)
          let (s', id) := s'.fresh
          (s'.pushStore c f s.nextId id (f.addr64 c) (.store (f.storeBytes c)), .done)) s' c

def Machine.execSts (f : M2) (s : State) : Out :=
  withIssue s fun iss =>
    (m2Form .mem0 (Instr.sts f).wf true [f.regA iss, f.data iss] (some (f.data iss))).perform iss
      (fun c => scratchCheck c (f.addr32 c) f.bytes)
      (localStore f (fun c => [f.addr32 c]) fun s c => (s.writeScratch c.t.id (f.addr32 c) (f.storeBytes c), .done))

def Machine.execStc (f : M2) (s : State) : Out :=
  withIssue s fun iss =>
    (m2Form .mem0 (Instr.stc f).wf true [f.regA iss, f.data iss] (some (f.data iss))).perform iss
      (fun c => cohortCheck c (f.addr32 c) f.bytes)
      fun s c =>
        match s.cohortTeam? c.t (cohTeam (f.addr32 c)) with
        | none => (s, .trap 0x17)
        | some u => localStore f (fun c => [f.addr32 c])
            (fun s c => (s.writeScratch u.id (cohOffset (f.addr32 c)) (f.storeBytes c), .done)) s c

/-- STCM's registers: the offset, and the team mask beside it (R233). -/
def M2.offsetA (f : M2) (iss : Issue) : Opnd := { (iss.reg f.a.toNat).src (some [.n32, .i32]) with align := 2 }
def M2.maskA (f : M2) (iss : Issue) : Opnd := (iss.reg (f.a.toNat + 1)).src (some [.mask, .n32])

/-- Teams named in a mask, ascending. -/
def maskTeams (m : Nat) : List Nat := (List.range 32).filter (bitAt m ·)

def Machine.execStcm (f : M2) (s : State) : Out :=
  withIssue s fun iss =>
    let mask (c : Ctx) : Nat := (c.rd (f.maskA iss)).toNat
    (m2Form .mem (Instr.stcm f).wf true [f.offsetA iss, f.maskA iss, f.data iss] (some (f.data iss))).perform iss
      (fun c =>
        let a := f.addr32 c
        if mask c = 0 then none
        else (alignCheck a f.bytes).or (if a / 2 ^ 18 ≠ 0 ∨ mask c ≥ 2 ^ c.t.prog.cohort
          ∨ a + f.bytes > c.t.prog.scratch then some 0x0A else none))
      fun s c =>
        let us := (maskTeams (mask c)).map fun k => s.cohortTeam? c.t k
        if us.any (·.isNone) then (s, .trap 0x17)
        else localStore f (fun c => [f.addr32 c, mask c])
          (fun s c => ((us.filterMap id).foldl (fun s u => s.writeScratch u.id (f.addr32 c) (f.storeBytes c)) s, .done)) s c

def Machine.execStb (f : M2) (s : State) : Out :=
  withIssue s fun iss =>
    (m2Form .mem (Instr.stb f).wf true [f.regA iss, f.data iss] (some (f.data iss))).perform iss
      (fun c => tileCheck s c (f.addr32 c) f.bytes)
      (localStore f (fun c => [f.addr32 c]) fun s c =>
        match c.t.tileSlot with
        | some (p, k) => (s.updPass p fun p => p.slotWrite k (f.addr32 c) (f.storeBytes c), .done)
        | none => (s, .trap 0x0A))

/-! ### Atomics and CAS (R242 to R244) -/

/-- Tags an operand of a sub-operation accepts, and the old value's tag (R242). -/
def atomTags (sub : Nat) : Option (List Tag) × Tag :=
  match sub with
  | 0 | 2 | 3 => (some [.i32, .n32], .i32)
  | 1 => (none, .raw)
  | 4 | 5 | 9 | 10 => (some [.n32], .n32)
  | 6 | 7 | 8 => (some [.i32, .n32, .mask], .mask)
  | 11 | 12 | 13 => (some [.f32], .f32)
  | _ => (some [.addr, .i32], .addr)

/-- The words an atomic returns. -/
def oldWords (bytes old : Nat) (tag : Tag) : List (Word × Tag) := (toWords (leBytes old bytes)).map fun w => (w, tag)

/-- D of an atomic: operand and destination. -/
def M2.atomD (f : M2) (iss : Issue) : Opnd :=
  { (f.group iss).dst with rd := true, tags := (atomTags f.sub.toNat).1 }
def M2.atomX (f : M2) (c : Ctx) : Nat := if f.width == 3 then c.pair (f.atomD c.iss) else (c.rd (f.atomD c.iss)).toNat

/-- CAS: compare and new values in one group, the old value in its first half (R243). -/
def M2.casAll (f : M2) (iss : Issue) : Opnd := ((iss.reg f.d.toNat).grp (2 * f.cnt) (2 * f.cnt)).src none
def M2.casD (f : M2) (iss : Issue) : Opnd := (f.group iss).dst
def M2.casVals (f : M2) (c : Ctx) : Nat × Nat :=
  let ws := (List.range (2 * f.cnt)).map fun k => c.rd (f.casAll c.iss) k
  (leNat (ofWords (ws.take f.cnt)), leNat (ofWords (ws.drop f.cnt)))

/-- Lanes that receive an atomic's old value: the thread, and its shadow in a protected launch. -/
def Machine.State.takers (s : State) (c : Ctx) : List Ctx :=
  if s.isProtected c.t && c.iss.cls != 0 then [c, { c with l := c.l ^^^ 1 }] else [c]

/-- An atomic or CAS on its way to the home (R241, R244). -/
def atomGlobal (f : M2) (grp : Nat) (d : Opnd) (op : Ctx → Nat → HomeOp) (s : State) (c : Ctx) : State × LaneRes :=
  let a := f.addr64 c
  match s.translate c.iss.cl c.iss.co c.t.ctx c.t.priv .write a with
  | (s, .prot) => (s, .trap 0x0C)
  | (s, .bad) => (s.machineCheck c.t.launch 0x18, .stay .retry)
  | (s, .absent b n w) => s.parkOn c d a b n w 1
  | (s, .ok x) =>
    if x.imm || x.home == .host || x.doorbell then (s, .trap 0x0C) else
    let s := s.noteLine c.t.id c.w a
    let (s, id) := s.fresh
    let s := (s.takers c).foldl (fun (s : State) (k : Ctx) =>
      let (s, lid) := s.fresh
      let o : LoadOp := { id := lid, dst := k.dest d [], va := a, xl := x, ctx := c.t.ctx, bytes := f.bytes
                          cl := c.iss.cl, co := c.iss.co, acq := acqOf f.order.toNat f.scope.toNat, st := .atHome
                          twin := some id }
      s.pushLoad k [d] o) s
    let s := s.pushStore c f grp id a (op c id)
    ({ s with stores := s.stores.map fun (o : StoreOp) => if o.id == id then { o with xl := x, st := .translated } else o }
      , .done)

def Machine.execAtomg (f : M2) (s : State) : Out :=
  withIssue s fun iss =>
    (m2Form .mem0 (Instr.atomg f).wf true [f.pairA iss, f.atomD iss] none).perform iss (M2.global f)
      fun s' c =>
        if !canonical (f.addr64 c) then (s', .trap 0x0C) else
        match s'.memGate c f.order.toNat f.scope.toNat with
        | some w => (s', .stay w)
        | none => s'.pairGate c 2 [iss.raw.toNat, iss.raw2.toNat, f.addr64 c, f.atomX c]
            (atomGlobal f s.nextId (f.atomD iss) fun c id => .atom f.sub.toNat (f.atomX c) id)

def Machine.execCasg (f : M2) (s : State) : Out :=
  withIssue s fun iss =>
    (m2Form .mem0 (Instr.casg f).wf true [f.pairA iss, f.casAll iss, f.casD iss] none).perform iss (M2.global f)
      fun s' c =>
        if !canonical (f.addr64 c) then (s', .trap 0x0C) else
        match s'.memGate c f.order.toNat f.scope.toNat with
        | some w => (s', .stay w)
        | none => s'.pairGate c 2 [iss.raw.toNat, iss.raw2.toNat, f.addr64 c, (f.casVals c).1, (f.casVals c).2]
            (atomGlobal f s.nextId (f.casD iss) fun c id => .cas (f.casVals c).1 (f.casVals c).2 id)

/-- An atomic or CAS in the scratchpad: `new` gives the value written, if any, from the old one. -/
def atomScratch (f : M2) (d : Opnd) (tag : Tag) (new : Ctx → Nat → Option Nat) (s : State) (c : Ctx) : State × LaneRes :=
  let a := f.addr32 c
  let t := (s.team? c.t.id).getD c.t
  let bad := t.scratchBad.any fun g => overlap g 32 a f.bytes
  let old := leNat (t.readScratch a f.bytes)
  let s := (s.takers c).foldl (fun (s : State) (k : Ctx) =>
    s.boundLoad k d (if bad then List.replicate d.cnt (0, .poison) else oldWords f.bytes old tag) none) s
  match new c old with
  | some v => (if bad then s else s.writeScratch c.t.id a (leBytes v f.bytes), .done)
  | none => (s, .done)

def Machine.execAtoms (f : M2) (s : State) : Out :=
  withIssue s fun iss =>
    (m2Form .mem0 (Instr.atoms f).wf true [f.regA iss, f.atomD iss] none).perform iss
      (fun c => scratchCheck c (f.addr32 c) f.bytes)
      fun s c =>
        match s.writeGate c f.order.toNat f.scope.toNat with
        | some w => (s, .stay w)
        | none => s.pairGate c 2 [iss.raw.toNat, iss.raw2.toNat, f.addr32 c, f.atomX c]
            (atomScratch f (f.atomD iss) (atomTags f.sub.toNat).2 fun c old => some (atomNew f.sub.toNat old (f.atomX c)))

def Machine.execCass (f : M2) (s : State) : Out :=
  withIssue s fun iss =>
    (m2Form .mem0 (Instr.cass f).wf true [f.regA iss, f.casAll iss, f.casD iss] none).perform iss
      (fun c => scratchCheck c (f.addr32 c) f.bytes)
      fun s c =>
        match s.writeGate c f.order.toNat f.scope.toNat with
        | some w => (s, .stay w)
        | none => s.pairGate c 2 [iss.raw.toNat, iss.raw2.toNat, f.addr32 c, (f.casVals c).1, (f.casVals c).2]
            (atomScratch f (f.casD iss) .raw fun c old => if old = (f.casVals c).1 then some (f.casVals c).2 else none)

/-! ### Requests and prefetches (R245, R246) -/

def Machine.execPreq (f : M2) (s : State) : Out :=
  withIssue s fun iss =>
    let pp := (iss.prd f.pp.toNat).src none
    (m2Form .mem (Instr.preq f).wf false [f.pairA iss, pp] none).perform iss (fun _ => none)
      fun s c =>
        if !c.isTrue pp then (s, .done)
        else if !canonical (f.addr64 c) then (s, .trap 0x0C)
        else match s.translate c.iss.cl c.iss.co c.t.ctx c.t.priv .read (f.addr64 c) with
        | (s, .absent b n w) =>
          if (s.faultOf c.t.ctx b n).isSome then (s, .done)
          else ((s.joinFault c.t.ctx (f.addr64 c) b n w 3 []).1, .done)
        | (s, _) => (s, .done)

/-- Bring a sector in when no copy serves; with no entry free the prefetch is dropped (R201, R245). -/
def Machine.State.prefetch (s : State) (c : Ctx) (cache : Nat) (x : Xlat) : State :=
  if !s.cacheable x || (s.hit? c.iss.cl c.iss.co cache c.tacq false x).isSome then s
  else (s.takeMiss c.t.id c.w c.slot c.iss.cl c.iss.co cache false x).1

def Machine.execPfch (f : M2) (s : State) : Out :=
  withIssue s fun iss =>
    (m2Form .mem (Instr.pfch f).wf false [f.pairA iss] none).perform iss (fun _ => none)
      fun s c =>
        let a := f.addr64 c / 128 * 128
        if !canonical (f.addr64 c) then (s, .trap 0x0C)
        else match s.translate c.iss.cl c.iss.co c.t.ctx c.t.priv .read a with
        | (s, .ok x) =>
          let s := s.noteLine c.t.id c.w a
          if f.cache = 2 then (s, .done)
          else ((s.prefetch c f.cache.toNat x).prefetch c f.cache.toNat { x with pa := x.pa + 64 }, .done)
        | (s, _) => (s, .done)

/-! ### DRAINS and FENCE (R221, R247, R280) -/

def Machine.execDrains (s : State) : Out :=
  withIssue s fun iss => ({ grp := .mem0 } : Form).perform iss (fun _ => none)
    fun s c => if s.storesTranslated c.t.id c.w c.own then (s, .done) else (s, .stay .retry)

def Machine.execFence (kind scope : BitVec 2) (s : State) : Out :=
  withIssue s fun iss => ({ grp := .mem0, wf := (Instr.fence kind scope).wf } : Form).perform iss (fun _ => none)
    fun s c =>
      let acquire (s : State) : State × LaneRes :=
        if scope = 0 then (s, .done) else (s.acquire c.t.id c.w c.own, .done)
      if kind = 1 then
        (if s.loadsBound c.t.id c.w c.own then acquire s else (s, .stay .retry))
      else match s.releaseGate c scope.toNat false with
        | some w => (s, .stay w)
        | none => if kind = 2 then (s, .done) else acquire s

end Sys2Proof
end

