-- ==== Sys2Proof/Machine/Barriers.lean ====
section
/-! DEFINITION. Transaction barriers (10_synchronised R283 to R290). -/

namespace Sys2Proof.Machine

/-- A barrier's fields (R283). -/
structure TBar where
  phase : Nat
  parr : Nat
  reload : Nat
  pgran : Nat
  err : Bool
  ptime : Nat
  deriving DecidableEq, Repr

def TBar.ofNat (x : Nat) : TBar :=
  { phase := bits x 0 4, parr := bits x 4 20, reload := bits x 24 20, pgran := bits x 44 32, err := bitAt x 95
    ptime := bits x 96 32 }

def TBar.toNat (b : TBar) : Nat :=
  b.phase + b.parr * 2 ^ 4 + b.reload * 2 ^ 24 + b.pgran * 2 ^ 44 + (if b.err then 2 ^ 95 else 0) + b.ptime * 2 ^ 96

def State.tbar (s : State) (tm a : Nat) : TBar :=
  TBar.ofNat (leNat (((s.team? tm).map fun t => t.readScratch a 16).getD []))

def State.putTbar (s : State) (tm a : Nat) (b : TBar) : State := s.writeScratch tm a (leBytes b.toNat 16)

/-- An engine release waits on the barrier. -/
def State.tbHeld (s : State) (tm a : Nat) : Bool :=
  ((s.team? tm).map fun t => t.tbHolds.any fun h => h.addr == a).getD false

/-- Change both counts with the clamps of R284. -/
def TBar.bump (b : TBar) (arr gran : Int) : TBar :=
  let p := (b.parr : Int) + arr
  let g := (b.pgran : Int) + gran
  { b with parr := p.toNat, pgran := min g.toNat (2 ^ 32 - 1)
           err := b.err || p < 0 || g < 0 || g > 2 ^ 32 - 1 }

/-- The moment from which the writes of the phase's outbound granules are everywhere: the greatest completion time they
returned, and 20 ns more when one was homed on a peer (R285). -/
def State.tbUntil (s : State) (tm a : Nat) : Nat :=
  match ((s.team? tm).bind fun t => t.tbGwct.find? fun g => g.addr == a) with
  | some g => max s.time (g.gwct + if g.peer then 20 else 0)
  | none => s.time

/-- An outbound granule's completion time enters its barrier's engine release; `peer` when a word of it was homed on a
peer. -/
def State.tbNote (s : State) (tm a g : Nat) (peer : Bool) : State :=
  s.updTeam tm fun t =>
    let old := (t.tbGwct.find? fun x => x.addr == a).getD { addr := a, gwct := 0 }
    { t with tbGwct := { addr := a, gwct := max old.gwct g, peer := old.peer || peer }
        :: t.tbGwct.filter fun (x : TbGwct) => x.addr != a }

/-- Answer a TBARR: the threads that wait for it go on with the phase in their register (R288). -/
def State.tbAnswer (s : State) (phase : Nat) (r : TbReply) : State :=
  r.lanes.foldl (fun s l =>
    if (s.thread r.team r.warp l).wait == .tbheld then
      (s.updWarp r.team r.warp fun wp =>
        wp.setCell l .vec r.dst (BitVec.ofNat 32 phase) .n32).advance r.team r.warp l 1
    else s) s

/-- One update of a barrier (R284): at zero counts the engine release begins, and updates that come meanwhile are held in
their order. -/
def State.tbApply (s : State) (tm a : Nat) (u : TbUpd) : State :=
  if s.tbHeld tm a then
    s.updTeam tm fun t => { t with tbHolds := t.tbHolds.map fun (h : TbHold) =>
      if h.addr == a then { h with held := h.held ++ [u] } else h }
  else
    match u with
    | .init n => s.putTbar tm a { phase := 0, parr := n, reload := n, pgran := 0, err := false, ptime := s.time % 2 ^ 32 }
    | .bump arr gran reply far =>
      let s := match far with
        | some (g, peer) => s.tbNote tm a g peer
        | none => s
      let old := s.tbar tm a
      let b := old.bump arr gran
      let until_ := s.tbUntil tm a
      let s := s.putTbar tm a b
      let s := if b.parr = 0 ∧ b.pgran = 0 then
          s.updTeam tm fun t => { t with tbHolds := t.tbHolds ++ [{ addr := a, until_ := until_ }] }
        else s
      match reply with
      | some r => s.tbAnswer old.phase r
      | none => s

/-- An update of both counts. -/
def State.tbUpdate (s : State) (tm a : Nat) (arr gran : Int) : State := s.tbApply tm a (.bump arr gran none)

/-- The phase changes once the engine release is done; the held updates apply to the new phase (R284, R285). -/
def State.tbCommit (s : State) (tm a : Nat) : State :=
  match (s.team? tm).bind fun t => t.tbHolds.find? fun h => h.addr == a with
  | none => s
  | some h =>
    if s.time < h.until_ then s else
    let b := s.tbar tm a
    let s := s.putTbar tm a { b with phase := (b.phase + 1) % 16, parr := b.reload, ptime := s.time % 2 ^ 32 }
    let s := s.updTeam tm fun t =>
      { t with tbHolds := t.tbHolds.filter fun (x : TbHold) => x.addr != a
               tbGwct := t.tbGwct.filter fun (x : TbGwct) => x.addr != a }
    h.held.foldl (fun s u => s.tbApply tm a u) s

/-- TB_PHASE_CHANGE of the barrier at `addr` of the target's team. -/
def execTbPhaseChange (s : State) : Out := .next (s.tbCommit s.target.team s.target.addr)

/-! ### The instructions (R286) -/

def tbA (iss : Issue) (a : BitVec 7) : Opnd := (iss.reg a.toNat).src (some [.n32, .i32])

/-- Alignment and bounds of a barrier address (R286). -/
def tbCheck (c : Ctx) (a : Nat) (coh : Bool) : Option Nat := if coh then cohortCheck c a 16 else scratchCheck c a 16

/-- The team and scratchpad address of a barrier, `none` when the team is gone. -/
def State.tbAt (s : State) (c : Ctx) (a : Nat) (coh : Bool) : Option (Nat × Nat) :=
  if coh then (s.cohortTeam? c.t (cohTeam a)).map fun u => (u.id, cohOffset a) else some (c.t.id, a)

/-- Run a barrier word in each thread, or once for the warp. -/
def tbPerform (whole : Bool) (fm : Form) (iss : Issue) (value : Ctx → Option Nat)
    (act : State → Ctx → State × LaneRes) (s : State) : State :=
  if whole then fm.performOnce iss value act s else fm.perform iss value act s

/-- Find the barrier, and wait for the release of the scope where one is made. -/
def State.tbGo (s : State) (c : Ctx) (a : Nat) (coh whole rel : Bool) (go : Nat → Nat → State × LaneRes) : State × LaneRes :=
  match s.tbAt c a coh with
  | none => (s, .trap 0x17)
  | some (tm, x) =>
    match (if rel then s.releaseGate c (if coh then 1 else 0) whole else none) with
    | some w => (s, .stay w)
    | none => go tm x

def execTbinit (a b : BitVec 7) (coh : BitVec 1) (s : State) : Out :=
  withIssue s fun iss =>
    let pa := tbA iss a
    let pb := (iss.reg b.toNat).src (some [.n32, .i32])
    ({ grp := .copy, os := [pa, pb] } : Form).perform iss
      (fun c => if c.rd pb = 0 ∨ (c.rd pb).toNat > 0xFFFFF then some 0x04 else tbCheck c (c.rd pa).toNat (coh == 1))
      fun s c => s.tbGo c (c.rd pa).toNat (coh == 1) false false fun tm x =>
        (s.tbApply tm x (.init (c.rd pb).toNat), .done)

def execTbarr (d a : BitVec 7) (coh warpWide : BitVec 1) (s : State) : Out :=
  withIssue s fun iss =>
    let pa := tbA iss a
    let pd := (iss.reg d.toNat).dst
    let whole := warpWide == 1
    tbPerform whole { grp := .copy, coll := whole, os := [pa, pd] } iss
      (fun c => tbCheck c (c.rd pa).toNat (coh == 1))
      fun s c => s.tbGo c (c.rd pa).toNat (coh == 1) whole true fun tm x =>
        let ls := if whole then (c.t.warp c.w).live else [c.l]
        if s.tbHeld tm x then
          (s.tbApply tm x (.bump (-1) 0 (some { team := c.t.id, warp := c.w, lanes := ls, dst := pd.n })), .stay .tbheld)
        else
          let old := (s.tbar tm x).phase
          let s := s.tbUpdate tm x (-1) 0
          (s.updWarp c.t.id c.w fun wp => ls.foldl (fun wp l => wp.setGroup l pd [(BitVec.ofNat 32 old, .n32)]) wp, .done)

def execTbexp (a b : BitVec 7) (coh warpWide arr : BitVec 1) (s : State) : Out :=
  withIssue s fun iss =>
    let pa := tbA iss a
    let pb := (iss.reg b.toNat).src (some [.n32, .i32])
    let whole := warpWide == 1
    tbPerform whole { grp := .copy, coll := whole, os := [pa, pb] } iss
      (fun c => tbCheck c (c.rd pa).toNat (coh == 1))
      fun s c => s.tbGo c (c.rd pa).toNat (coh == 1) whole (arr == 1) fun tm x =>
        (s.tbUpdate tm x (if arr = 1 then -1 else 0) (c.rd pb).toNat, .done)

def execTbwait (a b : BitVec 7) (coh : BitVec 1) (s : State) : Out :=
  withIssue s fun iss =>
    let pa := tbA iss a
    let pb := (iss.reg b.toNat).src (some [.n32, .i32])
    ({ grp := .copy, os := [pa, pb] } : Form).perform iss
      (fun c => tbCheck c (c.rd pa).toNat (coh == 1))
      fun s c =>
        match s.tbAt c (c.rd pa).toNat (coh == 1) with
        | none => (s, .trap 0x17)
        | some (tm, x) =>
          let p := bits (c.rd pb).toNat 0 4
          if (s.tbar tm x).phase = p then (s, .stay (.tbarrier tm x p (coh == 1)))
          else if coh = 1 then (s.acquire c.t.id c.w c.own, .done) else (s, .done)

end Sys2Proof.Machine
end

