-- ==== Sys2Proof/Machine/FloatWords.lean ====
section
/-! DEFINITION. F32 words 0x40 to 0x57 and packed half words 0x58 to 0x5F (07_isa_alu R175 to R180). -/

namespace Sys2Proof.Machine

def tF : Option (List Tag) := some [.f32]
def tH : Option (List Tag) := some [.f16x2]
def tB : Option (List Tag) := some [.b16x2]

/-- A result word of an F32 operation. -/
def wordOf (r : FpRes) : Word := BitVec.ofNat 32 r.bits

/-- An F32 word with two sources; `op` takes RM and the patterns. -/
def fp2 (f : A3) (wf : Bool) (op : Nat → Nat → Nat → FpRes) (s : State) : Out :=
  regWord (fun iss => f.form iss wf true false tF tF none)
    (fun iss c =>
      let r := op c.th.rm (c.rd (f.srcA iss tF)).toNat (c.rd (f.srcB iss tF)).toNat
      { regs := [(f.dst iss, [(wordOf r, .f32)])], fl := r.fl }) s

def fp1 (f : A3) (wf : Bool) (op : Nat → Nat → FpRes) (s : State) : Out :=
  regWord (fun iss => f.form iss wf false false tF none none)
    (fun iss c =>
      let r := op c.th.rm (c.rd (f.srcA iss tF)).toNat
      { regs := [(f.dst iss, [(wordOf r, .f32)])], fl := r.fl }) s

/-- A fused word: the destination is the addend. -/
def fp3 (f : A3) (wf : Bool) (op : Nat → Nat → Nat → Nat → FpRes) (s : State) : Out :=
  regWord (fun iss => f.form iss wf true true tF tF tF)
    (fun iss c =>
      let r := op c.th.rm (c.rd (f.srcA iss tF)).toNat (c.rd (f.srcB iss tF)).toNat (c.rd (f.dst iss)).toNat
      { regs := [(f.dst iss, [(wordOf r, .f32)])], fl := r.fl }) s

/-- FABS and FNEG: any tag, kept (R177). -/
def fpBit (f : A3) (wf : Bool) (op : Word → Word) (s : State) : Out :=
  regWord (fun iss => f.form iss wf false false none none none)
    (fun iss c =>
      let a := f.srcA iss none
      { regs := [(f.dst iss, [(op (c.rd a), c.tag a)])] }) s

/-- The elements of a packed half register. -/
def half (w : Word) (k : Nat) : Nat := bits w.toNat (16 * k) 16
def halves (lo hi : FpRes) : Word := BitVec.ofNat 32 (lo.bits % 2 ^ 16 + 2 ^ 16 * hi.bits)

/-- A packed word with two sources (R180). -/
def packed2 (f : A3) (wf : Bool) (tag : Tag) (op : Nat → Nat → Nat → FpRes) (s : State) : Out :=
  regWord (fun iss => f.form iss wf true false (some [tag]) (some [tag]) none)
    (fun iss c =>
      let a := c.rd (f.srcA iss none)
      let b := c.rd (f.srcB iss none)
      let lo := op c.th.rm (half a 0) (half b 0)
      let hi := op c.th.rm (half a 1) (half b 1)
      { regs := [(f.dst iss, [(halves lo hi, tag)])], fl := lo.fl ||| hi.fl }) s

def packed3 (f : A3) (wf : Bool) (tag : Tag) (fmt : Fmt) (s : State) : Out :=
  regWord (fun iss => f.form iss wf true true (some [tag]) (some [tag]) (some [tag]))
    (fun iss c =>
      let a := c.rd (f.srcA iss none)
      let b := c.rd (f.srcB iss none)
      let d := c.rd (f.dst iss)
      let lo := fpFma fmt c.th.rm (half a 0) (half b 0) (half d 0)
      let hi := fpFma fmt c.th.rm (half a 1) (half b 1) (half d 1)
      { regs := [(f.dst iss, [(halves lo hi, tag)])], fl := lo.fl ||| hi.fl }) s

def execFadd (f : A3) (s : State) : Out := fp2 f (Instr.fadd f).wf (fpAdd fmtF32) s
def execFsub (f : A3) (s : State) : Out := fp2 f (Instr.fsub f).wf (fpSub fmtF32) s
def execFmul (f : A3) (s : State) : Out := fp2 f (Instr.fmul f).wf (fpMul fmtF32) s
def execFfma (f : A3) (s : State) : Out := fp3 f (Instr.ffma f).wf (fpFma fmtF32) s
def execFfms (f : A3) (s : State) : Out := fp3 f (Instr.ffms f).wf (fpFms fmtF32) s
def execFmin (f : A3) (s : State) : Out := fp2 f (Instr.fmin f).wf (fun _ a b => fpMinMax fmtF32 false a b) s
def execFmax (f : A3) (s : State) : Out := fp2 f (Instr.fmax f).wf (fun _ a b => fpMinMax fmtF32 true a b) s
def execFdiv (f : A3) (s : State) : Out := fp2 f (Instr.fdiv f).wf (fpDiv fmtF32) s
def execFsqrt (f : A3) (s : State) : Out := fp1 f (Instr.fsqrt f).wf (fpSqrt fmtF32) s
def execFrcp (f : A3) (s : State) : Out := fp1 f (Instr.frcp f).wf (fpRcp fmtF32) s
def execFrsq (f : A3) (s : State) : Out := fp1 f (Instr.frsq f).wf (fpRsq fmtF32) s
def execFexp2 (f : A3) (s : State) : Out := fp1 f (Instr.fexp2 f).wf (fpExp2 fmtF32) s
def execFlog2 (f : A3) (s : State) : Out := fp1 f (Instr.flog2 f).wf (fpLog2 fmtF32) s
def execFsint (f : A3) (s : State) : Out := fp1 f (Instr.fsint f).wf (fpSinTurn fmtF32) s
def execFcost (f : A3) (s : State) : Out := fp1 f (Instr.fcost f).wf (fpCosTurn fmtF32) s
def execFtanh (f : A3) (s : State) : Out := fp1 f (Instr.ftanh f).wf (fpTanh fmtF32) s
def execFabs (f : A3) (s : State) : Out := fpBit f (Instr.fabs f).wf (fun a => a &&& 0x7FFFFFFF) s
def execFneg (f : A3) (s : State) : Out := fpBit f (Instr.fneg f).wf (fun a => a ^^^ 0x80000000) s
def execFcmp (f : P3) (s : State) : Out :=
  regWord (fun iss => f.form iss (Instr.fcmp f).wf tF tF)
    (fun iss c =>
      let a := (c.rd (f.srcA iss tF)).toNat
      let b := (c.rd (f.srcB iss tF)).toNat
      { regs := [predRes (f.pdst iss) (condHolds f.cond.toNat (fpOrder fmtF32 a b))]
        fl := if (unpack fmtF32 a).isSnan || (unpack fmtF32 b).isSnan then flagNV else 0 }) s
def execFclass (f : A3) (s : State) : Out :=
  regWord (fun iss => f.form iss (Instr.fclass f).wf false false tF none none)
    (fun iss c => { regs := [(f.dst iss,
      [(BitVec.ofNat 32 (2 ^ fpClass fmtF32 (c.rd (f.srcA iss tF)).toNat), .mask)])] }) s
def execFrnd (f : AI) (s : State) : Out :=
  regWord (fun iss => f.form iss (Instr.frnd f).wf tF)
    (fun iss c =>
      let r := fpRoundInt fmtF32 f.imm.toNat (c.rd ((iss.reg (iss.aF f.a)).src tF)).toNat
      { regs := [((iss.reg (iss.dF f.d)).dst, [(wordOf r, .f32)])], fl := r.fl }) s
def execFldex (f : A3) (s : State) : Out :=
  regWord (fun iss => f.form iss (Instr.fldex f).wf true false tF (some [.i32]) none)
    (fun iss c =>
      let r := fpLdexp fmtF32 c.th.rm (c.rd (f.srcA iss tF)).toNat (c.rd (f.srcB iss none)).toInt
      { regs := [(f.dst iss, [(wordOf r, .f32)])], fl := r.fl }) s
def execFsat (f : A3) (s : State) : Out := fp1 f (Instr.fsat f).wf (fun _ a => fpSat fmtF32 a) s
def execFamax (f : A3) (s : State) : Out :=
  fp2 f (Instr.famax f).wf (fun _ a b => fpMinMax fmtF32 true (absBits fmtF32 a) (absBits fmtF32 b)) s
def execHadd2 (f : A3) (s : State) : Out := packed2 f (Instr.hadd2 f).wf .f16x2 (fpAdd fmtF16) s
def execHmul2 (f : A3) (s : State) : Out := packed2 f (Instr.hmul2 f).wf .f16x2 (fpMul fmtF16) s
def execHfma2 (f : A3) (s : State) : Out := packed3 f (Instr.hfma2 f).wf .f16x2 fmtF16 s
def execHmin2 (f : A3) (s : State) : Out := packed2 f (Instr.hmin2 f).wf .f16x2 (fun _ a b => fpMinMax fmtF16 false a b) s
def execHmax2 (f : A3) (s : State) : Out := packed2 f (Instr.hmax2 f).wf .f16x2 (fun _ a b => fpMinMax fmtF16 true a b) s
def execBadd2 (f : A3) (s : State) : Out := packed2 f (Instr.badd2 f).wf .b16x2 (fpAdd fmtB16) s
def execBmul2 (f : A3) (s : State) : Out := packed2 f (Instr.bmul2 f).wf .b16x2 (fpMul fmtB16) s
def execBfma2 (f : A3) (s : State) : Out := packed3 f (Instr.bfma2 f).wf .b16x2 fmtB16 s

end Sys2Proof.Machine
end

