-- ==== Sys2Proof/Machine/Convert.lean ====
section
/-! DEFINITION. Conversion, packing, tag, scale-slot and Welford words 0x60 to 0x72 (07_isa_alu R181 to R187,
06_numbers R145 to R163). -/

namespace Sys2Proof.Machine

/-! ### CVT (R181) -/

/-- The tags CVT's source accepts, by pos. -/
def cvtTags (pos : Nat) : Option (List Tag) :=
  match pos with
  | 0 => some [.f32] | 1 => some [.i32] | 2 => some [.n32] | 3 | 4 => some [.f16x2] | _ => some [.b16x2]

/-- A float source's format and bits, by pos. -/
def cvtSrc (pos : Nat) (w : Word) : Fmt × Nat :=
  match pos with
  | 0 => (fmtF32, w.toNat) | 3 => (fmtF16, half w 0) | 4 => (fmtF16, half w 1) | 5 => (fmtB16, half w 0)
  | _ => (fmtB16, half w 1)

def intToFpSat (dst : Fmt) (rm : Nat) (sat : Bool) (v : Int) : FpRes :=
  let r := intToFp dst rm v
  if sat && r.fl &&& flagOF != 0 then { r with bits := signed dst (decide (v < 0)) dst.maxBits } else r

/-- The converted value with its flags. -/
def cvtValue (tag pos rm : Nat) (sat : Bool) (w : Word) : CvtRes :=
  let fp (r : FpRes) : CvtRes := ⟨r.bits, r.fl, 0⟩
  if pos = 1 ∨ pos = 2 then
    let v : Int := if pos = 1 then w.toInt else w.toNat
    match tag with
    | 1 => if v > 2 ^ 31 - 1 then ⟨2 ^ 31 - 1, 0, flagSAT⟩ else ⟨w.toNat, 0, 0⟩
    | 2 => if v < 0 then ⟨0, 0, flagSAT⟩ else ⟨w.toNat, 0, 0⟩
    | 3 => fp (intToFpSat fmtF32 rm sat v)
    | 4 => fp (intToFpSat fmtF16 rm sat v)
    | _ => fp (intToFpSat fmtB16 rm sat v)
  else
    let (src, x) := cvtSrc pos w
    match tag with
    | 1 => fp (fpToInt src rm (-(2 ^ 31)) (2 ^ 31 - 1) 32 x)
    | 2 => fp (fpToInt src rm 0 (2 ^ 32 - 1) 32 x)
    | 3 => fp (fpToFp src fmtF32 rm sat x)
    | 4 => fp (fpToFp src fmtF16 rm sat x)
    | _ => fp (fpToFp src fmtB16 rm sat x)

def execCvt (f : CV) (s : State) : Out :=
  regWord (fun iss => { grp := .alu, wf := (Instr.cvt f).wf, past := iss.past (iss.dF f.d) (iss.aF f.a) 0
                        os := [(iss.reg (iss.aF f.a)).src (cvtTags f.pos.toNat), (iss.reg (iss.dF f.d)).dst] })
    (fun iss c =>
      let r := cvtValue f.tag.toNat f.pos.toNat f.rm.toNat (f.sat == 1) (c.rd (iss.reg (iss.aF f.a)))
      { regs := [((iss.reg (iss.dF f.d)).dst, [(BitVec.ofNat 32 r.bits, Tag.ofCode f.tag.toNat)])]
        fl := r.fl, ist := r.ist }) s

/-! ### PACK and UNPK (R182, R183) -/

/-- Elements of a packed format and their width. -/
def packCount (tag : Nat) : Nat := if tag ≤ 5 then 2 else if tag = 7 then 5 else 4
def packWidth (tag : Nat) : Nat := if tag ≤ 5 then 16 else if tag = 7 then 6 else 8

/-- The tags PACK's source accepts. -/
def packTags (tag : Nat) : Option (List Tag) :=
  match tag with
  | 8 => some [.f32, .i32]
  | 9 => some [.f32, .n32]
  | _ => some [.f32]

/-- PACK's source is read as an integer. -/
def packInt (tag : Nat) (t : Tag) : Bool := (tag == 8 && t == .i32) || (tag == 9 && t == .n32)

/-- One element of a packed format from a source value. -/
def packValue (tag rm : Nat) (sat isInt : Bool) (w : Word) : CvtRes :=
  let fp (r : FpRes) : CvtRes := ⟨r.bits, r.fl, 0⟩
  match tag with
  | 4 => fp (fpToFp fmtF32 fmtF16 rm sat w.toNat)
  | 5 => fp (fpToFp fmtF32 fmtB16 rm sat w.toNat)
  | 6 => fp (taperEncode 7 (unpack fmtF32 w.toNat))
  | 7 => fp (taperEncode 5 (unpack fmtF32 w.toNat))
  | 8 =>
    if isInt then
      let v := w.toInt
      if sat && v < -128 then ⟨128, 0, flagSAT⟩ else if sat && v > 127 then ⟨127, 0, flagSAT⟩ else ⟨w.toNat % 256, 0, 0⟩
    else fp (fpToInt fmtF32 rm (-128) 127 8 w.toNat)
  | _ =>
    if isInt then (if sat && w.toNat > 255 then ⟨255, 0, flagSAT⟩ else ⟨w.toNat % 256, 0, 0⟩)
    else fp (fpToInt fmtF32 rm 0 255 8 w.toNat)

/-- Replace element `pos` of a packed register; with pos 0 every other element becomes zero. Bits above the elements are
written as zero (R145). -/
def insertElem (width pos : Nat) (old : Word) (x : Nat) : Word :=
  if pos = 0 then BitVec.ofNat 32 (x % 2 ^ width)
  else
    let o := old.toNat % 2 ^ (width * (32 / width))
    let low := o % 2 ^ (width * pos)
    let top := o / 2 ^ (width * (pos + 1))
    BitVec.ofNat 32 (low + 2 ^ (width * pos) * (x % 2 ^ width + 2 ^ width * top))

def execPack (f : CV) (s : State) : Out :=
  let tag := f.tag.toNat
  let pos := f.pos.toNat
  withIssue s fun iss =>
    let a := (iss.reg (iss.aF f.a)).src (packTags tag)
    let d := { (iss.reg (iss.dF f.d)).dst with rd := pos != 0, tags := some [Tag.ofCode tag] }
    Form.perform { grp := .alu, wf := (Instr.pack f).wf, past := iss.past (iss.dF f.d) (iss.aF f.a) 0, os := [a, d] }
      iss
      (fun c =>
        let isInt := packInt tag (c.tag a)
        if 8 ≤ tag ∧ ((isInt ∧ f.rm ≠ 0) ∨ (!isInt ∧ f.sat ≠ 0)) then some 0x03
        else if pos ≥ packCount tag then some 0x04 else none)
      (effAct iss fun c =>
        let r := packValue tag f.rm.toNat (f.sat == 1) (packInt tag (c.tag a)) (c.rd a)
        { regs := [(d, [(insertElem (packWidth tag) pos (c.rd d) r.bits, Tag.ofCode tag)])], fl := r.fl, ist := r.ist })

/-- An element of a packed register as F32, I32 or N32 (R183). -/
def unpackValue (tag pos : Nat) (w : Word) : FpRes × Tag :=
  let x := bits w.toNat (packWidth tag * pos) (packWidth tag)
  let taper (width : Nat) : FpRes := match taperDecode width x with
    | none => nanRes fmtF32 true
    | some v => deliver fmtF32 0 v
  match tag with
  | 4 => (fpToFp fmtF16 fmtF32 0 false x, .f32)
  | 5 => (fpToFp fmtB16 fmtF32 0 false x, .f32)
  | 6 => (taper 7, .f32)
  | 7 => (taper 5, .f32)
  | 8 => (⟨(BitVec.ofInt 32 (sextNat 8 x)).toNat, 0⟩, .i32)
  | _ => (⟨x, 0⟩, .n32)

def execUnpk (f : CV) (s : State) : Out :=
  let tag := f.tag.toNat
  let pos := f.pos.toNat
  withIssue s fun iss =>
    let a := (iss.reg (iss.aF f.a)).src (some [Tag.ofCode tag])
    let d := (iss.reg (iss.dF f.d)).dst
    Form.perform { grp := .alu, wf := (Instr.unpk f).wf, past := iss.past (iss.dF f.d) (iss.aF f.a) 0, os := [a, d] }
      iss (fun _ => if pos ≥ packCount tag then some 0x04 else none)
      (effAct iss fun c =>
        let r := unpackValue tag pos (c.rd a)
        { regs := [(d, [(wordOf r.1, r.2)])], fl := r.1.fl })

/-! ### TAGS and TAGR (R186) -/

def execTags (f : AI) (s : State) : Out :=
  regWord (fun iss => f.form iss (Instr.tags f).wf none)
    (fun iss c => { regs := [((iss.reg (iss.dF f.d)).dst,
      [(c.rd (iss.reg (iss.aF f.a)), Tag.ofCode f.imm.toNat)])] }) s

def execTagr (f : A3) (s : State) : Out :=
  regWord (fun iss => { grp := .alu, wf := (Instr.tagr f).wf, past := f.past iss
                        os := [{ f.srcA iss none with machine := false }, f.dst iss] })
    (fun iss c => { regs := [(f.dst iss, [(BitVec.ofNat 32 (c.tag (f.srcA iss none)).code, .n32)])] }) s

/-! ### Quantising a group (R154 to R157) -/

def groupSize (tag : Nat) : Nat := if tag = 7 then 5 else 4

/-- The largest magnitude of a packed format (R152). -/
def formatMax (tag : Nat) : Nat := if tag = 6 then 4096 else if tag = 7 then 256 else if tag = 8 then 127 else 255

def sideCount (w : Word) : Nat := bits w.toNat 18 5
def sideAddr (w : Word) : Nat := bits w.toNat 0 18

/-- The value times 2^e, exact. -/
def Num.scale (e : Int) : Num → Num
  | .fin n m x => .fin n m (x + e)
  | v => v

/-- What quantising one element gives: its code, flags, and an entry's value for the side list. -/
structure QuantElem where
  code : Nat := 0
  fl : FpFlags := 0
  ist : IntFlags := 0
  entry : Option Nat := none
  full : Bool := false
  deriving DecidableEq, Repr

/-- Quantise one element; `room` says that the side list can take an entry (R154). -/
def quantElem (tag : Nat) (esc : Bool) (room : Bool) (y : Num) : QuantElem :=
  let w := if tag = 7 then 5 else 7
  let fm : Num := .fin false (formatMax tag) 0
  let mag : Num := match y with
    | .fin _ m e => .fin false m e
    | .inf _ => .inf false
    | v => v
  if esc && !y.isNan && compareNum mag fm == .gt then
    if room then
      let v := deliver fmtF32 0 y
      { code := 2 ^ w, fl := v.fl, entry := some v.bits }
    else { code := (if y.neg then 2 ^ w else 0) + (2 ^ w - 1), fl := flagNX, full := true }
  else if tag ≤ 7 then
    let r := taperEncode w y
    { code := r.bits, fl := r.fl }
  else
    let lo : Int := if tag = 8 then -128 else 0
    let hi : Int := if tag = 8 then 127 else 255
    let out (v : Int) (fl : FpFlags) (ist : IntFlags) : QuantElem :=
      { code := (BitVec.ofInt 8 v).toNat, fl := fl, ist := ist }
    match y with
    | .nan _ => out 0 flagNV 0
    | .inf n => out (if n then lo else hi) flagNX flagSAT
    | .fin n m e =>
      let r := roundToInt 0 n m e
      if r.1 < lo then out lo flagNX flagSAT
      else if r.1 > hi then out hi flagNX flagSAT
      else out r.1 (if r.2 then flagNX else 0) 0

/-- Quantise the elements in order, counting entries. -/
def quantAll (tag : Nat) (esc : Bool) : Nat → List Num → List QuantElem
  | _, [] => []
  | cnt, y :: ys =>
    let q := quantElem tag esc (cnt < 16) y
    q :: quantAll tag esc (if q.entry.isSome then cnt + 1 else cnt) ys

/-- Codes packed from element 0 up. -/
def packCodes (width : Nat) : List Nat → Nat
  | [] => 0
  | c :: cs => c + 2 ^ width * packCodes width cs

/-- Side-list entries of the elements, with their indexes (R155). -/
def sideEntries (sidex : Nat) : Nat → List QuantElem → List (List Byte)
  | _, [] => []
  | e, q :: qs =>
    match q.entry with
    | some v => leBytes ((sidex + e) % 2 ^ 16 + 2 ^ 32 * v) 8 :: sideEntries sidex (e + 1) qs
    | none => sideEntries sidex (e + 1) qs

/-- CVTQ in one thread (R154 to R156). -/
def quantise (tag slot : Nat) (esc : Bool) (d : Opnd) (xs : List Word) (c : Ctx) : Eff :=
  let th := c.th
  let k := c.wp.slots.getD slot {}
  let cnt := sideCount th.sidel
  let qs := quantAll tag esc cnt (xs.map fun x => Num.scale (-k.s) (unpack fmtF32 x.toNat))
  let es := sideEntries th.sidex.toNat 0 qs
  let base := sideAddr th.sidel + 8 * cnt
  if !es.isEmpty && base + 8 * es.length > c.t.prog.scratch then { trap := some 0x0A } else
  let sidel : Word := BitVec.ofNat 32 (th.sidel.toNat + 2 ^ 18 * es.length)
    ||| (if qs.any (·.full) then 0x80000000 else 0)
  { regs := [(d, [(BitVec.ofNat 32 (packCodes (packWidth tag) (qs.map (·.code))), Tag.ofCode tag)])]
    fl := qs.foldl (fun a q => a ||| q.fl) 0
    ist := qs.foldl (fun a q => a ||| q.ist) 0
    folds := xs.map fun x => (slot, absBits fmtF32 x.toNat)
    side := if esc then some (sidel, th.sidex + BitVec.ofNat 16 (groupSize tag)) else none
    scratch := es.zipIdx.map fun (b, i) => (base + 8 * i, b) }

/-- The F32 registers of a group: a group of four is aligned (R89). -/
def groupOpnd (tag : Nat) (o : Opnd) : Opnd := o.grp (groupSize tag) (if groupSize tag = 4 then 4 else 1)

def quantSrc (f : CQ) (iss : Issue) : Opnd := groupOpnd f.tag.toNat ((iss.reg (iss.aF f.a)).src (some [.f32]))
def quantDst (f : CQ) (iss : Issue) : Opnd := (iss.reg (iss.dF f.d)).dst

/-- What CVTQ does in one thread. -/
def quantEff (f : CQ) (c : Ctx) : Eff :=
  let a := quantSrc f c.iss
  quantise f.tag.toNat f.slot.toNat (f.esc == 1) (quantDst f c.iss) ((List.range a.cnt).map fun k => c.rd a k) c

/-- Cause 0x0A of an effect on a side list, which R102 reports before causes 0x06 and 0x05. -/
def Eff.bound (e : Eff) : Option Nat := if e.trap = some 0x0A then some 0x0A else none

def quantValue (f : CQ) (c : Ctx) : Option Nat :=
  if f.slot.toNat ≥ c.t.prog.slots then some 0x04 else (quantEff f c).bound

def execCvtq (f : CQ) (s : State) : Out :=
  withIssue s fun iss =>
    Form.perform { grp := .alu, wf := (Instr.cvtq f).wf, past := iss.past (iss.dF f.d) (iss.aF f.a) 0
                   os := [quantSrc f iss, quantDst f iss] }
      iss (quantValue f) (effAct iss (quantEff f))

/-- What a side list gives for an index: the value of its lowest entry, a bound violated, or storage in error (R157). -/
inductive SideHit where
  | found (v : Nat)
  | absent
  | beyond
  | bad
  deriving DecidableEq, Repr

/-- The entries from `addr` on, `n` of them, are read in order up to the first that has the index; those after it are not read, so
that neither their bounds nor their storage matter (log 80). -/
def sideLookup (t : Team) (idx : Nat) (addr : Nat) : Nat → SideHit
  | 0 => .absent
  | n + 1 =>
    if addr + 8 > t.prog.scratch then .beyond
    else if t.scratchBad.contains (addr / 32 * 32) then .bad
    else
      let x := leNat (t.readScratch addr 8)
      if x % 2 ^ 16 = idx then .found (x / 2 ^ 32) else sideLookup t idx (addr + 8) n

/-- One element of DEQ: its F32 result, or a cause. An entry that is met in storage with an uncorrectable error is consumed
by the word itself, as cause 0x18 (R157, R458; DEDUCED, log 23). -/
def deqElem (tag : Nat) (esc : Bool) (k : Int) (c : Ctx) (e code : Nat) : Except Nat FpRes :=
  let w := if tag = 7 then 5 else 7
  if tag = 8 then .ok (deliver fmtF32 0 (Num.ofInt (sextNat 8 code) k))
  else if tag = 9 then .ok (deliver fmtF32 0 (Num.ofInt code k))
  else match taperDecode w code with
  | some v => .ok (deliver fmtF32 0 (Num.scale k v))
  | none =>
    if !esc then .ok (nanRes fmtF32 true) else
    match sideLookup c.t ((c.th.sidex.toNat + e) % 2 ^ 16) (sideAddr c.th.sidel) (sideCount c.th.sidel) with
    | .found v => .ok (deliver fmtF32 0 (Num.scale k (unpack fmtF32 v)))
    | .absent => .ok (nanRes fmtF32 true)
    | .beyond => .error 0x0A
    | .bad => .error 0x18

def deqAll (tag : Nat) (esc : Bool) (k : Int) (c : Ctx) (w : Word) (d : Opnd) : Eff :=
  let g := groupSize tag
  let rs := (List.range g).map fun e => deqElem tag esc k c e (bits w.toNat (packWidth tag * e) (packWidth tag))
  match rs.findSome? (fun r => match r with
    | .error x => some x
    | .ok _ => none) with
  | some x => { trap := some x }
  | none =>
    let vs := rs.filterMap fun r => match r with
      | .ok v => some v
      | .error _ => none
    { regs := [(d, vs.map fun v => (wordOf v, .f32))]
      fl := vs.foldl (fun a v => a ||| v.fl) 0
      side := if esc then some (c.th.sidel, c.th.sidex + BitVec.ofNat 16 g) else none }

def deqSrc (f : CQ) (iss : Issue) : Opnd := (iss.reg (iss.aF f.a)).src (some [Tag.ofCode f.tag.toNat])
def deqDst (f : CQ) (iss : Issue) : Opnd := groupOpnd f.tag.toNat (iss.reg (iss.dF f.d)).dst

/-- What DEQ does in one thread. -/
def deqEff (f : CQ) (c : Ctx) : Eff :=
  deqAll f.tag.toNat (f.esc == 1) (c.wp.slots.getD f.slot.toNat {}).s c (c.rd (deqSrc f c.iss)) (deqDst f c.iss)

def deqValue (f : CQ) (c : Ctx) : Option Nat :=
  if f.slot.toNat ≥ c.t.prog.slots then some 0x04 else (deqEff f c).bound

def execDeq (f : CQ) (s : State) : Out :=
  withIssue s fun iss =>
    Form.perform { grp := .alu, wf := (Instr.deq f).wf, past := iss.past (iss.dF f.d) (iss.aF f.a) 0
                   os := [deqSrc f iss, deqDst f iss] }
      iss (deqValue f) (effAct iss (deqEff f))

/-! ### Scale slots (R150 to R153, R185) -/

/-- SSET's first five values: F32 numbers not below zero. -/
def slotValueOk (w : Word) : Bool :=
  let x := unpack fmtF32 w.toNat
  !x.isNan && (!w.msb || w = 0x80000000)

def execSset (f : CQ) (s : State) : Out :=
  withIssue s fun iss =>
    let a := ((iss.reg (iss.aF f.a)).src none).grp 6 1
    Form.perform { grp := .slot, wf := (Instr.sset f).wf, past := iss.past (iss.dF f.d) (iss.aF f.a) 0, os := [a] }
      iss
      (fun c => if f.slot.toNat ≥ c.t.prog.slots ∨ !((List.range 5).all fun i => slotValueOk (c.rd a i))
          ∨ (c.rd a 5).toInt < -64 ∨ 63 < (c.rd a 5).toInt then some 0x04 else none)
      (effAct iss fun c =>
        let h (i : Nat) : Nat := absBits fmtF32 (c.rd a i).toNat
        { slot := some (f.slot.toNat, { h0 := h 0, h1 := h 1, h2 := h 2, h3 := h 3, cm := h 4, s := (c.rd a 5).toInt }) })

/-- The smallest s from -64 up, within `n` more, with h * 2^-s at most the format's maximum. -/
def slotExponent (h : Num) (fm : Nat) (s : Int) : Nat → Int
  | 0 => s
  | n + 1 => if compareNum (Num.scale (-s) h) (.fin false fm 0) != .gt then s else slotExponent h fm (s + 1) n

/-- SROT (R152). -/
def ScaleSlot.rotate (k : ScaleSlot) (fm : Nat) : ScaleSlot :=
  let h := max (max k.cm k.h0) (max k.h1 k.h2)
  { h0 := k.cm, h1 := k.h0, h2 := k.h1, h3 := k.h2, cm := 0
    s := if h = 0 then 0 else if h = fmtF32.infBits then 63 else slotExponent (unpack fmtF32 h) fm (-64) 127 }

def execSrot (f : CQ) (s : State) : Out :=
  withIssue s fun iss =>
    Form.perform { grp := .slot, wf := (Instr.srot f).wf, past := iss.past (iss.dF f.d) (iss.aF f.a) 0 }
      iss (fun c => if f.slot.toNat ≥ c.t.prog.slots then some 0x04 else none)
      (effAct iss fun c =>
        { slot := some (f.slot.toNat, (c.wp.slots.getD f.slot.toNat {}).rotate (formatMax f.tag.toNat)) })

def execSget (f : CQ) (s : State) : Out :=
  withIssue s fun iss =>
    let d := ((iss.reg (iss.dF f.d)).dst).grp 6 1
    Form.perform { grp := .alu, wf := (Instr.sget f).wf, past := iss.past (iss.dF f.d) (iss.aF f.a) 0, os := [d] }
      iss (fun c => if f.slot.toNat ≥ c.t.prog.slots then some 0x04 else none)
      (effAct iss fun c =>
        let k := c.wp.slots.getD f.slot.toNat {}
        let w (x : Nat) : Word × Tag := (BitVec.ofNat 32 x, .f32)
        { regs := [(d, [w k.h0, w k.h1, w k.h2, w k.h3, w k.cm, (BitVec.ofInt 32 k.s, .i32)])] })

def execSmax (f : CQ) (s : State) : Out :=
  withIssue s fun iss =>
    let a := (iss.reg (iss.aF f.a)).src (some [.f32])
    Form.perform { grp := .alu, wf := (Instr.smax f).wf, past := iss.past (iss.dF f.d) (iss.aF f.a) 0, os := [a] }
      iss (fun c => if f.slot.toNat ≥ c.t.prog.slots then some 0x04 else none)
      (effAct iss fun c => { folds := [(f.slot.toNat, absBits fmtF32 (c.rd a).toNat)] })

/-! ### Welford words (R187) -/

def tW : Option (List Tag) := some [.wel]

def Ctx.triple (c : Ctx) (o : Opnd) : Triple := ⟨c.rd o, (c.rd o 1).toNat, (c.rd o 2).toNat⟩

def Triple.words (t : Triple) : List (Word × Tag) :=
  [(t.n, .wel), (BitVec.ofNat 32 t.mean, .wel), (BitVec.ofNat 32 t.m2, .wel)]

def execWelf (f : A3) (s : State) : Out :=
  regWord (fun iss => { grp := .alu, wf := (Instr.welf f).wf, past := f.past iss
                        os := [f.srcA iss (some [.f32]), { (f.dst iss).grp 3 1 with rd := true, tags := tW }] })
    (fun iss c =>
      let d := (f.dst iss).grp 3 1
      let r := welfordAdd (c.triple d) (c.rd (f.srcA iss none)).toNat
      { regs := [(d, r.t.words)], fl := r.fl, ist := r.ist }) s

def execWmrg (f : A3) (s : State) : Out :=
  regWord (fun iss => { grp := .alu, wf := (Instr.wmrg f).wf, past := f.past iss
                        os := [(f.srcA iss tW).grp 3 1, { (f.dst iss).grp 3 1 with rd := true, tags := tW }] })
    (fun iss c =>
      let d := (f.dst iss).grp 3 1
      let r := welfordMerge (c.triple d) (c.triple (f.srcA iss tW))
      { regs := [(d, r.t.words)], fl := r.fl, ist := r.ist }) s

def execWfin (f : A3) (s : State) : Out :=
  regWord (fun iss => { grp := .alu, wf := (Instr.wfin f).wf, past := f.past iss
                        os := [(f.srcA iss tW).grp 3 1, f.dst iss] })
    (fun iss c =>
      let r := welfordFinish (f.b == 1) (c.triple (f.srcA iss tW))
      { regs := [(f.dst iss, [(wordOf r, .f32)])], fl := r.fl }) s

end Sys2Proof.Machine
end

