-- ==== Sys2Proof/Machine/Copies.lean ====
section
/-! DEFINITION. Shape records and the asynchronous movers: collective copies, per-thread copies and streams
(08_memory_paths R198, R199; 09_isa_memory R255 to R271). -/

namespace Sys2Proof.Machine

/-! ### Shape records (R198, R199) -/

structure Shape where
  base : Nat
  perm : Nat
  tag : Nat
  s0 : Nat
  s1 : Nat
  s2 : Nat
  e0 : Nat
  e1 : Nat
  e2 : Nat
  deriving DecidableEq, Repr

def ext0 (x : Nat) : Nat := if x = 0 then 1024 else x

def Shape.ofWords (r : List Word) : Shape :=
  let w (k : Nat) : Nat := (r.getD k 0).toNat
  { base := bits (w 0) 0 18, perm := bits (w 0) 18 4, tag := bits (w 0) 22 4, s2 := 1024 * bits (w 0) 26 6
    s0 := bits (w 1) 0 14, s1 := bits (w 1) 14 14
    e0 := ext0 (bits (w 2) 0 10), e1 := ext0 (bits (w 2) 10 10), e2 := ext0 (bits (w 2) 20 10) }

/-- Logical offset of a word. -/
def Shape.off (h : Shape) (i0 i1 i2 : Nat) : Nat := i0 * h.s0 + i1 * h.s1 + i2 * h.s2

/-- Bank permutation of a logical offset (R199). -/
def permOff (mode o : Nat) : Nat :=
  let row := o / 1024
  let w := o / 4 % 256
  let bank := if mode = 0 then w
    else if mode ≤ 8 then w ^^^ (row <<< (mode - 1) % 256)
    else (w + row <<< (mode - 9)) % 256
  row * 1024 + 4 * bank + o % 4

/-- Team scratchpad address of a word. -/
def Shape.addr (h : Shape) (i0 i1 i2 : Nat) : Nat := h.base + permOff h.perm (h.off i0 i1 i2)

/-- Words of the record's greatest row, looked at one by one where the bound falls inside it. -/
def Shape.lastRowBreaks (h : Shape) (row scratch : Nat) : Bool :=
  (List.range h.e2).any fun i2 => (List.range h.e1).any fun i1 => (List.range h.e0).any fun i0 =>
    h.off i0 i1 i2 / 1024 == row && h.addr i0 i1 i2 + 4 > scratch

/-- The largest address lies at or beyond the bound (R198). -/
def Shape.breaks (h : Shape) (scratch : Nat) : Bool :=
  let top := h.off (h.e0 - 1) (h.e1 - 1) (h.e2 - 1)
  if h.perm = 0 then h.base + top + 4 > scratch
  else if h.base + (top / 1024 + 1) * 1024 ≤ scratch then false
  else if h.base + top / 1024 * 1024 ≥ scratch then true
  else h.lastRowBreaks (top / 1024) scratch

/-- What a consumer checks of a record (R198). -/
def shapeCheck (r : List Word) (scratch : Nat) : Option Nat :=
  let h := Shape.ofWords r
  if bits (r.getD 1 0).toNat 28 4 ≠ 0 ∨ bits (r.getD 2 0).toNat 30 2 ≠ 0 then some 0x03
  else if h.base % 4 ≠ 0 ∨ h.s0 % 4 ≠ 0 ∨ h.s1 % 4 ≠ 0 ∨ (h.perm ≠ 0 ∧ h.base % 1024 ≠ 0) then some 0x09
  else if h.breaks scratch then some 0x0A
  else none

/-- Words in a group of an operand. -/
def Ctx.words (c : Ctx) (o : Opnd) : List Word := (List.range o.cnt).map fun k => c.rd o k

end Sys2Proof.Machine

namespace Sys2Proof

open Machine

/-! ### Collective copies (R255 to R257) -/

def CopyF.shapeO (f : CopyF) : Opnd := uniOpnd f.shape.toNat 3 4
def CopyF.globO (f : CopyF) : Opnd := uniOpnd f.glob.toNat 5 2
def CopyF.barrO (f : CopyF) : Opnd := uniOpnd f.barr.toNat 1 1
def CopyF.extraO (f : CopyF) : Opnd := uniOpnd f.xreg.toNat 1 1
def CopyF.os (f : CopyF) (x : Bool) : List Opnd :=
  [f.shapeO, f.globO] ++ (if f.nb = 0 then [f.barrO] else []) ++ (if x then [f.extraO] else [])

def CopyF.addr (f : CopyF) (c : Ctx) : Nat := c.pair f.globO
def CopyF.strides (f : CopyF) (c : Ctx) : List Int := [2, 3, 4].map fun k => (c.rd f.globO k).toInt
def CopyF.barrier (f : CopyF) (c : Ctx) : Option Nat := if f.nb = 0 then some (c.rd f.barrO).toNat else none

/-- The checks of a slice in the order of R102 (R256, R259). -/
def CopyF.check (f : CopyF) (kind : CopyKind) (c : Ctx) : Option Nat :=
  let shape := c.words f.shapeO
  let gs := f.strides c
  let mis := f.addr c % 4 != 0 || gs.any fun g => g % 4 != 0
  let barr := (f.barrier c).getD 0
  let barrMis := f.nb = 0 ∧ barr % 16 ≠ 0
  let barrOut := f.nb = 0 ∧ (barr / 2 ^ 18 ≠ 0 ∨ barr + 16 > c.t.prog.scratch)
  let x := (c.rd f.extraO).toNat
  let h := Shape.ofWords shape
  let maskOut := kind = .cpx ∧ x + 4 * ((h.e0 + 31) / 32 * h.e1 * h.e2) > c.t.prog.scratch
  if c.outOfRange f.shapeO then none else
  match shapeCheck shape c.t.prog.scratch with
  | some 0x03 => some 0x03
  | sc =>
    if kind = .cpx ∧ gs.any (· != 0) then some 0x03
    else if mis || decide barrMis || (kind == .cpx && x % 4 != 0) || sc == some 0x09 then some 0x09
    else if sc.isSome ∨ barrOut ∨ maskOut ∨ (kind = .cpm ∧ x ≥ 2 ^ c.t.prog.cohort) then some 0x0A
    else none

namespace Machine

/-- Granules of a slice (R258). -/
def Shape.granules (h : Shape) : Nat := (h.e0 + 7) / 8 * h.e1 * h.e2

def Copy.total (k : Copy) : Nat := k.slices.foldl (fun n x => n + (Shape.ofWords x.shape).granules) 0

/-- Every live warp of the team has handed its slice over (R257). -/
def Team.copyStarted (t : Team) (k : Copy) : Bool :=
  (List.range t.warps.length).all fun w => (t.warp w).live.isEmpty || k.slices.any fun x => x.warp == w

/-- Slices stand in the order of their warps (R258). -/
def insertSlice (x : Slice) : List Slice → List Slice
  | [] => [x]
  | y :: l => if x.warp < y.warp then x :: y :: l else y :: insertSlice x l

/-- Hand a slice over (R257): the copy of the warp's next sequence number on the channel. -/
def State.handOver (s : State) (c : Ctx) (f : CopyF) (kind : CopyKind) (xm : Nat) : State × LaneRes :=
  let ch := f.ch.toNat
  let seq := c.wp.copySeq.getD ch 0
  let copies := c.t.chans.getD ch []
  let sl : Slice := { warp := c.w, shape := c.words f.shapeO, glob := f.addr c, gs := f.strides c
                      barr := f.barrier c, xmask := xm, tacq := c.th.tacq, pc := c.iss.hdr, word := c.iss.word, raw := c.iss.raw }
  let done (s : State) : State := s.updWarp c.t.id c.w fun wp => { wp with copySeq := setAt wp.copySeq ch (seq + 1) }
  match copies.find? (·.seq == seq) with
  | some k =>
    if k.kind ≠ kind then (s, .trap 0x13)
    else (done (s.updTeam c.t.id fun t => { t with chans := updAt t.chans ch fun l => l.map fun (k : Copy) =>
      if k.seq == seq then { k with slices := insertSlice sl k.slices } else k }), .done)
  | none =>
    if copies.length ≥ 4 then (s, .stay .retry)
    else (done (s.updTeam c.t.id fun t => { t with chans := updAt t.chans ch fun l =>
      l ++ [{ seq := seq, kind := kind, slices := [sl] }] }), .done)

/-- An acquire of some live thread of the warp has not taken effect: what the warp's engines read comes after it (R259,
R268, R279, R300). -/
def State.warpAcquiring (s : State) (c : Ctx) : Bool := s.acquiring c.t.id c.w 32

/-- A collective copy (R255 to R257). -/
def copyWord (f : CopyF) (kind : CopyKind) (wf : Bool) (s : State) : Out :=
  let x := kind == .cpx || kind == .cpm
  withIssue s fun iss =>
    ({ grp := .copy, wf := wf, len := 2, coll := true, os := f.os x, pure := kind == .cpto } : Form).performOnce iss
      (f.check kind) fun s c =>
        let xm := if x then (c.rd f.extraO).toNat else 0
        if !canonical (f.addr c) then (s, .trap 0x0C)
        else if s.warpAcquiring c then (s, .stay .retry)
        else if kind = .cpm ∧ (maskTeams xm).any fun k => (s.cohortTeam? c.t k).isNone then (s, .trap 0x17)
        else s.handOver c f kind xm

def execCpt (f : CopyF) (s : State) : Out := copyWord f .cpt (Instr.cpt f).wf s
def execCpto (f : CopyF) (s : State) : Out := copyWord f .cpto (Instr.cpto f).wf s
def execCpx (f : CopyF) (s : State) : Out := copyWord f .cpx (Instr.cpx f).wf s
def execCpm (f : CopyF) (s : State) : Out := copyWord f .cpm (Instr.cpm f).wf s

/-! ### Granules (R258 to R262) -/

/-- Slice and local granule number of a copy's `n`-th granule. -/
def sliceOf : List Slice → Nat → Option (Slice × Nat)
  | [], _ => none
  | x :: l, n =>
    let g := (Shape.ofWords x.shape).granules
    if n < g then some (x, n) else sliceOf l (n - g)

/-- The words of a granule: its indices. -/
def Shape.granuleWords (h : Shape) (n : Nat) : List (Nat × Nat × Nat) :=
  let gs := (h.e0 + 7) / 8
  let g := n % gs
  let i1 := n / gs % h.e1
  let i2 := n / gs / h.e1
  ((List.range 8).filter fun k => 8 * g + k < h.e0).map fun k => (8 * g + k, i1, i2)

/-- Address of the mask word of a word (R259), and its bit there. -/
def maskAt (h : Shape) (m i0 i1 i2 : Nat) : Nat := m + 4 * ((h.e0 + 31) / 32 * (i2 * h.e1 + i1) + i0 / 32)
def maskBit (t : Team) (h : Shape) (m i0 i1 i2 : Nat) : Bool :=
  bitAt (leNat (t.readScratch (maskAt h m i0 i1 i2) 4)) (i0 % 32)

/-- Global address of a word of a slice (R256). -/
def Slice.va (x : Slice) (i : Nat × Nat × Nat) : Nat :=
  ((((x.glob : Int) + i.1 * x.gs.getD 0 0 + i.2.1 * x.gs.getD 1 0 + i.2.2 * x.gs.getD 2 0) % (2 ^ 64 : Int))).toNat

/-- How the translation of several words ends. -/
inductive Moved where
  | ok (xs : List Xlat)
  | absent (va base size watch : Nat)
  | prot (va : Nat)
  | bad
  deriving DecidableEq, Repr

/-- Translate the words of a granule, row or entry; the doorbell pages admit no copy (R34). R34 does not say what a row of a
stream, or a node of a ray structure, meets there: a protection outcome, as a copy does (DESIGN CHOICE, log 83). -/
def State.xlateAll (s : State) (cl co ctx : Nat) (priv : Bool) (a : Acc) : List Nat → State × Moved
  | [] => (s, .ok [])
  | va :: l =>
    match s.translate cl co ctx priv a va with
    | (s, .absent b n w) => (s, .absent va b n w)
    | (s, .prot) => (s, .prot va)
    | (s, .bad) => (s, .bad)
    | (s, .ok x) =>
      if x.doorbell || (a == .write && x.imm) then (s, .prot va) else
      match s.xlateAll cl co ctx priv a l with
      | (s, .ok xs) => (s, .ok (x :: xs))
      | (s, r) => (s, r)

def State.updCopy (s : State) (tm ch seq : Nat) (f : Copy → Copy) : State :=
  s.updTeam tm fun t => { t with chans := updAt t.chans ch fun l => l.map fun (k : Copy) => if k.seq == seq then f k else k }

/-- A copy is complete, or has stopped with its record appended: it leaves the channel (R257, R262). -/
def State.endCopy (s : State) (tm ch seq : Nat) : State :=
  s.updTeam tm fun t => { t with chans := updAt t.chans ch fun l => l.filter fun (k : Copy) => k.seq != seq }

/-- A copy meets a protection outcome: its record is appended, or it waits for room (R262). -/
def State.stopCopy (s : State) (tm ch : Nat) (k : Copy) (r : SfRecord) : State :=
  match s.appendRecord tm r with
  | (s, true) => s.endCopy tm ch k.seq
  | (s, false) =>
    if ((s.team? tm).map (·.draining)).getD true then
      (s.endCopy tm ch k.seq).updTeam tm fun t => { t with failed := true }
    else s.updCopy tm ch k.seq fun k => { k with blocked := some r }

/-- The lowest live lane of the lowest live warp (R262). -/
def Team.lowest (t : Team) : Nat × Nat := (t.live).headD (0, 0)

/-- Count a granule landed in a team, and decrement the barrier there (R260); the completion time of a CPTO granule belongs
to the phase that counts it (R285). -/
def State.landed (s : State) (tm ch : Nat) (barr : Option Nat) (far : Option (Nat × Bool)) : State :=
  let s := s.updTeam tm fun t => { t with landed := updAt t.landed ch (· + 1) }
  match barr with
  | some a => s.tbApply tm a (.bump 0 (-1) none far)
  | none => s

/-- The granule has landed: the next one follows, or the copy is complete. -/
def State.stepCopy (s : State) (tm ch : Nat) (k : Copy) (used : Nat) : State :=
  if k.next + 1 ≥ k.total then s.endCopy tm ch k.seq
  else s.updCopy tm ch k.seq fun k => { k with next := k.next + 1, packed := used }

/-- Read the words at some homes; whether any met an error. -/
def State.readWords (s : State) (cl co : Nat) (xs : List Xlat) : List (List Byte) × Bool :=
  (xs.map fun x => s.readPath cl co x 4, xs.any fun x => s.pathBad cl co x 4)

def Home.isPeer : Home → Bool
  | .peer _ => true
  | _ => false

/-- The words of a granule that lies within one aligned 32-byte global granule, put together over what stands there, when
they fill it (R258). -/
def wholeGranule (ws : List (Xlat × Nat × List Byte)) : Option (Xlat × List Byte) :=
  match ws with
  | [] => none
  | (x, _, _) :: _ =>
    let base := x.pa / 32 * 32
    let word (k : Nat) : Option (List Byte) :=
      ((ws.reverse).find? fun y => y.1.home == x.home && y.1.pa == base + 4 * k).map (·.2.2)
    let parts := (List.range 8).map word
    if parts.all (·.isSome) && ws.all (fun y => y.1.home == x.home && y.1.pa / 32 * 32 == base) then
      some ({ x with pa := base }, (parts.filterMap id).flatten)
    else none

/-- Perform an outbound granule at home: the greatest completion time it returns, and whether a word of it was homed on a
peer (R259, R285). One that fills a global granule is one write, which ends an error there (R258, R458). -/
def State.performOut (s : State) (t : Team) (cl co : Nat) (ws : List (Xlat × Nat × List Byte)) : State × Nat × Bool :=
  let put (s : State) (x : Xlat) (bs : List Byte) : State :=
    (s.writeHome x bs).updCore cl co fun k => { k with l1 := k.l1.map (·.patch x.key bs) }
  let peer := ws.any fun y => y.1.home.isPeer
  let s := ws.foldl (fun s y => s.beforeWrite t.launch y.2.1) s
  match wholeGranule ws with
  | some (x, bs) => (put s x bs, s.gwct x, peer)
  | none => ws.foldl (fun (s, g, p) (x, _, bs) => (put s x bs, max g (s.gwct x), p)) (s, 0, peer)

/-- Land the next granule of a channel's oldest copy (R258 to R262). -/
def State.landGranule (s : State) (t : Team) (ch : Nat) (k : Copy) : State :=
  match sliceOf k.slices k.next with
  | none => s.endCopy t.id ch k.seq
  | some (x, n) =>
    let (cl, co) := (t.at?).getD (0, 0)
    let h := Shape.ofWords x.shape
    let idx := h.granuleWords n
    let sp := idx.map fun i => h.addr i.1 i.2.1 i.2.2
    let start := if n = 0 then 0 else k.packed
    -- words that are moved, with their place in the packed run for CPX
    let sel := idx.map fun i => k.kind != .cpx || maskBit t h x.xmask i.1 i.2.1 i.2.2
    let ranks := (List.range idx.length).map fun j => start + ((sel.take j).filter id).length
    let used := start + (sel.filter id).length
    -- the granule's own address, which a protection record reports
    let at_ := match idx with
      | i :: _ => if k.kind = .cpx then (x.glob + 4 * start) % 2 ^ 64 else x.va i
      | [] => x.glob
    let maskBad := k.kind == .cpx && idx.any fun i => t.scratchBad.any fun g =>
      overlap g 32 (maskAt h x.xmask i.1 i.2.1 i.2.2) 4
    if maskBad then (s.endCopy t.id ch k.seq).machineCheck t.launch 0x18 else
    let vas := ((idx.zip (sel.zip ranks)).filter fun y => y.2.1).map fun y =>
      if k.kind = .cpx then (x.glob + 4 * y.2.2) % 2 ^ 64 else x.va y.1
    match s.xlateAll cl co t.ctx t.priv (if k.kind = .cpto then .write else .read) vas with
    | (s, .absent va b m w) =>
      (s.joinOrWait t.ctx va b m w (if k.kind = .cpto then 1 else 0) (.copy t.id ch)).updCopy t.id ch k.seq
        fun k => { k with parked := true }
    | (s, .prot _) =>
      let first := k.slices.headD x
      let low := t.lowest
      s.stopCopy t.id ch k { va := at_, pc := first.pc, width := 5, word := first.word, warp := low.1, lane := low.2
                             data := 0, raw := first.raw }
    | (s, .bad) => (s.endCopy t.id ch k.seq).machineCheck t.launch 0x18
    | (s, .ok xs) =>
      if k.kind = .cpto then
        if sp.any fun a => t.scratchBad.any fun g => overlap g 32 a 4 then
          (s.endCopy t.id ch k.seq).machineCheck t.launch 0x18
        else
          let data := sp.map fun a => t.readScratch a 4
          match s.performOut t cl co (xs.zip (vas.zip data)) with
          | (s, g, peer) =>
            (s.landed t.id ch x.barr (some (g, peer))).stepCopy t.id ch k used
      else
        let (ws, bad) := s.readWords cl co xs
        if bad then (s.endCopy t.id ch k.seq).machineCheck t.launch 0x18 else
        let full := (sel.zip ranks).map fun y => if y.1 then ws.getD (y.2 - start) [0, 0, 0, 0] else [0, 0, 0, 0]
        let put (s : State) (tm : Nat) : State :=
          (sp.zip full).foldl (fun s (a, bs) => s.writeScratch tm a bs) s
        let targets := if k.kind = .cpm then (maskTeams x.xmask).filterMap fun j => s.cohortTeam? t j else [t]
        (targets.foldl (fun s u => (put s u.id).landed u.id ch x.barr none) s).stepCopy t.id ch k used

/-- GRANULE_LAND on channel `id` of the target's team. -/
def execGranuleLand (s : State) : Out :=
  .next (match s.team? s.target.team with
  | none => s
  | some t =>
    match t.chans.getD s.target.id [] with
    | [] => s
    | k :: _ =>
      match k.blocked with
      | some r => s.stopCopy t.id s.target.id k r
      | none =>
        if k.parked || !t.copyStarted k || !t.engines then s else s.landGranule t s.target.id k)

/-- WPTR (R261). -/
def execWptr (d : BitVec 7) (ch : BitVec 3) (s : State) : Out :=
  withIssue s fun iss =>
    let pd := (iss.reg d.toNat).dst
    ({ grp := .copy, os := [pd] } : Form).perform iss (fun _ => none) fun s c =>
      (s.updWarp c.t.id c.w fun wp => wp.setGroup c.l pd [(c.t.landed.getD ch.toNat 0, .n32)], .done)

/-! ### Per-thread copies (R263 to R266) -/

/-- Batches of a thread that are outstanding. -/
def State.outstanding (s : State) (tm w l : Nat) : Nat :=
  (s.batches.filter fun b => b.team == tm && b.warp == w && b.lane == l).length

/-- Complete the oldest batches of a thread whose entries are all done (R264, R265). -/
def settleBatchList (pending : Word → Bool) : List Batch → List Batch
  | [] => []
  | b :: l => if pending b.num then b :: l else settleBatchList pending l

def State.settleBatches (s : State) (tm w l : Nat) : State :=
  let mine (b : Batch) : Bool := b.team == tm && b.warp == w && b.lane == l
  let pending (n : Word) : Bool :=
    s.cpas.any fun o => o.team == tm && o.warp == w && o.lane == l && o.batch == n
  { s with batches := s.batches.filter (fun (b : Batch) => !mine b) ++ settleBatchList pending (s.batches.filter mine) }

/-- Seal the open batch of a thread: its number is returned and the next one opens. -/
def State.seal (s : State) (tm w l : Nat) : State × Word :=
  let n := (s.thread tm w l).batch
  let s := s.updThread tm w l fun th => { th with batch := n + 1, openBatch := 0 }
  (({ s with batches := s.batches ++ [{ team := tm, warp := w, lane := l, num := n }] } : State).settleBatches tm w l, n)

def execCpa (d a : BitVec 7) (sz : BitVec 2) (s : State) : Out :=
  withIssue s fun iss =>
    let pd := (iss.reg d.toNat).src (some [.n32, .i32])
    let pa := ((iss.reg a.toNat).grp 2 2).src (some [.addr])
    let n := 4 * 2 ^ sz.toNat
    ({ grp := .copy, wf := (Instr.cpa d a sz).wf, os := [pd, pa] } : Form).perform iss
      (fun c => (alignCheck (c.pair pa) n).or (scratchCheck c (c.rd pd).toNat n))
      fun s c =>
        if !canonical (c.pair pa) then (s, .trap 0x0C)
        else if s.acquiring c.t.id c.w c.l then (s, .stay .retry) else
        let full := c.th.openBatch ≥ 32
        if full && s.outstanding c.t.id c.w c.l ≥ 16 then (s, .stay .retry) else
        let s := if full then (s.seal c.t.id c.w c.l).1 else s
        let (s, id) := s.fresh
        let o : CpaOp := { id := id, team := c.t.id, warp := c.w, lane := c.l, batch := (s.thread c.t.id c.w c.l).batch
                           dst := (c.rd pd).toNat, va := c.pair pa, bytes := n, tacq := c.th.tacq, pc := iss.hdr
                           word := iss.word, raw := iss.raw }
        (({ s with cpas := s.cpas ++ [o] } : State).updThread c.t.id c.w c.l fun th =>
          { th with openBatch := th.openBatch + 1 }, .done)

def execCseal (d : BitVec 7) (s : State) : Out :=
  withIssue s fun iss =>
    let pd := (iss.reg d.toNat).dst
    ({ grp := .copy, os := [pd] } : Form).perform iss (fun _ => none) fun s c =>
      if s.outstanding c.t.id c.w c.l ≥ 16 then (s, .stay .retry) else
      match s.seal c.t.id c.w c.l with
      | (s, n) => (s.updWarp c.t.id c.w fun wp => wp.setGroup c.l pd [(n, .n32)], .done)

def execCwait (n : BitVec 4) (s : State) : Out :=
  withIssue s fun iss => ({ grp := .copy } : Form).perform iss (fun _ => none) fun s c =>
    if s.outstanding c.t.id c.w c.l ≤ n.toNat then (s, .done) else (s, .stay .retry)

/-- Width code of a size in bytes. -/
def widthCode (n : Nat) : Nat := if n ≤ 4 then 2 else if n ≤ 8 then 3 else 4

/-- CPA_ENTRY_LAND of the entry `id`. -/
def execCpaEntryLand (s : State) : Out :=
  .next (match s.cpas.find? fun o => o.id == s.target.id with
  | none => s
  | some o =>
    match s.team? o.team with
    | none => s
    | some t =>
      if o.parked || !t.engines then s else
      let (cl, co) := (t.at?).getD (0, 0)
      let gone (s : State) : State :=
        ({ s with cpas := s.cpas.filter fun (x : CpaOp) => x.id != o.id } : State).settleBatches o.team o.warp o.lane
      match s.xlateAll cl co t.ctx t.priv .read [o.va] with
      | (s, .absent va b n w) =>
        let s := s.joinOrWait t.ctx va b n w 0 (.cpa o.id)
        { s with cpas := s.cpas.map fun (x : CpaOp) => if x.id == o.id then { x with parked := true } else x }
      | (s, .prot va) =>
        match s.appendRecord o.team { va := va, pc := o.pc, width := widthCode o.bytes, word := o.word, warp := o.warp
                                      lane := o.lane, data := 0, raw := o.raw } with
        | (s, true) => gone s
        | (s, false) => if t.draining then (gone s).updTeam t.id fun t => { t with failed := true } else s
      | (s, .bad) => (gone s).machineCheck t.launch 0x18
      | (s, .ok xs) =>
        let x := xs.headD {}
        if s.pathBad cl co x o.bytes then (gone s).machineCheck t.launch 0x18
        else gone (s.writeScratch o.team o.dst (s.readPath cl co x o.bytes)))

/-! ### Streams (R267 to R271) -/

/-- Number of rows: the product of the used counts. -/
def rowTotal (counts : List Nat) : Nat := counts.foldl (· * ·) 1

/-- Address of row `i` of the loop nest, level 0 innermost. -/
def rowVa (base : Nat) : List Nat → List Int → Nat → Int
  | c :: cs, st :: sts, i => (i % c : Nat) * st + rowVa base cs sts (i / c)
  | _, _, _ => base

def Stream.va (q : Stream) (i : Nat) : Nat := ((rowVa q.base q.counts q.strides i) % (2 ^ 64 : Int)).toNat

/-- Parameters of STRM (R267). -/
def strmO (par : BitVec 9) : Opnd := uniOpnd par.toNat 8 8
def strmCounts (c : Ctx) (par : BitVec 9) (lvl : Nat) : List Nat :=
  (List.range lvl).map fun k => (c.rd (strmO par) (2 + 2 * k)).toNat
def strmStrides (c : Ctx) (par : BitVec 9) (lvl : Nat) : List Int :=
  (List.range lvl).map fun k => (c.rd (strmO par) (3 + 2 * k)).toInt

/-- STRM's checks of its parameters (R267): the counts of unused levels are ignored, their strides are not. -/
def strmCheck (q : BitVec 3) (par : BitVec 9) (lvl : BitVec 2) (c : Ctx) : Option Nat :=
  if q.toNat ≥ c.t.prog.queues ∨ (strmCounts c par lvl.toNat).any (fun n => n == 0 || n > 2 ^ 24) then some 0x04
  else if c.pair (strmO par) % 4 ≠ 0 ∨ (strmStrides c par 3).any (fun g => g % 4 != 0) then some 0x09
  else none

/-- A queue field at or above QUEUES is out of its range (R17, R104). -/
def queueO (s : State) (iss : Issue) (q : BitVec 3) : List Opnd :=
  if (s.team? iss.team).all fun t => q.toNat < t.prog.queues then [] else [absentUnit]

def execStrm (q : BitVec 3) (par : BitVec 9) (roww : BitVec 5) (lvl : BitVec 2) (s : State) : Out :=
  withIssue s fun iss =>
    ({ grp := .copy, wf := (Instr.strm q par roww lvl).wf, coll := true, os := [strmO par] } : Form).performOnce iss
      (strmCheck q par lvl) fun s c =>
        if !canonical (c.pair (strmO par)) then (s, .trap 0x0C)
        else if s.warpAcquiring c then (s, .stay .retry) else
        let (s, id) := (s.closeStream c.t.id q.toNat).fresh
        let counts := strmCounts c par lvl.toNat
        (s.updStream c.t.id q.toNat fun _ =>
          { isOpen := true, id := id, base := c.pair (strmO par), counts := counts
            strides := strmStrides c par lvl.toNat, roww := roww.toNat, total := rowTotal counts
            tacq := c.th.tacq, warp := c.w, pc := iss.hdr, word := iss.word, raw := iss.raw }, .done)

def execSclos (q : BitVec 3) (s : State) : Out :=
  withIssue s fun iss s =>
    ({ grp := .copy, coll := true, os := queueO s iss q } : Form).performOnce iss (fun _ => none) (fun s c =>
      (s.closeStream c.t.id q.toNat, .done)) s

/-- Take the next row of a queue for a load: from the queue when it is there, else it is noted as taken (R269). -/
def State.takeRow (s : State) (tm q load : Nat) : State × Option Row :=
  match s.team? tm with
  | none => (s, none)
  | some t =>
    let st := t.queues.getD q {}
    match st.queue with
    | r :: rest => (s.updStream tm q fun st => { st with queue := rest, next := st.next + 1 }, some r)
    | [] =>
      let k : Taken :=
        { q := q, strm := st.id, idx := st.next, va := st.va st.next, words := st.roww + 1, load := load
          warp := st.warp, pc := st.pc, word := st.word, raw := st.raw }
      ((s.updStream tm q fun st => { st with next := st.next + 1 }).updTeam tm fun t => { t with taken := t.taken ++ [k] }
        , none)

/-- A row's registers: POISON when it met an error. -/
def Row.regs (r : Row) : List (Word × Tag) := r.words.map fun w => (w, if r.bad then .poison else .raw)

def execPopq (d : BitVec 7) (q pd : BitVec 3) (s : State) : Out :=
  withIssue s fun iss =>
    let st := ((s.team? iss.team).map fun t => t.queues.getD q.toNat {}).getD {}
    let n := if st.isOpen then st.roww + 1 else 1
    let dst := ((iss.reg d.toNat).many n).dst
    let p := (iss.prd pd.toNat).dst
    ({ grp := .copy, os := queueO s iss q ++ [dst, p] } : Form).perform iss (fun _ => none) fun s c =>
      let st := ((s.team? c.t.id).map fun t => t.queues.getD q.toNat {}).getD {}
      if !st.isOpen || st.next ≥ st.total then
        (s.updWarp c.t.id c.w fun wp =>
          (wp.setGroup c.l dst (List.replicate n (0, .raw))).setCell c.l p.file p.n 0 .raw, .done)
      else
        let (s, id) := s.fresh
        let o : LoadOp := { id := id, dst := c.dest dst [p], bytes := 4 * n, mem := false, st := .engine }
        match s.takeRow c.t.id q.toNat id with
        | (s, some r) => (s.pushLoad c [dst, p] { o with st := .bound r.regs (some true) }, .done)
        | (s, none) => (s.pushLoad c [dst, p] o, .done)

/-- Give a taken row to the load it fills. -/
def State.giveRow (s : State) (tm : Nat) (k : Taken) (ws : List (Word × Tag)) (pv : Bool) : State :=
  { (s.updTeam tm fun t => { t with taken := t.taken.filter fun (x : Taken) => x.load != k.load }) with
    loads := s.loads.map fun (o : LoadOp) => if o.id == k.load then { o with st := .bound ws (some pv) } else o }

/-- A stream ends at a row (R271): taken rows from there on are zeros, and no row follows. -/
def State.endStream (s : State) (tm q strm idx : Nat) : State :=
  match s.team? tm with
  | none => s
  | some t =>
    let hit (k : Taken) : Bool := k.q == q && k.strm == strm && k.idx ≥ idx
    let s := (t.taken.filter hit).foldl (fun s k => s.giveRow tm k (List.replicate k.words (0, .raw)) false) s
    s.updStream tm q fun st => if st.id == strm then { st with total := min st.total idx, queue := st.queue } else st

/-- A stream's protection record is appended, or waits for room at the taken row that met the fault, or at the stream when no
thread has taken the row (R219, R271). -/
def State.streamRecord (s : State) (t : Team) (q strm idx : Nat) (k : Option Taken) (r : SfRecord) : State :=
  match s.appendRecord t.id r with
  | (s, true) => (s.endStream t.id q strm idx).updStream t.id q fun st => if st.id == strm then { st with blocked := none } else st
  | (s, false) =>
    if t.draining then (s.endStream t.id q strm idx).updTeam t.id fun t => { t with failed := true }
    else match k with
      | some k => s.updTeam t.id fun t => { t with taken := t.taken.map fun (x : Taken) =>
          if x.load == k.load then { x with blocked := some r } else x }
      | none => s.updStream t.id q fun st => { st with blocked := some r }

/-- A row of the stream waits on its page, or for its record: the rows after it wait too (R271). -/
def Team.streamHeld (t : Team) (q strm : Nat) : Bool :=
  t.taken.any (fun k => k.q == q && k.strm == strm && (k.parked || k.blocked.isSome))
    || ((t.queues.getD q {}).id == strm && (t.queues.getD q {}).blocked.isSome)

/-- The row to fetch next in a queue: the oldest row taken, of the first stream that goes on; else one ahead of the program, once
every row taken of the present stream has arrived (R268 to R270). -/
def Team.nextTaken (t : Team) (q : Nat) : Option Taken := t.taken.find? fun k => k.q == q && !t.streamHeld q k.strm
def Team.fetchesAhead (t : Team) (q : Nat) : Bool :=
  let st := t.queues.getD q {}
  st.isOpen && !st.parked && st.blocked.isNone && st.queue.length < 16 && st.fetched < st.total
    && !t.taken.any fun k => k.q == q && k.strm == st.id

/-- Fetch the next row of a queue (R268). -/
def State.fetchRow (s : State) (t : Team) (q : Nat) : State :=
  let st := t.queues.getD q {}
  let (cl, co) := (t.at?).getD (0, 0)
  let old := t.nextTaken q
  if old.isNone && !t.fetchesAhead q then s else
  let idx := (old.map (·.idx)).getD st.fetched
  let strm := (old.map (·.strm)).getD st.id
  let va := (old.map (·.va)).getD (st.va st.fetched)
  let n := (old.map (·.words)).getD (st.roww + 1)
  let warp := (old.map (·.warp)).getD st.warp
  let rec_ : SfRecord := { va := va, pc := (old.map (·.pc)).getD st.pc, width := 5, word := (old.map (·.word)).getD st.word
                           warp := warp, lane := ((t.warp warp).live).headD 0, data := 0, raw := (old.map (·.raw)).getD st.raw }
  match s.xlateAll cl co t.ctx t.priv .read ((List.range n).map fun k => (va + 4 * k) % 2 ^ 64) with
  | (s, .absent a b m w) =>
    let s := s.joinOrWait t.ctx a b m w 0 (.stream t.id q)
    match old with
    | some k => s.updTeam t.id fun t => { t with taken := t.taken.map fun (x : Taken) =>
        if x.load == k.load then { x with parked := true } else x }
    | none => s.updStream t.id q fun st => { st with parked := true }
  | (s, .prot _) => s.streamRecord t q strm idx old rec_
  | (s, .bad) => s.machineCheck t.launch 0x18
  | (s, .ok xs) =>
    let (ws, bad) := s.readWords cl co xs
    let row : Row := { idx := idx, words := ws.map fun b => BitVec.ofNat 32 (leNat b), bad := bad }
    let s := s.updStream t.id q fun st => if st.id == strm then { st with fetched := idx + 1 } else st
    match old with
    | some k => s.giveRow t.id k row.regs true
    | none => s.updStream t.id q fun st => { st with queue := st.queue ++ [row] }

/-- STREAM_ROW_ARRIVE on queue `id` of the target's team: a record that waits is appended once there
is room, or the next row is fetched. -/
def execStreamRowArrive (s : State) : Out :=
  let q := s.target.id
  .next (match s.team? s.target.team with
  | none => s
  | some t =>
    if !t.engines then s else
    let st := t.queues.getD q {}
    let stuck := if t.sfq.length ≥ 16 && !t.draining then none else
      (t.taken.findSome? fun k => if k.q == q then k.blocked.map fun r => (k.strm, k.idx, some k, r) else none).or
        (st.blocked.map fun r => (st.id, st.fetched, none, r))
    match stuck with
    | some (strm, idx, k, r) => s.streamRecord t q strm idx k r
    | none => s.fetchRow t q)

end Machine
end Sys2Proof
end

