-- ==== Sys2Proof/Machine/Matrix.lean ====
section
/-! DEFINITION. The matrix engine (11_matrix R297 to R321): the instructions that enter the quadrants' queues, and the
execution of a queued operation with its exact results. -/

namespace Sys2Proof.Machine

/-! ### Tiles and planes (R297, R298, R311) -/

def Prog.ownsTile (p : Prog) (w tile : Nat) : Bool := tile / 8 == w % 4 && tile % 8 < p.acc
def Prog.ownsPlane (p : Prog) (w plane : Nat) : Bool := plane / 4 == w % 4 && plane % 4 < p.planes
def partnerTile (t : Nat) : Nat := t ^^^ 8
def mirrorPlane (b : Nat) : Nat := b ^^^ 4

def Team.tile (t : Team) (n : Nat) : Tile := ((t.tiles.find? fun x => x.1 == n).map (·.2)).getD {}
def Team.plane (t : Team) (n : Nat) : Plane := ((t.planes.find? fun x => x.1 == n).map (·.2)).getD {}
def Team.updTile (t : Team) (n : Nat) (f : Tile → Tile) : Team :=
  { t with tiles := (n, f (t.tile n)) :: t.tiles.filter fun x => x.1 != n }
def Team.updPlane (t : Team) (n : Nat) (f : Plane → Plane) : Team :=
  { t with planes := (n, f (t.plane n)) :: t.planes.filter fun x => x.1 != n }

/-- Change a tile, and its partner too. -/
def Team.updTiles (t : Team) (n : Nat) (both : Bool) (f : Tile → Tile) : Team :=
  let t := t.updTile n f
  if both then t.updTile (partnerTile n) f else t

def Team.updPlanes (t : Team) (n : Nat) (both : Bool) (f : Plane → Plane) : Team :=
  let t := t.updPlane n f
  if both then t.updPlane (mirrorPlane n) f else t

/-- An operation without M names one tile of a pair: PAIR is cleared on both (R311). -/
def Team.unpair (t : Team) (n : Nat) : Team :=
  (t.updTile n fun x => { x with paired := false }).updTile (partnerTile n) fun x => { x with paired := false }

/-- A tile or plane that the issuing warp's quadrant does not have, or that is not declared (R88). -/
def State.unowned (s : State) (iss : Issue) (own : Prog → Nat → Bool) : Bool :=
  match s.team? iss.team, iss.members with
  | some t, (w, _) :: _ => !own t.prog w
  | _, _ => false

/-! ### The queues (R299) -/

def matDepth : Nat := 8

def State.matQueue (s : State) (cl co q : Nat) : List MatOp := (s.core cl co).matq.getD q []

def State.setMatQueue (s : State) (cl co q : Nat) (l : List MatOp) : State :=
  s.updCore cl co fun k => { k with matq := setAt k.matq q l }

/-- The queue takes one more entry, and its partner's too. -/
def State.matRoom (s : State) (iss : Issue) (q : Nat) (both : Bool) : Bool :=
  (s.matQueue iss.cl iss.co q).length < matDepth
    && (!both || (s.matQueue iss.cl iss.co (q ^^^ 1)).length < matDepth)

/-- Enter an operation in its quadrant's queue, and in the partner's in the same step. -/
def State.enqueue (s : State) (iss : Issue) (q : Nat) (ms : List (Nat × Nat)) (work : MatWork) (both : Bool) : State :=
  let (s, id) := s.fresh
  let op : MatOp := { id := id, team := iss.team, members := ms, pos := iss.pos, header := iss.header, raw := iss.raw
                      work := work, both := both }
  let s := s.setMatQueue iss.cl iss.co q (s.matQueue iss.cl iss.co q ++ [op])
  if both then s.setMatQueue iss.cl iss.co (q ^^^ 1) (s.matQueue iss.cl iss.co (q ^^^ 1) ++ [{ op with shadow := true }])
  else s

/-- How a matrix word goes in its bundle. -/
inductive MatRes where
  /-- The queue is full: the bundle holds at the word (R299). -/
  | hold
  /-- Rows of a stream have not arrived (R315). -/
  | streamWait
  | ok (s : State) (rs : List ((Nat × Nat) × LaneRes))
  deriving DecidableEq, Repr

/-- What else stops a matrix word in a thread: `tag` refuses the tile's type, cause 0x05 of R102's order (R307), and a
thread whose scratchpad reads wait for its acquire is not ready (R279, R300). -/
structure MatGate where
  tag : Ctx → Bool := fun _ => false
  reads : Ctx → Bool := fun _ => false

/-- The outcome of a thread's checks with the tile's type among them. -/
def Stop.withTag (bad : Bool) : Option Stop → Option Stop
  | none => if bad then some (.trap 0x05) else none
  | some (.trap k) => some (.trap (if bad && [0x18, 0x0F, 0x0E].contains k then 0x05 else k))
  | some .hold => some .hold

/-- Run a matrix word on the threads of its bundle that pass their checks, together (R299, R312). A stream wait keeps the
whole bundle at the word (R315). -/
def Form.performMat (fm : Form) (iss : Issue) (value : Ctx → Option Nat) (gate : MatGate)
    (go : State → List Ctx → MatRes) (s : State) : State :=
  match s.team? iss.team with
  | none => s
  | some t =>
    let ms := iss.actors t
    match fm.precheck iss t with
    | some c => iss.deliverTraps ((ms.flatMap (iss.lanes t)).map fun m => (m, c, 0)) s
    | none =>
      let ctx (m : Nat × Nat) : Ctx := ⟨t, m.1, m.2, iss⟩
      let chk (m : Nat × Nat) : Option Stop :=
        Stop.withTag (gate.tag (ctx m)) ((ctx m).checks fm.os (value (ctx m)) fm.pure)
      let wait (m : Nat × Nat) : Option Wait :=
        if chk m == some .hold then some .regs
        else if chk m == none && gate.reads (ctx m) && s.acquiring iss.team m.1 m.2 then some .retry
        else none
      let held := ms.filterMap fun m => (wait m).map fun w => (m, w)
      if iss.together && !held.isEmpty then held.foldl (fun s x => s.holdLane iss.team false x.2 x.1) s
      else
        let traps := ms.filterMap fun m => match chk m with
          | some (.trap c) => some (m, LaneRes.trap c, (0 : Word))
          | _ => none
        let leave (s : State) : State := held.foldl (fun s x => s.holdLane iss.team true x.2 x.1) s
        match ms.filter fun m => chk m == none && (wait m).isNone with
        | [] => iss.finish 1 traps (leave s)
        | ready =>
          match go s (ready.map ctx) with
          | .hold => s
          | .streamWait => ms.foldl (fun s m => s.holdLane iss.team false .stream m) s
          | .ok s rs => iss.finish 1 (traps ++ rs.map fun x => (x.1, x.2, (0 : Word))) (leave s)


/-- The form of a matrix word. -/
def matForm (wf past : Bool) (os : List Opnd) : Form :=
  { grp := .matrix, wf := wf, os := (if past then [absentUnit] else []) ++ os, pure := true }

/-- Everyone of the bundle has done the word. -/
def allDone (cs : List Ctx) : List ((Nat × Nat) × LaneRes) := cs.map fun c => ((c.w, c.l), .done)

def memberList (cs : List Ctx) : List (Nat × Nat) := cs.map fun c => (c.w, c.l)
def quadOfCtxs (cs : List Ctx) : Nat := ((cs.head?).map fun c => c.w % 4).getD 0

/-- Enter an operation for a bundle when the queue has room; `upd` sets what the order of issue fixes. -/
def enqueueAll (iss : Issue) (both : Bool) (work : List Ctx → MatWork) (upd : Team → Team) (s : State) (cs : List Ctx) :
    MatRes :=
  let q := quadOfCtxs cs
  if !s.matRoom iss q both then .hold
  else .ok ((s.enqueue iss q (memberList cs) (work cs) both).updTeam iss.team upd) (allDone cs)

/-! ### Elements (R302 to R304) -/

/-- The element of a code in a packed format; `none` is an escape code. -/
def elemOf (tag code : Nat) : Option Num :=
  match tag with
  | 7 => taperDecode 5 code
  | 6 => taperDecode 7 code
  | 8 => some (Num.ofInt (sextNat 8 code) 0)
  | 9 => some (Num.ofInt code 0)
  | 4 => some (unpack fmtF16 code)
  | _ => some (unpack fmtB16 code)

/-- Code `k` of packed words. -/
def codeAt (tag : Nat) (ws : List Word) (k : Nat) : Nat :=
  bits (ws.getD (k / packCount tag) 0).toNat (packWidth tag * (k % packCount tag)) (packWidth tag)

/-- The packed tag of an AFMT, and the registers of a row (R302). -/
def afmtTag (f : Nat) : Nat :=
  match f with
  | 0 => 7 | 1 => 6 | 2 => 8 | 3 => 9 | 4 => 4 | _ => 5
def afmtRegs (f : Nat) : Nat :=
  match f with
  | 0 => 13 | 1 | 2 | 3 => 16 | _ => 32
def afmtInt (f : Nat) : Bool := f == 2 || f == 3

/-- Entries of a side list: index and value (R155). -/
def Team.sideList (t : Team) (addr count : Nat) : List (Nat × Nat) :=
  (List.range count).map fun k => let x := leNat (t.readScratch (addr + 8 * k) 8); (x % 2 ^ 16, x / 2 ^ 32)

/-- The covering entry of an index: the lowest (R304). -/
def coveredBy (l : List (Nat × Nat)) (idx : Nat) : Option Nat := (l.find? fun e => e.1 == idx).map (·.2)

/-- A row of A (R304): 64 elements, an uncovered escape `none`. -/
def rowElems (tag : Nat) (side : Option (Nat × List (Nat × Nat))) (ws : List Word) : List (Option Num) :=
  (List.range 64).map fun k =>
    match elemOf tag (codeAt tag ws k) with
    | some x => some x
    | none => match side with
      | some (base, l) => (coveredBy l ((base + k) % 2 ^ 16)).map (unpack fmtF32)
      | none => none

/-- Scratchpad bytes in error. -/
def Team.badScratch (t : Team) (a n : Nat) : Bool := n != 0 && t.scratchBad.any fun g => overlap g 32 a n

/-! ### MLOAD (R313) -/

/-- Words of a row of B (R303). -/
def planeRowWords (tag : Nat) : Nat := if tag = 7 then 7 else if tag ≤ 5 then 16 else 8

/-- Σ_k b_kj, exactly (R298). -/
def colSum (col : List Num) : Num :=
  col.foldl (fun a b => (addExact 0 a b).getD (.nan false)) (.fin false 0 0)

/-- The plane that a record and a side list give. -/
def planeOf (t : Team) (h : Shape) (list : List (Nat × Nat)) : Plane :=
  let n := planeRowWords h.tag
  let row (k : Nat) : List Word := (List.range n).map fun i =>
    if k < h.e1 then BitVec.ofNat 32 (leNat (t.readScratch (h.addr i k 0) 4)) else 0
  let cells := (List.range 64).map fun k =>
    let ws := row k
    (List.range 32).map fun j => match elemOf h.tag (codeAt h.tag ws j) with
      | some x => (x, none)
      | none => match coveredBy list (32 * k + j) with
        | some v => (unpack fmtF32 v, some (some v))
        | none => (.fin false 0 0, some none)
  { etag := h.tag
    elems := cells.map fun r => r.map (·.1)
    colsum := (List.range 32).map fun j => colSum (cells.map fun r => (r.getD j (.fin false 0 0, none)).1)
    uncov := (List.range 32).map fun j => cells.any fun r => (r.getD j (.fin false 0 0, none)).2 == some none
    escb := (cells.zipIdx).flatMap fun (r, k) => (r.zipIdx).filterMap fun (x, j) =>
      x.2.bind fun v => v.map fun v => (k, j, BitVec.ofNat 32 v) }

def mloadSide (side : BitVec 9) : Opnd := uniOpnd side.toNat 1 1

/-- MLOAD's checks in the order of R313. -/
def mloadCheck (shape side : BitVec 9) (sl : BitVec 1) (c : Ctx) : Option Nat :=
  let r := c.words (uniOpnd shape.toNat 3 4)
  let h := Shape.ofWords r
  let x := c.rd (mloadSide side)
  if c.outOfRange (uniOpnd shape.toNat 3 4) then none else
  match shapeCheck r c.t.prog.scratch with
  | some k => some k
  | none =>
    if h.tag < 4 ∨ h.tag > 9 then some 0x03
    else if h.e0 ≠ planeRowWords h.tag ∨ h.e1 > 64 ∨ h.e2 ≠ 1 then some 0x04
    else if sl = 0 then none
    else if h.tag ≠ 6 ∧ h.tag ≠ 7 then some 0x03
    else if x.toNat ≥ 2 ^ 23 then some 0x03
    else if sideCount x > 16 then some 0x04
    else if sideAddr x % 8 ≠ 0 then some 0x09
    else if sideAddr x + 8 * sideCount x > c.t.prog.scratch then some 0x0A
    else none

def execMload (plane : BitVec 4) (mir : BitVec 1) (shape side : BitVec 9) (sl : BitVec 1) (s : State) : Out :=
  withIssue s fun iss s =>
    let fm := matForm (Instr.mload plane mir shape side sl).wf (s.unowned iss fun p w => p.ownsPlane w plane.toNat)
      ([uniOpnd shape.toNat 3 4] ++ if sl = 1 then [mloadSide side] else [])
    { fm with coll := true }.performOnce iss (mloadCheck shape side sl) (fun s c =>
      let q := c.w % 4
      let both := mir == 1
      let h := Shape.ofWords (c.words (uniOpnd shape.toNat 3 4))
      let x := c.rd (mloadSide side)
      let n := if sl = 1 then sideCount x else 0
      let cells := (List.range (min h.e1 64)).flatMap fun k => (List.range h.e0).map fun i => h.addr i k 0
      if ((c.t.warp c.w).live).any fun l => s.acquiring c.t.id c.w l then (s, .stay .retry)
      else if cells.any (fun a => c.t.badScratch a 4) || c.t.badScratch (sideAddr x) (8 * n) then (s, .trap 0x18)
      else if !s.matRoom iss q both then (s, .moved)
      else
        let pl := planeOf c.t h (c.t.sideList (sideAddr x) n)
        let ms := ((c.t.warp c.w).live).map fun l => (c.w, l)
        ((s.enqueue iss q ms (.mload plane.toNat pl both) both).updTeam iss.team fun t =>
          t.updPlanes plane.toNat both fun y => { y with etag := h.tag }, .done)) s

/-! ### MMA and MMAR (R305 to R309, R314, R315) -/

/-- Where the A rows come from. -/
def mmaOs (iss : Issue) (src : BitVec 2) (afmt : BitVec 3) (a : BitVec 7) : List Opnd :=
  match src.toNat with
  | 0 => [((iss.reg a.toNat).grp (afmtRegs afmt.toNat) 1).src (some [Tag.ofCode (afmtTag afmt.toNat)])]
  | 1 => []
  | 2 => [(iss.reg a.toNat).src (some [.n32, .i32])]
  | _ => [uniOpnd (128 * iss.sb + a.toNat) 3 4]

/-- The first of some causes in the order of R102. -/
def firstCause (ks : List Nat) : Option Nat := [0x03, 0x04, 0x09, 0x0A].find? ks.contains

/-- The issue checks of an A source (R309, R314). -/
def mmaCheck (src : BitVec 2) (afmt : BitVec 3) (a : BitVec 7) (sa : BitVec 1) (c : Ctx) : Option Nat :=
  let n := afmtRegs afmt.toNat
  let scr := c.t.prog.scratch
  let rd := c.rd ((mmaOs c.iss src afmt a).headD (uniOpnd 0 1 1))
  let sideOut := if sa = 1 ∧ c.th.aside.count ≠ 0 ∧ c.th.aside.addr + 8 * c.th.aside.count > scr then [0x0A] else []
  let ks := match src.toNat with
    | 0 => []
    | 1 =>
      let st := c.t.queues.getD (a.toNat % 8) {}
      if a.toNat ≥ c.t.prog.queues ∨ (st.isOpen ∧ st.roww + 1 ≠ n) then [0x04] else []
    | 2 => (if rd.toNat % 4 ≠ 0 then [0x09] else []) ++ (if rd.toNat + 4 * n > scr then [0x0A] else [])
    | _ =>
      let r := c.words (uniOpnd (128 * c.iss.sb + a.toNat) 3 4)
      let h := Shape.ofWords r
      if c.outOfRange (uniOpnd (128 * c.iss.sb + a.toNat) 3 4) then [] else
      (shapeCheck r scr).toList ++ (if h.tag ≠ afmtTag afmt.toNat then [0x03] else [])
        ++ (if h.e0 ≠ n ∨ h.e2 ≠ 1 then [0x04] else [])
  firstCause (ks ++ sideOut)

/-- The lane whose row a lane supplies: in a protected launch a shadow's is its visible thread's, so that both rows are
computed alike (R321). -/
def rowLane (prot : Bool) (l : Nat) : Nat := if prot then l - l % 2 else l

/-- The words of a thread's row and whether they met an error; `k` is its place among the rows taken from a queue, `i` the
row of a record. -/
def mmaRow (src : BitVec 2) (afmt : BitVec 3) (a : BitVec 7) (c : Ctx) (k i : Nat) : List Word × Bool :=
  let n := afmtRegs afmt.toNat
  match src.toNat with
  | 0 => (c.words ((mmaOs c.iss src afmt a).headD (uniOpnd 0 1 1)), false)
  | 1 => match (c.t.queues.getD (a.toNat % 8) {}).queue.drop k with
    | r :: _ => (r.words, r.bad)
    | [] => (List.replicate n 0, false)
  | 2 =>
    let x := (c.rd ((mmaOs c.iss src afmt a).headD (uniOpnd 0 1 1))).toNat
    (toWords (c.t.readScratch x (4 * n)), c.t.badScratch x (4 * n))
  | _ =>
    let h := Shape.ofWords (c.words (uniOpnd (128 * c.iss.sb + a.toNat) 3 4))
    if i ≥ h.e1 then (List.replicate n 0, false) else
    ((List.range n).map fun j => BitVec.ofNat 32 (leNat (c.t.readScratch (h.addr j i 0) 4)),
      (List.range n).any fun j => c.t.badScratch (h.addr j i 0) 4)

/-- The row that a thread's partner took for it (R321). -/
def Team.mateRow (t : Team) (q : Nat) (c : Ctx) : Option MateRow :=
  t.mates.find? fun r => r.q == q && r.warp == c.w && r.lane == c.l

/-- The threads that take a row each from a stream: of a protected pair one, before its partner or with it (R321). -/
def popPlaces (prot : Bool) (q : Nat) (cs : List Ctx) : List (Nat × Nat) :=
  ((cs.filter fun c => !prot || (c.t.mateRow q c).isNone).map fun c => (c.w, rowLane prot c.l)).eraseDups

/-- A thread's row, and whether it met an error: the one that its partner took, or the next of its own. -/
def rowFor (prot : Bool) (src : BitVec 2) (afmt : BitVec 3) (a : BitVec 7) (cs : List Ctx) (c : Ctx) : List Word × Bool :=
  let own := mmaRow src afmt a c ((popPlaces prot (a.toNat % 8) cs).idxOf (c.w, rowLane prot c.l)) (rowLane prot c.l)
  if src = 1 ∧ prot then
    match c.t.mateRow (a.toNat % 8) c with
    | some r => (r.words, r.bad)
    | none => own
  else own

/-- Rows kept for partners once the threads have taken theirs: what was kept for one of them is used up, and a thread that
comes before its partner leaves its row for it (R321). -/
def keepMates (q : Nat) (rows : List (Ctx × List Word × Bool)) (t : Team) : Team :=
  let here (c : Ctx) : Bool := rows.any fun x => x.1.w == c.w && x.1.l == c.l
  rows.foldl (fun (t : Team) x =>
    let c := x.1
    match c.t.mateRow q c with
    | some r => { t with mates := t.mates.erase r }
    | none =>
      if here { c with l := c.l ^^^ 1 } then t
      else { t with mates := t.mates ++ [{ q := q, warp := c.w, lane := c.l ^^^ 1, words := x.2.1, bad := x.2.2 }] }) t

/-- Rows that a queue-fed operation takes, and whether they have all arrived (R315). -/
def streamNeed (t : Team) (q lanes : Nat) : Nat × Bool :=
  let st := t.queues.getD q {}
  let need := if st.isOpen then min lanes (st.total - st.next) else 0
  (need, need ≤ st.queue.length)

/-- The operation's accumulator type is I32 (R307). -/
def mmaInt (t : Team) (afmt : BitVec 3) (plane : BitVec 4) : Bool :=
  afmtInt afmt.toNat && [0, 8, 9].contains (t.plane plane.toNat).etag

/-- A thread of strict tag policy refuses a tile of the other type (R307); the scratchpad rows and side lists of an MMA
are read at issue (R300). -/
def mmaGate (tile : BitVec 5) (plane : BitVec 4) (src : BitVec 2) (afmt : BitVec 3) (sa : BitVec 1) : MatGate where
  tag c := (c.t.tile tile.toNat).int != mmaInt c.t afmt plane && !c.th.perm
  reads _ := src.toNat ≥ 2 || sa == 1

/-- MMA, or MMAR when `red`, in threads that passed their checks. -/
def mmaGo (red : Bool) (tile : BitVec 5) (plane : BitVec 4) (src : BitVec 2) (afmt : BitVec 3) (a : BitVec 7)
    (sa : BitVec 1) (iss : Issue) (s : State) (cs : List Ctx) : MatRes :=
  match cs with
  | [] => .ok s []
  | c0 :: _ =>
    let t := c0.t
    let int := mmaInt t afmt plane
    let prot := s.isProtected t
    let places := popPlaces prot (a.toNat % 8) cs
    let q := c0.w % 4
    let (need, arrived) := if src = 1 then streamNeed t (a.toNat % 8) places.length else (0, true)
    if !arrived then .streamWait
    else if !s.matRoom iss q red then .hold
    else
      let side (c : Ctx) : Option (Nat × List (Nat × Nat)) :=
        if sa = 1 then some (c.th.aside.base, t.sideList c.th.aside.addr c.th.aside.count) else none
      let rows := cs.map fun c => (c, rowFor prot src afmt a cs c)
      let bad (x : Ctx × List Word × Bool) : Bool :=
        x.2.2 || (sa == 1 && t.badScratch x.1.th.aside.addr (8 * x.1.th.aside.count))
      let good := rows.filter fun x => !bad x
      let work : MatWork := .mma tile.toNat plane.toNat
        (good.map fun x => { warp := x.1.w, lane := x.1.l, elems := rowElems (afmtTag afmt.toNat) (side x.1) x.2.1 })
        (afmtInt afmt.toNat) int red
      let s := s.enqueue iss q (good.map fun x => (x.1.w, x.1.l)) work red
      let s := s.updTeam iss.team fun t =>
        let t := t.updTiles tile.toNat red fun x => { x with int := int }
        if red then t else t.unpair tile.toNat
      let s := if src = 1 ∧ prot then s.updTeam iss.team (keepMates (a.toNat % 8) rows) else s
      let s := if src = 1 then
          s.updStream iss.team (a.toNat % 8) fun st => { st with queue := st.queue.drop need, next := st.next + need }
        else s
      .ok s (rows.map fun x => ((x.1.w, x.1.l), if bad x then .trap 0x18 else .done))

def mmaPast (tile : BitVec 5) (plane : BitVec 4) (iss : Issue) (s : State) : Bool :=
  s.unowned iss fun p w => p.ownsTile w tile.toNat && p.ownsPlane w plane.toNat

/-- PAIR of a tile as the issuing team has it; an MMAR on a tile without it traps in every thread of the bundle (R311). -/
def State.pairedAt (s : State) (tm tile : Nat) : Bool := ((s.team? tm).map fun t => (t.tile tile).paired).getD false

def execMma (tile : BitVec 5) (plane : BitVec 4) (src : BitVec 2) (afmt : BitVec 3) (a : BitVec 7) (sa : BitVec 1)
    (s : State) : Out :=
  withIssue s fun iss s => (matForm (Instr.mma tile plane src afmt a sa).wf (mmaPast tile plane iss s)
    (mmaOs iss src afmt a)).performMat iss (mmaCheck src afmt a sa) (mmaGate tile plane src afmt sa)
    (mmaGo false tile plane src afmt a sa iss) s

def execMmar (tile : BitVec 5) (plane : BitVec 4) (src : BitVec 2) (afmt : BitVec 3) (a : BitVec 7) (sa : BitVec 1)
    (s : State) : Out :=
  withIssue s fun iss s => (matForm (Instr.mmar tile plane src afmt a sa).wf
    (mmaPast tile plane iss s || !s.pairedAt iss.team tile.toNat)
    (mmaOs iss src afmt a)).performMat iss (mmaCheck src afmt a sa) (mmaGate tile plane src afmt sa)
    (mmaGo true tile plane src afmt a sa iss) s

/-! ### MDRAIN, MZERO, MFILL (R316, R317) -/

def tilePast (tile : BitVec 5) (iss : Issue) (s : State) : Bool := s.unowned iss fun p w => p.ownsTile w tile.toNat
def atagOf (int : Bool) : Tag := if int then .i32 else .f32

def execMdrain (d : BitVec 7) (tile : BitVec 5) (group : BitVec 2) (s : State) : Out :=
  withIssue s fun iss s =>
    let dst := ((iss.reg d.toNat).grp 8 8).dst
    (matForm true (tilePast tile iss s) [dst]).performMat iss (fun _ => none) {} (fun s cs =>
      let q := quadOfCtxs cs
      let tl := ((cs.head?).map fun c => c.t.tile tile.toNat).getD {}
      if !s.matRoom iss q tl.paired then .hold else
      let (s, dsts) := cs.foldl (fun (s, l) c =>
        let (s, id) := s.fresh
        let o : LoadOp := { id := id, dst := c.dest dst [], bytes := 32, mem := false, mat := true, st := .engine }
        (s.pushLoad c [dst] o, l ++ [((c.w, c.l), id)])) (s, [])
      let s := s.enqueue iss q (memberList cs) (.mdrain tile.toNat group.toNat tl.paired (atagOf tl.int) dsts) tl.paired
      .ok s (cs.map fun c => ((c.w, c.l), if tl.paired then .stay .drain else .done))) s

def execMzero (tile : BitVec 5) (atag mir : BitVec 1) (s : State) : Out :=
  withIssue s fun iss s =>
    (matForm true (tilePast tile iss s) []).performMat iss (fun _ => none) {}
      (enqueueAll iss (mir == 1) (fun cs => .mzero tile.toNat (mir == 1) (cs.map (·.l))) fun t =>
        if mir = 1 then t.updTiles tile.toNat true fun x => { x with int := atag == 1, paired := true }
        else (t.updTile tile.toNat fun x => { x with int := atag == 1 }).unpair tile.toNat) s

/-- ATAG of a tile as the issuing team has it. -/
def State.atagIs (s : State) (tm tile : Nat) : Bool := ((s.team? tm).map fun t => (t.tile tile).int).getD false

def execMfill (a : BitVec 7) (tile : BitVec 5) (group : BitVec 2) (mir : BitVec 1) (s : State) : Out :=
  withIssue s fun iss s =>
    let int := s.atagIs iss.team tile.toNat
    let src := ((iss.reg a.toNat).grp 8 8).src (some [atagOf int])
    (matForm true (tilePast tile iss s) [src]).performMat iss (fun _ => none) {}
      (enqueueAll iss (mir == 1)
        (fun cs => .mfill tile.toNat group.toNat (mir == 1) (cs.map fun c => (c.l, c.words src))) fun t =>
        if mir = 1 then t.updTiles tile.toNat true fun x => { x with int := int, paired := true }
        else t.unpair tile.toNat) s

/-! ### MSIDE, MZP, MSCL (R318, R319) -/

def execMside (a : BitVec 7) (clr : BitVec 1) (s : State) : Out :=
  withIssue s fun iss =>
    let src := (iss.reg a.toNat).src (some [.n32, .i32])
    (matForm (Instr.mside a clr).wf false (if clr = 1 then [] else [src])).perform iss (fun _ => none) fun s c =>
      (s.updThread c.t.id c.w c.l fun th =>
        if clr = 1 then { th with aside := { th.aside with count := 0 } }
        else { th with aside := { addr := sideAddr th.sidel, count := sideCount th.sidel
                                  base := bits (c.rd src).toNat 0 16 } }, .done)

/-- A signed register value outside a range. -/
def rangeCheck (src : Opnd) (lo hi : Int) (c : Ctx) : Option Nat :=
  if (c.rd src).toInt < lo ∨ (c.rd src).toInt > hi then some 0x04 else none

def laneVals (src : Opnd) (cs : List Ctx) : List (Nat × Int) := cs.map fun c => (c.l, (c.rd src).toInt)

def execMzp (tile : BitVec 5) (a : BitVec 7) (range : BitVec 1) (s : State) : Out :=
  withIssue s fun iss s =>
    let src := (iss.reg a.toNat).src (some [.i32, .n32])
    (matForm true (tilePast tile iss s) [src]).performMat iss
      (rangeCheck src (if range = 1 then 0 else -128) (if range = 1 then 255 else 127)) {}
      (enqueueAll iss false (fun cs => .mzp tile.toNat (laneVals src cs)) (·.unpair tile.toNat)) s

def execMscl (mode : BitVec 1) (unit : BitVec 5) (a : BitVec 7) (mir : BitVec 1) (s : State) : Out :=
  withIssue s fun iss s =>
    let src := (iss.reg a.toNat).src (some [.i32])
    let wf := (Instr.mscl mode unit a mir).wf
    let past := s.unowned iss fun p w => if mode = 0 then p.ownsTile w unit.toNat else p.ownsPlane w unit.toNat
    (matForm wf past [src]).performMat iss (rangeCheck src (-64) 63) {}
      (if mode = 0 then enqueueAll iss false (fun cs => .msclRow unit.toNat (laneVals src cs)) (·.unpair unit.toNat)
       else enqueueAll iss (mir == 1) (fun cs => .msclCol unit.toNat (mir == 1) (laneVals src cs)) id) s

/-! ### Results (R305, R306) -/

/-- Flags in the bit order of sr.mxst (R93). -/
abbrev MxFlags := BitVec 5
def mxNV : MxFlags := 1
def mxOF : MxFlags := 2
def mxISAT : MxFlags := 4
def mxUESC : MxFlags := 8
def mxNX : MxFlags := 16

def mxNan : Word := BitVec.ofNat 32 fmtF32.nanBits

/-- The exact sum of finite values. -/
def sumExact (x : Num) (l : List Num) : Num := l.foldl (fun a b => (addExact 0 a b).getD a) x

def Num.isInf : Num → Bool
  | .inf _ => true
  | _ => false


/-- One element of an F32 tile, from its old value and the products' factors scaled by 2^e. -/
def mmaF32 (c : Word) (e : Int) (ps : List (Num × Num)) : Word × MxFlags :=
  let cn := unpack fmtF32 c.toNat
  if cn.isNan || ps.any fun p => p.1.isNan || p.2.isNan then (mxNan, 0) else
  let prods := ps.map fun p => mulExact p.1 p.2
  if prods.any (·.isNone) then (mxNan, mxNV) else
  let vs := prods.filterMap fun p => p.map (Num.scale e)
  let infs := (cn :: vs).filter (·.isInf)
  match infs with
  | x :: _ =>
    if infs.any (fun y => y.neg != x.neg) then (mxNan, mxNV)
    else (BitVec.ofNat 32 (signed fmtF32 x.neg fmtF32.infBits), 0)
  | [] =>
    match sumExact cn vs with
    | .fin neg m ex =>
      if m = 0 then (BitVec.ofNat 32 (signed fmtF32 ((cn :: vs).all (·.isNegZero)) 0), 0)
      else
        let r := roundMag fmtF32 0 neg m ex false
        (BitVec.ofNat 32 r.bits, (if r.fl &&& flagOF ≠ 0 then mxOF else 0) ||| (if r.fl &&& flagNX ≠ 0 then mxNX else 0))
    | _ => (mxNan, 0)

/-- One element of an I32 tile. -/
def mmaI32 (c : Word) (e : Int) (ps : List (Num × Num)) : Word × MxFlags :=
  match sumExact (Num.ofInt c.toInt 0) (ps.filterMap fun p => (mulExact p.1 p.2).map (Num.scale e)) with
  | .fin neg m ex =>
    let (v, inexact) := roundToInt 0 neg m ex
    let nx := if inexact then mxNX else 0
    if v > 2 ^ 31 - 1 then (0x7FFFFFFF, nx ||| mxISAT)
    else if v < -(2 ^ 31) then (0x80000000, nx ||| mxISAT)
    else (BitVec.ofInt 32 v, nx)
  | _ => (c, 0)

/-- An element of A less the row's zero point (R304). -/
def lessZ (zp : Bool) (z : Int) (x : Num) : Num := if zp then (addExact 0 x (Num.ofInt (-z) 0)).getD x else x

/-- Row `r` of an accumulation (R305, R306): the words and the flags of the thread that supplied it. -/
def mmaRowRes (tl : Tile) (ea z : Int) (pl : Plane) (zp int : Bool) (r : ARow) : List Word × MxFlags :=
  let old := tl.words.getD r.lane []
  let cells := (List.range 32).map fun j =>
    if r.elems.any (·.isNone) || pl.uncov.getD j false then (mxNan, mxUESC)
    else
      let ps := (r.elems.zipIdx).filterMap fun (x, k) =>
        x.map fun a => (lessZ zp z a, (pl.elems.getD k []).getD j (.fin false 0 0))
      let e := ea + pl.eb.getD j 0
      if int then mmaI32 (old.getD j 0) e ps else mmaF32 (old.getD j 0) e ps
  (cells.map (·.1), cells.foldl (fun f c => f ||| c.2) 0)

/-- A tile after an accumulation. -/
def mmaTile (tl : Tile) (eas zs : List Int) (pl : Plane) (zp int : Bool) (rows : List ARow) : Tile :=
  rows.foldl (fun (acc : Tile) r =>
    { acc with words := setAt acc.words r.lane (mmaRowRes tl (eas.getD r.lane 0) (zs.getD r.lane 0) pl zp int r).1 }) tl

/-- OR flags into sr.mxst of a thread. -/
def State.setMx (s : State) (tm : Nat) (m : Nat × Nat) (f : MxFlags) : State :=
  s.updThread tm m.1 m.2 fun th => { th with mxst := th.mxst ||| f }

/-! ### Execution (R299, R316, R320) -/

/-- Put words into columns of a row. -/
def putCols (row : List Word) (g : Nat) (ws : List Word) : List Word :=
  (ws.zipIdx).foldl (fun r (x, k) => setAt r (8 * g + k) x) row

def State.execMma (s : State) (t : Team) (tile plane : Nat) (rows : List ARow) (zp int red : Bool) : State :=
  let tl := t.tile tile
  let pl := t.plane plane
  let tl2 := t.tile (partnerTile tile)
  let pl2 := t.plane (mirrorPlane plane)
  if tl.bad || pl.bad || (red && (tl2.bad || pl2.bad)) then s.machineCheck t.launch 0x18 else
  let s := s.updTeam t.id fun t =>
    let t := t.updTile tile fun x => { x with words := (mmaTile tl tl.ea tl.z pl zp int rows).words }
    if red then t.updTile (partnerTile tile) fun x => { x with words := (mmaTile tl2 tl.ea tl.z pl2 zp int rows).words }
    else t
  rows.foldl (fun s r => s.setMx t.id (r.warp, r.lane)
    (mmaRowRes tl (tl.ea.getD r.lane 0) (tl.z.getD r.lane 0) pl zp int r).2) s

/-- The registers of a load become full with their old values. -/
def State.refullLoad (s : State) (id : Nat) : State :=
  match s.loads.find? fun o => o.id == id with
  | none => s
  | some o =>
    let s := s.updThread o.dst.team o.dst.warp o.dst.lane fun th =>
      { th with v := (List.range o.dst.cnt).foldl (fun v k => updAt v (o.dst.n + k) fun r => { r with full := true }) th.v }
    { s with loads := s.loads.filter fun (x : LoadOp) => x.id != id }

def State.bindLoad (s : State) (id : Nat) (ws : List (Word × Tag)) (pv : Option Bool) : State :=
  { s with loads := s.loads.map fun (o : LoadOp) => if o.id == id then { o with st := .bound ws pv } else o }

/-- One thread's part of an MDRAIN: its words are bound, or it takes cause 0x12 (R316). -/
def State.drainRow (s : State) (op : MatOp) (t : Team) (cl co tile group : Nat) (pair : Bool) (tag : Tag)
    (bad : List (Nat × Nat)) (m : Nat × Nat) (load : Nat) : State :=
  let row := (List.range 8).map fun k => ((t.tile tile).words.getD m.2 []).getD (8 * group + k) 0
  let iss : Issue := { team := t.id, members := [m], cl := cl, co := co, hdr := op.pos.hdr, header := op.header
                       word := op.pos.word, rep := op.pos.rep, raw := op.raw }
  if bad.contains m then
    let s := s.refullLoad load
    let mask := laneMask (bad.map (·.2))
    if (s.thread t.id m.1 m.2).exited then s
    else (iss.pairTrap (bad.map fun x => (x, 0x12, (0 : Word))) m 0x12 s).takeTrap t.id m.1 m.2 (iss.trapInfo 0x12 mask 0)
  else
    let s := s.bindLoad load (row.map fun w => (w, tag)) none
    if pair && (s.thread t.id m.1 m.2).wait == .drain then s.advance t.id m.1 m.2 1 else s

/-- What an operation does when the macro executes it. -/
def State.runMat (s : State) (cl co : Nat) (op : MatOp) (t : Team) : State :=
  match op.work with
  | .mload p content mir =>
    let s := s.updTeam t.id fun t => t.updPlanes p mir fun y => { content with etag := y.etag }
    if content.uncov.any id then op.members.foldl (fun s m => s.setMx t.id m mxUESC) s else s
  | .mma tile plane rows zp int red => s.execMma t tile plane rows zp int red
  | .mdrain tile g pair tag dsts =>
    if (t.tile tile).bad || (pair && (t.tile (partnerTile tile)).bad) then s.machineCheck t.launch 0x18 else
    let cols (n l : Nat) : List Word := (((t.tile n).words.getD l []).drop (8 * g)).take 8
    let bad := if pair then (dsts.map (·.1)).filter fun m => cols tile m.2 != cols (partnerTile tile) m.2 else []
    dsts.foldl (fun s x => s.drainRow op t cl co tile g pair tag bad x.1 x.2) s
  | .mzero tile mir lanes => s.updTeam t.id fun t => t.updTiles tile mir fun x =>
      { x with words := lanes.foldl (fun ws l => setAt ws l (List.replicate 32 0)) x.words
               bad := x.bad && !((List.range 32).all lanes.contains) }
  | .mfill tile g mir rows => s.updTeam t.id fun t => t.updTiles tile mir fun x =>
      { x with words := rows.foldl (fun ws r => updAt ws r.1 fun row => putCols row g r.2) x.words }
  | .mzp tile vals => s.updTeam t.id fun t => t.updTile tile fun x =>
      { x with z := vals.foldl (fun z v => setAt z v.1 v.2) x.z }
  | .msclRow tile vals => s.updTeam t.id fun t => t.updTile tile fun x =>
      { x with ea := vals.foldl (fun z v => setAt z v.1 v.2) x.ea }
  | .msclCol p mir vals => s.updTeam t.id fun t => t.updPlanes p mir fun x =>
      { x with eb := vals.foldl (fun z v => setAt z v.1 v.2) x.eb }

/-- Execute the head of a quadrant's queue; one that stands in both queues when it heads both. -/
def State.matStep (s : State) (cl co q : Nat) : State :=
  match s.matQueue cl co q with
  | [] => s
  | op :: rest =>
    let other := s.matQueue cl co (q ^^^ 1)
    if op.shadow || (op.both && (other.head?.map (·.id)) != some op.id) then s
    else
      let s := s.setMatQueue cl co q rest
      let s := if op.both then s.setMatQueue cl co (q ^^^ 1) (other.drop 1) else s
      match s.team? op.team with
      | none => s
      | some t => s.runMat cl co op t

/-- MATRIX_OP_EXECUTE on quadrant `quad` of the target's core. -/
def execMatrixOpExecute (s : State) : Out := .next (s.matStep s.target.cl s.target.co s.target.quad)

end Sys2Proof.Machine
end

