-- ==== Sys2Proof/Machine/Integer.lean ====
section
/-! DEFINITION. Integer words 0x00 to 0x2F and address words 0x30 to 0x37 (07_isa_alu R169 to R174). -/

namespace Sys2Proof.Machine

/-! ### Operations on patterns -/

/-- Clip an exact value to a range; SAT when it is clipped (R143). -/
def clipTo (lo hi v : Int) : Word × IntFlags :=
  if v < lo then (BitVec.ofInt 32 lo, flagSAT)
  else if v > hi then (BitVec.ofInt 32 hi, flagSAT)
  else (BitVec.ofInt 32 v, 0)

def clipS (v : Int) : Word × IntFlags := clipTo (-(2 ^ 31)) (2 ^ 31 - 1) v
def clipN (v : Int) : Word × IntFlags := clipTo 0 (2 ^ 32 - 1) v

/-- Signed quotient and remainder with the cases of R144. -/
def divS (a b : Word) : Word × IntFlags :=
  if b = 0 then (0xFFFFFFFF, flagDZI)
  else if a = 0x80000000 ∧ b = 0xFFFFFFFF then (0x80000000, flagDOV)
  else (BitVec.ofInt 32 (a.toInt.tdiv b.toInt), 0)
def remS (a b : Word) : Word × IntFlags :=
  if b = 0 then (a, flagDZI)
  else if a = 0x80000000 ∧ b = 0xFFFFFFFF then (0, flagDOV)
  else (BitVec.ofInt 32 (a.toInt.tmod b.toInt), 0)
def divN (a b : Word) : Word × IntFlags :=
  if b = 0 then (0xFFFFFFFF, flagDZI) else (BitVec.ofNat 32 (a.toNat / b.toNat), 0)
def remN (a b : Word) : Word × IntFlags :=
  if b = 0 then (a, flagDZI) else (BitVec.ofNat 32 (a.toNat % b.toNat), 0)

/-- Shifts by any natural amount (R170). -/
def shlW (a : Word) (n : Nat) : Word := if n ≥ 32 then 0 else a <<< n
def shrW (a : Word) (n : Nat) : Word := if n ≥ 32 then 0 else a >>> n
def sarW (a : Word) (n : Nat) : Word := a.sshiftRight (min n 31)
def rolW (a : Word) (n : Nat) : Word := a.rotateLeft (n % 32)

def popcountW (a : Word) : Nat := ((List.range 32).filter fun i => a.getLsbD i).length
def clzW (a : Word) : Nat := if a = 0 then 32 else 31 - Nat.log2 a.toNat
def brevW (a : Word) : Word := a.reverse

/-- Position and length of a bit field (R170). -/
def fieldPos (b : Word) : Nat := bits b.toNat 0 5
def fieldLen (b : Word) : Nat := min (bits b.toNat 8 6) (32 - fieldPos b)

def bfxnW (a b : Word) : Word := BitVec.ofNat 32 (bits a.toNat (fieldPos b) (fieldLen b))
def bfxiW (a b : Word) : Word :=
  if fieldLen b = 0 then 0 else BitVec.ofInt 32 (sextNat (fieldLen b) (a.toNat >>> fieldPos b))
def bfiW (a b d : Word) : Word :=
  let m : Word := BitVec.ofNat 32 ((2 ^ fieldLen b - 1) * 2 ^ fieldPos b)
  (d &&& ~~~m) ||| ((a <<< fieldPos b) &&& m)

/-- Result tag L of R169. -/
def tagL (t : Tag) : Tag := if t = .i32 ∨ t = .n32 ∨ t = .mask then t else .n32

def tI : Option (List Tag) := some [.i32]
def tN : Option (List Tag) := some [.n32]
def tIN : Option (List Tag) := some [.i32, .n32]
def tINM : Option (List Tag) := some [.i32, .n32, .mask]
def tA : Option (List Tag) := some [.addr]

/-! ### The shared forms -/

/-- A two-source word of R169. -/
def int2 (f : A3) (wf : Bool) (ta tb : Option (List Tag)) (tag : Tag → Tag) (op : Word → Word → Word × IntFlags)
    (s : State) : Out :=
  regWord (fun iss => f.form iss wf true false ta tb none)
    (fun iss c =>
      let a := f.srcA iss ta
      let r := op (c.rd a) (c.rd (f.srcB iss tb))
      { regs := [(f.dst iss, [(r.1, tag (c.tag a))])], ist := r.2 }) s

/-- A one-source word of R169. -/
def int1 (f : A3) (wf : Bool) (ta : Option (List Tag)) (tag : Tag → Tag) (op : Word → Word) (s : State) : Out :=
  regWord (fun iss => f.form iss wf false false ta none none)
    (fun iss c =>
      let a := f.srcA iss ta
      { regs := [(f.dst iss, [(op (c.rd a), tag (c.tag a))])] }) s

/-- A word that also reads its destination; the result's tag is taken from the destination's old one. -/
def int3 (f : A3) (wf : Bool) (ta tb td : Option (List Tag)) (tag : Tag → Tag) (op : Word → Word → Word → Word)
    (s : State) : Out :=
  regWord (fun iss => f.form iss wf true true ta tb td)
    (fun iss c =>
      let d := f.dst iss
      { regs := [(d, [(op (c.rd (f.srcA iss ta)) (c.rd (f.srcB iss tb)) (c.rd d), tag (c.tag d))])] }) s

/-- A word of R171: `ex` extends the immediate. -/
def intImm (f : AI) (wf : Bool) (ta : Option (List Tag)) (tag : Tag → Tag) (op : Word → Word) (s : State) : Out :=
  regWord (fun iss => f.form iss wf ta)
    (fun iss c =>
      let a := (iss.reg (iss.aF f.a)).src ta
      { regs := [((iss.reg (iss.dF f.d)).dst, [(op (c.rd a), tag (c.tag a))])] }) s

def AI_sext (f : AI) : Word := f.imm.signExtend 32

/-- A compare into a predicate (R173): `ord` orders the operands. -/
def cmpWord (f : P3) (wf : Bool) (ta tb : Option (List Tag)) (ord : Word → Word → Ordering) (s : State) : Out :=
  regWord (fun iss => f.form iss wf ta tb)
    (fun iss c =>
      let o := ord (c.rd (f.srcA iss ta)) (c.rd (f.srcB iss tb))
      { regs := [predRes (f.pdst iss) (condHolds f.cond.toNat (some o))] }) s

/-! ### Integer words -/

def execIadd (f : A3) (s : State) : Out := int2 f (Instr.iadd f).wf tIN tIN (fun _ => .i32) (fun a b => (a + b, 0)) s
def execIsub (f : A3) (s : State) : Out := int2 f (Instr.isub f).wf tIN tIN (fun _ => .i32) (fun a b => (a - b, 0)) s
def execIadds (f : A3) (s : State) : Out :=
  int2 f (Instr.iadds f).wf tI tI (fun _ => .i32) (fun a b => clipS (a.toInt + b.toInt)) s
def execNadds (f : A3) (s : State) : Out :=
  int2 f (Instr.nadds f).wf tN tN (fun _ => .n32) (fun a b => clipN ((a.toNat : Int) + b.toNat)) s
def execIsubs (f : A3) (s : State) : Out :=
  int2 f (Instr.isubs f).wf tI tI (fun _ => .i32) (fun a b => clipS (a.toInt - b.toInt)) s
def execNsubs (f : A3) (s : State) : Out :=
  int2 f (Instr.nsubs f).wf tN tN (fun _ => .n32) (fun a b => clipN ((a.toNat : Int) - b.toNat)) s
def execImul (f : A3) (s : State) : Out := int2 f (Instr.imul f).wf tIN tIN (fun _ => .i32) (fun a b => (a * b, 0)) s
def execImulh (f : A3) (s : State) : Out :=
  int2 f (Instr.imulh f).wf tI tI (fun _ => .i32) (fun a b => (BitVec.ofInt 32 (a.toInt * b.toInt / 2 ^ 32), 0)) s
def execNmulh (f : A3) (s : State) : Out :=
  int2 f (Instr.nmulh f).wf tN tN (fun _ => .n32) (fun a b => (BitVec.ofNat 32 (a.toNat * b.toNat / 2 ^ 32), 0)) s
def execImad (f : A3) (s : State) : Out :=
  int3 f (Instr.imad f).wf tIN tIN tIN (fun _ => .i32) (fun a b d => a * b + d) s
def execIdiv (f : A3) (s : State) : Out := int2 f (Instr.idiv f).wf tI tI (fun _ => .i32) divS s
def execNdiv (f : A3) (s : State) : Out := int2 f (Instr.ndiv f).wf tN tN (fun _ => .n32) divN s
def execIrem (f : A3) (s : State) : Out := int2 f (Instr.irem f).wf tI tI (fun _ => .i32) remS s
def execNrem (f : A3) (s : State) : Out := int2 f (Instr.nrem f).wf tN tN (fun _ => .n32) remN s
def execImin (f : A3) (s : State) : Out :=
  int2 f (Instr.imin f).wf tI tI (fun _ => .i32) (fun a b => (if a.slt b then a else b, 0)) s
def execImax (f : A3) (s : State) : Out :=
  int2 f (Instr.imax f).wf tI tI (fun _ => .i32) (fun a b => (if a.slt b then b else a, 0)) s
def execNmin (f : A3) (s : State) : Out :=
  int2 f (Instr.nmin f).wf tN tN (fun _ => .n32) (fun a b => (if a.ult b then a else b, 0)) s
def execNmax (f : A3) (s : State) : Out :=
  int2 f (Instr.nmax f).wf tN tN (fun _ => .n32) (fun a b => (if a.ult b then b else a, 0)) s
def execIabs (f : A3) (s : State) : Out :=
  int1 f (Instr.iabs f).wf tI (fun _ => .i32) (fun a => if a.msb then 0 - a else a) s
def execIneg (f : A3) (s : State) : Out := int1 f (Instr.ineg f).wf tIN (fun _ => .i32) (fun a => 0 - a) s
def execAnd (f : A3) (s : State) : Out := int2 f (Instr.and f).wf tINM tINM tagL (fun a b => (a &&& b, 0)) s
def execOr (f : A3) (s : State) : Out := int2 f (Instr.or f).wf tINM tINM tagL (fun a b => (a ||| b, 0)) s
def execXor (f : A3) (s : State) : Out := int2 f (Instr.xor f).wf tINM tINM tagL (fun a b => (a ^^^ b, 0)) s
def execAndn (f : A3) (s : State) : Out := int2 f (Instr.andn f).wf tINM tINM tagL (fun a b => (a &&& ~~~b, 0)) s
def execNot (f : A3) (s : State) : Out := int1 f (Instr.not f).wf tINM tagL (fun a => ~~~a) s
def execShl (f : A3) (s : State) : Out := int2 f (Instr.shl f).wf tINM tIN tagL (fun a b => (shlW a b.toNat, 0)) s
def execShr (f : A3) (s : State) : Out := int2 f (Instr.shr f).wf tINM tIN tagL (fun a b => (shrW a b.toNat, 0)) s
def execSar (f : A3) (s : State) : Out := int2 f (Instr.sar f).wf tINM tIN tagL (fun a b =>
  (if b.toNat ≥ 32 then (if a.msb then 0xFFFFFFFF else 0) else sarW a b.toNat, 0)) s
def execRol (f : A3) (s : State) : Out := int2 f (Instr.rol f).wf tINM tIN tagL (fun a b => (rolW a b.toNat, 0)) s
def execPopc (f : A3) (s : State) : Out :=
  int1 f (Instr.popc f).wf tINM (fun _ => .n32) (fun a => BitVec.ofNat 32 (popcountW a)) s
def execClz (f : A3) (s : State) : Out :=
  int1 f (Instr.clz f).wf tINM (fun _ => .n32) (fun a => BitVec.ofNat 32 (clzW a)) s
def execBrev (f : A3) (s : State) : Out := int1 f (Instr.brev f).wf tINM tagL brevW s
def execBfxi (f : A3) (s : State) : Out :=
  int2 f (Instr.bfxi f).wf tINM tIN (fun _ => .i32) (fun a b => (bfxiW a b, 0)) s
def execBfxn (f : A3) (s : State) : Out :=
  int2 f (Instr.bfxn f).wf tINM tIN (fun _ => .n32) (fun a b => (bfxnW a b, 0)) s
def execBfi (f : A3) (s : State) : Out := int3 f (Instr.bfi f).wf tINM tIN tINM tagL bfiW s

def execIaddi (f : AI) (s : State) : Out := intImm f (Instr.iaddi f).wf tIN (fun _ => .i32) (fun a => a + AI_sext f) s
def execImuli (f : AI) (s : State) : Out := intImm f (Instr.imuli f).wf tIN (fun _ => .i32) (fun a => a * AI_sext f) s
def execAndi (f : AI) (s : State) : Out := intImm f (Instr.andi f).wf tINM tagL (fun a => a &&& AI_sext f) s
def execOri (f : AI) (s : State) : Out := intImm f (Instr.ori f).wf tINM tagL (fun a => a ||| AI_sext f) s
def execXori (f : AI) (s : State) : Out := intImm f (Instr.xori f).wf tINM tagL (fun a => a ^^^ AI_sext f) s
def execShli (f : AI) (s : State) : Out := intImm f (Instr.shli f).wf tINM tagL (fun a => shlW a f.imm.toNat) s
def execShri (f : AI) (s : State) : Out := intImm f (Instr.shri f).wf tINM tagL (fun a => shrW a f.imm.toNat) s
def execSari (f : AI) (s : State) : Out := intImm f (Instr.sari f).wf tINM tagL (fun a => sarW a f.imm.toNat) s

def execMovi (f : AW) (s : State) : Out :=
  regWord (fun iss => { grp := .alu, wf := (Instr.movi f).wf, past := iss.past (iss.dF f.d) 0 0
                        os := [(iss.reg (iss.dF f.d)).dst] })
    (fun iss _ => { regs := [((iss.reg (iss.dF f.d)).dst, [(f.imm.signExtend 32, .i32)])] }) s
def execMovh (f : AW) (s : State) : Out :=
  regWord (fun iss => { grp := .alu, wf := (Instr.movh f).wf, past := iss.past (iss.dF f.d) 0 0
                        os := [{ (iss.reg (iss.dF f.d)).dst with rd := true }] })
    (fun iss c =>
      let d := (iss.reg (iss.dF f.d)).dst
      { regs := [(d, [(f.imm.extractLsb' 0 16 ++ (c.rd d).extractLsb' 0 16, c.tag d)])] }) s

def orderS (a b : Word) : Ordering := compare a.toInt b.toInt
def orderN (a b : Word) : Ordering := compare a.toNat b.toNat

def execIcmp (f : P3) (s : State) : Out := cmpWord f (Instr.icmp f).wf tI tI orderS s
def execNcmp (f : P3) (s : State) : Out :=
  cmpWord f (Instr.ncmp f).wf (some [.n32, .mask]) (some [.n32, .mask]) orderN s
def execIcmpi (f : PI) (s : State) : Out :=
  regWord (fun iss => { grp := .alu, wf := (Instr.icmpi f).wf, past := pdOver iss f.pd || iss.past 0 (iss.aF f.a) 0
                        os := [(iss.reg (iss.aF f.a)).src tI, (iss.prd (iss.pdF f.pd)).dst] })
    (fun iss c =>
      let o := orderS (c.rd ((iss.reg (iss.aF f.a)).src tI)) (f.imm.signExtend 32)
      { regs := [predRes ((iss.prd (iss.pdF f.pd)).dst) (condHolds f.cond.toNat (some o))] }) s

/-! ### Address words (R174) -/

/-- The two halves of a 64-bit result, both ADDR. -/
def addrHalves (x : Nat) : List (Word × Tag) :=
  [(BitVec.ofNat 32 x, .addr), (BitVec.ofNat 32 (x / 2 ^ 32), .addr)]

/-- A word with a pair as destination; `pa` and `pb` say that the sources are pairs. -/
def addr2 (f : A3) (wf : Bool) (op : Nat → Nat → Nat) (s : State) : Out :=
  regWord (fun iss => { grp := .alu, wf := wf, past := f.past iss
                        os := [(f.srcA iss tA).grp 2 2, (f.srcB iss tA).grp 2 2, (f.dst iss).grp 2 2] })
    (fun iss c => { regs := [((f.dst iss).grp 2 2, addrHalves (op (c.pair (f.srcA iss tA)) (c.pair (f.srcB iss tA))))] }) s

def addrImm (f : AI) (wf : Bool) (op : Nat → Nat) (s : State) : Out :=
  regWord (fun iss => { grp := .alu, wf := wf, past := iss.past (iss.dF f.d) (iss.aF f.a) 0
                        os := [((iss.reg (iss.aF f.a)).src tA).grp 2 2, ((iss.reg (iss.dF f.d)).dst).grp 2 2] })
    (fun iss c => { regs := [(((iss.reg (iss.dF f.d)).dst).grp 2 2,
                      addrHalves (op (c.pair ((iss.reg (iss.aF f.a)).src tA))))] }) s

def addrExt (f : A3) (wf : Bool) (ta : Option (List Tag)) (op : Word → Nat) (s : State) : Out :=
  regWord (fun iss => { grp := .alu, wf := wf, past := f.past iss, os := [f.srcA iss ta, (f.dst iss).grp 2 2] })
    (fun iss c => { regs := [((f.dst iss).grp 2 2, addrHalves (op (c.rd (f.srcA iss ta))))] }) s

def execAadd (f : A3) (s : State) : Out := addr2 f (Instr.aadd f).wf (fun a b => a + b) s
def execAaddi (f : AI) (s : State) : Out :=
  addrImm f (Instr.aaddi f).wf (fun a => a + (f.imm.signExtend 64).toNat) s
def execAshl (f : AI) (s : State) : Out := addrImm f (Instr.ashl f).wf (fun a => a * 2 ^ f.imm.toNat) s
def execAsub (f : A3) (s : State) : Out := addr2 f (Instr.asub f).wf (fun a b => a + (2 ^ 64 - b)) s
def execAcmp (f : P3) (s : State) : Out :=
  regWord (fun iss => { grp := .alu, wf := (Instr.acmp f).wf, past := f.past iss
                        os := [(f.srcA iss tA).grp 2 2, (f.srcB iss tA).grp 2 2, f.pdst iss] })
    (fun iss c => { regs := [predRes (f.pdst iss) (condHolds f.cond.toNat
      (some (compare (c.pair (f.srcA iss tA)) (c.pair (f.srcB iss tA)))))] }) s
def execAmov (f : A3) (s : State) : Out :=
  regWord (fun iss => { grp := .alu, wf := (Instr.amov f).wf, past := f.past iss
                        os := [(f.srcA iss none).grp 2 2, (f.dst iss).grp 2 2] })
    (fun iss c =>
      let a := f.srcA iss none
      { regs := [((f.dst iss).grp 2 2, [(c.rd a, c.tag a), (c.rd a 1, c.tag a 1)])] }) s
def execAexti (f : A3) (s : State) : Out := addrExt f (Instr.aexti f).wf tI (fun a => (a.signExtend 64).toNat) s
def execAextn (f : A3) (s : State) : Out := addrExt f (Instr.aextn f).wf tN (fun a => a.toNat) s

end Sys2Proof.Machine
end

