-- ==== Sys2Proof/Machine/CrossLane.lean ====
section
/-! DEFINITION. Partition tiles and the cross-lane words 0x80 to 0x8B (05_issued R122 to R125, 07_isa_alu R188 to
R192). In a protected launch tiles are formed over the visible threads, and each shadow acts on the shadows (R122). -/

namespace Sys2Proof.Machine

/-- Tile width of a warp (R93, R122). -/
def Warp.tileWidth (w : Warp) : Nat := 32 >>> w.part

/-- A thread's index in the warp as tiles count it. -/
def laneIndex (prot : Bool) (l : Nat) : Nat := if prot then l / 2 else l
/-- The lane of an index, in the same copy as lane `l`. -/
def laneAt (prot : Bool) (l i : Nat) : Nat := if prot then 2 * i + l % 2 else i

/-- First index of the tile of a lane. -/
def tileBase (prot : Bool) (w l : Nat) : Nat := laneIndex prot l / w * w

/-- The lanes of the tile of a lane, ascending; those beyond the warp do not exist. -/
def tileLanes (prot : Bool) (w l : Nat) : List Nat :=
  (((List.range w).map fun k => laneAt prot l (tileBase prot w l + k))).filter (· < 32)

/-- A tile that executes a word: the lanes taking part, in ascending order. -/
structure XTile where
  prot : Bool
  w : Nat
  base : Nat
  live : List Nat
  deriving DecidableEq, Repr

/-- The threads of a lane's tile that the word waits for: live, and not past it in this execution (R188). When all of them are
past it, the next execution waits for every live one. -/
def Issue.awaited (iss : Issue) (t : Team) (prot : Bool) (m : Nat × Nat) : List Nat :=
  let pos : Pos := { hdr := iss.hdr, word := iss.word, rep := iss.rep }
  let live := (tileLanes prot (t.warp m.1).tileWidth m.2).filter fun l => !(t.thread m.1 l).exited
  match live.filter fun l => !(t.thread m.1 l).skipped.contains pos with
  | [] => live
  | ls => ls

/-- Run a cross-lane word (R123, R125, R188): threads whose tile is incomplete park at the word, and so does one that has gone
past it in this execution and stands there again. -/
def Form.performTiles (fm : Form) (iss : Issue) (value : Ctx → Option Nat) (run : XTile → Ctx → Eff)
    (s : State) : State :=
  match s.team? iss.team with
  | none => s
  | some t =>
    match fm.precheck iss t with
    | some c => iss.deliverTraps (((iss.actors t).flatMap (iss.lanes t)).map fun m => (m, c, 0)) s
    | none =>
      let prot := s.isProtected t
      let ms := iss.actors t
      let ctx (m : Nat × Nat) : Ctx := ⟨t, m.1, m.2, iss⟩
      let chk (m : Nat × Nat) : Option Stop := (ctx m).checks fm.os (value (ctx m)) fm.pure
      let held := ms.filter fun m => chk m == some .hold
      if iss.together && !held.isEmpty then held.foldl (fun s m => s.holdLane iss.team false .regs m) s
      else
        let ready := ms.filter fun m => chk m == none
        let complete (m : Nat × Nat) : Bool :=
          hdrCollective iss.header
            || ((iss.awaited t prot m).contains m.2 && (iss.awaited t prot m).all fun l => ready.contains (m.1, l))
        let s := held.foldl (fun s m => s.holdLane iss.team true .regs m) s
        let pos : Pos := { hdr := iss.hdr, word := iss.word, rep := iss.rep }
        let (s, rs) := ms.foldl (fun (s, rs) m =>
          match chk m with
          | some .hold => (s, rs)
          | some (.trap c) => (s, rs ++ [(m, LaneRes.trap c, (0 : Word))])
          | none =>
            if complete m then
              let w := (t.warp m.1).tileWidth
              let lanes := (tileLanes prot w m.2).filter fun l => ready.contains (m.1, l)
                && (hdrCollective iss.header || (iss.awaited t prot m).contains l)
              let s := (tileLanes prot w m.2).foldl (fun s l => s.updThread iss.team m.1 l fun th =>
                { th with skipped := th.skipped.filter (· != pos) }) s
              let (s, r) := effAct iss (run ⟨prot, w, tileBase prot w m.2, lanes⟩) s (ctx m)
              (s, rs ++ [(m, r, 0)])
            else (s, rs ++ [(m, .stay .crossLane, 0)])) (s, [])
        iss.finish fm.len rs s

def crossWord (fm : Issue → Form) (value : Issue → Ctx → Option Nat) (run : Issue → XTile → Ctx → Eff)
    (s : State) : Out :=
  withIssue s fun iss => (fm iss).performTiles iss (value iss) (run iss)

/-- What another lane of the tile reads in an operand. -/
def Ctx.at (c : Ctx) (l : Nat) : Ctx := { c with l := l }

/-- The mask bit of a lane. -/
def XTile.bit (x : XTile) (l : Nat) : Word := BitVec.ofNat 32 (2 ^ laneIndex x.prot l)
def XTile.maskOf (x : XTile) (p : Nat → Bool) : Word := (x.live.filter p).foldl (fun m l => m ||| x.bit l) 0

/-! ### Votes (R189) -/

def execVote (f : P3) (s : State) : Out :=
  crossWord (fun iss => { grp := .cross, wf := (Instr.vote f).wf
                          past := pdOver iss f.pd || predOver iss f.a || iss.past 0 0 (iss.bF f.b)
                          os := [iss.predA f.a f.ea, f.pdst iss] })
    (fun _ _ => none)
    (fun iss x c =>
      let vs := x.live.map fun l => (c.at l).isTrue (iss.predA f.a f.ea)
      let r := match f.cond.toNat with
        | 0 => vs.all id
        | 1 => vs.any id
        | _ => vs.all id || !vs.any id
      { regs := [predRes (f.pdst iss) r] }) s

def execBallot (f : A3) (s : State) : Out :=
  crossWord (fun iss => { grp := .cross, wf := (Instr.ballot f).wf
                          past := iss.past (iss.dF f.d) 0 (iss.bF f.b) || predOver iss f.a
                          os := [iss.predA f.a f.ea, f.dst iss] })
    (fun _ _ => none)
    (fun iss x c => { regs := [(f.dst iss,
      [(x.maskOf fun l => (c.at l).isTrue (iss.predA f.a f.ea), .mask)])] }) s

def execMatch (f : A3) (s : State) : Out :=
  crossWord (fun iss => { f.form iss (Instr.matchLanes f).wf false false none none none with grp := .cross })
    (fun _ _ => none)
    (fun iss x c =>
      let a := f.srcA iss none
      { regs := [(f.dst iss, [(x.maskOf fun l => (c.at l).rd a == c.rd a, .mask)])] }) s

/-! ### Shuffles (R190) -/

/-- The value a lane of the given index gives, 0 tagged RAW when no live thread stands there. -/
def shuffled (x : XTile) (c : Ctx) (a : Opnd) (i : Nat) : Word × Tag :=
  let l := laneAt x.prot c.l i
  if x.live.contains l then ((c.at l).rd a, (c.at l).tag a) else (0, .raw)

/-- A shuffle with an immediate: `pick` gives the source index from the own index, base and width. -/
def shuffleImm (f : AI) (wf : Bool) (pick : Nat → Nat → Nat → Nat) (s : State) : Out :=
  crossWord (fun iss => { f.form iss wf none with grp := .cross })
    (fun _ _ => none)
    (fun iss x c => { regs := [((iss.reg (iss.dF f.d)).dst,
      [shuffled x c (iss.reg (iss.aF f.a)) (pick (laneIndex x.prot c.l) x.base x.w)])] }) s

def execShfl (f : A3) (s : State) : Out :=
  crossWord (fun iss => { f.form iss (Instr.shfl f).wf true false none tIN none with grp := .cross })
    (fun _ _ => none)
    (fun iss x c => { regs := [(f.dst iss,
      [shuffled x c (f.srcA iss none) (x.base + (c.rd (f.srcB iss tIN)).toNat % x.w)])] }) s
def execShflu (f : AI) (s : State) : Out :=
  shuffleImm f (Instr.shflu f).wf (fun i b _ => if b + f.imm.toNat ≤ i then i - f.imm.toNat else i) s
def execShfld (f : AI) (s : State) : Out :=
  shuffleImm f (Instr.shfld f).wf (fun i b w => if i + f.imm.toNat < b + w then i + f.imm.toNat else i) s
def execShflx (f : AI) (s : State) : Out :=
  shuffleImm f (Instr.shflx f).wf (fun i b w =>
    let j := i ^^^ f.imm.toNat
    if b ≤ j ∧ j < b + w then j else i) s
def execBcast (f : AI) (s : State) : Out :=
  crossWord (fun iss => { f.form iss (Instr.bcast f).wf none with grp := .cross })
    (fun _ c => if f.imm.toNat ≥ c.wp.tileWidth then some 0x04 else none)
    (fun iss x c => { regs := [((iss.reg (iss.dF f.d)).dst,
      [shuffled x c (iss.reg (iss.aF f.a)) (x.base + f.imm.toNat)])] }) s

/-! ### Reductions and scans (R191, R164, R165) -/

/-- One step of a reduction with its flags: `ty` 0 I32, 1 N32, 2 F32. -/
def redStep (ty op rm : Nat) (a b : Word) : Word × FpFlags :=
  match op with
  | 0 => if ty = 2 then let r := fpAdd fmtF32 rm a.toNat b.toNat; (wordOf r, r.fl) else (a + b, 0)
  | 1 => if ty = 2 then let r := fpMinMax fmtF32 false a.toNat b.toNat; (wordOf r, r.fl)
         else if ty = 0 then (if b.slt a then b else a, 0) else (if b.ult a then b else a, 0)
  | 2 => if ty = 2 then let r := fpMinMax fmtF32 true a.toNat b.toNat; (wordOf r, r.fl)
         else if ty = 0 then (if a.slt b then b else a, 0) else (if a.ult b then b else a, 0)
  | 3 => (a &&& b, 0)
  | 4 => (a ||| b, 0)
  | _ => (a ^^^ b, 0)

def redIdentity (ty op : Nat) : Word :=
  match op with
  | 0 => if ty = 2 then 0x80000000 else 0
  | 1 => if ty = 2 then 0x7F800000 else if ty = 0 then 0x7FFFFFFF else 0xFFFFFFFF
  | 2 => if ty = 2 then 0xFF800000 else if ty = 0 then 0x80000000 else 0
  | 3 => 0xFFFFFFFF
  | _ => 0

/-- Combine neighbours once. -/
def pairUp {α : Type} (f : α → α → α) : List α → List α
  | a :: b :: t => f a b :: pairUp f t
  | l => l

/-- The tree of R163 over 2^n values: the lower lane is the left operand. -/
def treeOf {α : Type} (f : α → α → α) : Nat → List α → List α
  | 0, l => l
  | n + 1, l => treeOf f n (pairUp f l)

/-- The values at a tile's places, the identity where no live thread stands. -/
def XTile.values {α : Type} (x : XTile) (l0 : Nat) (dflt : α) (val : Nat → α) : List α :=
  (List.range x.w).map fun k =>
    let l := laneAt x.prot l0 (x.base + k)
    if x.live.contains l then val l else dflt

def redTree (ty op rm : Nat) (vs : List Word) : Word × FpFlags :=
  ((treeOf (fun (a b : Word × FpFlags) =>
    let r := redStep ty op rm a.1 b.1
    (r.1, a.2 ||| b.2 ||| r.2)) 5 (vs.map fun v => (v, 0))).head?).getD (0, 0)

/-- The first value of a scan is its own result; an F32 NaN is delivered as every result is (R141). -/
def scanFirst (ty : Nat) (v : Word) : Word × FpFlags :=
  if ty = 2 ∧ (unpack fmtF32 v.toNat).isNan then
    let r := nanRes fmtF32 (unpack fmtF32 v.toNat).isSnan; (wordOf r, r.fl)
  else (v, 0)

/-- Inclusive scan over the places of a tile, `none` where no live thread stands: the value accumulated up to each place
as if those places were absent (R164, R165), and the flags of all steps, the last one's too where an exclusive scan uses
no result of it (DESIGN CHOICE, log 23). -/
def scanAll (ty op rm : Nat) : Option Word → List (Option Word) → List (Option Word) × FpFlags
  | _, [] => ([], 0)
  | acc, none :: vs => let r := scanAll ty op rm acc vs; (acc :: r.1, r.2)
  | acc, some v :: vs =>
    let x := match acc with
      | none => scanFirst ty v
      | some a => redStep ty op rm a v
    let r := scanAll ty op rm (some x.1) vs
    (some x.1 :: r.1, x.2 ||| r.2)

def redType (imm : Nat) : Nat := bits imm 3 2
def redOp (imm : Nat) : Nat := bits imm 0 3

/-- The tags RED and SCAN accept, and the result's tag. -/
def redTags (imm : Nat) : Option (List Tag) :=
  let t : Tag := if redType imm = 0 then .i32 else if redType imm = 1 then .n32 else .f32
  some (if 3 ≤ redOp imm then [t, .mask] else [t])
def redTag (imm : Nat) (src : Tag) : Tag :=
  if 3 ≤ redOp imm ∧ src = .mask then .mask
  else if redType imm = 0 then .i32 else if redType imm = 1 then .n32 else .f32

/-- RM of the tile's lowest live lane. -/
def XTile.rm (x : XTile) (c : Ctx) : Nat := ((c.at (x.live.headD c.l)).th).rm

def execRed (f : AI) (s : State) : Out :=
  let imm := f.imm.toNat
  crossWord (fun iss => { f.form iss (Instr.red f).wf (redTags imm) with grp := .cross })
    (fun _ _ => none)
    (fun iss x c =>
      let a := iss.reg (iss.aF f.a)
      let r := redTree (redType imm) (redOp imm) (x.rm c)
        (x.values c.l (redIdentity (redType imm) (redOp imm)) fun l => (c.at l).rd a)
      { regs := [((iss.reg (iss.dF f.d)).dst, [(r.1, redTag imm (c.tag a))])], fl := r.2 }) s

def execScan (f : AI) (s : State) : Out :=
  let imm := f.imm.toNat
  crossWord (fun iss => { f.form iss (Instr.scan f).wf (redTags imm) with grp := .cross })
    (fun _ _ => none)
    (fun iss x c =>
      let a := iss.reg (iss.aF f.a)
      let ident := redIdentity (redType imm) (redOp imm)
      let r := scanAll (redType imm) (redOp imm) (x.rm c) none (x.values c.l none fun l => some ((c.at l).rd a))
      let k := laneIndex x.prot c.l - x.base
      let v := ((if bitAt imm 5 then (none :: r.1).getD k none else r.1.getD k none)).getD ident
      { regs := [((iss.reg (iss.dF f.d)).dst, [(v, redTag imm (c.tag a))])], fl := r.2 }) s

/-- WRED (R163, R192). -/
def execWred (f : A3) (s : State) : Out :=
  crossWord (fun iss => { grp := .cross, wf := (Instr.wred f).wf, past := f.past iss
                          os := [(f.srcA iss (some [.wel])).grp 3 1, (f.dst iss).grp 3 1] })
    (fun _ _ => none)
    (fun iss x c =>
      let a := f.srcA iss none
      let vs := x.values c.l ({ t := {} } : TripleRes) fun l =>
        { t := ⟨(c.at l).rd a, ((c.at l).rd a 1).toNat, ((c.at l).rd a 2).toNat⟩ }
      let r := ((treeOf (fun (p q : TripleRes) =>
        let m := welfordMerge p.t q.t
        { m with fl := p.fl ||| q.fl ||| m.fl, ist := p.ist ||| q.ist ||| m.ist }) 5 vs).head?).getD { t := {} }
      { regs := [((f.dst iss).grp 3 1,
          [(r.t.n, .wel), (BitVec.ofNat 32 r.t.mean, .wel), (BitVec.ofNat 32 r.t.m2, .wel)])]
        fl := r.fl, ist := r.ist }) s

end Sys2Proof.Machine
end

