-- ==== Sys2Proof/Machine/Fetch.lean ====
section
/-! DEFINITION. From a bundle to the word it issues (04_encoding R95 to R103, 05_issued R116, R118, R123): instruction fetch
with its translation, the checks and waits of a clause header, and the decoding of the word. -/

namespace Sys2Proof.Machine

/-! ### Fetching a word (R103) -/

/-- What a fetch gives. -/
inductive Fetched where
  | word (w : Word)
  | absent (base size watch : Nat)
  | prot
  | bad
  deriving DecidableEq, Repr

/-- The bounds of R103 around a program header. -/
def fetchable (prog va : Nat) : Bool := canonical va && prog + 0x80 ≤ va && va ≤ prog + 2 ^ 32

/-- Fetch the 32-bit word at an address for a team. Of the versions that R19 allows a fetch after a store to the image, the
model takes what memory and the core's own stores in flight hold now, always (log 71). -/
def State.fetch (s : State) (cl co : Nat) (t : Team) (va : Nat) : State × Fetched :=
  if !fetchable t.prog.hdr va then (s, .prot) else
  match s.translate cl co t.ctx t.priv .exec va with
  | (s, .ok x) =>
    if s.pathBad cl co x 4 then (s, .bad) else (s, .word (BitVec.ofNat 32 (leNat (s.readPath cl co x 4))))
  | (s, .absent b n w) => (s, .absent b n w)
  | (s, .prot) => (s, .prot)
  | (s, .bad) => (s, .bad)

/-- The clause of the bundle keeps it together (R100). -/
def Bundle.together (b : Bundle) : Bool := b.header.any fun h => hdrNr h || hdrCollective h

/-- How far a position is in its clause. -/
def Pos.step (p : Pos) : Nat := 128 * p.word + (p.rep.map (· + 1)).getD 0

/-- The live members of a bundle. -/
def Bundle.live (b : Bundle) (t : Team) : List (Nat × Nat) := b.members.filter fun m => !(t.thread m.1 m.2).exited

/-- A wait at a compared access, which the partner's word ends (R399). -/
def Wait.paired : Wait → Bool
  | .pair .. | .partner => true
  | _ => false

/-- The threads of a bundle that can issue: those that do not wait. A bundle that is kept together is held by a member that
waits for an event, and goes on with the members that are least advanced (R100, R118). Threads that wait for rows of a stream
stay in any bundle (R315). One that waits for its partner at a
compared access holds back what stands past it, and lets its partner come (R399). -/
def Bundle.able (b : Bundle) (t : Team) : List (Nat × Nat) :=
  let ms := b.live t
  let th (m : Nat × Nat) : Thread := t.thread m.1 m.2
  if b.together then
    if ms.all fun m => (th m).wait == .none || (th m).wait.polled || (th m).wait.paired then
      ms.filter fun m => !(th m).wait.paired && ms.all fun x => (th m).pos.step ≤ (th x).pos.step
    else []
  else ms.filter fun m => (th m).wait == .none || (th m).wait == .stream

/-- A report at a position without a decoded word: the header's (R96), or of a fetch (R103). `raw` is the word's first
half when it has been fetched; the mask holds the lanes of the whole issue (R377). -/
def fetchInfo (pos : Pos) (word cause : Nat) (raw : Word) (ms : List (Nat × Nat)) : TrapInfo :=
  { cause := cause, word := word, rep := pos.rep, hdr := pos.hdr, raw := raw, mask := laneMask (ms.map (·.2)) }

/-- The issue at a position, of which no word is known, as the pairs of a protected launch see it (R399). -/
def fetchIssue (tm : Nat) (pos : Pos) (ms : List (Nat × Nat)) : Issue :=
  { team := tm, members := ms, hdr := pos.hdr, header := 0xC0200000, word := pos.word, rep := pos.rep }

/-- Every thread of the list takes a trap of the fetch or the header; in a protected launch both members of a pair must (R399). -/
def State.fetchTrap (s : State) (tm : Nat) (pos : Pos) (word cause : Nat) (raw : Word) (ms : List (Nat × Nat)) : State :=
  ms.foldl (fun s m =>
    if (s.thread tm m.1 m.2).exited then s
    else ((fetchIssue tm pos ms).pairTrap (ms.map fun x => (x, cause, (0 : Word))) m cause s).takeTrap tm m.1 m.2
      (fetchInfo pos word cause raw ms)) s

/-- The bundle of a thread on a team's core keeps its threads together, as the header it has fetched says (R100). -/
def State.keepsBundle (s : State) (t : Team) (m : Nat × Nat) : Bool :=
  (t.at?).any fun p => (s.core p.1 p.2).bundles.any fun b => b.any fun b =>
    b.team == t.id && b.members.contains m && b.together

/-- Every thread of the list parks on the absent page of a fetch, or traps when the table is full (R103, R215). In a clause that
keeps its bundle they hold it (R118). -/
def State.fetchPark (s : State) (t : Team) (pos : Pos) (word va base size watch : Nat) (raw : Word)
    (ms : List (Nat × Nat)) : State :=
  match s.joinFault t.ctx va base size watch 2 (ms.map fun m => .thread t.id m.1 m.2) with
  | (s, true) => ms.foldl (fun s m => s.holdLane t.id (!s.keepsBundle t m) .page m) s
  | (s, false) => s.fetchTrap t.id pos word 0x0B raw ms

/-- Deal with a fetch that gave no word. -/
def State.fetchFailed (s : State) (t : Team) (pos : Pos) (word va : Nat) (raw : Word) (ms : List (Nat × Nat)) :
    Fetched → State
  | .word _ => s
  | .absent b n w => s.fetchPark t pos word va b n w raw ms
  | .prot => s.fetchTrap t.id pos word 0x0C raw ms
  | .bad => s.machineCheck t.launch 0x18

/-- Fetch the words `k`, `k + 1`, … of a clause, `n` of them; the first that cannot be fetched is the answer, with its
address. A clause is fetched whole at its header, so that a fault of any of its words is met there (R103; log 14). -/
def State.fetchClause (s : State) (cl co : Nat) (t : Team) (hdr : Nat) : Nat → Nat → State × Option (Nat × Fetched)
  | _, 0 => (s, none)
  | k, n + 1 =>
    let va := (hdr + 4 * k) % 2 ^ 64
    match s.fetch cl co t va with
    | (s, .word _) => s.fetchClause cl co t hdr (k + 1) n
    | (s, f) => (s, some (va, f))

/-! ### The header's checks and waits (R96, R97) -/

/-- The cause a header raises, if any (R96). -/
def hdrCause (h : Word) : Option Nat :=
  if hdrMark h ≠ 12 ∨ hdrN h = 0 then some 0x02
  else if bits h.toNat 0 12 ≠ 0 then some 0x03
  else none

/-- Registers and predicates of a thread, or in class 0 of its warp, are all full (R97, WLD). -/
def allFull (wp : Warp) (th : Thread) (scalar : Bool) : Bool :=
  if scalar then wp.s.all (·.full) && wp.sp.all (·.full) else th.v.all (·.full) && th.p.all (·.full)

/-- A matrix operation that the thread took part in is queued still, or its write-back has not landed (R97, R301). -/
def State.matPending (s : State) (tm w l : Nat) : Bool :=
  (s.clusters.any fun c => c.cores.any fun k => k.matq.any fun q => q.any fun o =>
      o.team == tm && o.members.any fun m => m.1 == w && laneMatch m.2 l)
    || s.loads.any fun o => o.mat && o.ofThread tm w l

/-- Sealed batches of a thread are outstanding (R97, WCP). -/
def State.batchesOut (s : State) (tm w l : Nat) : Bool :=
  s.batches.any fun b => b.team == tm && b.warp == w && laneMatch b.lane l

/-- The first wait of a header that does not hold, as the wait it is (R97). -/
def State.hdrWait (s : State) (tm : Nat) (h : Word) (w l : Nat) : Option Wait :=
  let scalar := hdrClass h == 0
  let own := if scalar then 32 else l
  let wp := s.warp tm w
  if hdrWld h && !allFull wp (wp.thread l) scalar then some .regs
  else if hdrWst h && !s.storesPerformed tm w own then some .retry
  else if hdrWmx h && s.matPending tm w own then some .retry
  else if hdrWcp h && s.batchesOut tm w own then some .retry
  else if hdrWtm h && !s.horizonPassed tm w own 0 then
    some (.horizon ((s.lanesOf tm w own).foldl (fun m x => max m (s.thread tm w x).horizon) 0))
  else none

/-- A store-fault record that a thread takes at a header (R220, R378). -/
def Team.pendingRecord (t : Team) (m : Nat × Nat) : Bool :=
  !(t.thread m.1 m.2).handler && (t.owed ++ t.sfq).any fun r => !r.delivered && r.warp == m.1 && r.lane == m.2

/-! ### Collective points (R100, R119, R123) -/

/-- Every live thread of the warp stands at the position and may go on. -/
def Warp.gathered (wp : Warp) (pos : Pos) : Bool :=
  wp.live.all fun l => (wp.thread l).pos == pos && ((wp.thread l).wait == .none || (wp.thread l).wait == .collective)

/-- Every live thread that stands in a collective clause past its header, in one warp: they go on as one bundle (R119). -/
def Warp.inside (wp : Warp) (hdr : Nat) : List Nat :=
  wp.live.filter fun l => let p := (wp.thread l).pos; p.hdr == hdr && (p.word != 1 || p.rep.isSome)

/-- Set what a bundle slot holds. -/
def State.setBundle (s : State) (cl co slot : Nat) (b : Option Bundle) : State :=
  s.updCore cl co fun k => { k with bundles := setAt k.bundles slot b }

/-- The bundle of a collective point: the live threads of the first member's warp, which all stand there; otherwise the
threads park. -/
def State.gather (s : State) (cl co slot : Nat) (t : Team) (pos : Pos) (b : Bundle) (ms : List (Nat × Nat)) :
    State × List (Nat × Nat) :=
  match ms with
  | [] => (s, [])
  | (w, _) :: _ =>
    if (t.warp w).gathered pos then
      let all := (t.warp w).live.map fun l => (w, l)
      let s := all.foldl (fun s m => (s.unbundle t.id m.1 m.2).updThread t.id m.1 m.2 fun th =>
        if th.wait == .collective then th.unpark else th) s
      (s.setBundle cl co slot (some { b with members := all }), all)
    else
      (ms.foldl (fun s m => if m.1 = w then
          (s.unbundle t.id m.1 m.2).updThread t.id m.1 m.2 fun th => th.park s.time .collective else s) s, [])

/-- A collective clause goes on mid-clause as one bundle of the warp's live threads in it (R119), whatever bundles they
were taken into. -/
def State.regather (s : State) (cl co slot : Nat) (t : Team) (pos : Pos) (b : Bundle) (ms : List (Nat × Nat)) :
    State × List (Nat × Nat) :=
  match ms with
  | [] => (s, [])
  | (w, _) :: _ =>
    let all := ((t.warp w).inside pos.hdr).map fun l => (w, l)
    if all.all (b.members.contains ·) && b.members.all (all.contains ·) then (s, ms)
    else
      let s := (all ++ b.members).foldl (fun s m => s.unbundle t.id m.1 m.2) s
      let b := { b with members := all }
      (s.setBundle cl co slot (some b), (b.able t).filter fun m => (t.thread m.1 m.2).pos == pos)

/-! ### The word (R98, R99, R102, R107) -/

/-- The group of an assigned opcode (R98). -/
def groupOf (op : Nat) : Group :=
  if op = 0x68 ∨ op = 0x69 then .slot
  else if op < 0x80 then .alu
  else if op < 0x90 then .cross
  else if op < 0xA0 then .alu
  else if op ∈ [0xA6, 0xA7, 0xA8, 0xAE, 0xB0, 0xB1, 0xB2, 0xB3, 0xB4, 0xB6] then .mem
  else if op < 0xC0 then .mem0
  else if op < 0xD0 then .copy
  else if op < 0xE0 then .matrix
  else if op ≤ 0xE6 then .memo0
  else if op = 0xE7 then .memo
  else if op ≤ 0xEB then .ray
  else if op = 0xEC then .emit
  else if op ≤ 0xF4 ∨ op = 0xF8 then .transfer
  else if op = 0xF9 then .repeat_
  else if op = 0xF5 ∨ op = 0xF6 then .meet
  else if op = 0xFF then .tctl
  else .ctl

/-- Words that stand in collective clauses only (R255, R267, R270, R286, R313, R393). -/
def collWord (w : Nat) : Bool :=
  let op := bits w 24 8
  op ∈ [0xC0, 0xC1, 0xC2, 0xC3, 0xCC, 0xCE, 0xD0, 0xFF] || ((op = 0xC8 || op = 0xC9) && bitAt w 1)

/-- Fields of a format that REP may step: d (or pd), a, b; `none` when the word may not follow REP (R99, R107). -/
def repFields (op : Nat) : Option (Bool × Bool × Bool) :=
  if op = 0xFC then some (false, false, false)
  else if op = 0x2B ∨ op = 0x2C then some (true, false, false)
  else if (0x23 ≤ op ∧ op ≤ 0x2A) ∨ op ∈ [0x2F, 0x31, 0x32, 0x54, 0x65, 0x83, 0x84, 0x85, 0x86, 0x87, 0x8B]
    ∨ (0x60 ≤ op ∧ op ≤ 0x65) ∨ (0x68 ≤ op ∧ op ≤ 0x6B) then some (true, true, false)
  else if op ≤ 0x37 ∨ (0x40 ≤ op ∧ op ≤ 0x5F) ∨ op = 0x66 ∨ (0x70 ≤ op ∧ op ≤ 0x72) ∨ (0x80 ≤ op ∧ op ≤ 0x89)
    ∨ (0x90 ≤ op ∧ op ≤ 0x94) ∨ op = 0x96 then some (true, true, true)
  else none

/-- Registers held per warp. -/
def srPerWarp (id : Nat) : Bool := [0x01, 0x11, 0x13, 0x30, 0x31, 0x32].contains id

/-- The group of a word: the LEASE forms of class 0 and the writes of per-warp registers are of their own (R98, R136). -/
def wordGroup (w : Nat) : Group :=
  let op := bits w 24 8
  if (op = 0xFA ∧ bits w 22 2 ≠ 3) ∨ (op = 0xFE ∧ bitAt w 23 ∧ srPerWarp (bits w 8 8)) then .lease else groupOf op

/-- A word that a user warp may not issue: TCTL, and SPRW of a privileged register (R90, R108). -/
def wordPriv (w : Nat) : Bool := bits w 24 8 == 0xFF || (bits w 24 8 == 0xFE && 0x80 ≤ bits w 8 8)

/-- Words that the fetched word needs in its clause: REP asks for one that may follow it (R99). -/
def Issue.wordLen (iss : Issue) (op : Nat) : Nat :=
  if op = 0xF9 then
    if iss.has2 && (repFields (bits iss.raw2.toNat 24 8)).isSome then 1 else 16
  else if twoWord op then 2 else 1

/-- A word that is no instruction: a reserved field is nonzero, or the second word is missing (R99, R104). The causes that come
before 0x03 are those of the word as its other fields stand (R102). RTT looks at handler mode first (R382). -/
def Issue.badWord (iss : Issue) (op : Nat) (s : State) : State :=
  ({ grp := wordGroup iss.raw.toNat, wf := op == 0xFD, len := iss.wordLen op, coll := collWord iss.raw.toNat, priv := wordPriv iss.raw.toNat
     last := (groupOf op == .transfer) || op == 0xFD } : Form).perform iss (fun _ => none)
       (fun s c => (s, .trap (if c.th.handler then 0x03 else 0x02))) s

def stepOf (mask stride bit i : Nat) : Nat := if bitAt mask bit then i <<< stride else 0

/-- Keep the clause's length in the threads the word concerns. -/
def Issue.noteClause (iss : Issue) (t : Team) (s : State) : State :=
  (iss.members.flatMap (iss.lanes t)).foldl (fun s m =>
    s.updThread iss.team m.1 m.2 fun th => { th with clauseN := hdrN iss.header }) s

/-- Decode the fetched word of an issue. -/
def Issue.decode (iss : Issue) (s : State) : State × Option Instr :=
  match decodeWord iss.raw (if iss.has2 then some iss.raw2 else none) with
  | .ok i => ({ s with issue := some iss }, some i)
  | .error (.reservedField op) => (iss.badWord op.toNat s, none)
  | .error (.secondWordMissing op) => (iss.badWord op.toNat s, none)
  | .error .truncated => (s, none)

/-- The word after the one that issues is looked at by two-word instructions and by REP. -/
def wantsNext (raw : Word) : Bool := twoWord (bits raw.toNat 24 8) || bits raw.toNat 24 8 == 0xF9

/-- Fetch the word, the one after it where it is needed, and the REP word before it where one applies; then decode. -/
def Issue.fetchWord (iss : Issue) (t : Team) (pos : Pos) (ms : List (Nat × Nat)) (s : State) : State × Option Instr :=
  let at_ (k : Nat) : Nat := (pos.hdr + 4 * k) % 2 ^ 64
  match s.fetch iss.cl iss.co t (at_ pos.word) with
  | (s, .word raw) =>
    let iss := { iss with raw := raw }
    let goOn (iss : Issue) (s : State) : State × Option Instr :=
      match pos.rep with
      | none => iss.decode s
      | some i =>
        match s.fetch iss.cl iss.co t (at_ (pos.word - 1)) with
        | (s, .word r) =>
          let mask := bits r.toNat 15 3
          let stride := bits r.toNat 13 2
          ({ iss with cnt := some (bits r.toNat 18 6), stepD := stepOf mask stride 2 i
                      stepA := stepOf mask stride 1 i, stepB := stepOf mask stride 0 i } : Issue).decode s
        | (s, f) => (s.fetchFailed t pos pos.word (at_ (pos.word - 1)) raw ms f, none)
    if wantsNext raw && pos.word < hdrN iss.header then
      match s.fetch iss.cl iss.co t (at_ (pos.word + 1)) with
      | (s, .word r2) => goOn { iss with raw2 := r2, has2 := true } s
      | (s, f) => (s.fetchFailed t pos pos.word (at_ (pos.word + 1)) raw ms f, none)
    else goOn iss s
  | (s, f) => (s.fetchFailed t pos pos.word (at_ pos.word) 0 ms f, none)

/-- The threads whose header waits hold; the others leave the bundle, or hold it together (R97, R100). -/
def State.hdrWaits (s : State) (t : Team) (h : Word) (ms : List (Nat × Nat)) : State × List (Nat × Nat) :=
  let waits := ms.filterMap fun m => (s.hdrWait t.id h m.1 m.2).map fun w => (m, w)
  let keep := hdrCollective h || hdrNr h
  (waits.foldl (fun s x => s.holdLane t.id (!keep) x.2 x.1) s,
    if keep && !waits.isEmpty then [] else ms.filter fun m => !waits.any fun x => x.1 == m)

/-- What stops a clause of a class other than 0 at its header: an open region of a member's warp (R356), with the threads
it traps. -/
def Team.openWarps (t : Team) (ms : List (Nat × Nat)) : List (Nat × Nat) :=
  ((ms.map (·.1)).eraseDups.filter fun w => (t.warp w).ab.region == .opened).flatMap fun w =>
    (t.warp w).live.map fun l => (w, l)

/-- The threads that stand at the position with the header known: deliveries, the collective point, the region rule of
R356, the fetch of the clause, the waits; then the word. -/
def State.atWord (s : State) (cl co slot : Nat) (t : Team) (b : Bundle) (pos : Pos) (h : Word) (ms : List (Nat × Nat)) :
    State × Option Instr :=
  let first := pos.word = 1 ∧ pos.rep = none
  match hdrCause h with
  | some c => (s.fetchTrap t.id pos (if first then 0 else pos.word) c 0 ms, none)
  | none =>
    let due := if first then ms.filter t.pendingRecord else []
    if !due.isEmpty then
      ({ s with agenda := due.map (fun m => .event .storeFaultDelivery { team := t.id, warp := m.1, lane := m.2 })
          ++ s.agenda }, none)
    else
      let (s, ms) :=
        if hdrClass h = 0 ∨ (hdrCl h ∧ first) then s.gather cl co slot t pos b ms
        else if hdrCl h then s.regather cl co slot t pos b ms
        else (s, ms)
      let out := if first ∧ hdrClass h ≠ 0 then t.openWarps ms else []
      if ms.isEmpty then (s, none)
      else if !out.isEmpty then (s.fetchTrap t.id pos 0 0x0E 0 out, none)
      else
        match if first then s.fetchClause cl co t pos.hdr 1 (hdrN h) else (s, none) with
        | (s, some (va, f)) => (s.fetchFailed t pos 0 va 0 ms f, none)
        | (s, none) =>
          let (s, ms) := if first then s.hdrWaits t h ms else (s, ms)
          if ms.isEmpty then (s, none) else
          let iss : Issue := { team := t.id, members := ms, cl := cl, co := co, hdr := pos.hdr, header := h
                               word := pos.word, rep := pos.rep }
          iss.fetchWord t pos ms (iss.noteClause t s)

/-- A bundle instruction issues on the vector pipe of a quadrant: the pipe is not clock-gated (R412), and the cycles that the
clock counts next count for the governor when the bundle is a user's (R416). A word of a scalar clause uses no vector pipe
(R77). `lastIssue` is the cycle after the pipe's last issue, 0 for none. -/
def State.notePipe (s : State) (cl co q : Nat) (priv : Bool) : State :=
  if s.issue.all fun iss => iss.cls == 0 then s else
  let c := s.cluster cl
  (if priv then s else s.updCluster cl fun c => { c with issued := true }).updCore cl co fun k => { k with
    lastIssue := setAt k.lastIssue q (c.r.clk + 1), gated := setAt k.gated q false }

/-- Threads look again at what no event ends (R115); a word that was parked on a page restarts with its destination as it
was (R214). -/
def State.again (s : State) (tm : Nat) (ms : List (Nat × Nat)) : State :=
  ms.foldl (fun s m =>
    let s := match (s.thread tm m.1 m.2).restart with
      | none => s
      | some d => (s.updWarp tm m.1 (·.refill d)).updThread tm m.1 m.2 fun th => { th with restart := none }
    s.updThread tm m.1 m.2 fun th => if th.wait.polled then { th with wait := .none } else th) s

/-- The bundle `b` of a slot has its turn: the word it issues, if it comes to that. -/
def State.issueBundle (s : State) (cl co slot : Nat) (t : Team) (b : Bundle) : State × Option Instr :=
  match b.able t with
  | [] => (if b.together && !(b.live t).isEmpty then s else s.setBundle cl co slot none, none)
  | (w, l) :: rest =>
    let pos := (t.thread w l).pos
    let ms := ((w, l) :: rest).filter fun m => (t.thread m.1 m.2).pos == pos
    let b := { b with members := if b.together then b.live t else ms }
    let s := s.again t.id ms
    let t := (s.team? t.id).getD t
    match b.header with
    | some h => (s.setBundle cl co slot (some b)).atWord cl co slot t b pos h ms
    | none =>
      match s.fetch cl co t pos.hdr with
      | (s, .word h) =>
        let b := { b with header := some h }
        (s.setBundle cl co slot (some b)).atWord cl co slot t b pos h ms
      | (s, f) => (s.fetchFailed t pos (if pos.word = 1 ∧ pos.rep = none then 0 else pos.word) pos.hdr 0 ms f, none)

/-- A bundle slot's turn. -/
def State.issueSlot (s : State) (cl co slot : Nat) : State × Option Instr :=
  match ((s.core cl co).bundles.getD slot none) with
  | none => (s, none)
  | some b =>
    match s.team? b.team with
    | none => (s.setBundle cl co slot none, none)
    | some t =>
      match s.issueBundle cl co slot t b with
      | (s, some i) => (s.notePipe cl co (slot / 2) t.priv, some i)
      | (s, none) => (s, none)

end Sys2Proof.Machine
end

