-- ==== Sys2Proof/Machine/Control.lean ====
section
/-! DEFINITION. Control flow (05_issued R127 to R136), barriers of threads (10_synchronised R281, R282), traps and returns
from traps (14_interrupted R381 to R384). -/

namespace Sys2Proof.Machine

/-! ### Moving threads -/

/-- Move the threads that a word of the member `m` concerns to a header. -/
def Issue.transferTo (iss : Issue) (m : Nat × Nat) (hdr : Nat) (s : State) : State :=
  match s.team? iss.team with
  | none => s
  | some t => (iss.lanes t m).foldl (fun s x => s.arrive iss.team x.1 x.2 hdr) s

/-- Predicate of a transfer or TRAP (R128, R381). -/
def Issue.cond (iss : Issue) (p : BitVec 3) : Opnd := (iss.prd p.toNat).src none
def Ctx.taken (c : Ctx) (p : BitVec 3) (neg : BitVec 1) : Bool := c.isTrue (c.iss.cond p) != (neg == 1)

/-- Header address `off` words from this clause's (R129). -/
def Issue.target (iss : Issue) (n off : Nat) : Nat := (((iss.hdr : Int) + 4 * sextNat n off) % (2 ^ 64 : Int)).toNat

/-- Return address of a call (R130). -/
def Issue.after (iss : Issue) : Nat := (iss.hdr + 4 * (1 + hdrN iss.header)) % 2 ^ 64

/-- A transfer's form: the last word, with its predicate. -/
def transferForm (iss : Issue) (p : BitVec 3) (wf : Bool) (os : List Opnd) : Form :=
  { grp := .transfer, wf := wf, last := true, os := iss.cond p :: os }

def Ctx.goTo (c : Ctx) (s : State) (hdr : Nat) : State × LaneRes := (c.iss.transferTo (c.w, c.l) hdr s, .moved)

def execBr (p : BitVec 3) (neg : BitVec 1) (off : BitVec 20) (s : State) : Out :=
  withIssue s fun iss => (transferForm iss p true []).perform iss (fun _ => none) fun s c =>
    if c.taken p neg then c.goTo s (iss.target 20 off.toNat) else (s, .done)

/-- The register pair of JMP and CALLR: an operand whether the transfer is taken or not (R86, R129; log 64). -/
def Issue.jumpA (iss : Issue) (a : BitVec 7) : Opnd := ((iss.reg a.toNat).grp 2 2).src (some [.addr])
/-- A taken jump to an address that is no multiple of 4 (R129). -/
def Ctx.jumpCheck (c : Ctx) (p : BitVec 3) (neg : BitVec 1) (a : BitVec 7) : Option Nat :=
  if c.taken p neg && c.pair (c.iss.jumpA a) % 4 != 0 then some 0x09 else none

def execJmp (p : BitVec 3) (neg : BitVec 1) (a : BitVec 7) (s : State) : Out :=
  withIssue s fun iss => (transferForm iss p true [iss.jumpA a]).perform iss (fun c => c.jumpCheck p neg a) fun s c =>
    if c.taken p neg then c.goTo s (c.pair (iss.jumpA a)) else (s, .done)

/-! ### The return stack (R127) -/

def Thread.entry (th : Thread) (e : Nat) : Held := (th.held.find? (·.e == e)).getD { e := e }

/-- Why a push or pop cannot go ahead. -/
inductive StackStop where
  | wait
  | cause (k : Nat)
  deriving DecidableEq, Repr

/-- An entry that must be read: its refill may be in flight, or have failed. -/
def Thread.entryStop (th : Thread) (e : Nat) : Option StackStop :=
  let h := th.entry e
  match h.failed with
  | some k => some (.cause k)
  | none => if h.ready then none else some .wait

/-- Where entry `e` lives in memory. -/
def Thread.entryVA (th : Thread) (e : Nat) : Nat := (th.tls.toNat + 8 * e) % 2 ^ 64

/-- A spill or a refill of entry `e` is an access like any other: it is aligned and canonical, or the word that starts it
traps (R195, R196; log 19). -/
def Thread.entryCheck (th : Thread) (e : Nat) : Option StackStop :=
  if th.entryVA e % 8 ≠ 0 then some (.cause 0x09)
  else if !canonical (th.entryVA e) then some (.cause 0x0C) else none

/-- May the thread push? -/
def Thread.pushStop (th : Thread) (tls : Nat) : Option StackStop :=
  let d := th.rsd
  if d = 65535 ∨ (d ≥ 8 ∧ 8 * (d - 7) > tls) then some (.cause 0x04)
  else if d ≥ 8 then (th.entryCheck (d - 8)).or (th.entryStop (d - 8)) else none

/-- May the thread pop? -/
def Thread.popStop (th : Thread) : Option StackStop :=
  if th.rsd = 0 then some (.cause 0x10)
  else (th.entryStop (th.rsd - 1)).or (if th.rsd ≥ 9 then th.entryCheck (th.rsd - 9) else none)

/-- Push a return address, spilling the ninth entry as a plain store of the thread. -/
def State.push (s : State) (iss : Issue) (t : Team) (m : Nat × Nat) (x : Nat) : State :=
  let th := s.thread t.id m.1 m.2
  let d := th.rsd
  let s := if d ≥ 8 then
      let (s, id) := s.fresh
      let o : StoreOp := { id := id, grp := id, team := t.id, warp := m.1, lane := m.2, ctx := t.ctx
                           launch := t.launch, va := th.entryVA (d - 8), bytes := 8
                           op := .store (leBytes (th.entry (d - 8)).val 8), cl := iss.cl, co := iss.co
                           pc := iss.hdr, word := iss.word, raw := iss.raw, width := 3 }
      { s with stores := s.stores ++ [o] }
    else s
  s.updThread t.id m.1 m.2 fun th =>
    { th with rsd := d + 1, held := { e := d, val := x } :: th.held.filter fun (h : Held) => h.e + 8 != d && h.e != d }

/-- Mark the entry a refill was filling as failed. -/
def State.refillFailed (s : State) (o : LoadOp) (cause : Nat) : State :=
  let s := s.updThread o.dst.team o.dst.warp o.dst.lane fun th =>
    { th with held := th.held.map fun (h : Held) => if some h.e == o.refill then { h with failed := some cause } else h }
  { s with loads := s.loads.filter fun (x : LoadOp) => x.id != o.id }

/-- Translate a refill and start its load; an absent page parks it (R127). It is a load of its thread like any other: while an
acquire of the thread is out it does not start, and it takes the thread's acquire time as it starts (R279, R291). -/
def State.startRefill (s : State) (o : LoadOp) : State :=
  let o := { o with st := .engine, tacq := (s.thread o.dst.team o.dst.warp o.dst.lane).tacq }
  let priv := ((s.team? o.dst.team).map (·.priv)).getD false
  let put (s : State) (o : LoadOp) : State :=
    { s with loads := s.loads.map fun (x : LoadOp) => if x.id == o.id then o else x }
  if s.acquiring o.dst.team o.dst.warp o.dst.lane then put s o else
  match s.translate o.cl o.co o.ctx priv .read o.va with
  | (s, .absent b n w) =>
    match s.joinFault o.ctx o.va b n w 0 [.refill o.id] with
    | (s, true) => put s o
    | (s, false) => s.refillFailed o 0x0B
  | (s, .prot) => s.refillFailed o 0x0C
  | (s, .bad) => s.machineCheck (((s.team? o.dst.team).map (·.launch)).getD 0) 0x18
  | (s, .ok x) => (put s { o with xl := x, st := .unbound }).retryLoad { o with xl := x, st := .unbound }

/-- Pop the return stack, starting the refill of the entry that comes within the top eight. -/
def State.pop (s : State) (iss : Issue) (t : Team) (m : Nat × Nat) : State × Nat :=
  let th := s.thread t.id m.1 m.2
  let d := th.rsd - 1
  let x := (th.entry d).val
  let s := s.updThread t.id m.1 m.2 fun th =>
    { th with rsd := d, held := th.held.filter fun (h : Held) => h.e != d }
  if d ≥ 8 then
    let s := s.updThread t.id m.1 m.2 fun th => { th with held := { e := d - 8, ready := false } :: th.held }
    let (s, id) := s.fresh
    let o : LoadOp := { id := id, dst := { team := t.id, warp := m.1, lane := m.2, n := 0, cnt := 0 }
                        va := th.entryVA (d - 8), ctx := t.ctx, bytes := 8, cl := iss.cl, co := iss.co
                        tacq := th.tacq, refill := some (d - 8) }
    (({ s with loads := s.loads ++ [o] } : State).startRefill o, x)
  else (s, x)

/-- Why a taken call's push stops, for the threads that it concerns: a cause before a wait. -/
def Ctx.pushStop (c : Ctx) : Option StackStop :=
  let stops := (c.iss.lanes c.t (c.w, c.l)).filterMap fun m => (c.t.thread m.1 m.2).pushStop c.t.prog.tls
  (stops.find? (· != .wait)).or stops.head?

/-- A taken call (R130): every thread it concerns pushes, or none does. -/
def Ctx.call (c : Ctx) (s : State) (hdr : Nat) : State × LaneRes :=
  let ms := c.iss.lanes c.t (c.w, c.l)
  match c.pushStop with
  | some (.cause k) => (s, .trap k)
  | some .wait => (s, .stay .retry)
  | none => c.goTo (ms.foldl (fun s m => s.push c.iss c.t m c.iss.after) s) hdr

def execCall (p : BitVec 3) (neg : BitVec 1) (off : BitVec 20) (s : State) : Out :=
  withIssue s fun iss => (transferForm iss p true []).perform iss (fun _ => none) fun s c =>
    if c.taken p neg then c.call s (iss.target 20 off.toNat) else (s, .done)

/-- CALLR's checks: the push comes first (R130), then the target's alignment and the pair's tags (R102). While the push waits
nothing of the target is looked at. -/
def Ctx.callCheck (c : Ctx) (p : BitVec 3) (neg : BitVec 1) (a : BitVec 7) : Option Nat :=
  let tag : Option Nat := if c.badTag (c.iss.jumpA a) then some 0x05 else none
  if !c.taken p neg then tag else
  match c.pushStop with
  | some (.cause k) => some k
  | some .wait => none
  | none => (c.jumpCheck p neg a).or tag

def execCallr (p : BitVec 3) (neg : BitVec 1) (a : BitVec 7) (s : State) : Out :=
  withIssue s fun iss => (transferForm iss p true [{ iss.jumpA a with tags := none }]).perform iss (fun c => c.callCheck p neg a) fun s c =>
    if c.taken p neg then c.call s (c.pair (iss.jumpA a)) else (s, .done)

/-- The threads' top entries differ (R131). -/
def topsDiffer (t : Team) (ms : List (Nat × Nat)) : Bool :=
  let tops := ms.map fun m => let th := t.thread m.1 m.2; (th.entry (th.rsd - 1)).val
  tops.any (· != tops.headD 0)

/-- RET in the threads it concerns. In class 0 a stack that is empty, or a top entry whose refill failed, stops the word before the
tops are compared, which the manual leaves open (log 77). -/
def execRet (p : BitVec 3) (neg : BitVec 1) (s : State) : Out :=
  withIssue s fun iss => (transferForm iss p true []).perform iss (fun _ => none) fun s c =>
    if !c.taken p neg then (s, .done) else
    let ms := iss.lanes c.t (c.w, c.l)
    let stops := ms.filterMap fun m => (c.t.thread m.1 m.2).popStop
    match stops.find? (· != .wait), stops with
    | some (.cause k), _ => (s, .trap k)
    | _, _ :: _ => (s, .stay .retry)
    | _, [] =>
      if topsDiffer c.t ms then (s, .trap 0x13)
      else
        (ms.foldl (fun s m => match s.pop iss c.t m with
          | (s, x) => s.arrive iss.team m.1 m.2 x) s, .moved)

/-! ### EXIT (R132) -/

/-- A write-back of the warp is outstanding; those of exited threads have been discarded (R132). -/
def State.writebackOut (s : State) (tm w : Nat) : Bool :=
  s.loads.any fun o => o.dst.team == tm && o.dst.warp == w && !o.dropped

/-- A warp whose last live thread has exited gives up its slot and its lease once no write-back of it is outstanding
(R75, R132). -/
def State.releaseSlot (s : State) (tm w : Nat) : State :=
  match s.team? tm with
  | none => s
  | some t =>
    if (t.warp w).live.isEmpty && !s.writebackOut tm w && t.slots.getD w 64 != 64 then
      let slot := t.slots.getD w 64
      let s := s.updTeam tm fun t =>
        { (t.updWarp w fun wp => { wp with decl := 0, boostLines := 0, boostExp := 0 }) with slots := setAt t.slots w 64 }
      match t.at? with
      | some (cl, co) => s.updCore cl co fun k =>
          { k with victims := k.victims.filter fun (v : Nat × Nat) => v.2 != slot }
      | none => s
    else s

/-- In a protected launch a thread that exits while its partner is live breaks the pair (R399). -/
def Issue.pairExits (iss : Issue) (s : State) : State :=
  match s.team? iss.team with
  | none => s
  | some t =>
    if !s.isProtected t || iss.cls = 0 then s else
    match iss.members.find? fun m => (t.thread m.1 m.2).exited && !(t.thread m.1 (m.2 ^^^ 1)).exited with
    | some m => { s with agenda := .event .shadowMismatch { team := iss.team, warp := m.1, lane := m.2 } :: s.agenda }
    | none => s

def execExit (p : BitVec 3) (neg : BitVec 1) (mode : BitVec 2) (s : State) : Out :=
  withIssue s fun iss s =>
    iss.pairExits ((transferForm iss p (Instr.exit p neg mode).wf []).perform iss (fun _ => none) (fun s c =>
      if !c.taken p neg then (s, .done)
      else if mode = 1 then (s.killTeam iss.team, .moved)
      else
        let s := if iss.cls = 0 then
            s.updWarp iss.team c.w fun wp => { wp with ab := wp.ab.pend (s.clkOf iss.team) }
          else s
        ((((iss.lanes c.t (c.w, c.l)).foldl (fun s m => s.exitThread iss.team m.1 m.2) s).releaseSlot iss.team c.w),
          .moved)) s)

/-! ### Meeting points (R133) -/

/-- Set the meeting register of threads and test their groups (R120). -/
def State.setMr (s : State) (tm : Nat) (ms : List (Nat × Nat)) (x : Word) : State :=
  let s := ms.foldl (fun s m => s.updThread tm m.1 m.2 fun th => { th with mr := x }) s
  ms.foldl (fun s m => s.updWarp tm m.1 (·.settleMeetings)) s

/-- The meeting offset of MEET. -/
def meetOffset (iss : Issue) (prog : Nat) (off : BitVec 17) : Int :=
  (iss.hdr : Int) - prog + 4 * sextNat 17 off.toNat

def execMeet (d : BitVec 7) (off : BitVec 17) (s : State) : Out :=
  withIssue s fun iss =>
    let dst := (iss.reg d.toNat).dst
    ({ grp := .meet, os := [dst] } : Form).perform iss
      (fun c => if meetOffset iss c.t.prog.hdr off < 0 ∨ meetOffset iss c.t.prog.hdr off ≥ 2 ^ 32 then some 0x04 else none)
      fun s c =>
        let s := s.updWarp c.t.id c.w fun wp => wp.setGroup c.l dst [(c.th.mr, .n32)]
        (s.setMr c.t.id [(c.w, c.l)] (BitVec.ofInt 32 (meetOffset iss c.t.prog.hdr off)), .done)

/-- The check on a meeting value (R133). -/
def mrCheck (x : Word) : Option Nat := if x ≠ 0xFFFFFFFF ∧ x.toNat % 4 ≠ 0 then some 0x09 else none

def execMeetr (a : BitVec 7) (s : State) : Out :=
  withIssue s fun iss =>
    let src := (iss.reg a.toNat).src (some [.n32])
    ({ grp := .meet, os := [src] } : Form).perform iss (fun c => mrCheck (c.rd src))
      fun s c => (s.setMr c.t.id [(c.w, c.l)] (c.rd src), .done)

/-! ### BAR (R281, R282) -/

/-- Every live thread of the team waits at a barrier, some at each kind: the moment that began (R282). -/
def State.noteMixed (s : State) (tm : Nat) : State :=
  match s.team? tm with
  | none => s
  | some t =>
    let at_ (c : Bool) : Bool := t.live.any fun m => (t.thread m.1 m.2).wait == .barrier c
    let all := t.live.all fun m => (t.thread m.1 m.2).wait == .barrier true || (t.thread m.1 m.2).wait == .barrier false
    s.updTeam tm fun t =>
      { t with mixedSince := if all && at_ true && at_ false then some (t.mixedSince.getD (s.clkOf tm)) else none }

def execBar (mode : BitVec 1) (s : State) : Out :=
  withIssue s fun iss s =>
    let coh := mode == 1
    let s := ({ grp := .ctl } : Form).perform iss (fun _ => none) (fun s c =>
      let ms := iss.lanes c.t (c.w, c.l)
      let arrived (t : Team) : List (Nat × Nat) := if coh then t.arrC else t.arrT
      if ms.all ((arrived c.t).contains ·) then (s, .stay (.barrier coh)) else
      match s.releaseGate c (if coh then 1 else 0) false with
      | some w => (s, .stay w)
      | none =>
        (s.updTeam c.t.id fun t =>
          let new := ms.filter fun m => !(arrived t).contains m
          if coh then { t with arrC := t.arrC ++ new } else { t with arrT := t.arrT ++ new }, .stay (.barrier coh))) s
    ((s.settleBarT iss.team).settleBarC iss.team).noteMixed iss.team

/-! ### REP (R107, R134) -/

def execRep (_count : BitVec 6) (mask : BitVec 3) (_stride : BitVec 2) (s : State) : Out :=
  withIssue s fun iss =>
    let next := if iss.has2 then repFields (bits iss.raw2.toNat 24 8) else none
    let lacks := match next with
      | none => false
      | some (d, a, b) => (mask.getLsbD 2 && !d) || (mask.getLsbD 1 && !a) || (mask.getLsbD 0 && !b)
    ({ grp := .repeat_, wf := !lacks, len := if next.isSome then 1 else 16 } : Form).perform iss (fun _ => none)
      fun s c =>
        ((iss.lanes c.t (c.w, c.l)).foldl (fun s m => s.updThread iss.team m.1 m.2 fun th =>
          { th with pos := { hdr := iss.hdr, word := iss.word + 1, rep := some 0 } }) s, .moved)

/-! ### LEASE (R67, R136) -/

/-- Lines of a boost that still runs. -/
def Warp.boostLive (w : Warp) (now : Nat) : Nat := if now < w.boostExp then w.boostLines else 0

/-- L of R67. -/
def Warp.leaseL (w : Warp) (p : Prog) : Nat :=
  match p.lmode with
  | 0 => max w.decl w.meas
  | 1 => w.meas
  | _ => w.decl

/-- The effective lease (R67). -/
def Warp.effLease (w : Warp) (p : Prog) (now : Nat) : Nat := min 4095 (w.leaseL p + w.boostLive now)

def execLease (form : BitVec 2) (a : BitVec 7) (lines : BitVec 10) (s : State) : Out :=
  withIssue s fun iss =>
    let wf := (Instr.lease form a lines).wf
    let upd (s : State) (c : Ctx) (f : Warp → Warp) : State × LaneRes := (s.updWarp c.t.id c.w f, .done)
    match form.toNat with
    | 0 => ({ grp := .lease, wf := wf, pure := true } : Form).perform iss (fun _ => none)
        fun s c => upd s c fun wp => { wp with decl := lines.toNat }
    | 1 =>
      let src := (iss.reg a.toNat).src (some [.n32])
      ({ grp := .lease, wf := wf, os := [src], pure := true } : Form).perform iss
        (fun c => if (c.rd src).toNat > 4194303 then some 0x04 else none)
        fun s c => upd s c fun wp =>
          if c.rd src = 0 then { wp with boostLines := 0, boostExp := 0 }
          else { wp with boostLines := lines.toNat, boostExp := s.time + (c.rd src).toNat }
    | 2 => ({ grp := .lease, wf := wf, pure := true } : Form).perform iss (fun _ => none)
        fun s c => upd s c fun wp => { wp with boostLines := 0, boostExp := 0 }
    | _ =>
      let dst := (iss.reg a.toNat).dst
      ({ grp := .ctl, wf := wf, os := [dst], pure := true } : Form).perform iss (fun _ => none)
        fun s c => upd s c fun wp => wp.setGroup c.l dst
          [(BitVec.ofNat 32 (wp.boostLive s.time * 2 ^ 12 + wp.effLease c.t.prog s.time), .n32)]

/-! ### WAITT (R135) -/

def waitUntil (s : State) (deadline : Nat) : State × LaneRes :=
  if deadline ≤ s.time then (s, .done) else (s, .stay (.time deadline))

def execWaitt (a : BitVec 7) (s : State) : Out :=
  withIssue s fun iss =>
    let src := ((iss.reg a.toNat).grp 2 2).src (some [.addr, .n32])
    ({ grp := .ctl, os := [src] } : Form).perform iss (fun _ => none) fun s c => waitUntil s (c.pair src)

def execWaittD (delay : BitVec 23) (s : State) : Out :=
  withIssue s fun iss => ({ grp := .ctl } : Form).perform iss (fun _ => none) fun s _ => waitUntil s (s.time + delay.toNat)

/-! ### TRAP and unassigned opcodes (R381, R108) -/

def execTrap (p : BitVec 3) (neg brk : BitVec 1) (_code : BitVec 16) (s : State) : Out :=
  withIssue s fun iss => ({ grp := .ctl, os := [iss.cond p] } : Form).perform iss (fun _ => none) fun s c =>
    if c.taken p neg then (s, .trap (if brk = 1 then 0x15 else 0x14)) else (s, .done)

def execIllegalOpcode (s : State) : Out :=
  withIssue s fun iss s =>
    match s.team? iss.team with
    | none => s
    | some t => iss.deliverTraps (((iss.actors t).flatMap (iss.lanes t)).map fun m => (m, 0x01, 0)) s

/-! ### RTT (R382 to R384) -/

/-- Result tags of the words 0x00 to 0x5F; RAW where the tag follows an operand (R384), as that of FABS and FNEG does
(R177). -/
def resultTag (op : Nat) : Tag :=
  if op = 0x50 ∨ op = 0x51 then .raw
  else if op ∈ [0x03, 0x05, 0x08, 0x0B, 0x0D, 0x10, 0x11, 0x1D, 0x1E, 0x21] then .n32
  else if op ≤ 0x13 ∨ op ∈ [0x20, 0x23, 0x24, 0x2B] then .i32
  else if op < 0x30 then .raw
  else if op = 0x35 then .raw
  else if op < 0x40 then .addr
  else if op = 0x53 then .mask
  else if op < 0x58 then .f32
  else if op < 0x5D then .f16x2
  else .b16x2

/-- First destination of a trapping instruction with its group and the tag RTT.W gives it (R384). -/
def substDest (t : Team) (iss : Issue) : Option (Opnd × Tag) :=
  let raw := iss.raw.toNat
  let op := bits raw 24 8
  let d (cnt : Nat) (tag : Tag) : Option (Opnd × Tag) := some ((iss.reg (bits raw 17 7 + iss.stepD)).grp cnt 1, tag)
  let tagF := Tag.ofCode (bits raw 6 4)
  if op ∈ [0x2D, 0x2E, 0x2F, 0x34, 0x52, 0x80, 0x91] then some (iss.prd (bits raw 21 3 + iss.stepD), .raw)
  else if op < 0x30 then d 1 (resultTag op)
  else if 0x38 ≤ op ∧ op < 0x40 then none
  else if op < 0x40 then d 2 (resultTag op)
  else if op < 0x60 then d 1 (resultTag op)
  else match op with
  | 0x60 | 0x61 | 0x63 => d 1 tagF
  | 0x62 => d (if bits raw 6 4 = 7 then 5 else 4) .f32
  | 0x64 => d 1 (match bits raw 6 4 with | 8 => .i32 | 9 => .n32 | _ => .f32)
  | 0x65 => d 1 (Tag.ofCode (bits raw 0 4))
  | 0x66 => d 1 .n32
  | 0x6A => d 6 .f32
  | 0x70 | 0x71 | 0x89 => d 3 .wel
  | 0x72 => d 1 .f32
  | 0x81 | 0x88 | 0x92 => d 1 .mask
  | 0x82 | 0x83 | 0x84 | 0x85 | 0x8B | 0x90 | 0x94 | 0x96 => d 1 .raw
  | 0x86 | 0x87 => d 1 (if 3 ≤ bits raw 0 3 then .raw else match bits raw 3 2 with | 0 => .i32 | 1 => .n32 | _ => .f32)
  | 0xA0 | 0xA2 | 0xA4 | 0xA7 | 0xAD | 0xA9 | 0xAA | 0xAB | 0xAC =>
    d (if bits raw 7 3 ≤ 2 then 1 else 2 ^ (bits raw 7 3 - 2)) .raw
  | 0xB0 | 0xB1 => d 2 .raw
  | 0xB2 => d 5 .raw
  | 0xB3 | 0xC5 | 0xC8 | 0xCB | 0xF5 => d 1 .n32
  | 0xCD => d ((t.queues.getD (bits raw 14 3) {}).roww + 1) .raw
  | 0xD3 => d 8 .raw
  | 0xE3 => d 4 .sig
  | 0xE4 => d (if bitAt raw 3 then 2 else bits raw 4 3 + 1) .raw
  | 0xE8 => d 1 .n32
  | 0xEB => match bits raw 8 2 with | 0 => d 1 .mask | 3 => d 2 .addr | _ => d 4 .f32
  | 0xFA => if bits raw 22 2 = 3 then some (iss.reg (bits raw 15 7), .n32) else none
  | 0xFE => if bitAt raw 23 then none else some (iss.reg (bits raw 16 7), .n32)
  | _ => none

/-- What RTT.S reads: the header and the trapping word, with the REP word before it where one applies. -/
inductive Reread where
  | ok (h raw : Word) (rep : Option Word)
  | absent (va base size watch : Nat)
  | cause (k : Nat)
  deriving DecidableEq, Repr

def State.fetchOr (s : State) (iss : Issue) (t : Team) (va : Nat) (k : State → Word → State × Reread) : State × Reread :=
  match s.fetch iss.cl iss.co t va with
  | (s, .word w) => k s w
  | (s, .absent b n w) => (s, .absent va b n w)
  | (s, .prot) => (s, .cause 0x0C)
  | (s, .bad) => (s.machineCheck t.launch 0x18, .cause 0x0C)

def State.reread (s : State) (iss : Issue) (t : Team) (h w : Nat) (rep : Bool) : State × Reread :=
  s.fetchOr iss t h fun s hdr =>
    match hdrCause hdr with
    | some k => (s, .cause k)
    | none => s.fetchOr iss t (h + 4 * w) fun s raw =>
        if rep then s.fetchOr iss t (h + 4 * (w - 1)) fun s r => (s, .ok hdr raw (some r))
        else (s, .ok hdr raw none)

/-- Write sr.tsub where the trapping instruction would have written (R384): the first register of its destination, when
the program declares it, and every register of the group that exists becomes full. -/
def Warp.substitute (wp : Warp) (t : Team) (iss : Issue) (l : Nat) (x : Word) : Warp :=
  match substDest t iss with
  | none => wp
  | some (o, tag) =>
    let v := if o.file = .pred ∨ o.file = .upred then x &&& 1 else x
    let wp := wp.setCell l o.file o.n v tag
    (List.range o.cnt).foldl (fun (wp : Warp) k => match o.file with
      | .vec => wp.updThread l fun th => { th with v := updAt th.v (o.n + k) fun r => { r with full := true } }
      | .uni => { wp with s := updAt wp.s (o.n + k) fun r => { r with full := true } }
      | _ => wp) wp

/-- A thread has resumed past a cross-lane word at `pos` without taking part in it: its tile no longer waits for it in this
execution (R188), which is over when every live thread of the tile has gone past. -/
def State.skipCross (s : State) (t : Team) (w l : Nat) (pos : Pos) : State :=
  let s := s.updThread t.id w l fun th => { th with skipped := pos :: th.skipped }
  let tile := (tileLanes (s.isProtected t) (t.warp w).tileWidth l).filter fun x => !(t.thread w x).exited
  if tile.all fun x => (s.thread t.id w x).skipped.contains pos then
    tile.foldl (fun s x => s.updThread t.id w x fun th => { th with skipped := th.skipped.filter (· != pos) }) s
  else s

/-- Skip the trapping word, as form S, having substituted for form W. A cross-lane word that raised 0x07 or 0x08 had made its
exchange before (R188). -/
def State.skipTrapped (s : State) (tm w l : Nat) (subst : Bool) (t : Team) (h raw : Word) (rep : Option Word) : State :=
  let th := s.thread tm w l
  let word := bits th.tinfo0.toNat 8 4
  let i := bits th.tinfo0.toNat 12 6
  let hdr := th.tret.toNat
  let pos : Pos := { hdr := hdr, word := word, rep := if th.trapRep then some i else none }
  let cnt := rep.map fun r => bits r.toNat 18 6
  let step (bit : Nat) : Nat := match rep with
    | some r => stepOf (bits r.toNat 15 3) (bits r.toNat 13 2) bit i
    | none => 0
  let iss : Issue := { team := tm, members := [(w, l)], hdr := hdr, header := h, word := word, raw := raw
                       stepD := step 2, stepA := step 1, stepB := step 0 }
  let s := if subst then s.updWarp tm w fun wp => wp.substitute t iss l th.tsub else s
  let op := bits raw.toNat 24 8
  let cause := bits th.tinfo0.toNat 0 8
  let s := if 0x80 ≤ op ∧ op < 0x90 ∧ !hdrCollective h ∧ cause ≠ 0x07 ∧ cause ≠ 0x08 then s.skipCross t w l pos else s
  let s := s.updThread tm w l fun th => { th with clauseN := hdrN h }
  let q := nextPos pos (if twoWord op then 2 else 1) (hdrN h) cnt
  let s := s.resumeAt tm w l q
  if q.hdr = hdr then s else s.arrive tm w l q.hdr

/-- Return of one thread; `wl` is the lane that waits on an absent page, 32 for the warp's. -/
def State.rttThread (s : State) (iss : Issue) (t : Team) (form wl : Nat) (m : Nat × Nat) : State × LaneRes :=
  let th := t.thread m.1 m.2
  let w := bits th.tinfo0.toNat 8 4
  let i := bits th.tinfo0.toNat 12 6
  let h := th.tret.toNat
  if !th.handler then (s, .trap 0x02)
  else if form = 3 then (s, .trap 0x03)
  else if th.tretWritten || w = 0 then (s.resumeAt t.id m.1 m.2 { hdr := h }, .moved)
  else if form = 0 then
    (s.resumeAt t.id m.1 m.2 { hdr := h, word := w, rep := if th.trapRep then some i else none }, .moved)
  else match s.reread iss t h w th.trapRep with
    | (s, .ok hdr raw rep) => (s.skipTrapped t.id m.1 m.2 (form == 2) t hdr raw rep, .moved)
    | (s, .cause k) => (s, .trap k)
    | (s, .absent va b n wt) =>
      match s.joinFault t.ctx va b n wt 2 [.thread t.id m.1 wl] with
      | (s, true) => (s, .stay .page)
      | (s, false) => (s, .trap 0x0B)

/-- The outcome is a trap, or a wait. -/
def LaneRes.isTrap : LaneRes → Bool
  | .trap _ => true
  | _ => false
def LaneRes.isStay : LaneRes → Bool
  | .stay _ => true
  | _ => false

/-- In class 0 the live threads return, each from its own sr.tret; a trap that the word raises in one of them is taken by
all (R124), and when one meets an absent page all of them wait at the word. -/
def State.rttAll (s : State) (iss : Issue) (t : Team) (form : Nat) (ms : List (Nat × Nat)) : State × LaneRes :=
  let outs := ms.map fun m => s.rttThread iss t form 32 m
  match (outs.find? (·.2.isTrap)).or (outs.find? (·.2.isStay)) with
  | some r => r
  | none => (ms.foldl (fun s m => (s.rttThread iss t form 32 m).1) s, .moved)

def execRtt (form : BitVec 2) (s : State) : Out :=
  withIssue s fun iss =>
    ({ grp := .ctl, last := true } : Form).perform iss (fun _ => none) fun s c =>
      if iss.cls = 0 then s.rttAll iss c.t form.toNat ((c.t.warp c.w).live.map fun l => (c.w, l))
      else s.rttThread iss c.t form.toNat c.l (c.w, c.l)

end Sys2Proof.Machine
end

