-- ==== Sys2Proof/Machine/MemEvents.lean ====
section
/-! DEFINITION. What the memory side does on its own (04_encoding R86; 05_issued R127, R135; 08_memory_paths R201, R217 to
R220; 09_isa_memory R242 to R244; 10_synchronised R273 to R279; 14_interrupted R399): loads are written back, stores are
translated and performed at home, releases complete. A step that is not due changes nothing. -/

namespace Sys2Proof.Machine

/-! ### Loads (R86, R127, R201, R236) -/

def State.load? (s : State) (id : Nat) : Option LoadOp := s.loads.find? fun o => o.id == id
def State.dropLoad (s : State) (id : Nat) : State := { s with loads := s.loads.filter fun (o : LoadOp) => o.id != id }
def State.store? (s : State) (id : Nat) : Option StoreOp := s.stores.find? fun o => o.id == id

/-- Write data back: the words it brings, and the other registers of the group full as they were. -/
def Warp.landGroup (wp : Warp) (d : Dest) (ws : List (Word × Tag)) (pv : Option Bool) : Warp :=
  let o := d.opnd
  let wp := (List.range d.cnt).foldl (fun wp k => wp.fillCell d.lane o.file (o.n + k)) (wp.setGroup d.lane o ws)
  match d.pd with
  | none => wp
  | some p =>
    let q := d.pred p
    match pv with
    | some b => wp.setCell d.lane q.file q.n (if b then 1 else 0) .raw
    | none => wp.fillCell d.lane q.file q.n

/-- A load lands (R86): its registers are written full, and an acquire takes effect (R279). A warp that has completed may give
up its slot now (R132). -/
def State.landLoad (s : State) (o : LoadOp) (ws : List (Word × Tag)) (pv : Option Bool) : State :=
  let s := s.dropLoad o.id
  let d := o.dst
  let live := if d.lane = 32 then !((s.warp d.team d.warp).live).isEmpty else !(s.thread d.team d.warp d.lane).exited
  if o.dropped || !live then s.releaseSlot d.team d.warp
  else
    let s := s.updWarp d.team d.warp fun wp => wp.landGroup d ws pv
    match o.acq with
    | some (_ + 1) => s.acquire d.team d.warp d.lane
    | _ => s

/-- A refill lands or fails (R127): its entry holds the value, and an uncorrectable error is the team's (R395). -/
def State.landRefill (s : State) (o : LoadOp) (ws : List (Word × Tag)) : State :=
  let s := s.dropLoad o.id
  if ws.any fun w => w.2 == .poison then
    s.machineCheck (((s.team? o.dst.team).map (·.launch)).getD 0) 0x18
  else s.updThread o.dst.team o.dst.warp o.dst.lane fun th =>
    { th with held := th.held.map fun (h : Held) =>
        if some h.e == o.refill then { h with ready := true, val := leNat (ofWords (ws.map (·.1))) } else h }

/-- What is due for a load now: a refill that an acquire held back starts once no page holds it (R279). -/
def State.loadStep (s : State) (o : LoadOp) : State :=
  match o.st with
  | .unbound => s.retryLoad o
  | .engine => if o.refill.isSome && !(s.faults.any fun e => e.waiters.contains (.refill o.id)) then s.startRefill o else s
  | .bound ws pv => if o.refill.isSome then s.landRefill o ws else s.landLoad o ws pv
  | _ => s

/-- LOAD_WRITEBACK of the operation `id`. -/
def execLoadWriteback (s : State) : Out :=
  .next (match s.load? s.target.id with
  | some o => if o.refill.isNone then s.loadStep o else s
  | none => s)

/-- REFILL_LAND of the operation `id`. -/
def execRefillLand (s : State) : Out :=
  .next (match s.load? s.target.id with
  | some o => if o.refill.isSome then s.loadStep o else s
  | none => s)

/-- FILL_RETURN of the sector with key `addr` on the target's core. -/
def execFillReturn (s : State) : Out :=
  .next (match (s.core s.target.cl s.target.co).misses.find? fun m => m.key == s.target.addr with
  | some m => s.fill s.target.cl s.target.co m
  | none => s)

/-- MSHR_REPLAY of a thread that found no free miss-status entry. -/
def execMshrReplay (s : State) : Out :=
  let t := s.target
  .next (if (s.thread t.team t.warp t.lane).wait == .mshr then
      s.updThread t.team t.warp t.lane (·.unpark)
    else s)

/-! ### Stores and atomics at home (R217, R234, R242 to R244, R273) -/

/-- STORE_TRANSLATED of the operation `id`: a store whose turn has come, or one that waits for room in the store-fault
queue. -/
def State.translateStep (s : State) (o : StoreOp) : State :=
  match o.st with
  | .issued => if s.storeTurn o then s.translateStore o else s
  | .blocked => s.storeProtected o
  | _ => s

def execStoreTranslated (s : State) : Out :=
  .next (match s.store? s.target.id with
  | some o => s.translateStep o
  | none => s)

/-- Give an atomic's old value to the loads that take it. -/
def State.bindTwins (s : State) (id : Nat) (ws : List (Word × Tag)) : State :=
  { s with loads := s.loads.map fun (o : LoadOp) => if o.twin == some id then { o with st := .bound ws none } else o }

/-- An atomic or CAS is performed at its home. -/
def State.performAtom (s : State) (o : StoreOp) : State :=
  let old := leNat (s.homeBytes o.xl o.bytes)
  let s := s.dropStore o.id
  if s.xlatBad o.xl o.bytes then s.bindTwins o.id (List.replicate (o.bytes / 4) (0, .poison))
  else
    let s := s.beforeWrite o.launch o.va
    let (new, tag) : Option Nat × Tag := match o.op with
      | .atom sub x _ => (some (atomNew sub old x), (atomTags sub).2)
      | .cas cmp v _ => (if old = cmp then some v else none, .raw)
      | .store _ => (none, .raw)
    let s := s.bindTwins o.id (oldWords o.bytes old tag)
    -- the core's copies are older than what the thread has seen now (R276)
    let s := s.updCore o.cl o.co fun k =>
      { k with l1 := k.l1.filter fun (x : Sector) => !overlap x.key 64 o.xl.key o.bytes }
    match new with
    | none => s
    | some v =>
      let g := s.gwct o.xl
      (s.writeHome o.xl (leBytes v o.bytes)).noteGwct o.team o.warp o.lane g

def StoreOp.isAtom (o : StoreOp) : Bool :=
  match o.op with
  | .store _ => false
  | _ => true

/-- The lanes of one issue on one address, which take consecutive places (R244). -/
def State.atomGroup (s : State) (o : StoreOp) : List StoreOp :=
  s.stores.filter fun x => x.isAtom && x.grp == o.grp && x.team == o.team && x.xl.key == o.xl.key && x.st == .translated

/-- What is due at home for a store, atomic or CAS now. -/
def State.homeStep (s : State) (o : StoreOp) : State :=
  if o.st ≠ .translated then s else
  match o.op with
  | .store data => if s.homeTurn o && !s.loadsBefore o then s.performPlain o data else s
  | _ =>
    let g := s.atomGroup o
    match g with
    | [] => s
    | first :: _ =>
      if s.homeTurn first && g.all fun x => !s.loadsBefore x then g.foldl (fun s x => s.performAtom x) s else s

/-- STORE_PERFORMED_AT_HOME of the operation `id`. -/
def execStorePerformedAtHome (s : State) : Out :=
  .next (match s.store? s.target.id with
  | some o => s.homeStep o
  | none => s)

/-! ### Store faults are delivered (R220, R378) -/

/-- The thread stands at a header whose first word has not issued. -/
def Thread.atHeader (th : Thread) : Bool :=
  th.pos.word == 1 && th.pos.rep.isNone && match th.wait with
    | .none | .meeting _ | .collective | .horizon _ | .retry | .regs => true
    | _ => false

/-- Mark the first undelivered record of a thread delivered. -/
def markDelivered (w l : Nat) : List SfRecord → List SfRecord
  | [] => []
  | r :: rs => if !r.delivered && r.warp == w && r.lane == l then { r with delivered := true } :: rs
    else r :: markDelivered w l rs

/-- STORE_FAULT_DELIVERY to a thread: its oldest record, as cause 0x0D at the header. -/
def execStoreFaultDelivery (s : State) : Out :=
  let tg := s.target
  .next (match s.team? tg.team with
  | none => s
  | some t =>
    let th := t.thread tg.warp tg.lane
    match (t.owed ++ t.sfq).find? fun r => !r.delivered && r.warp == tg.warp && r.lane == tg.lane with
    | none => s
    | some r =>
      if th.exited || th.handler || !th.atHeader || !t.started || t.at?.isNone then s
      else
        let s := s.updTeam t.id fun t =>
          if t.owed.any fun r => r.warp == tg.warp && r.lane == tg.lane then { t with owed := markDelivered tg.warp tg.lane t.owed }
          else { t with sfq := markDelivered tg.warp tg.lane t.sfq }
        let s := s.updTeam t.id fun t => { t with owed := t.owed.filter fun (r : SfRecord) => !r.delivered }
        s.takeTrap t.id tg.warp tg.lane
          { cause := 0x0D, word := 0, rep := none, hdr := th.pos.hdr, raw := r.raw, mask := laneMask [tg.lane]
            data := BitVec.ofNat 32 r.data })

/-! ### Waits that end (R135, R278) -/

/-- RELEASE_COMPLETE of a thread's release, or of its warp's. -/
def State.completeRelease (s : State) (tm w l : Nat) : State :=
  match (s.thread tm w l).wait with
  | .release scope whole =>
    let own := if whole then 32 else l
    if s.relReady tm w own scope then
      (s.lanesOf tm w own).foldl (fun s x => s.updThread tm w x fun th => { th.unpark with relDone := true }) s
    else s
  | _ => s

def execReleaseComplete (s : State) : Out := .next (s.completeRelease s.target.team s.target.warp s.target.lane)

/-- A wait for global time ends (R97, R135): WAITT's word is done, and a header is tried again. -/
def State.endTimeWait (s : State) (tm w l : Nat) : State :=
  match (s.thread tm w l).wait with
  | .time d => if d ≤ s.time then s.advance tm w l 1 (cnt := none) else s
  | .horizon d => if d ≤ s.time then s.updThread tm w l fun th => { th with wait := .none } else s
  | _ => s

def execWaittDeadline (s : State) : Out := .next (s.endTimeWait s.target.team s.target.warp s.target.lane)

/-! ### Protected pairs (R399) -/

/-- The thread's partner has neither reached its compared access nor is parked on a fault, and its own time is up. The partner
has reached it when it stands at the word, whatever it still waits for there. -/
def State.pairLate (s : State) (tm w l : Nat) : Bool :=
  let wp := s.warp tm w
  match (wp.thread l).wait with
  | .pair since _ =>
    let p := wp.thread (l ^^^ 1)
    since + wp.mto ≤ s.clkOf tm && (p.exited || p.pos != (wp.thread l).pos) && (match p.wait with
      | .pair .. | .page => false
      | _ => true)
  | _ => false

/-- The pair has broken: its accesses disagree, one member waits too long or exits alone. A trap of one member alone is met as
the other goes past the word (`Issue.missedTrap`). -/
def State.pairBroken (s : State) (tm w l : Nat) : Bool :=
  let wp := s.warp tm w
  let a := wp.thread l
  let b := wp.thread (l ^^^ 1)
  s.pairLate tm w l || (a.exited != b.exited)
    || (match a.wait, b.wait with
      | .pair _ x, .pair _ y => x != y
      | _, _ => false)

/-- SHADOW_MISMATCH of a thread's pair: the launch takes cause 0x11. -/
def execShadowMismatch (s : State) : Out :=
  let tg := s.target
  .next (match s.team? tg.team with
  | none => s
  | some t => if s.isProtected t && !t.killed && s.pairBroken tg.team tg.warp tg.lane then s.machineCheck t.launch 0x11 else s)

end Sys2Proof.Machine
end

