-- ==== Sys2Proof/Machine/Place.lean ====
section
/-! DEFINITION. Placing, starting, saving and resuming teams (02_launched R43, R44, R53 to R58; 03_placed R59 to R66, R78 to
R81; 14_interrupted R386 to R392). -/

namespace Sys2Proof.Machine

/-! ### What a core holds (R33, R59, R60) -/

def Prog.width (p : Prog) : Nat := if p.w16 then 16 else 32
def Prog.warpCount (p : Prog) : Nat := p.threads / p.width
/-- Warps of a team in a quadrant (R10). -/
def Prog.inQuad (p : Prog) (q : Nat) : Nat := ((List.range p.warpCount).filter (· % 4 == q)).length
/-- Length of a team's scratchpad run. -/
def Prog.runLen (p : Prog) : Nat := roundUp p.scratch 4096

/-- A team holds resources of a core. -/
def Team.onCore (t : Team) (cl co : Nat) : Bool := t.place == .resident cl co

/-- Teams resident on a core, the oldest first. -/
def State.residents (s : State) (cl co : Nat) : List Team :=
  (s.teams.filter (·.onCore cl co)) |> sortBy fun a b => a.age ≤ b.age

/-- The first gap of at least `len` bytes between runs, at 4 KiB granules. -/
def freeRun (runs : List (Nat × Nat)) (len : Nat) : Option Nat :=
  ((List.range 65).map (· * 4096)).find? fun a =>
    a + len ≤ 262144 && !runs.any fun r => r.1 < a + len && a < r.1 + r.2

/-- Slots a quadrant can give: the agent's is kept for it (R2, R42). -/
def quadSlots (q : Nat) : List Nat := ((List.range 16).map fun k => 16 * q + k).filter (· != agentSlot)

/-- Slots for the warps of a team, lowest free first. -/
def takeSlots (used : List Nat) : List Nat → Option (List Nat)
  | [] => some []
  | q :: qs =>
    match (quadSlots q).find? fun k => !used.contains k with
    | none => none
    | some k => (takeSlots (k :: used) qs).map (k :: ·)

/-- What a placement gives a team. -/
structure Assign where
  slots : List Nat
  run : Nat
  deriving DecidableEq, Repr

/-- Room for one more team of a program beside teams resident on a core (R60). -/
def roomFor (ts : List Team) (p : Prog) : Option Assign :=
  let used := ts.flatMap fun t => t.slots.filter (· < 64)
  let sum (f : Prog → Nat) : Nat := ts.foldl (fun n t => n + f t.prog) 0
  let blocks := (List.range 4).all fun q =>
    sum (fun r => r.inQuad q * (r.vregs / 8)) + p.inQuad q * (p.vregs / 8) ≤ 64
  if !blocks || sum (·.acc) + p.acc > 8 || sum (·.planes) + p.planes > 4 || sum (·.queues) + p.queues > 16 then none
  else
    match takeSlots used ((List.range p.warpCount).map (· % 4)),
      (if p.runLen = 0 then some 0 else freeRun (ts.map fun t => (t.run, t.prog.runLen)) p.runLen) with
    | some ss, some r => some { slots := ss, run := r }
    | _, _ => none

/-- Cores for `n` teams of a program together: each core's teams are extended in turn. -/
def planTeams (p : Prog) : Nat → List (Nat × List Team) → Option (List (Nat × Assign))
  | 0, _ => some []
  | n + 1, cores =>
    match cores.findSome? fun c => (roomFor c.2 p).map fun a => (c.1, a) with
    | none => none
    | some (co, a) =>
      let t : Team := { id := 0, prog := p, slots := a.slots, run := a.run }
      (planTeams p n (cores.map fun c => if c.1 = co then (c.1, t :: c.2) else c)).map ((co, a) :: ·)

/-! ### Clusters, cores and contexts in service (R42, R55, R56, R409) -/

def Gate.up (g : Gate) : Bool := g == .on || g == .quiescing
def State.clusterOn (s : State) (cl : Nat) : Bool :=
  cl < s.clusters.length && (s.cluster cl).enabled && (s.cluster cl).gate.up
def State.coreOn (s : State) (cl co : Nat) : Bool :=
  s.clusterOn cl && co < (s.cluster cl).cores.length && (s.core cl co).exists_
/-- The agent of a core works: the core is in service, an agent is loaded there, and it has not arrived at gating. -/
def State.agentLive (s : State) (cl co : Nat) : Bool :=
  s.coreOn cl co && (s.core cl co).agent.isSome && !(s.cluster cl).arrived.contains co
def State.liveCores (s : State) (cl : Nat) : List Nat :=
  (List.range (s.cluster cl).cores.length).filter fun co => (s.core cl co).exists_

/-- A context may run on a cluster: its mask names it, it is on, and no other context holds it alone. -/
def State.serves (s : State) (ctx cl : Nat) : Bool :=
  s.clusterOn cl && bitAt (s.context ctx).mask cl
    && !(s.contexts.any fun c => c.id != ctx && c.excl && bitAt c.mask cl)

/-- A team of a program can be held by some empty cluster whose bit `ok` accepts (R32, R65). -/
def State.holds (s : State) (cl : Nat) (p : Prog) (n : Nat) : Bool :=
  (planTeams p n ((s.liveCores cl).map fun co => (co, []))).isSome

/-! ### Creating a team (R10, R11, R18, R24) -/

/-- A thread at its start. -/
def newThread (p : Prog) (tls : BitVec 64) : Thread :=
  { pos := { hdr := (p.hdr + p.entry) % 2 ^ 64 }, v := List.replicate p.vregs {}, fpctl := p.fpctl, perm := p.perm, tls := tls }

/-- The lanes of a warp that hold threads (R11). -/
def laneHeld (p : Prog) (prot : Bool) (l : Nat) : Bool := prot || l < p.width

/-- The thread index that a lane holds (R11). -/
def threadIndex (prot : Bool) (l : Nat) : Nat := if prot then l / 2 else l

/-- The first uniform registers of a fired launch (R24). -/
def startRegs (p : Prog) (fired : Option Fired) : List SReg :=
  let z : List SReg := List.replicate p.sregs {}
  match fired with
  | none => z
  | some f => setAt (setAt (setAt z 0 { val := BitVec.ofNat 32 f.s0 }) 1 { val := BitVec.ofNat 32 f.s1 }) 2
      { val := BitVec.ofNat 32 f.s2 }

def newWarp (l : Launch) (j w : Nat) : Warp :=
  let p := l.prog
  { threads := (List.range 32).map fun i =>
      if laneHeld p l.node.prot i then
        newThread p (Config.tlsBase l.ctx l.number j w (threadIndex l.node.prot i))
      else Thread.gone
    s := startRegs p l.fired, decl := p.lease }

/-- Team `j` of a launch, claimed. -/
def newTeam (l : Launch) (id j cl co : Nat) : Team :=
  { id := id, launch := l.id, ctx := l.ctx, index := j, prog := l.prog, place := .claimed cl co, started := false
    warps := (List.range l.prog.warpCount).map (newWarp l j)
    scratch := match l.fired with
      | some f => Memory.writeBytes [] 0 f.image
      | none => []
    tileSlot := match l.cause with
      | .tileProg p k => some (p, k)
      | _ => none }

/-! ### Placing and starting (R53, R54, R61, R62, R390) -/

def State.updPlace (s : State) (tm : Nat) (p : Place) : State := s.updTeam tm fun t => { t with place := p }

/-- Granules of a run that the team's own context used last: their content is unspecified (R390). -/
def Core.staleIn (k : Core) (ctx run len : Nat) : List Nat :=
  (List.range (len / 4096)).filter fun g => k.users.any fun u => u.1 == run / 4096 + g && u.2 == ctx

def Core.use (k : Core) (ctx run len : Nat) : Core :=
  let gs := (List.range (len / 4096)).map (run / 4096 + ·)
  { k with users := gs.map (fun g => (g, ctx)) ++ k.users.filter fun u => !gs.contains u.1 }

/-- The core runs the context: its root is loaded (R56). -/
def State.loadRoot (s : State) (cl co ctx : Nat) : State :=
  s.updCore cl co fun k => { k with ctx := ctx, troot := BitVec.ofNat 64 (s.context ctx).root }

/-- Give a claimed team its resources on a core. A batch stands in the scratchpad before any warp starts (R24). -/
def State.placeTeam (s : State) (tm cl co : Nat) (a : Assign) : State :=
  match s.team? tm with
  | none => s
  | some t =>
    let len := t.prog.runLen
    let gs := (s.core cl co).staleIn t.ctx a.run len
    let (s, age) := s.fresh
    let k := s.free
    let s := { s with free := s.free + if gs.isEmpty then 0 else 262144 }
    let s := (s.updCore cl co (·.use t.ctx a.run len)).loadRoot cl co t.ctx
    let s := s.updTeam tm fun t => { t with
      place := .resident cl co, slots := a.slots, run := a.run, age := age, started := false
      stale := if gs.isEmpty then none else some (k, gs) }
    -- the batch was laid out against zeros
    match (s.launch? t.launch).bind (·.fired) with
    | some f => (s.updTeam tm fun t => { t with scratch := [] }).writeScratch tm 0 f.image
    | none => s

/-- Start a placed team, anew or after a save: a device-scope acquire of every thread (R292, R293). Which of its warps are
active the next activation step says (R72). -/
def State.startTeam (s : State) (tm cl : Nat) : State :=
  let now := s.time
  let s := s.updCluster cl fun c => { c with starts := c.starts + 1 }
  s.updTeam tm fun t => { t with
    started := true
    warps := t.warps.map fun (w : Warp) => { w with winStart := (s.cluster cl).r.clk, active := false
                                                    threads := w.threads.map fun (th : Thread) =>
      { th with tacq := max th.tacq now, waitSince := if th.wait.kindSwaps then some now else none } } }

/-- Teams of a cluster that wait to start, each with its cohort, in order of placement. -/
def State.waitingStarts (s : State) (cl : Nat) : List (List Team) :=
  let ts := (s.teams.filter fun t => !t.started && !t.killed && t.saving.isNone && match t.place with
    | .resident c _ => c == cl
    | _ => false) |> sortBy fun a b => a.age ≤ b.age
  ts.filterMap fun t =>
    let whole := t.prog.cohort ≤ 1 || (s.cohortOf t).all fun u => u.killed || match u.place with
      | .resident .. | .gone => true
      | _ => false
    let co := if t.prog.cohort ≤ 1 then [t] else ts.filter fun u =>
      u.launch == t.launch && u.index / u.prog.cohort == t.index / t.prog.cohort
    if whole && (co.headD t).id == t.id then some co else none

/-- Start teams while the window admits them: a cohort whole, also in a window that has started none (R54, R65). -/
def startAll (cl : Nat) : List (List Team) → State → State
  | [], s => s
  | g :: gs, s =>
    let c := s.cluster cl
    let n := g.length
    if c.starts + n ≤ c.r.rampCur then startAll cl gs (g.foldl (fun s t => s.startTeam t.id cl) s)
    else if n > 1 ∧ c.starts = 0 then
      (g.foldl (fun s t => s.startTeam t.id cl) s).updCluster cl fun c => { c with starts := max c.starts c.r.rampCur }
    else s

def State.rampStart (s : State) (cl : Nat) : State := startAll cl (s.waitingStarts cl) s

/-- The cluster holds a user team. -/
def State.anyTeam (s : State) (cl : Nat) : Bool :=
  s.teams.any fun t => !t.priv && match t.place with
    | .resident c _ => c == cl
    | _ => false

/-- One window boundary of the ramp (R54); a written value takes effect first. Whether the cluster held a user team is looked
at as the window ends, which R54 leaves open (DESIGN CHOICE, log 29). -/
def State.rampBoundary (s : State) (cl : Nat) : State :=
  let held := s.anyTeam cl
  s.updCluster cl fun c =>
    let r := match c.rampNext with
      | some (ceil, step, init) => { c.r with rampCeil := ceil, rampStep := step, rampInit := init }
      | none => c.r
    let cur := if c.starts ≥ r.rampCur then min r.rampCeil (r.rampCur + r.rampStep)
      else if c.starts = 0 ∧ !held then r.rampInit else r.rampCur
    { c with r := { r with rampCur := cur }, rampNext := none, starts := 0, window := c.window + 1 }

/-- RAMP_WINDOW of the target's cluster: the boundaries of 1 us that have passed. -/
def execRampWindow (s : State) : Out :=
  let cl := s.target.cl
  let k := s.time / 1000 - (s.cluster cl).window
  .next (if k = 0 then s else
    let s := s.rampBoundary cl
    let s := if k > 1 then s.rampBoundary cl else s
    (s.updCluster cl fun c => { c with window := s.time / 1000 }).rampStart cl)

/-! ### The turn of a context (R57) -/

/-- The members of a team's cohort that are still there, or the team alone. -/
def State.unitOf (s : State) (t : Team) : List Team :=
  if t.prog.cohort ≤ 1 then [t] else (s.cohortOf t).filter fun u => u.place != .gone && !u.killed

/-- A saved team of a context's resume list whose cohort no agent has taken up. -/
def State.resumable (s : State) (t : Team) : Bool :=
  t.place == .saved && !t.killed && !(s.clusters.any fun c => c.cohorts.any fun k => k.launch == t.launch && k.requeued
    && k.first / t.prog.cohort == t.index / t.prog.cohort)

/-- A context's resume list, oldest save first (R63). -/
def State.resumeList (s : State) (ctx : Nat) : List Team :=
  (s.teams.filter fun t => t.ctx == ctx && s.resumable t) |> sortBy fun a b => a.saveSeq ≤ b.saveSeq

/-- A started launch with unclaimed teams. -/
def Launch.hasTickets (l : Launch) : Bool := l.phase == .running && l.next < l.total

/-- A tile program's launch runs on its tile's cluster while that serves its context (R338, R340). -/
def State.mayUse (s : State) (l : Launch) (cl : Nat) : Bool :=
  match l.cause with
  | .tileProg p k =>
    let home := ((s.pass? p).bind fun p => (p.tiles[k]?).map (·.cl)).getD cl
    home == cl || !s.serves l.ctx home
  | _ => true

/-- The context has work for a cluster: a team there, a ticket there, a saved team, or unclaimed teams. -/
def State.hasWork (s : State) (ctx cl : Nat) : Bool :=
  let c := s.cluster cl
  let mine (k : Ticket) : Bool := ((s.launch? k.launch).map (·.ctx)) == some ctx
  s.teams.any (fun t => !t.priv && t.ctx == ctx && match t.place with
    | .resident k _ => k == cl
    | _ => false)
  || (s.serves ctx cl && (c.hands.any mine || c.placing.any mine || c.cohorts.any mine
    || s.teams.any (fun t => t.ctx == ctx && t.place == .saved && !t.killed)
    || s.launches.any fun l => l.ctx == ctx && l.hasTickets && s.mayUse l cl))

/-- Contexts with work for a cluster, ascending. -/
def State.workers (s : State) (cl : Nat) : List Nat :=
  (((s.teams.map (·.ctx)) ++ s.launches.map (·.ctx)).eraseDups |> sortBy (· ≤ ·)).filter fun x => s.hasWork x cl

/-- The next context after `c` in round-robin order. -/
def nextCtx (ws : List Nat) (c : Nat) : Option Nat := (ws.find? (c < ·)).or ws.head?

/-- Begin a turn. -/
def State.beginTurn (s : State) (cl ctx : Nat) : State :=
  let s := s.updCluster cl fun c => { c with turn := some (ctx, s.time + (s.context ctx).slice * 1000000) }
  (s.liveCores cl).foldl (fun s co => if (s.core cl co).ctx = ctx then s.loadRoot cl co ctx else s) s

/-- The context whose turn it is; a turn begins when none runs, and one without work passes at once. -/
def State.takeTurn (s : State) (cl : Nat) : State × Option Nat :=
  let ws := s.workers cl
  match (s.cluster cl).turn with
  | some (c, e) =>
    if ws.contains c then (s, some c)
    else match nextCtx ws c with
      | some d => (s.beginTurn cl d, some d)
      | none => (s.updCluster cl fun k => { k with turn := some (c, e) }, none)
  | none =>
    match ws.head? with
    | some d => (s.beginTurn cl d, some d)
    | none => (s, none)

/-! ### Saving (R386 to R389, R293) -/

/-- Move the cycle stamps of a team's timers. The stamps lie above `clkBase` (`State.clkOf`), far above any sr.clk, so that
taking a cluster's sr.clk away loses nothing of what they have counted. -/
def Team.shiftClk (t : Team) (f : Nat → Nat) : Team :=
  let wait (w : Wait) : Wait := match w with
    | .meeting x => .meeting (f x)
    | .pair x a => .pair (f x) a
    | w => w
  let ab (a : Absorb) : Absorb := { a with since := f a.since }
  { t with
    mixedSince := t.mixedSince.map f
    warps := t.warps.map fun (w : Warp) => { w with
      mismatchSince := w.mismatchSince.map f, ab := ab w.ab
      threads := w.threads.map fun (th : Thread) => { th with wait := wait th.wait, ab := ab th.ab } } }

/-- An operation of the team stands in a matrix queue of its core. -/
def State.matWork (s : State) (tm cl co : Nat) : Bool :=
  [0, 1, 2, 3].any fun q => (s.matQueue cl co q).any (·.team == tm)

/-- One round over a team's loads, stores and matrix operations in flight; the queues of all quadrants move on, since an
operation can stand behind another team's (R299, R320). -/
def State.pumpOnce (s : State) (tm cl co : Nat) : State :=
  let s := (s.stores.filter (·.team == tm)).foldl (fun s o =>
    match s.store? o.id with
    | some o => s.translateStep o
    | none => s) s
  let s := (s.stores.filter (·.team == tm)).foldl (fun s o =>
    match s.store? o.id with
    | some o => s.homeStep o
    | none => s) s
  let s := (s.core cl co).misses.foldl (fun s m =>
    if s.loads.any fun o => o.dst.team == tm && o.st == .missed && sectorKey o.xl.key == m.key then s.fill cl co m else s) s
  let s := if s.matWork tm cl co then [0, 1, 2, 3].foldl (fun s q => s.matStep cl co q) s else s
  (s.loads.filter (·.dst.team == tm)).foldl (fun s o =>
    match s.load? o.id with
    | some o => s.loadStep o
    | none => s) s

def State.pump (s : State) (tm cl co : Nat) : Nat → State
  | 0 => s
  | n + 1 => (s.pumpOnce tm cl co).pump tm cl co n

/-- Rounds that suffice to complete what can complete. -/
def State.pumpRounds (s : State) (tm cl co : Nat) : Nat :=
  4 + (s.loads.filter (·.dst.team == tm)).length + (s.stores.filter (·.team == tm)).length
    + ((s.core cl co).matq.map (·.length)).foldl (· + ·) 0

/-- Bytes that a saved team takes of the save region (log 8): the layout is the firmware's. -/
def Prog.saveSize (p : Prog) : Nat :=
  p.scratch + p.warpCount * (32 * (4 * p.vregs + 512) + 4 * p.sregs + 512) + 4 * p.acc * 8192 + 4 * p.planes * 4096

/-- The team has room in the save region: it is saved, or its save is under way. A kill frees it (R391). -/
def Team.inRegionOfSaves (t : Team) : Bool :=
  !t.killed && (t.saving.isSome || match t.place with
    | .saved | .swapped _ => true
    | _ => false)

/-- Room is left in the save region (R389). -/
def State.saveRoom (s : State) (ts : List Team) : Bool :=
  let size (l : List Team) : Nat := l.foldl (fun n t => n + t.prog.saveSize) 0
  size (s.teams.filter (·.inRegionOfSaves)) + size ts ≤ s.saveBytes

/-- A wait that a save ends, so that the thread tries its word again. -/
def Wait.saved : Wait → Wait
  | .retry | .regs | .stream | .mshr | .pool => .none
  | w => w

/-- The team's state holds an uncorrectable error. -/
def Team.anyBad (t : Team) : Bool :=
  !t.scratchBad.isEmpty || t.tiles.any (·.2.bad) || t.planes.any (·.2.bad)

/-- A save begins (R388): issue stops, and copies, streams and queries stop at their next boundary. -/
def State.beginSave (s : State) (tm : Nat) (dest : Place) : State :=
  (s.dissolve tm).updTeam tm fun t => { t with saving := some dest, started := false }

/-- Pages that an entry's teams still miss: its missing-page count (R79). -/
def State.watchPages (s : State) (e : WakeEntry) : Nat :=
  (e.team :: e.cohort).eraseDups.foldl (fun n u => n + s.missingPages u) 0

/-- The entry of a swapped-out team counts the pages that its work in flight has come to miss since (R79). -/
def State.noteMissing (s : State) (tm cl : Nat) : State :=
  s.updCluster cl fun c => { c with watch := c.watch.map fun (e : WakeEntry) =>
    if e.team == tm || e.cohort.contains tm then
      { e with fault := e.fault || s.watchPages e != 0 }
    else e }

/-- The save of a team on a core completes: its state is kept, and its resources are free (R388). -/
def State.saveOne (s : State) (tm cl co : Nat) (dest : Place) : State :=
  match s.team? tm with
  | none => s
  | some t =>
    if t.anyBad then s.machineCheck t.launch 0x18 else
    let s := s.noteMissing tm cl
    let clk := (s.cluster cl).r.clk
    let gens := (s.cluster cl).qgen
    let (s, seq) := s.fresh
    let qs := (s.cluster cl).queries.filter (·.team == tm)
    let s := s.updCluster cl fun c => { c with queries := c.queries.filter fun (q : Query) => q.team != tm }
    let s := s.updCore cl co fun k => { k with
      victims := k.victims.filter fun (v : Nat × Nat) => !t.slots.contains v.2
      ready := k.ready.filter fun r => r.1 != tm }
    s.updTeam tm fun t =>
      let t := t.shiftClk (· - clk)
      { t with
        place := dest, slots := [], saving := none, saveSeq := seq, savedQueries := qs, savedGens := gens
        warps := t.warps.map fun (w : Warp) => { w with
          boostLines := 0, boostExp := 0, sketch := [], winLost := 0
          threads := w.threads.map fun (th : Thread) => { th with wait := th.wait.saved, waitSince := none } } }

/-- A team that may be saved: a user team on a core that has threads left and no save under way (R58). -/
def Team.savable (t : Team) : Bool := !t.priv && !t.draining && t.at?.isSome && t.saving.isNone

/-- What a save has started is over: the release of every thread has completed (R293). What an absent page holds stays held,
and is saved (R388). -/
def Team.released (t : Team) (now : Nat) : Bool := t.warps.all fun w => w.threads.all fun th => th.horizon ≤ now

/-- A store of the team is on its way to its home, also one that another team's store keeps waiting, or an operation of the
team stands in a matrix queue of its core (R293, R320). -/
def State.workOut (s : State) (t : Team) : Bool :=
  (s.stores.any fun o => o.team == t.id && (o.st == .translated || (o.st == .issued && s.storeTurn o)))
    || (t.at?).any fun p => s.matWork t.id p.1 p.2

/-- The save of a team and its cohort goes on: their work in flight is taken as far as it goes, and when every release has
completed they leave their cores together (R66, R293, R388). -/
def State.trySave (s : State) (tm : Nat) : State :=
  match s.team? tm with
  | none => s
  | some t =>
    let us := (s.unitOf t).filter (·.saving.isSome)
    let s := us.foldl (fun s u => match u.at? with
      | some (cl, co) => s.pump u.id cl co (s.pumpRounds u.id cl co)
      | none => s) s
    if !(us.all fun u => (s.team? u.id).any fun t => t.released s.time && !s.workOut t) then s
    else us.foldl (fun s u => match u.at?, u.saving with
      | some (cl, co), some d => s.saveOne u.id cl co d
      | _, _ => s) s

/-- Save a team with its cohort (R66): the save begins, and completes at once when nothing holds it up; `false` when the save
region is full, which is counted (R389). -/
def State.saveUnit (s : State) (t : Team) (dest : Nat → Place) : State × Bool :=
  let us := (s.unitOf t).filter (·.savable)
  if !s.saveRoom us then
    ({ s with health := { s.health with saveFull := s.health.saveFull + 1 } }, false)
  else
    ((us.foldl (fun s u => match u.at? with
      | some (cl, _) => s.beginSave u.id (dest cl)
      | none => s) s).trySave t.id, true)

/-! ### Resuming (R63, R66, R293) -/

/-- The generations of a ray unit's slots come as far as those of the unit that a team's queries come from, so that no
handle of the team's own is stale and names a new query (R370). -/
def mergeGens (here there : List (Nat × Nat)) : List (Nat × Nat) :=
  there.foldl (fun l g => match l.find? fun x => x.1 == g.1 with
    | some x => (g.1, max x.2 g.2) :: l.filter fun x => x.1 != g.1
    | none => g :: l) here

/-- Restore a saved or swapped-out team onto a core. Its queries keep their handles (R375). -/
def State.resumeTeam (s : State) (tm cl co : Nat) (a : Assign) : State :=
  match s.team? tm with
  | none => s
  | some t =>
    let clk := (s.cluster cl).r.clk
    let (s, age) := s.fresh
    let s := (s.updCore cl co (·.use t.ctx a.run t.prog.runLen)).loadRoot cl co t.ctx
    let s := s.updCluster cl fun c => { c with queries := c.queries ++ t.savedQueries, qgen := mergeGens c.qgen t.savedGens }
    let s := { s with
      loads := s.loads.map fun (o : LoadOp) => if o.dst.team == tm then
        { o with cl := cl, co := co, st := if o.st == LoadState.missed then LoadState.unbound else o.st } else o
      stores := s.stores.map fun (o : StoreOp) => if o.team == tm then { o with cl := cl, co := co } else o }
    s.updTeam tm fun t => { t.shiftClk (· + clk) with
      place := .resident cl co, slots := a.slots, run := a.run, age := age, started := false, savedQueries := []
      savedGens := [] }

/-- Give a team of a list its place, new or restored. -/
def State.settle (s : State) (tm cl co : Nat) (a : Assign) : State :=
  match s.team? tm with
  | some t =>
    match t.place with
    | .saved | .swapped _ => if t.savedBad then s.machineCheck t.launch 0x18 else s.resumeTeam tm cl co a
    | .claimed .. => s.placeTeam tm cl co a
    | _ => s
  | none => s

/-- What TCTL place and TCTL resume do on a core when the team fits there: it gets its resources, and its warps start under the
ramp. An agent does the same with every team that it places (R42, R394). -/
def State.give (s : State) (t : Team) (cl co : Nat) : Option State :=
  (roomFor (s.residents cl co) t.prog).map fun a => (s.settle t.id cl co a).rampStart cl

/-- Try a team on one core; the core must be in service for its context. -/
def State.tryCore (s : State) (tm cl co : Nat) : Option State :=
  match s.team? tm with
  | none => none
  | some t =>
    if !s.coreOn cl co || !s.serves t.ctx cl then none
    else s.give t cl co

/-! ### The placement list (R61, R62) -/

def placeList : Nat := 16
def dependList : Nat := 64

/-- The team of a ticket. -/
def State.ticketTeam (s : State) (k : Ticket) : Option Team :=
  s.teams.find? fun t => t.launch == k.launch && t.index == k.first && t.place != .gone && !t.killed

/-- A cohort holds the cluster's reservation: its agents place no other team (R65). What is left of a cohort whose members
stand there needs no reservation of its own (`tryCohort`). -/
def Cluster.reserved (c : Cluster) : Bool := c.resv.busy

/-- Enter a ticket in the placement list: re-queued teams before those not yet tried. -/
def enterList (k : Ticket) (l : List Ticket) : List Ticket :=
  if k.requeued then l.takeWhile (·.requeued) ++ [k] ++ l.dropWhile (·.requeued) else l ++ [k]

/-- Place every ticket of a list that fits on one of the cores, oldest first; the others stay. -/
def placeTickets (cl ctx : Nat) (cores : List Nat) : List Ticket → State → State × List Ticket
  | [], s => (s, [])
  | k :: ks, s =>
    let stay (s : State) : State × List Ticket := match placeTickets cl ctx cores ks s with
      | (s, r) => (s, k :: r)
    match s.ticketTeam k with
    | none => placeTickets cl ctx cores ks s
    | some t =>
      if t.ctx ≠ ctx then stay s
      else match cores.findSome? fun co => s.tryCore t.id cl co with
        | some s => placeTickets cl ctx cores ks s
        | none => stay s


/-! ### Cohorts (R64 to R66) -/

def Ticket.coh (k : Ticket) (p : Prog) : Nat := k.first / p.cohort

/-- Members of the cohort of a ticket. -/
def State.cohortTeams (s : State) (k : Ticket) : List Team :=
  match s.launch? k.launch with
  | none => []
  | some l => (s.teams.filter fun t => t.launch == k.launch && t.index / l.prog.cohort == k.coh l.prog && !t.killed
      && t.place != .gone) |> sortBy fun a b => a.index ≤ b.index

/-- The cluster on which members of the ticket's cohort already stand (R65, R66). -/
def State.cohortHome (s : State) (k : Ticket) : Option Nat := (s.cohortTeams k).findSome? fun t => t.at?.map (·.1)

/-- The reservation is a ticket's. -/
def Reservation.isFor (r : Reservation) (l : Launch) (k : Ticket) : Bool :=
  r.busy && r.ctx == l.ctx && r.launch == l.number % 2 ^ 32 && r.coh == k.coh l.prog % 2 ^ 16

/-- Drop a cohort ticket from the cluster that keeps it. -/
def State.dropCohort (s : State) (k : Ticket) : State :=
  { s with clusters := s.clusters.map fun (c : Cluster) =>
      { c with cohorts := c.cohorts.filter fun (x : Ticket) => !(x.launch == k.launch && x.first == k.first) } }

def State.clearResv (s : State) (cl : Nat) : State := s.updCluster cl fun c => { c with resv := {} }

/-- The reservation of a cluster ends when it is a ticket's. -/
def State.clearResvOf (s : State) (cl : Nat) (k : Ticket) : State :=
  match s.launch? k.launch with
  | some l => if (s.cluster cl).resv.isFor l k then s.clearResv cl else s
  | none => s

/-- Place on a cluster those of a cohort's teams that do not stand there, when they fit together (R65). -/
def State.placeCohort (s : State) (cl : Nat) (k : Ticket) : Option State :=
  let ts := (s.cohortTeams k).filter (·.at?.isNone)
  match ts with
  | [] => some ((s.dropCohort k).clearResvOf cl k)
  | t :: _ =>
    (planTeams t.prog ts.length (((s.liveCores cl).filter (s.agentLive cl ·)).map fun co => (co, s.residents cl co))).map
      fun plan =>
        let s := (ts.zip plan).foldl (fun s x => s.settle x.1.id cl x.2.1 x.2.2) s
        ((s.dropCohort k).clearResvOf cl k).rampStart cl

/-- All cohort tickets of the chip, with the cluster that keeps each. -/
def State.cohortTickets (s : State) : List (Nat × Ticket) :=
  (s.clusters.zipIdx).flatMap fun (c, cl) => c.cohorts.map fun k => (cl, k)

/-- The ticket that holds a cluster's reservation. -/
def State.resvTicket (s : State) (cl : Nat) : Option Ticket :=
  (s.cohortTickets.find? fun x => match s.launch? x.2.launch with
    | some l => (s.cluster cl).resv.isFor l x.2
    | none => false).map (·.2)

/-- Try to place the cohort that holds a cluster's reservation, in its context's turn. -/
def State.tryResv (s : State) (cl : Nat) : State :=
  if !(s.cluster cl).reserved then s else
  match s.resvTicket cl with
  | none => s.clearResv cl
  | some k =>
    match s.takeTurn cl with
    | (s, some ctx) => if (s.cluster cl).resv.ctx = ctx then (s.placeCohort cl k).getD s else s
    | (s, none) => s

/-- Set the reservation word of a cluster for a ticket. -/
def State.reserve (s : State) (cl : Nat) (k : Ticket) (l : Launch) (holder : Nat) : State :=
  s.updCluster cl fun c => { c with resv := { busy := true, ctx := l.ctx, launch := l.number % 2 ^ 32
                                              coh := k.coh l.prog % 2 ^ 16, since := s.time, holder := holder } }

/-- A cluster takes a context's teams now: its turn, or no turn, stands there. -/
def State.turnOf (s : State) (cl ctx : Nat) : Bool :=
  match (s.takeTurn cl).2 with
  | some x => x == ctx
  | none => true

/-- Try the reservation words of the clusters in the mask, the agent's own cluster first, in the context's turn. A re-queued
cohort of which members stand on a cluster goes there, whoever holds the reservation (R65, R66). -/
def State.tryCohort (s : State) (cl : Nat) (k : Ticket) : State :=
  match s.launch? k.launch with
  | none => s.dropCohort k
  | some l =>
    if s.time < k.after ∨ s.clusters.any fun c => c.resv.isFor l k then s else
    match s.cohortHome k with
    | some c => if s.turnOf c l.ctx then ((s.takeTurn c).1.placeCohort c k).getD s else s
    | none =>
    let n := (s.cohortTeams k).length
    let order := cl :: (List.range s.clusters.length).filter (· != cl)
    match order.find? fun c => s.serves l.ctx c && !(s.cluster c).reserved && s.holds c l.prog n && s.turnOf c l.ctx with
    | none => s
    | some c => ((s.takeTurn c).1.reserve c k l (16 * cl + k.co)).tryResv c

/-- COHORT_RESERVE_RETRY: the cohort tickets of the target's cluster that hold no reservation. -/
def execCohortReserveRetry (s : State) : Out :=
  let cl := s.target.cl
  .next ((s.cluster cl).cohorts.foldl (fun s k => s.tryCohort cl k) s)

/-! ### The lists of a cluster (R61 to R63) -/

/-- An agent holds a cohort ticket that it has not placed, in a dependence list or on its way to a reservation (R43). -/
def State.holdsCohort (s : State) (cl co : Nat) : Bool :=
  let c := s.cluster cl
  c.cohorts.any (·.co == co) || c.depend.any fun k => k.co == co && (s.launch? k.launch).any fun l => l.prog.cohort > 1

/-- An agent of some cores that holds no cohort ticket. -/
def State.freeAgent (s : State) (cl : Nat) (cores : List Nat) : Option Nat :=
  cores.find? fun co => s.agentLive cl co && !s.holdsCohort cl co

/-- The teams of a context's resume list that a cluster may take: they may run there, and an empty cluster holds them. -/
def State.resumeHere (s : State) (cl ctx : Nat) : List Team :=
  if s.serves ctx cl then
    (s.resumeList ctx).filter fun t => (s.launch? t.launch).all (s.mayUse · cl) && s.holds cl t.prog (s.unitOf t).length
  else []

/-- Restore a team of a context's resume list on some cores, or take its cohort up, when no other agent has (R43, R63). While a
cohort holds the cluster's reservation no single team is placed there, be it one taken up just before (R65). -/
def State.tryResume (s : State) (cl : Nat) (cores : List Nat) (t : Team) : State :=
  if !s.resumable t then s
  else if t.prog.cohort ≤ 1 then if (s.cluster cl).reserved then s else (cores.findSome? fun co => s.tryCore t.id cl co).getD s
  else match s.freeAgent cl cores with
  | none => s
  | some co =>
    let k : Ticket := { launch := t.launch, first := t.index / t.prog.cohort * t.prog.cohort, co := co, requeued := true }
    (s.updCluster cl fun c => { c with cohorts := c.cohorts ++ [k] }).tryCohort cl k

/-- Agents of some cores take teams: those of the resume list, the oldest save first, and once none is left there those of
the placement list (R61, R63). -/
def State.retryList (s : State) (cl : Nat) (cores : List Nat) : State :=
  if (s.cluster cl).reserved then s else
  match s.takeTurn cl with
  | (s, some ctx) =>
    let cores := cores.filter (s.agentLive cl ·)
    let s := (s.resumeHere cl ctx).foldl (fun s t => s.tryResume cl cores t) s
    if !(s.resumeHere cl ctx).isEmpty || (s.cluster cl).reserved then s else
    match placeTickets cl ctx cores (s.cluster cl).placing s with
    | (s, rest) => s.updCluster cl fun c => { c with placing := rest }
  | (s, none) => s

/-- After a departure every agent of the cluster tries again (R61, R65). -/
def State.afterDeparture (s : State) (cl : Nat) : State :=
  let s := s.tryResv cl
  let s := s.retryList cl (s.liveCores cl)
  s.rampStart cl

/-- A save is under way on the cluster. -/
def State.savingOn (s : State) (cl : Nat) : Bool := s.teams.any fun t => t.saving.isSome && t.at?.any (·.1 == cl)

/-- Pre-empt resident user teams, the most recently placed first, until the cohort fits; `false` when the save region is
full (R65). While a save goes on nothing more is pre-empted. -/
def State.makeRoom (s : State) (cl : Nat) (k : Ticket) : Nat → State × Bool
  | 0 => (s, true)
  | n + 1 =>
    match s.placeCohort cl k with
    | some s => (s, true)
    | none =>
      if s.savingOn cl then (s, true) else
      let ts := (s.teams.filter fun t => t.savable && match t.place with
        | .resident c _ => c == cl
        | _ => false) |> sortBy fun a b => b.age ≤ a.age
      match ts with
      | [] => (s, true)
      | t :: _ =>
        match s.saveUnit t fun _ => .saved with
        | (s, true) => s.makeRoom cl k n
        | (s, false) => (s, false)

/-- COHORT_MAKE_ROOM on the target's cluster, 100 us after its reservation was taken. -/
def execCohortMakeRoom (s : State) : Out :=
  let cl := s.target.cl
  let c := s.cluster cl
  .next (if !c.reserved ∨ s.time < c.resv.since + 100000 then s else
    match s.resvTicket cl, (s.takeTurn cl).2 with
    | some k, some ctx =>
      if c.resv.ctx ≠ ctx then s else
      (match s.makeRoom cl k (s.teams.length + 1) with
      | (s, true) => s
      | (s, false) =>
        (s.clearResv cl).updCluster (c.resv.holder / 16) fun h => { h with cohorts := h.cohorts.map fun (x : Ticket) =>
          if x.launch == k.launch && x.first == k.first then { x with after := s.time + 100000 } else x })
    | _, _ => s)

/-! ### Dependences (R27, R44) -/

/-- Producer teams that consumer team `j` needs. -/
def Launch.needs (l : Launch) (producers j : Nat) : List Nat :=
  let lo : Int := l.node.alpha * j + l.node.beta
  (List.range producers).filter fun (i : Nat) => lo ≤ i && (i : Int) < lo + l.node.gamma

/-- The needed completion bits of team `j` are set; an empty range needs none (R27). What software stores over the bitmap
has no effect on the test (log 74). -/
def State.depMet (s : State) (l : Launch) (j : Nat) : Bool :=
  match l.producer.bind s.launch? with
  | none => true
  | some p => p.phase == .done || (l.needs (if p.started then p.total else l.prodTeams) j).all (p.doneTeams.contains ·)

/-- The placement of a consumer on a producer's bits ends the producer's replayability, which its command records, also
when the launch has completed (R41, R396). -/
def State.noteConsumer (s : State) (l : Launch) (j : Nat) : State :=
  match l.producer.bind s.launch? with
  | none => s
  | some p =>
    if (l.needs p.total j).isEmpty then s
    else (s.updLaunch p.id fun p => { p with replayable := false }).updCommand p.cmd fun c => { c with noReplay := true }

/-- Test the held teams of a cluster again. -/
def State.dependRecheck (s : State) (cl : Nat) : State :=
  let c := s.cluster cl
  let s := c.depend.foldl (fun s k =>
    match s.launch? k.launch with
    | none => s
    | some l =>
      let free (c : Cluster) : Cluster :=
        { c with depend := c.depend.filter fun (x : Ticket) => !(x.launch == k.launch && x.first == k.first) }
      let js := (List.range (max 1 l.prog.cohort)).map (k.first + ·)
      if !(js.all fun j => s.depMet l j) then s
      else if l.prog.cohort > 1 then
        ((js.foldl (fun s j => s.noteConsumer l j) s).updCluster cl fun c =>
          { free c with cohorts := c.cohorts ++ [k] }).tryCohort cl k
      else if (s.cluster cl).placing.length < placeList then
        (s.noteConsumer l k.first).updCluster cl fun c =>
          { free c with placing := enterList { k with requeued := true } c.placing }
      else s) s
  s.retryList cl (s.liveCores cl)

/-- DEPENDENCE_RECHECK of the target's cluster. -/
def execDependenceRecheck (s : State) : Out := .next (s.dependRecheck s.target.cl)

/-! ### Entries that fire (R62, R80) -/

/-- An entry fires, once the save that took it is complete (R81). -/
def State.watchDue (s : State) (e : WakeEntry) : Bool :=
  (s.team? e.team).all (·.saving.isNone)
    && ((e.fault && s.watchPages e == 0) || match e.wake with
      | some d => d ≤ s.time
      | none => false)

/-! ### Tickets (R43, R61) -/

/-- The launch whose tickets come next for a context: the highest priority, then the oldest start. -/
def State.nextLaunch (s : State) (ctx cl : Nat) : Option Launch :=
  (s.launches.filter fun l => l.ctx == ctx && l.hasTickets && s.mayUse l cl).foldl (fun (b : Option Launch) l => match b with
    | none => some l
    | some x => if x.node.prio < l.node.prio ∨ (x.node.prio = l.node.prio ∧ l.order < x.order) then some l else some x) none

/-- Claim `n` team tickets of a launch. -/
def State.claimTeams (s : State) (l : Launch) (n cl co : Nat) : State :=
  let s := s.updLaunch l.id fun l => { l with next := l.next + n }
  (List.range n).foldl (fun s k =>
    let (s, id) := s.fresh
    { s with teams := s.teams ++ [newTeam l id (l.next + k) cl co] }) s

/-- The core after `co` in the ring that exists (R61). -/
def State.ringNext (s : State) (cl co : Nat) : Nat :=
  let n := (s.cluster cl).cores.length
  (((List.range n).map fun k => (co + 1 + k) % n).find? fun k => (s.core cl k).exists_).getD co

/-- A claimed single team: placed here, or handed round the ring. -/
def State.firstTry (s : State) (tm cl co : Nat) (k : Ticket) : State :=
  match s.tryCore tm cl co with
  | some s => s
  | none => s.updCluster cl fun c =>
      { c with hands := c.hands ++ [{ k with co := s.ringNext cl co, tried := 1 }] }

/-- An agent takes a new ticket of a context. A cohort ticket whose producers are not done takes one entry of the dependence
list for the whole cohort (log 65). -/
def State.takeTicket (s : State) (cl co ctx : Nat) : State :=
  let c := s.cluster cl
  match s.nextLaunch ctx cl with
  | none => s
  | some l =>
    if c.placing.length ≥ placeList ∨ (l.producer.isSome ∧ c.depend.length ≥ dependList) then s
    else if l.prog.cohort > 1 then
      if s.holdsCohort cl co then s else
      let k : Ticket := { launch := l.id, first := l.next, co := co }
      let s := s.claimTeams l l.prog.cohort cl co
      if (List.range l.prog.cohort).all fun i => s.depMet l (l.next + i) then
        (((List.range l.prog.cohort).foldl (fun s i => s.noteConsumer l (l.next + i)) s).updCluster cl fun c =>
          { c with cohorts := c.cohorts ++ [k] }).tryCohort cl k
      else s.updCluster cl fun c => { c with depend := c.depend ++ [k] }
    else if c.reserved ∨ !((s.liveCores cl).any fun k => (roomFor (s.residents cl k) l.prog).isSome) then s
    else
      let k : Ticket := { launch := l.id, first := l.next, co := co }
      let s := s.claimTeams l 1 cl co
      match s.ticketTeam k with
      | none => s
      | some t =>
        if s.depMet l k.first then (s.noteConsumer l k.first).firstTry t.id cl co k
        else s.updCluster cl fun c => { c with depend := c.depend ++ [k] }

/-- TEAM_TICKET_CLAIM by the agent of the target's core: the resume list, the placement list, then a new ticket (R61,
R63). -/
def execTeamTicketClaim (s : State) : Out :=
  let cl := s.target.cl
  let co := s.target.co
  .next (if !s.agentLive cl co || !s.coreOn cl co then s else
    match s.takeTurn cl with
    | (s, none) => s
    | (s, some ctx) =>
      let s := s.retryList cl [co]
      if s.serves ctx cl && (s.resumeHere cl ctx).isEmpty then s.takeTicket cl co ctx else s)

/-- A re-queued team waits for an entry of the full placement list, and takes the first that is free ahead of a team not yet
tried (R62): one whose wake-watch entry is due, or whose dependence bits are set. -/
def State.listWaits (s : State) (cl : Nat) : Bool :=
  (s.cluster cl).watch.any (fun e => s.watchDue e && (s.team? e.team).any (·.prog.cohort ≤ 1))
    || (s.cluster cl).depend.any fun k => (s.launch? k.launch).any fun l => l.prog.cohort ≤ 1 && s.depMet l k.first

/-- TEAM_PASS of the claimed team `team` in the target's cluster: the agent it has reached tests its core. -/
def execTeamPass (s : State) : Out :=
  let cl := s.target.cl
  .next (match (s.cluster cl).hands.find? fun k => ((s.ticketTeam k).map (·.id)) == some s.target.team with
  | none => s
  | some k =>
    let drop (s : State) : State := s.updCluster cl fun c => { c with hands := c.hands.filter fun (x : Ticket) => x != k }
    let here : Bool := match (s.takeTurn cl).2 with
      | some ctx => ((s.launch? k.launch).map (·.ctx)) == some ctx && !(s.cluster cl).reserved && s.agentLive cl k.co
      | none => false
    match (if here then s.tryCore s.target.team cl k.co else none) with
    | some s => drop s
    | none =>
      if k.tried + 1 ≥ (s.liveCores cl).length then
        if (s.cluster cl).placing.length ≥ placeList || s.listWaits cl then s
        else (drop s).updCluster cl fun c => { c with placing := enterList { k with tried := 0 } c.placing }
      else
        let next := s.ringNext cl k.co
        s.updCluster cl fun c => { c with hands := c.hands.map fun (x : Ticket) =>
          if x == k then { x with co := next, tried := x.tried + 1 } else x })

/-! ### Swap-out and the wake-watch table (R78 to R81) -/

def watchEntries : Nat := 256

/-- The wait is one of those that count toward swap-out. -/
def Wait.swaps (now : Nat) : Wait → Bool
  | .barrier _ | .tbarrier .. | .regs | .stream | .page => true
  -- a wait whose time has come is over (R81)
  | .time d | .horizon d => now < d
  | _ => false

/-- Every live thread has waited longer than its own sr.swapt, and no copy or stream runs. A stream whose queue is full or whose
rows are all fetched, and a copy or stream that waits for room in the store-fault queue, count as not running (log 75). -/
def State.idleTeam (s : State) (t : Team) : Bool :=
  t.started && !t.live.isEmpty
    && t.live.all (fun m =>
      let th := t.thread m.1 m.2
      th.swapt != 0 && th.wait.swaps s.time && match th.waitSince with
        | some x => x + th.swapt.toNat * 1000 < s.time
        | none => false)
    && t.chans.all (fun (l : List Copy) => (l.take 1).all fun k => k.parked || k.blocked.isSome)
    && (List.range t.queues.length).all fun q => (t.nextTaken q).isNone && !t.fetchesAhead q

/-- Queued work exists for a core. -/
def State.queued (s : State) (cl : Nat) : Bool :=
  !(s.cluster cl).placing.isEmpty || s.launches.any fun l => l.hasTickets && s.serves l.ctx cl && s.mayUse l cl

/-- Outcome of an eviction (R394). -/
inductive Evicted where
  | saved | gone | saveFull | tableFull
  deriving DecidableEq, Repr

def Evicted.status : Evicted → Nat
  | .saved => 0 | .gone => 2 | .saveFull => 3 | .tableFull => 4

/-- Swap a team out with its cohort, taking a wake-watch entry first (R79). -/
def State.swapOut (s : State) (t : Team) (cl : Nat) : State × Evicted :=
  if (s.cluster cl).watch.length ≥ watchEntries then (s, .tableFull) else
  let us := s.unitOf t
  let e : WakeEntry := { team := t.id, cohort := us.map (·.id), fault := us.any fun u => s.missingPages u.id != 0
                         wake := wakeTime us }
  match (s.updCluster cl fun c => { c with watch := c.watch ++ [e] }).saveUnit t fun c => .swapped c with
  | (s, false) => (s.updCluster cl fun c => { c with watch := c.watch.filter (· != e) }, .saveFull)
  | (s, true) => (s, .saved)

/-- Re-queue what an entry names: in its cluster's placement list, or the resume list when the cluster no longer serves
its context (R63, R80). The entry stays while the list is full. -/
def State.requeue (s : State) (cl : Nat) (e : WakeEntry) : State :=
  match s.team? e.team with
  | none => s.updCluster cl fun c => { c with watch := c.watch.filter (· != e) }
  | some t =>
    let drop (s : State) : State := s.updCluster cl fun c => { c with watch := c.watch.filter (· != e) }
    let ids := e.team :: e.cohort
    let toResume (s : State) : State :=
      let (s, seq) := s.fresh
      drop { s with teams := s.teams.map fun (u : Team) =>
        if ids.contains u.id && (match u.place with | .swapped _ => true | _ => false) then
          { u with place := .saved, saveSeq := seq } else u }
    if !s.serves t.ctx cl then toResume s
    else if t.prog.cohort > 1 then
      match s.freeAgent cl (s.liveCores cl) with
      | none => s
      | some co =>
        let k : Ticket := { launch := t.launch, first := t.index / t.prog.cohort * t.prog.cohort, co := co, requeued := true }
        ((drop s).updCluster cl fun c => { c with cohorts := c.cohorts ++ [k] }).tryCohort cl k
    else if (s.cluster cl).placing.length ≥ placeList then s
    else
      let k : Ticket := { launch := t.launch, first := t.index, requeued := true }
      ((drop s).updCluster cl fun c => { c with placing := enterList k c.placing }).retryList cl (s.liveCores cl)


/-- Re-queue what is due in every cluster. -/
def State.settleWatch (s : State) : State :=
  (List.range s.clusters.length).foldl (fun s cl =>
    (s.cluster cl).watch.foldl (fun s e => if s.watchDue e then s.requeue cl e else s) s) s

/-- WAKE_WATCH_TIMEOUT of the entries of the target's cluster. -/
def execWakeWatchTimeout (s : State) : Out :=
  let cl := s.target.cl
  .next ((s.cluster cl).watch.foldl (fun s e => if s.watchDue e then s.requeue cl e else s) s)

/-! ### The end of a turn (R56 to R58) -/

/-- Pre-empt every team of the cluster that `out` names; a save that the region refuses is left for the next activation
step (R389). -/
def State.preempt (s : State) (cl : Nat) (out : Team → Bool) : State :=
  (s.teams.filter fun t => t.savable && out t && match t.place with
    | .resident c _ => c == cl
    | _ => false).foldl (fun s t =>
      match s.team? t.id with
      | some t => if t.savable then (s.saveUnit t fun _ => .saved).1 else s
      | none => s) s

/-- Contexts share the cluster: more than one has work for it, so that they take turns there (R56, R57). -/
def State.shared (s : State) (cl : Nat) : Bool := 1 < (s.workers cl).length

/-- Teams on a cluster that has left their context's mask are pre-empted (R56). -/
def State.enforceMask (s : State) (cl : Nat) : State := s.preempt cl fun t => !s.serves t.ctx cl

/-- SLICE_END of the target's cluster: at the end of a turn the context's teams are pre-empted and the next context's turn
begins; with no other context that has work the turn goes on. -/
def execSliceEnd (s : State) : Out :=
  let cl := s.target.cl
  .next (match (s.cluster cl).turn with
  | none => (s.takeTurn cl).1
  | some (c, e) =>
    let ws := s.workers cl
    if s.time < e ∧ ws.contains c then s
    else
      let s := s.enforceMask cl
      match nextCtx (ws.filter (· != c)) c with
      | none => if ws.contains c then s.beginTurn cl c else s
      | some d =>
        let s := s.preempt cl (·.ctx == c)
        let s := if (s.cluster cl).resv.busy ∧ (s.cluster cl).resv.ctx = c then s.clearResv cl else s
        (s.beginTurn cl d).afterDeparture cl)

/-! ### Activation (R72 to R75, R78) -/

/-- Every live thread of the warp waits (R72). -/
def Warp.waiting (w : Warp) : Bool := !w.live.isEmpty && w.live.all fun l => (w.thread l).wait.counts

/-- Step 2 of R72: warps in age order while their leases fit. -/
def walkLeases (limit sum : Nat) : List ((Nat × Nat) × Nat) → List (Nat × Nat)
  | [] => []
  | (m, l) :: r => if sum + l ≤ limit then m :: walkLeases limit (sum + l) r else []

/-- The active warps of a core: (team, warp). -/
def State.activeSet (s : State) (cl co : Nat) : List (Nat × Nat) :=
  let k := s.core cl co
  let ts := (s.residents cl co).filter (·.started)
  let ws := ts.map fun t => (t, (List.range t.warps.length).filter fun w => !((t.warp w).live.isEmpty || (t.warp w).waiting))
  if k.lresOff then ws.flatMap fun x => x.2.map fun w => (x.1.id, w)
  else
    let first := ws.filterMap fun x => x.2.head?.map fun w => (x.1, w)
    let sum := first.foldl (fun n x => n + (x.1.warp x.2).effLease x.1.prog s.time) 0
    let rest := ws.flatMap fun x => (x.2.drop 1).map fun w => ((x.1.id, w), (x.1.warp w).effLease x.1.prog s.time)
    first.map (fun x => (x.1.id, x.2)) ++ walkLeases (4096 - k.lresReserve) sum rest

/-- Recompute the active warps of a core. -/
def State.activate (s : State) (cl co : Nat) : State :=
  let s := s.updCore cl co fun k => { k with
    lastStep := (s.cluster cl).r.clk
    lresOff := (k.lresNext.map (·.1)).getD k.lresOff, lresReserve := (k.lresNext.map (·.2)).getD k.lresReserve
    lresNext := none }
  let act := s.activeSet cl co
  (s.residents cl co).foldl (fun s t => s.updTeam t.id fun t =>
    { t with warps := (t.warps.zipIdx).map fun (w, i) => { w with active := act.contains (t.id, i) } }) s

/-- Cycles in which a warp was inactive since the last step, or since it started when that is later, move the start of its
measurement window on (R70). -/
def State.stretchWindows (s : State) (cl co : Nat) : State :=
  let clk := (s.cluster cl).r.clk
  let last := (s.core cl co).lastStep
  (s.residents cl co).foldl (fun s t => s.updTeam t.id fun t =>
    { t with warps := t.warps.map fun (w : Warp) =>
        if w.active then w else { w with winStart := w.winStart + (clk - max last w.winStart) } }) s

/-- Swap out a team of the core whose unit has waited long enough, when queued work exists. -/
def State.swapStep (s : State) (cl co : Nat) : State :=
  (s.residents cl co).foldl (fun s t =>
    if s.queued cl && !t.priv && !t.draining && (s.team? t.id).any (·.at?.isSome) && (s.unitOf t).all fun u => s.idleTeam u
    then (s.swapOut t cl).1 else s) s

/-- ACTIVATION_STEP of the target's core: every 64 cycles. Saves that were deferred are tried again (R389). -/
def execActivationStep (s : State) : Out :=
  let cl := s.target.cl
  let co := s.target.co
  .next (if (s.cluster cl).r.clk < (s.core cl co).lastStep + 64 then s else
    let s := s.preempt cl fun t => !(t.at?.all fun p => s.coreOn p.1 p.2) || (!s.serves t.ctx cl && !s.shared cl) || match (s.cluster cl).turn with
      | some (c, _) => t.ctx != c
      | none => false
    let n := s.teams.filter fun t => t.at?.isSome
    let s := s.swapStep cl co
    let s := if (s.teams.filter fun t => t.at?.isSome).length < n.length then s.afterDeparture cl else s
    (s.stretchWindows cl co).activate cl co)

/-- A turn of a save that goes on (R388); the agents of the cluster try again when the team has left (R61). -/
def State.saveStep (s : State) (tm : Nat) : State :=
  match (s.team? tm).bind fun t => t.saving.bind fun _ => t.at? with
  | none => s
  | some (cl, _) =>
    let s := s.trySave tm
    if (s.team? tm).all (·.saving.isSome) then s else s.afterDeparture cl

/-- The sketch's count of `n` distinct lines: within one eighth of it, where it is free (R70; log 6). -/
def sketchCount (n free : Nat) : Nat := n - n / 8 + Config.freeNat free % (2 * (n / 8) + 1)

/-- LEASE_WINDOW_END of the target's warp, 4,096 active cycles after its window began (R70). -/
def execLeaseWindowEnd (s : State) : Out :=
  let tg := s.target
  .next (match (s.team? tg.team).bind fun t => t.at?.map fun p => (t, p) with
  | none => s
  | some (t, cl, _) =>
    let w := t.warp tg.warp
    let clk := (s.cluster cl).r.clk
    if clk < w.winStart + 4096 then s
    else if !w.active then s
    else ({ s with free := s.free + 1 } : State).updWarp tg.team tg.warp fun w =>
      { w with meas := min 4095 (sketchCount w.sketch.length s.free + w.winLost), sketch := [], winLost := 0, winStart := clk })

/-- BOOST_EXPIRY of the target's warp (R69). -/
def execBoostExpiry (s : State) : Out :=
  let tg := s.target
  .next (if (s.warp tg.team tg.warp).boostExp ≤ s.time then
      s.updWarp tg.team tg.warp fun w => { w with boostLines := 0 }
    else s)

/-! ### The fault table releases (R211, R459) -/

/-- Release one waiter: it translates its own address again. -/
def State.releaseWaiter (s : State) (w : Waiter) : State :=
  match w with
  | .thread t w l =>
    (s.lanesOf t w l).foldl (fun s l => s.updThread t w l fun th => if th.wait == .page then th.unpark else th) s
  | .store id => { s with stores := s.stores.map fun (o : StoreOp) =>
      if o.id == id && o.st == .held then { o with st := .issued } else o }
  | .copy t ch => s.updTeam t fun t => { t with chans := updAt t.chans ch fun l => l.map fun (k : Copy) => { k with parked := false } }
  | .cpa id => { s with cpas := s.cpas.map fun (o : CpaOp) => if o.id == id then { o with parked := false } else o }
  | .stream t q => s.updTeam t fun t => { t with
      queues := updAt t.queues q fun (x : Stream) => { x with parked := false }
      taken := t.taken.map fun (k : Taken) => if k.q == q then { k with parked := false } else k }
  | .dice p => s.updPass p fun p => { p with parked := false, parkedCl := [] }
  | .ray id => { s with
      clusters := s.clusters.map fun (c : Cluster) => { c with
        queries := c.queries.map fun (q : Query) => if q.id == id then { q with parked := false } else q }
      teams := s.teams.map fun (t : Team) => { t with
        savedQueries := t.savedQueries.map fun (q : Query) => if q.id == id then { q with parked := false } else q } }
  | .refill id =>
    match s.load? id with
    | some o => s.startRefill o
    | none => s
  | .agent _ => s

/-- Walk the unit of an entry again; release its waiters unless the same table entry is still absent. -/
def State.rewalk (s : State) (e : FaultEntry) : State :=
  let again := match walk s (s.context e.ctx).root e.va with
    | (.absent _ _ w, _) => w == e.watch
    | _ => false
  if again then
    { s with faults := s.faults.map fun (f : FaultEntry) => if f.id == e.id then { f with lastWalk := s.time, due := false } else f }
  else
    let s := { s with faults := s.faults.filter fun (f : FaultEntry) => f.id != e.id }
    (e.waiters.foldl State.releaseWaiter s).settleWatch

/-- FAULT_REWALK of the entry `id`: a store to its line, or 50 us without one. -/
def execFaultRewalk (s : State) : Out :=
  .next (match s.faults.find? fun e => e.id == s.target.id with
  | none => s
  | some e => if e.due || e.lastWalk + 50000 ≤ s.time then s.rewalk e else s)

/-- What a waiting access does, as a page request gives it (R213): stores and outbound copies write. An agent or a rendering
unit says it itself when it tries again. -/
def State.waiterAcc (s : State) (w : Waiter) : Option Nat :=
  match w with
  | .store _ => some 1
  | .copy t ch => some (if (s.team? t).any fun t => ((t.chans.getD ch []).head?).any (·.kind == .cpto) then 1 else 0)
  | .agent _ | .dice _ => none
  | _ => some 0

/-- WAITER_RETRANSLATE of the access that waits at place `id` without an entry: it joins or takes an entry, or goes on. -/
def execWaiterRetranslate (s : State) : Out :=
  .next (match s.unlisted[s.target.id]? with
  | none => s
  | some (w, ctx, va) =>
    match walk s (s.context ctx).root va with
    | (.absent b n wt, _) =>
      if s.faultFull && (s.faultOf ctx b n).isNone then s
      else match s.waiterAcc w with
      | some acc => s.joinOrWait ctx va b n wt acc w
      | none => ({ s with unlisted := s.unlisted.filter fun x => x.1 != w } : State).releaseWaiter w
    | _ => (({ s with unlisted := s.unlisted.filter fun x => x.1 != w } : State).releaseWaiter w).settleWatch)

end Sys2Proof.Machine
end

