-- ==== Sys2Proof/Machine/Queues.lean ====
section
/-! DEFINITION. The agents' and units' accesses to memory, and the hardware queues' registers (02_launched R34 to R39,
R460). -/

namespace Sys2Proof.Machine

/-! ### Accesses that no thread makes (R32, R41, R328) -/

/-- Translate for an agent or a unit: walked anew, which R210 allows (log 9). -/
def State.unitXlat (s : State) (ctx : Nat) (priv : Bool) (a : Acc) (va : Nat) : Trans :=
  if !canonical va then .prot else
  match walk s (s.context ctx).root va with
  | (.ok x b _ _, _) =>
    let pa := x.pa + (va - b)
    let x := { x with pa := if x.home == .own then pa % 2 ^ 64 else pa % 2 ^ 52 }
    if (x.home != .own || s.localOk x.pa) && x.permits a priv then .ok x else .prot
  | (.absent b n w, _) => .absent b n w
  | (.prot, _) => .prot
  | (.bad, _) => .bad

/-- Outcome of a read by an agent or a unit: data, a wait for an absent page, or a protection outcome. An uncorrectable
error counts as a protection outcome (log 12). -/
inductive Got where
  | data (bs : List Byte)
  | wait
  | prot
  deriving DecidableEq, Repr

/-- Read `n` bytes that lie in one page, at the home. -/
def State.unitRead (s : State) (w : Waiter) (ctx : Nat) (priv : Bool) (va n : Nat) : State × Got :=
  match s.unitXlat ctx priv .read va with
  | .ok x => (s, if s.xlatBad x n then .prot else .data (s.homeBytes x n))
  | .absent b z t => (s.joinOrWait ctx va b z t 0 w, .wait)
  | _ => (s, .prot)

/-- A write made for a command or a pass has been performed: the release of the agents, or of the units, waits for its GWCT
(R41, R49, R292, R324). -/
def State.markCommand (s : State) (w : Waiter) (g : Nat) : State :=
  match w with
  | .agent id => s.updCommand id fun c => { c with mark := max c.mark g }
  | .dice id => s.updPass id fun p => { p with mark := max p.mark g }
  | _ => s

/-- Write bytes that lie in one page; `false` while an absent page is waited for. A protected write is lost, and so is one to a
doorbell page, where the manual names the stores of programs and PCI Express writes alone (log 66). -/
def State.unitWrite (s : State) (w : Waiter) (ctx : Nat) (priv : Bool) (va : Nat) (bs : List Byte) : State × Bool :=
  match s.unitXlat ctx priv .write va with
  | .ok x => (if x.imm || x.doorbell then s else (s.writeHome x bs).markCommand w (s.gwct x), true)
  | .absent b z t => (s.joinOrWait ctx va b z t 1 w, false)
  | _ => (s, true)

/-- Agents are privileged warps (R42). -/
def State.agentRead (s : State) (w : Waiter) (ctx va n : Nat) : State × Got := s.unitRead w ctx true va n
def State.agentWrite (s : State) (w : Waiter) (ctx va : Nat) (bs : List Byte) : State × Bool := s.unitWrite w ctx true va bs

/-- Read 64-bit words one by one; a protected word reads as 0. -/
def State.agentWords (s : State) (w : Waiter) (ctx : Nat) : Nat → Nat → State × Option (List Nat)
  | 0, _ => (s, some [])
  | n + 1, va =>
    match s.agentRead w ctx va 8 with
    | (s, .wait) => (s, none)
    | (s, g) =>
      let x := match g with
        | .data bs => leNat bs
        | _ => 0
      match s.agentWords w ctx n (va + 8) with
      | (s, some l) => (s, some (x :: l))
      | (s, none) => (s, none)

/-- Write zeros or ones over whole 4 KiB pages from `va`, a page at a time. -/
def State.agentFill (s : State) (w : Waiter) (ctx va : Nat) (b : Byte) : Nat → Nat → State × Bool
  | 0, _ => (s, true)
  | fuel + 1, n =>
    if n = 0 then (s, true) else
    let k := min n (4096 - va % 4096)
    match s.agentWrite w ctx va (List.replicate k b) with
    | (s, false) => (s, false)
    | (s, true) => s.agentFill w ctx (va + k) b fuel (n - k)

/-! ### Queue registers (R34, R35, R460) -/

/-- Halt a queue with a code; a further error leaves ERR as it is. -/
def Queue.fail (q : Queue) (e : Nat) : Queue := if q.halt then q else { q with halt := true, err := e }

def Queue.clear (q : Queue) : Queue := { q with halt := false, err := 0 }

/-- A QBASE value while QEN = 0. -/
def Queue.setBase (q : Queue) (v : BitVec 64) : Queue :=
  if v == q.base then q
  else if q.en then q.fail 0x15
  else if v.toNat % 4096 = 0 && canonical v.toNat then { q with base := v } else q

/-- The control word at offset 0x08: with QEN = 1 a change of QLOG or QCTX makes the whole write ignored. -/
def Queue.setCtl (q : Queue) (v : Nat) : Queue :=
  let log := bits v 0 5
  let ctx := bits v 16 8
  if q.en ∧ (log ≠ q.log ∨ ctx ≠ q.ctx) then q.fail 0x15
  else { q with en := bitAt v 31, priv := bitAt v 30, ctx := ctx, log := if 4 ≤ log ∧ log ≤ 16 then log else q.log }

/-- A 32-bit write in a queue's register block. -/
def Queue.write32 (q : Queue) (off : Nat) (v : Nat) : Queue :=
  match off with
  | 0x00 => q.setBase (BitVec.ofNat 64 (q.base.toNat / 2 ^ 32 * 2 ^ 32 + v % 2 ^ 32))
  | 0x04 => q.setBase (BitVec.ofNat 64 (v % 2 ^ 32 * 2 ^ 32 + q.base.toNat % 2 ^ 32))
  | 0x08 => q.setCtl v
  | 0x10 => q.doorbell (BitVec.ofNat 32 v)
  | 0x18 => if bitAt v 31 then q.clear else q
  | _ => q

/-- The 32-bit writes that a write of a window stands for (R460): none when it is narrow or misaligned. -/
def regHalves (off size v : Nat) : List (Nat × Nat) :=
  if size = 4 ∧ off % 4 = 0 then [(off, v % 2 ^ 32)]
  else if size = 8 ∧ off % 8 = 0 then [(off, v % 2 ^ 32), (off + 4, v / 2 ^ 32 % 2 ^ 32)]
  else []

/-- DOORBELL_WRITE: a write of `size` bytes at offset `addr` of the doorbell page of queue `id`. -/
def execDoorbellWrite (s : State) : Out :=
  let t := s.target
  .next (if !s.start.safe ∧ t.addr = 0 ∧ (t.size = 4 ∨ t.size = 8) ∧ t.id < 64 then s.updQueue t.id (·.doorbell (BitVec.ofNat 32 t.value))
    else s)

/-- HALT_CLEAR: 1 is written to HALT of queue `id`. -/
def execHaltClear (s : State) : Out := .next (if s.start.safe then s else s.updQueue s.target.id (·.clear))

end Sys2Proof.Machine
end

