-- ==== Sys2Proof/Machine/Launch.lean ====
section
/-! DEFINITION. Launches: reading a descriptor and a program header, the checks of R32, starting, rejecting and completing
a launch, and the completion of a command and its graph (01_described R14 to R33; 02_launched R40, R41, R49 to R52). -/

namespace Sys2Proof.Machine

/-! ### Descriptors and headers as they stand in memory (R16, R20, R21, R26, R29) -/

def w32 (bs : List Byte) (off : Nat) : Nat := leNat ((bs.drop off).take 4)
def w64 (bs : List Byte) (off : Nat) : Nat := leNat ((bs.drop off).take 8)

/-- A VA given by its bits 56:0 (R26). -/
def canon57 (x : Nat) : Nat := if bitAt x 56 then x % 2 ^ 57 + (2 ^ 64 - 2 ^ 57) else x % 2 ^ 57

def Port.ofWord (x : Nat) : Port :=
  { timeout := bits x 32 32, anyTag := bitAt x 22, join := bitAt x 21, batch := bits x 9 12, rsize := bits x 0 9 }

def OutTgt.ofWord (x : Nat) : OutTgt := { v := bitAt x 63, port := bits x 57 2, node := canon57 x }

def Node.ofBytes (va : Nat) (b : List Byte) : Node :=
  let h := w64 b 8
  let d := w64 b 0x78
  let ranges := ((List.range 16).map fun k => w64 b (0x80 + 8 * k)).filter (bitAt · 63)
  { va := va, prog := w64 b 0, memo := bitAt h 51, prot := bitAt h 50, prio := bits h 48 2
    tx := bits h 0 16, ty := bits h 16 16, tz := bits h 32 16
    ports := (List.range 4).map fun k => Port.ofWord (w64 b (0x10 + 8 * k))
    tgts := (List.range 8).map fun k => OutTgt.ofWord (w64 b (0x30 + 8 * k))
    producer := w64 b 0x70, gamma := bits d 48 16, beta := sextNat 32 (bits d 16 32), alpha := bits d 0 16
    wset := ranges.map fun r => (bits r 0 41, bits r 41 22) }

def Prog.ofBytes (va : Nat) (b : List Byte) : Prog :=
  let f (off lo len : Nat) : Nat := bits (w32 b off) lo len
  { hdr := va, entry := w32 b 8, handler := w32 b 0x0C, sregs := f 0x10 8 10, vregs := f 0x10 0 8, scratch := f 0x14 0 19
    slots := f 0x18 11 5, queues := f 0x18 7 4, planes := f 0x18 4 3, acc := f 0x18 0 4, lmode := f 0x1C 10 2
    lease := f 0x1C 0 10, cohort := f 0x20 16 6, threads := f 0x20 0 11, tls := f 0x24 0 21
    fpctl := BitVec.ofNat 8 (f 0x28 8 8), perm := bitAt (w32 b 0x28) 0, progid := w64 b 0x30
    memo := bitAt (w32 b 4) 10, protcap := bitAt (w32 b 4) 9, w16 := bitAt (w32 b 4) 8 }

def Node.teams (n : Node) : Nat := n.tx * n.ty * n.tz
def Node.usedPorts (n : Node) : List Nat := (List.range 4).filter fun k => (n.ports.getD k {}).rsize != 0
def Node.port (n : Node) (k : Nat) : Port := n.ports.getD k {}

/-- Reserved fields of the header and the descriptor that are not zero. -/
def reservedSet (nb hb : List Byte) : Bool :=
  let f (off lo len : Nat) : Bool := bits (w32 hb off) lo len != 0
  f 4 11 21 || f 0x10 18 14 || f 0x14 19 13 || f 0x18 16 16 || f 0x1C 12 20 || f 0x20 22 10 || f 0x20 11 5 || f 0x24 21 11
    || f 0x28 16 16 || f 0x28 1 7 || w32 hb 0x2C != 0 || (hb.drop 0x38).any (· != 0)
    || bits (w64 nb 8) 52 12 != 0
    || (List.range 4).any (fun k => bits (w64 nb (0x10 + 8 * k)) 23 9 != 0)
    || (List.range 8).any fun k => bits (w64 nb (0x30 + 8 * k)) 59 4 != 0

/-- The ranges of R16 and of the team shape (R10, R32). -/
def countsOk (n : Node) (p : Prog) : Bool :=
  16 ≤ p.vregs && p.vregs ≤ 128 && p.vregs % 8 == 0 && p.sregs ≤ 512 && p.scratch ≤ 262144 && p.scratch % 16 == 0
    && p.slots ≤ 16 && p.queues ≤ 8 && p.planes ≤ 4 && p.acc ≤ 8 && 1 ≤ p.cohort && p.cohort ≤ 32
    && p.threads != 0 && p.threads % p.width == 0 && p.threads ≤ 32 * p.width && p.tls % 16 == 0 && p.tls ≤ 1048576
    && p.lmode != 3 && n.tx != 0 && n.ty != 0 && n.tz != 0 && n.teams ≤ 2 ^ 24
    && (p.cohort ≤ 1 || n.teams ≤ 65536 * p.cohort)

def offsetOk (x : Nat) : Bool := 0x80 ≤ x && x % 4 == 0

/-- Bytes a record of a port takes in a batch (R24). -/
def Port.slot (p : Port) : Nat := roundUp p.rsize 16

/-- The used ports keep R21, R23 and R25. -/
def portsOk (n : Node) (p : Prog) : Bool :=
  let ps := n.usedPorts.map n.port
  let joins := ps.any (·.join)
  ps.all (fun q => 4 ≤ q.rsize && q.rsize ≤ 256 && q.rsize % 4 == 0 && q.batch != 0 && (!joins || (q.join && !q.anyTag)))
    && (ps.isEmpty || 3 ≤ p.sregs)
    && (if joins then ps.foldl (fun k q => k + q.slot) 0 ≤ p.scratch else ps.all fun q => q.batch * q.slot ≤ p.scratch)
    && n.tgts.all fun t => !t.v || t.node % 256 == 0

/-- What caused a launch, as far as the checks look at it. -/
def Cause.isRoot : Cause → Bool
  | .command => true
  | _ => false
def Cause.isGrid : Cause → Bool
  | .grid .. => true
  | _ => false

/-- The unit-node rules of R329. -/
def gridNodeOk (n : Node) (p : Prog) : Bool :=
  p.threads == 256 && !p.w16 && n.tx == 1 && n.ty == 1 && n.tz == 1
    && (n.port 0).rsize == 64 && (n.port 0).batch == 1 && !(n.port 0).join

/-- The checks 0x01 to 0x09 in the order of R32 that need the descriptor and the header alone; 0 when all hold. -/
def State.earlyCode (s : State) (c : Cause) (nb hb : List Byte) (n : Node) (p : Prog) : Nat :=
  if w32 hb 0 != 0x53585048 then 0x01
  else if bits (w32 hb 4) 0 8 != 1 then 0x02
  else if reservedSet nb hb then 0x03
  else if !countsOk n p then 0x04
  else if !offsetOk p.entry || (p.handler != 0 && !offsetOk p.handler) then 0x05
  else if (roomFor [] p).isNone then 0x06
  else if n.teams % p.cohort != 0 || !(List.range s.clusters.length).any fun cl =>
      (s.cluster cl).enabled && s.holds cl p p.cohort then 0x07
  else if n.prot && !(p.w16 && p.protcap) then 0x08
  else if !portsOk n p || (c.isRoot && !n.usedPorts.isEmpty) then 0x09
  else 0

/-- The checks 0x0B and 0x0C. -/
def lateCode (c : Cause) (n : Node) (p : Prog) : Nat :=
  if n.wset.any fun r => r.2 == 0 || r.1 + r.2 > 2 ^ 41 then 0x0B
  else if c.isGrid && !gridNodeOk n p then 0x0C
  else 0

/-! ### The work area (R45, R49) -/

def bookBytes : Nat := 65536
def bitmapBytes (teams : Nat) : Nat := roundUp ((teams + 3) / 4) 4096

/-- Teams of a node as its descriptor gives them; 0 when it cannot be read. -/
def State.rootTeams (s : State) (w : Waiter) (ctx va : Nat) : State × Option Nat :=
  if va % 256 != 0 || !canonical va then (s, some 0) else
  match s.agentRead w ctx va 256 with
  | (s, .wait) => (s, none)
  | (s, .prot) => (s, some 0)
  | (s, .data b) => let n := (Node.ofBytes va b).teams; (s, some n)

def State.allTeams (s : State) (w : Waiter) (ctx : Nat) : List Nat → State × Option (List Nat)
  | [] => (s, some [])
  | va :: l =>
    match s.rootTeams w ctx va with
    | (s, none) => (s, none)
    | (s, some n) =>
      match s.allTeams w ctx l with
      | (s, some ns) => (s, some (n :: ns))
      | (s, none) => (s, none)

/-- Where the bitmap of root `k` begins in the work area. -/
def bitmapOff (teams : List Nat) (k : Nat) : Nat := bookBytes + ((teams.take k).map bitmapBytes).foldl (· + ·) 0

/-! ### Dependences (R28) -/

/-- The launch that a node's PRODUCER names: of the same LAUNCH_GRAPH, or the one issued last before on the queue, whose
commands and whose roots are numbered in the order of issue. -/
def State.producerOf (s : State) (c : Command) (l : Launch) (va : Nat) : Option Launch :=
  let roots := s.launches.filter fun o => o.cause.isRoot && o.node.va == va
  if c.isGraph then roots.find? fun o => o.cmd == l.cmd
  else
    let earlier (o : Launch) : Bool := (s.command? o.cmd).any (·.q == c.q)
      && (o.cmd < l.cmd || (o.cmd == l.cmd && !l.cause.isRoot))
    (roots.filter earlier).foldl (fun (b : Option Launch) o => match b with
      | none => some o
      | some x => if x.cmd < o.cmd ∨ (x.cmd = o.cmd ∧ x.id < o.id) then some o else some x) none

/-! ### Launches of a command (R9, R31) -/

/-- The snapshot pool of a context now. -/
def Context.poolRef (x : Context) : PoolRef := { root := x.root, va := x.pool, pages := x.pages }

/-- A new launch of a command, to be checked, with the domain and the snapshot pool of its claim (R31, R56). -/
def State.addLaunch (s : State) (c : Command) (va : Nat) (cause : Cause) (dom : Nat) (share : Bool) (key : BitVec 128)
    (pool : PoolRef) (fired : Option Fired) : State :=
  let (s, id) := s.fresh
  let l : Launch := { id := id, ctx := c.ctx, cmd := c.id, cause := cause, node := { va := va }, dom := dom, share := share
                      key := key, pool := pool, fired := fired, q := c.q, replayable := cause.isRoot }
  ({ s with launches := s.launches ++ [l] }).updCommand c.id fun c => { c with launches := c.launches + 1 }

/-- The domain of a launch claimed now (R31): that of the SET_DOMAIN claimed last on its queue, whether it has acted yet or
not; with none, the context's. -/
def State.claimDomain (s : State) (qn ctx : Nat) : Nat × Bool × BitVec 128 :=
  let claimed := (s.commands.filter fun c => c.q == qn && c.ctx == ctx).filterMap fun c => match c.instr with
    | .setDomain _ d sh k => some (d.toNat, sh, k)
    | _ => none
  let x := s.context ctx
  claimed.getLast?.getD (x.dom, x.share, x.key)

/-- A firing is claimed when it is created (R31, R48). -/
def State.fire (s : State) (cmd va : Nat) (cause : Cause) (f : Fired) : State :=
  match s.command? cmd with
  | none => s
  | some c =>
    let (dom, share, key) := s.claimDomain c.q c.ctx
    s.addLaunch c va cause dom share key (s.context c.ctx).poolRef (some f)

def agentOf (c : Command) : Waiter := .agent c.id

/-- An earlier launch of the queue has not started yet (R40). -/
def State.earlierUnstarted (s : State) (l : Launch) : Bool :=
  s.launches.any (fun o => o.cause.isRoot && o.q == l.q && (o.cmd < l.cmd || (o.cmd == l.cmd && o.id < l.id))
      && (o.phase == .checking || o.phase == .deferred) && o.checks == 0)
    || s.commands.any fun c => c.q == l.q && c.id < l.cmd && c.isLaunch && !c.acted

/-- Write-set pages in common. -/
def wsetMeets (a b : List (Nat × Nat)) : Bool := a.any fun x => b.any fun y => x.1 < y.1 + y.2 && y.1 < x.1 + x.2

/-! ### The completion bitmap (R49) -/

/-- Read, change and write one byte of a bitmap. -/
def State.bitmapByte (s : State) (w : Waiter) (ctx va : Nat) (f : Nat → Nat) : State × Bool :=
  match s.agentRead w ctx va 1 with
  | (s, .wait) => (s, false)
  | (s, .prot) => (s, true)
  | (s, .data b) => s.agentWrite w ctx va [BitVec.ofNat 8 (f (leNat b))]

/-- Give all bits of a launch's `teams` the value `b`. -/
def State.fillBitmap (s : State) (w : Waiter) (ctx va teams : Nat) (b : Bool) : State × Bool :=
  let n := teams / 4
  match s.agentFill w ctx va (if b then 0xFF else 0) (n / 4096 + 2) n with
  | (s, false) => (s, false)
  | (s, true) =>
    if teams % 4 = 0 then (s, true)
    else s.bitmapByte w ctx (va + n) fun x => let k := 4 ^ (teams % 4); x / k * k + if b then k - 1 else 0

/-- Set the bits of one team. -/
def State.setTeamBits (s : State) (w : Waiter) (l : Launch) (j : Nat) (failed : Bool) : State × Bool :=
  if l.bitmap = 0 then (s, true)
  else s.bitmapByte w l.ctx (l.bitmap + j / 4) fun x =>
    let k := 4 ^ (j % 4)
    x % k + (if failed then 3 else 1) * k + x / (4 * k) * (4 * k)

/-! ### Checking, starting, rejecting -/

/-- How a launch's checks stand. -/
inductive Verdict where
  | wait
  | reject (code : Nat) (node : Option Node)
  | ok (node : Node) (prog : Prog) (producer : Option (Nat × Nat))
  deriving DecidableEq, Repr

/-- The dependence and the work area (code 0x0A): the producer launch, with the teams its node's descriptor gives (R27). -/
def State.checkDep (s : State) (c : Command) (l : Launch) (n : Node) : State × Option (Option (Option (Nat × Nat))) :=
  match s.allTeams (agentOf c) c.ctx (if l.cause.isRoot then c.roots else []) with
  | (s, none) => (s, none)
  | (s, some ts) =>
    if l.cause.isRoot && bitmapOff ts ts.length + 4096 > c.bytes then (s, some none)
    else if n.producer = 0 then (s, some (some none))
    else if n.gamma = 0 then (s, some none)
    else match s.producerOf c l n.producer with
    | none => (s, some none)
    | some p =>
      match s.agentRead (agentOf c) c.ctx n.producer 256 with
      | (s, .wait) => (s, none)
      | (s, .data b) =>
        let m := Node.ofBytes n.producer b
        (s, some (if m.usedPorts.isEmpty then some (some (p.id, m.teams)) else none))
      | (s, .prot) => (s, some (some (some (p.id, p.node.teams))))

/-- The checks of R32 in order. -/
def State.checkLaunch (s : State) (c : Command) (l : Launch) : State × Verdict :=
  let va := l.node.va
  let w := agentOf c
  if va % 256 != 0 || !canonical va then (s, .reject 0x01 none) else
  match s.agentRead w l.ctx va 256 with
  | (s, .wait) => (s, .wait)
  | (s, .prot) => (s, .reject 0x01 none)
  | (s, .data nb) =>
    let n := Node.ofBytes va nb
    if n.prog % 128 != 0 || !canonical n.prog then (s, .reject 0x01 (some n)) else
    match s.agentRead w l.ctx n.prog 128 with
    | (s, .wait) => (s, .wait)
    | (s, .prot) => (s, .reject 0x01 (some n))
    | (s, .data hb) =>
      let p := Prog.ofBytes n.prog hb
      match s.earlyCode l.cause nb hb n p with
      | 0 =>
        match s.checkDep c l n with
        | (s, none) => (s, .wait)
        | (s, some none) => (s, .reject 0x0A (some n))
        | (s, some (some pr)) =>
          match lateCode l.cause n p with
          | 0 => (s, .ok n p pr)
          | k => (s, .reject k (some n))
      | k => (s, .reject k (some n))

/-- Where a root's bitmap stands, with the pool that the bitmaps leave; `none` while a page is waited for. -/
def State.rootBitmap (s : State) (c : Command) (l : Launch) : State × Option (Nat × Nat) :=
  match s.allTeams (agentOf c) c.ctx c.roots with
  | (s, none) => (s, none)
  | (s, some ts) =>
    let k := ((s.launches.filter fun o => o.cmd == c.id && o.cause.isRoot).map (·.id)).idxOf l.id
    (s, some (c.work + bitmapOff ts k, c.bytes - bitmapOff ts ts.length))

/-- A rejected launch (R32): its code is reported, its bits are set as failed, its batch is discarded. -/
def State.rejectLaunch (s : State) (c : Command) (l : Launch) (code : Nat) (n : Option Node) : State :=
  let close (s : State) : State :=
    (s.updLaunch l.id fun l => { l with phase := .done, node := n.getD l.node }).updCommand c.id fun c =>
      { c with code := if c.code = 0 then code else c.code, failed := true
               dropped := c.dropped + ((l.fired.map (·.count)).getD 0) }
  let teams := (n.map (·.teams)).getD 0
  if !l.cause.isRoot || teams = 0 then close s
  else match s.rootBitmap c l with
  | (s, none) => s
  | (s, some (va, _)) =>
    if va + bitmapBytes teams > c.work + c.bytes then close s
    else match s.fillBitmap (agentOf c) c.ctx va teams true with
    | (s, true) => close s
    | (s, false) => s

/-- The launch runs or aborts: its write set is its own. -/
def Phase.holdsPages : Phase → Bool
  | .running | .aborting _ => true
  | _ => false

/-- Start a launch that has passed its checks, unless a running launch of its context shares a write-set page (R40, R51,
R52). The clearing of its bits, and in a replay the restoration of its pages, are released before (R49, R397). -/
def State.startLaunch (s : State) (c : Command) (l : Launch) : State :=
  if s.launches.any fun o => o.id != l.id && o.ctx == l.ctx && o.phase.holdsPages && wsetMeets o.node.wset l.node.wset then
    s.updLaunch l.id fun l => { l with phase := .deferred }
  else
    let go (s : State) (bm : Nat) : State :=
      let (s, order) := s.fresh
      let num := if l.number = 0 then (s.context l.ctx).launches + 1 else l.number
      let s := if l.number = 0 then s.updContext l.ctx fun x => { x with launches := num } else s
      (s.updLaunch l.id fun l => { l with
          phase := .running, number := num, total := l.node.teams, next := 0, bitmap := bm, wset := l.node.wset
          order := order, started := true, doneTeams := [], failedTeams := [] }).updCommand c.id fun c =>
        { c with tstart := some (c.tstart.getD s.time) }
    if !l.cause.isRoot then go s 0
    else match s.rootBitmap c l with
    | (s, none) => s
    | (s, some (va, pool)) =>
      match s.fillBitmap (agentOf c) c.ctx va l.node.teams false with
      | (s, true) =>
        if (s.command? c.id).any fun c => c.mark ≤ s.time then
          (go s va).updCommand c.id fun c => { c with poolSize := pool }
        else s
      | (s, false) => s

/-! ### Aborts (R395 to R398) -/

/-- Append to the health log (R403): vector 65 is raised when it was empty; a full log drops the entry. -/
def State.logHealth (s : State) (entry info : Nat) : State :=
  if s.health.log.length ≥ 4096 then s else
  { s with msix := if s.health.log.isEmpty then s.msix ++ [65] else s.msix
           health := { s.health with log := s.health.log ++ [(BitVec.ofNat 64 entry, BitVec.ofNat 64 info)] } }

/-- Greatest GWCT of the lines of a 4 KiB part, were they written now (R273). -/
def State.partMark (s : State) (key : Nat) : Nat :=
  s.watermarks.foldl (fun m w => if key ≤ 128 * w.1 && 128 * w.1 < key + 4096 then max m w.2 else m) s.time

/-- Put back the parts of the pages that a launch's snapshots hold, from the pool (R51, R395). -/
def State.restoreSnaps (s : State) (l : Launch) : State :=
  l.snaps.foldl (fun s n => n.parts.foldl (fun s p => match n.pool.find? (·.1 == p.1) with
    | some q => (s.copyPart q.2 p.2).updCommand l.cmd fun c => { c with mark := max c.mark (s.partMark p.2) }
    | none => s) s) s

/-- The killed teams of an aborted launch have drained: its pages are restored or freed, its bits cleared, and it is
replayed, or completes with failed status and every bit set. It waits while a page of its bitmap is absent. -/
def State.finishAbort (s : State) (c : Command) (l : Launch) (cause : Nat) : State :=
  let again := l.replayable && l.checks < 2
  let (s, ok) := if l.bitmap = 0 then (s, true) else s.fillBitmap (agentOf c) l.ctx l.bitmap l.total !again
  if !ok then s else
  let s := if l.replayable then s.restoreSnaps l else s
  let s := s.updContext l.ctx fun x => { x with used := x.used - l.poolTaken }
  let s := s.logHealth ((if again then 0 else 1) * 2 ^ 60 + cause % 256 * 2 ^ 52 + l.ctx % 256 * 2 ^ 44 + l.number % 2 ^ 32) 0
  let s := s.updLaunch l.id fun l => { l with
    phase := if again then .checking else .done, checks := l.checks + 1, snaps := [], poolTaken := 0, next := 0
    doneTeams := [], failedTeams := [] }
  s.updCommand c.id fun c =>
    if again then { c with replays := c.replays + 1 }
    else { c with failed := true, noReplay := c.noReplay || !l.replayable, fteams := c.fteams + l.total }

/-- Take a launch as far as it can go. -/
def State.driveLaunch (s : State) (c : Command) (id : Nat) : State :=
  match s.launch? id with
  | none => s
  | some l =>
    let held := l.cause.isRoot && l.checks = 0 && s.earlierUnstarted l
    match l.phase with
    | .checking =>
      if held then s else
      match s.checkLaunch c l with
      | (s, .wait) => s
      | (s, .reject k n) => s.rejectLaunch c l k n
      | (s, .ok n p pr) =>
        let l' := { l with node := n, prog := p, producer := pr.map (·.1), prodTeams := (pr.map (·.2)).getD 0 }
        (s.updLaunch id fun _ => l').startLaunch c l'
    | .deferred => if held then s else s.startLaunch c l
    | .aborting k => if s.teams.any fun t => t.launch == id && t.place != .gone then s else s.finishAbort c l k
    | _ => s

/-! ### Completion (R9, R14, R38, R41) -/

/-- The completion record (R41). TSTART is 0 when no launch of the command has started (log 67). -/
def Command.record (c : Command) (now : Nat) : List Byte :=
  leBytes (c.code * 256 + (if c.noReplay then 2 else 0) + if c.failed then 1 else 0) 8
    ++ leBytes c.fteams 8 ++ leBytes c.dropped 8 ++ leBytes c.launches 4 ++ leBytes c.replays 4
    ++ leBytes (c.tstart.getD 0) 8 ++ leBytes now 8 ++ List.replicate 16 0

def Instr.head? : Instr → Option CmdHead
  | .launchGraph h .. | .launchNode h .. | .signal h .. | .wait h .. | .timestamp h .. | .setDomain h .. | .partition h .. =>
    some h
  | _ => none

/-- A command has completed: its vector is raised when IRQ is set. -/
def State.finishCommand (s : State) (c : Command) : State :=
  let s := s.updCommand c.id fun c => { c with finished := true, acted := true }
  if ((Instr.head? c.instr).map (·.irq)).getD false then { s with msix := s.msix ++ [c.q] } else s

/-- System-scope releases wait after a loss of timer lock (R294). -/
def State.sysReady (s : State) : Bool := s.timer.lossUntil ≤ s.time

/-- The agents' writes for the commands of a queue up to a command have been performed everywhere, at system scope (R40, R41,
R278, R292). -/
def State.sysReleased (s : State) (q id : Nat) : Bool :=
  s.sysReady && s.commands.all fun c => c.q != q || id < c.id || c.mark + 20 ≤ s.time || c.mark == 0

/-- The units' writes for a pass have been performed everywhere, at system scope (R292, R324). -/
def State.passReleased (s : State) (p : Pass) : Bool := s.sysReady && (p.mark + 20 ≤ s.time || p.mark == 0)

/-- Write a launch command's record and complete it; it waits while the record's page is absent. -/
def State.closeCommand (s : State) (id : Nat) : State :=
  match s.command? id with
  | none => s
  | some c =>
    if c.finished || !s.sysReleased c.q id then s else
    match s.agentWrite (agentOf c) c.ctx c.recVA (c.record s.time) with
    | (s, true) => s.finishCommand c
    | (s, false) => s

def State.launchesOf (s : State) (cmd : Nat) : List Launch := s.launches.filter fun l => l.cmd == cmd

/-- A pass that holds records of the graph is open, or holds records for its next opening (R324). -/
def State.passHolds (s : State) (cmd : Nat) : Bool :=
  s.passes.any fun p => (!p.finished && p.cmds.contains cmd) || p.waiting.any fun x => x.1 == cmd

/-- Fire what a non-join batch holds (R24, R46). The bytes between a record's end and the next multiple of 16 hold zeros
(log 68). -/
def State.fireBatch (s : State) (g : Gather) : State :=
  let s := { s with gathers := s.gathers.filter fun (x : Gather) => x.id != g.id }
  match g.recs with
  | [] => s
  | r :: _ =>
    let pad (bs : List Byte) : List Byte := bs ++ List.replicate (roundUp g.rsize 16 - bs.length) 0
    s.fire g.cmd g.node .firing
      { image := g.recs.flatMap fun r => pad r.data, s0 := g.recs.length, s1 := r.tag, s2 := g.port, count := g.recs.length }

/-- Batches of a graph that can still fire. -/
def State.partials (s : State) (cmd : Nat) : List Gather :=
  s.gathers.filter fun g => g.cmd == cmd && !g.join && !g.recs.isEmpty

/-- Fire every partial non-join batch of a graph. -/
def State.firePartials (s : State) (cmd : Nat) : State := (s.partials cmd).foldl State.fireBatch s

/-- Settle a launch command: its graph's completion, and its own. -/
def State.settleGraph (s : State) (id : Nat) : State :=
  match s.command? id with
  | none => s
  | some c =>
    let ls := s.launchesOf id
    let s := if !c.isGraph && c.acted && (ls.filter (·.cause.isRoot)).all (·.phase == .done) then s.closeCommand id else s
    if c.graphDone || !c.acted || ls.any (·.phase != .done) || s.passHolds id then s
    else if !(s.partials id).isEmpty then s.firePartials id
    else
      let lost := (s.gathers.filter fun g => g.cmd == id).foldl (fun n g => n + g.recs.length) 0
      let s := { s with gathers := s.gathers.filter fun (g : Gather) => g.cmd != id }
      let s := s.updCommand id fun c => { c with dropped := c.dropped + lost }
      let s := if c.isGraph then s.closeCommand id else s
      s.updCommand id fun c => { c with graphDone := c.finished }

/-- Create the root launches of a launch command: one for each entry of its array, also when entries name one node (log 72). -/
def State.makeRoots (s : State) (c : Command) (vas : List Nat) : State :=
  let s := s.updCommand c.id fun c => { c with roots := vas, acted := true }
  vas.foldl (fun s va => s.addLaunch c va .command c.dom c.share c.key c.pool none) s

/-- Earlier commands of the queue that have not completed. -/
def State.earlierOpen (s : State) (c : Command) : Bool :=
  s.commands.any fun d => d.q == c.q && d.id < c.id && !d.finished

/-- A command held back by its FENCE (R38). -/
def State.fenced (s : State) (c : Command) : Bool :=
  ((Instr.head? c.instr).map (·.fence)).getD false && s.earlierOpen c

/-- Take a launch command and all its launches as far as they can go. -/
def State.driveGraph (s : State) (id : Nat) : State :=
  match s.command? id with
  | none => s
  | some c =>
    if !c.acted then s else
    let s := (s.launchesOf id).foldl (fun s l => s.driveLaunch c l.id) s
    s.settleGraph id

/-- A launch is complete: every team has completed or been killed (R9). Its snapshot pages are free (R51). -/
def State.completeLaunch (s : State) (id : Nat) : State :=
  match s.launch? id with
  | none => s
  | some l =>
    let s := s.updContext l.ctx fun x => { x with used := x.used - l.poolTaken }
    let s := s.updLaunch id fun l => { l with phase := .done, snaps := [], poolTaken := 0 }
    let s := s.updCommand l.cmd fun c => { c with
      fteams := c.fteams + l.failedTeams.length, failed := c.failed || !l.failedTeams.isEmpty
      noReplay := c.noReplay || (l.cause.isRoot && !l.replayable) }
    s.driveGraph l.cmd

end Sys2Proof.Machine
end

