-- ==== Sys2Proof/Machine/Ends.lean ====
section
/-! DEFINITION. The ends of teams and launches: a team's drain (01_described R9; 02_launched R49; 14_interrupted R390, R391)
and the abort of a launch (14_interrupted R395). -/

namespace Sys2Proof.Machine

/-- A cohort copy of another team still carries granules toward this one (R390). -/
def State.inbound (s : State) (t : Team) : Bool :=
  (s.cohortOf t).any fun u => u.id != t.id && u.chans.any fun l => l.any fun k =>
    k.kind == .cpm && k.slices.any fun x => bitAt x.xmask (t.index % max 1 t.prog.cohort)

/-- The drain of a team is finished: its stores and copies are performed, every thread has released, and nothing comes in. It
does not wait for write-backs, which its threads' exits have discarded (R132, R375). -/
def State.drained (s : State) (t : Team) : Bool :=
  t.draining && !(s.loads.any fun o => o.dst.team == t.id && !o.dropped) && !(s.stores.any fun o => o.team == t.id)
    && !(s.cpas.any fun o => o.team == t.id && !o.done) && t.chans.all (·.isEmpty) && t.taken.isEmpty
    && !(s.clusters.any fun c => c.cores.any fun k => k.matq.any fun q => q.any fun o => o.team == t.id)
    && t.warps.all (fun w => w.threads.all fun th => th.horizon ≤ s.time) && !s.inbound t

/-- Free what a team held (R390). -/
def State.freeTeam (s : State) (t : Team) : State :=
  let s := (s.dropWaiters t.id).dropVictims t
  let s := { s with
    loads := s.loads.filter fun (o : LoadOp) => o.dst.team != t.id
    cpas := s.cpas.filter fun (o : CpaOp) => o.team != t.id
    batches := s.batches.filter fun (b : Batch) => b.team != t.id
    clusters := s.clusters.map fun (c : Cluster) => { c with
      queries := c.queries.filter fun (q : Query) => q.team != t.id
      hands := c.hands.filter fun (k : Ticket) => !(k.launch == t.launch && k.first == t.index)
      placing := c.placing.filter fun (k : Ticket) => !(k.launch == t.launch && k.first == t.index)
      depend := c.depend.filter fun (k : Ticket) => !(k.launch == t.launch && k.first == t.index && t.prog.cohort ≤ 1) } }
  s.updTeam t.id fun t => { t with
    place := .gone, started := false, tiles := [], planes := [], scratch := [], scratchBad := [], stale := none, slots := []
    saving := none, savedQueries := [], savedGens := [], queues := List.replicate 8 {}, sfq := [], owed := [], warps := [] }

/-- A team completes (R9, R49): its bits are set, its resources are free, and its launch may be complete. It waits while
the page of its bits is absent. -/
def State.completeTeam (s : State) (t : Team) : State :=
  let failed := t.failed || !t.sfq.isEmpty
  let leave (s : State) : State :=
    let s := s.freeTeam t
    match t.place with
    | .resident cl _ => (s.afterDeparture cl).dependRecheck cl
    | _ => s
  match s.launch? t.launch with
  | none => leave s
  | some l =>
    match l.phase with
    | .aborting _ => (leave s).driveGraph l.cmd
    | .running =>
      match s.setTeamBits (.agent l.cmd) l t.index failed with
      | (s, false) => s
      | (s, true) =>
        let s := s.updLaunch l.id fun l => { l with
          doneTeams := t.index :: l.doneTeams, failedTeams := if failed then t.index :: l.failedTeams else l.failedTeams }
        let s := leave s
        match s.launch? l.id with
        | some l => if l.doneTeams.length ≥ l.total then s.completeLaunch l.id else s
        | none => s
    | _ => leave s

/-- TEAM_DRAIN_DONE of the target's team. -/
def execTeamDrainDone (s : State) : Out :=
  .next (match s.team? s.target.team with
  | some t => if t.place != .gone && s.drained t then s.completeTeam t else s
  | none => s)

/-- LAUNCH_ABORT of the launch `id` with the cause `value` (R395): every team is killed, and what has passed translation is
performed before the pages are restored. -/
def execLaunchAbort (s : State) : Out :=
  .next (match s.launch? s.target.id with
  | none => s
  | some l =>
    if l.phase != .running then s else
    let s := s.updLaunch l.id fun l => { l with phase := .aborting s.target.value, doneTeams := [] }
    let ts := s.teams.filter fun t => t.launch == l.id && t.place != .gone
    let s := ts.foldl (fun s t => s.killTeam t.id) s
    s.driveGraph l.cmd)

end Sys2Proof.Machine
end

