-- ==== Sys2Proof/Machine/Commands.lean ====
section
/-! DEFINITION. Claiming commands and what each command does (02_launched R36 to R41, R55, R56; 14_interrupted R392). A
command in flight is named by the target's `id`; its step is taken again until the command has completed. -/

namespace Sys2Proof.Machine

/-! ### Claiming (R39, R40, R43) -/

/-- An agent that reads a ring: its wait on an absent page names the queue. -/
def ringAgent (q : Nat) : Waiter := .agent (2 ^ 64 + q)


/-- The command that an agent makes of a claimed ring entry. -/
def State.newCommand (s : State) (qn : Nat) (q : Queue) (i : Instr) : State :=
  let (s, id) := s.fresh
  let (dom, share, key) := s.claimDomain qn q.ctx
  let c : Command := { id := id, q := qn, idx := q.claim.toNat, ctx := q.ctx, instr := i, dom := dom, share := share, key := key
                       pool := (s.context q.ctx).poolRef }
  let c := match i with
    | .launchGraph _ _ _ r w b =>
      { c with isLaunch := true, isGraph := true, recVA := r.toNat, work := w.toNat, bytes := b.toNat }
    | .launchNode _ _ r w b => { c with isLaunch := true, recVA := r.toNat, work := w.toNat, bytes := b.toNat }
    | _ => c
  let s := { s with commands := s.commands ++ [c], agenda := .event i { id := id } :: s.agenda }
  s.updQueue qn fun q => { q with
    claim := q.claim + 1, cons := q.cons + 1
    waiting := match i with
      | .wait _ va t => some (va.toNat, t.toNat, id, s.time)
      | _ => none }

/-- A context that no cluster serves has a started launch whose teams need a place: its queues claim nothing more (R55). -/
def State.claimEnds (s : State) (ctx : Nat) : Bool :=
  !((List.range s.clusters.length).any (s.serves ctx ·)) && s.launches.any fun l => l.ctx == ctx && l.hasTickets

/-- Claim the next command of a queue. -/
def State.claimCommand (s : State) (qn : Nat) : State :=
  let q := s.queues.getD qn {}
  let n := (q.prod - q.claim).toNat
  if !q.en || q.halt || q.waiting.isSome || n = 0 || n > 2 ^ q.log || s.claimEnds q.ctx then s
  else
    match s.agentRead (ringAgent qn) q.ctx ((q.base.toNat + 64 * (q.claim.toNat % 2 ^ q.log)) % 2 ^ 64) 64 with
    | (s, .wait) => s
    | (s, .prot) => s.updQueue qn (·.fail 0x16)
    | (s, .data b) =>
      match decodeCommand (BitVec.ofNat 6 qn) q.priv ((List.range 8).map fun k => BitVec.ofNat 64 (w64 b (8 * k))) with
      | .error e => s.updQueue qn (·.fail e.toNat)
      | .ok i => s.newCommand qn q i

/-- COMMAND_CLAIM of queue `id` by the agent of the target's core. -/
def execCommandClaim (s : State) : Out :=
  .next (if s.agentLive s.target.cl s.target.co && s.target.id < 64 then s.claimCommand s.target.id else s)

/-! ### Commands (R38, R40, R41) -/

/-- Run a command that has not completed and that no fence holds. -/
def withCommand (s : State) (f : State → Command → State) : Out :=
  .next (match s.command? s.target.id with
  | none => s
  | some c => if c.finished || s.fenced c then s else f s c)

/-- LAUNCH_GRAPH: its roots are read from their array, and the graph is taken as far as it can go. -/
def execLaunchGraph (_h : CmdHead) (roots : Addr) (count : BitVec 64) (_recVA _work : Addr) (_bytes : BitVec 64) (s : State) :
    Out :=
  withCommand s fun s c =>
    if c.acted then s.driveGraph c.id
    else match s.agentWords (agentOf c) c.ctx (count.toNat % 65) roots.toNat with
    | (s, none) => s
    | (s, some vas) => (s.makeRoots c vas).driveGraph c.id

/-- LAUNCH_NODE: one launch; what its records fire goes on after the command has completed (R14, R38). -/
def execLaunchNode (_h : CmdHead) (node _recVA _work : Addr) (_bytes : BitVec 64) (s : State) : Out :=
  .next (match s.command? s.target.id with
  | none => s
  | some c =>
    if c.acted then s.driveGraph c.id
    else if s.fenced c then s
    else (s.makeRoots c [node.toNat]).driveGraph c.id)

/-- SIGNAL: after every earlier command of the queue has completed, with a release at system scope (R40, R292). -/
def execSignal (_h : CmdHead) (va : Addr) (value : BitVec 64) (s : State) : Out :=
  withCommand s fun s c =>
    if s.earlierOpen c || !s.sysReleased c.q c.id then s
    else match s.agentWrite (agentOf c) c.ctx va.toNat (leBytes value.toNat 8) with
    | (s, true) => s.finishCommand c
    | (s, false) => s

/-- Read the value of a WAIT: the command completes when it has reached the threshold. -/
def State.readWait (s : State) (c : Command) (va threshold : Nat) : State :=
  match s.agentRead (agentOf c) c.ctx va 8 with
  | (s, .data b) =>
    if threshold ≤ leNat b then
      (s.updQueue c.q fun q => { q with waiting := none }).finishCommand c
    else s.updQueue c.q fun q => { q with waiting := some (va, threshold, c.id, s.time) }
  | (s, _) => s.updQueue c.q fun q => { q with waiting := some (va, threshold, c.id, s.time) }

def execWait (_h : CmdHead) (va : Addr) (threshold : BitVec 64) (s : State) : Out :=
  withCommand s fun s c => s.readWait c va.toNat threshold.toNat

/-- WAIT_RECHECK of the WAIT that holds queue `id`. -/
def execWaitRecheck (s : State) : Out :=
  .next (match (s.queues.getD s.target.id {}).waiting with
  | none => s
  | some (va, threshold, cmd, _) =>
    match s.command? cmd with
    | some c => if c.finished || s.fenced c then s else s.readWait c va threshold
    | none => s)

/-- TIMESTAMP: at once, or with AFTER once every earlier command has completed. -/
def execTimestamp (h : CmdHead) (va : Addr) (s : State) : Out :=
  withCommand s fun s c =>
    if h.after && s.earlierOpen c then s
    else match s.agentWrite (agentOf c) c.ctx va.toNat (leBytes s.time 8) with
    | (s, true) => s.finishCommand c
    | (s, false) => s

/-- SET_DOMAIN: later launches of the context take the domain and its key. -/
def execSetDomain (_h : CmdHead) (dom : BitVec 12) (share : Bool) (key : BitVec 128) (s : State) : Out :=
  withCommand s fun s c =>
    (s.updContext c.ctx fun x => { x with dom := dom.toNat, share := share, key := key }).finishCommand c

/-- Cores that run a context load its new root at once on a cluster that no other running context shares (R56). -/
def State.reloadRoots (s : State) (ctx : Nat) : State :=
  (List.range s.clusters.length).foldl (fun s cl =>
    if s.shared cl then s else
    (s.liveCores cl).foldl (fun s co => if (s.core cl co).ctx = ctx then s.loadRoot cl co ctx else s) s) s

/-- Kill every saved team of a context that a PARTITION leaves without clusters (R392). -/
def State.teardown (s : State) (ctx : Nat) : State :=
  (s.teams.filter fun t => t.ctx == ctx && !t.killed && match t.place with
    | .saved | .swapped _ => true
    | _ => false).foldl (fun s t => s.killTeam t.id) s

/-- Write a context entry and let it take effect where no other running context shares a cluster (R55, R56). -/
def State.partition (s : State) (ctx mask : Nat) (excl : Bool) (slice root pool pages : Nat) : State :=
  let s := s.updContext ctx fun x => { x with
    mask := mask, excl := excl, slice := slice, root := root, pool := pool, pages := pages }
  let s := if excl then
      { s with contexts := s.contexts.map fun (x : Context) =>
          if x.id == ctx then x else { x with mask := x.mask - (x.mask &&& mask) } }
    else s
  let s := s.reloadRoots ctx
  let s := if mask = 0 then s.teardown ctx else s
  (List.range s.clusters.length).foldl (fun s cl =>
    if s.shared cl then s else (s.enforceMask cl).afterDeparture cl) s

/-- PARTITION. -/
def execPartition (_h : CmdHead) (ctx mask : BitVec 8) (excl : Bool) (slice : BitVec 7) (root : BitVec 64) (pool : Addr)
    (pages : BitVec 64) (s : State) : Out :=
  withCommand s fun s c =>
    (s.partition ctx.toNat mask.toNat excl slice.toNat root.toNat pool.toNat pages.toNat).finishCommand c

end Sys2Proof.Machine
end

