-- ==== Sys2Proof/Machine/Lod.lean ====
section
/-! DEFINITION. Level-of-detail loads, residency and feedback (08_memory_paths R222 to R228, 09_isa_memory R248 to R254). -/

namespace Sys2Proof.Machine

/-! ### Descriptors (R222, R223, R249) -/

/-- A resource descriptor as read. -/
structure Resource where
  base : Nat
  tail : Nat
  etag : Tag
  levels : Nat
  height : Nat
  width : Nat
  map : Nat
  ring : Nat
  nofilt : Bool
  log : Bool
  resid : Nat
  lbias : Int
  bil : Bool
  amv : Nat
  amu : Nat
  border : Word
  deriving DecidableEq, Repr

/-- How a read of a level-of-detail load ends: with what was read, with nothing because its page is absent or protected, or
so that the word is tried again. -/
inductive LodRes (α : Type) where
  | ok (x : α)
  | missing
  | again (w : Wait)
  deriving DecidableEq, Repr

/-- Bytes that a level-of-detail load reads through the L1, which copies stamped before `tacq` do not serve, and whether
they are in error. A miss takes or joins a miss-status entry until its fill returns; with none free the load is replayed
(R201, R276). -/
def State.lodRead (s : State) (c : Ctx) (tacq va n : Nat) : State × LodRes (List Byte × Bool) :=
  match s.translate c.iss.cl c.iss.co c.t.ctx c.t.priv .read va with
  | (s, .ok x) =>
    let cls := s.missClass 0 x
    match s.hit? c.iss.cl c.iss.co cls tacq false x with
    | some y => (s.touch c.iss.cl c.iss.co y.key, .ok ((y.data.drop (x.key - y.key)).take n, y.badAt x.key n))
    | none =>
      match s.takeMiss c.t.id c.w c.slot c.iss.cl c.iss.co cls false x with
      | (s, true) => (s, .ok (s.nearBytes c.iss.cl c.iss.co tacq x n, s.pathBad c.iss.cl c.iss.co x n))
      | (s, false) => (s, .again .mshr)
  | (s, .bad) => (s.machineCheck c.t.launch 0x18, .again .retry)
  | (s, _) => (s, .missing)

/-- Bytes that the device itself uses, a descriptor's or a map's: an error among them is consumed on the launch's behalf
(R395; log 63). -/
def State.lodUse (s : State) (c : Ctx) (tacq va n : Nat) : State × LodRes (List Byte) :=
  match s.lodRead c tacq va n with
  | (s, .ok (_, true)) => (s.machineCheck c.t.launch 0x18, .again .retry)
  | (s, .ok (bs, false)) => (s, .ok bs)
  | (s, .missing) => (s, .missing)
  | (s, .again w) => (s, .again w)

/-- A level-of-detail word waits for an acquire still in flight, for its thread's loads to be settled and for its stores to
be translated, those held on a page that has come among them, so that what it reads is neither older than its own stores nor newer than an earlier load (R276, R279,
R291). -/
def State.lodGate (s : State) (c : Ctx) : Bool :=
  s.acquiring c.t.id c.w c.own || !s.loadsSettled c.t.id c.w c.own
    || s.stores.any fun o => s.waitsStore c.t.id c.w c.own o
      && (o.st == .issued || (o.st == .held && (s.heldSpan o).2.2.isNone))

/-- Read a descriptor's eight words into its fields; `none` when malformed (R222). -/
def Resource.ofWords (w : List Nat) : Option Resource :=
  let q (k : Nat) : Nat := w.getD k 0
  let tail := bits (q 1) 40 4
  let levels := bits (q 1) 32 4
  if bits (q 1) 44 20 != 0 || bits (q 4) 57 7 != 0 || bits (q 4) 2 4 != 0 || bits (q 5) 48 16 != 0
    || bits (q 5) 37 3 != 0 || bits (q 6) 32 32 != 0 || q 7 != 0 || levels ≤ tail then none
  else some
    { base := q 0, tail := tail, etag := Tag.ofCode (bits (q 1) 36 4), levels := levels, height := bits (q 1) 16 16
      width := bits (q 1) 0 16, map := q 2, ring := signVa (bits (q 4) 6 51 * 64), nofilt := bitAt (q 4) 1
      log := bitAt (q 4) 0, resid := bits (q 5) 0 32, lbias := sextNat 8 (bits (q 5) 40 8), bil := bitAt (q 5) 36
      amv := bits (q 5) 34 2, amu := bits (q 5) 32 2, border := BitVec.ofNat 32 (q 6) }
where
  /-- A 57-bit address made canonical (R6). -/
  signVa (va : Nat) : Nat := if bitAt va 56 then va + (2 ^ 64 - 2 ^ 57) else va

/-- A descriptor; a malformed one is as good as none (R222, R250, R253, R254). -/
def State.readDesc (s : State) (c : Ctx) (va : Nat) : State × LodRes Resource :=
  match s.lodUse c c.tacq va 64 with
  | (s, .missing) => (s, .missing)
  | (s, .again w) => (s, .again w)
  | (s, .ok bs) =>
    match Resource.ofWords ((List.range 8).map fun k => leNat ((bs.drop (8 * k)).take 8)) with
    | some r => (s, .ok r)
    | none => (s, .missing)

def Resource.w (r : Resource) (l : Nat) : Nat := max 1 (r.width >>> l)
def Resource.h (r : Resource) (l : Nat) : Nat := max 1 (r.height >>> l)
def pages128 (n : Nat) : Nat := (n + 127) / 128

/-- Bytes of a level's storage (R223). -/
def Resource.levelBytes (r : Resource) (l : Nat) : Nat :=
  if l < r.tail then pages128 (r.w l) * pages128 (r.h l) * 65536 else r.w l * r.h l * 4

/-- First byte of a level; tail levels start 256-byte aligned. -/
def Resource.levelBase (r : Resource) (l : Nat) : Nat :=
  (List.range l).foldl (fun a k =>
    let e := a + r.levelBytes k
    if r.tail ≤ k + 1 then roundUp e 256 else e) r.base

/-- Address of element (x, y) of a level (R223). -/
def Resource.elem (r : Resource) (l x y : Nat) : Nat :=
  (r.levelBase l + (if l < r.tail then
    (y / 128 * pages128 (r.w l) + x / 128) * 65536 + (y % 128 * 128 + x % 128) * 4
  else (y * r.w l + x) * 4)) % 2 ^ 64

/-- Element address of the map byte for a level-0 coordinate (R224). -/
def Resource.mapAt (r : Resource) (x y : Nat) : Nat := (r.map + y / 128 * pages128 r.width + x / 128) % 2 ^ 64

/-! ### The feedback ring (R227, R228) -/

/-- A page wanted of a level. -/
structure Want where
  lvl : Nat
  px : Nat
  py : Nat
  deriving DecidableEq, Repr

/-- The ring's header as its home holds it; none when its page is absent or protected. -/
def State.ringRead (s : State) (c : Ctx) (va : Nat) : State × Option (List Byte) :=
  match s.translate c.iss.cl c.iss.co c.t.ctx c.t.priv .read va with
  | (s, .ok x) => if s.xlatBad x 64 then (s.machineCheck c.t.launch 0x18, none) else (s, some (s.homeBytes x 64))
  | (s, .bad) => (s.machineCheck c.t.launch 0x18, none)
  | (s, _) => (s, none)

/-- Where a write of the device to the ring goes, when its page is present and may be written. -/
def State.ringXlat (s : State) (c : Ctx) (va : Nat) : State × Option Xlat :=
  match s.translate c.iss.cl c.iss.co c.t.ctx c.t.priv .write va with
  | (s, .ok x) => (s, if x.imm && !x.doorbell then none else some x)
  | (s, .bad) => (s.machineCheck c.t.launch 0x18, none)
  | (s, _) => (s, none)

/-- A write of the device to a header word, performed at home as an atomic is; the answer is its completion time. -/
def State.ringWrite (s : State) (c : Ctx) (va : Nat) (bs : List Byte) : State × Option Nat :=
  match s.ringXlat c va with
  | (s, some x) =>
    let s := s.beforeWrite c.t.launch va
    let g := s.gwct x
    ((s.writeHome x bs).updCore c.iss.cl c.iss.co fun k =>
      { k with l1 := k.l1.filter fun (y : Sector) => !overlap y.key 64 x.key bs.length }, some g)
  | (s, none) => (s, none)

/-- Raise OVFC by one. -/
def State.ringOverflow (s : State) (c : Ctx) (ring ovfc : Nat) : State :=
  (s.ringWrite c (ring + 0x18) (leBytes (ovfc + 1) 8)).1

/-- An entry on its way to its home: a releasing write of the device, performed once the write of PROD is complete
everywhere (R227, R278). Lane 33 is no thread's. -/
def State.ringEntry (s : State) (c : Ctx) (va : Nat) (x : Xlat) (bs : List Byte) (after : Nat) : State :=
  let (s, id) := s.fresh
  let o : StoreOp := { id := id, grp := id, team := c.t.id, warp := c.w, lane := 33, ctx := c.t.ctx, launch := c.t.launch
                       va := va, xl := x, bytes := bs.length, op := .store bs, cl := c.iss.cl, co := c.iss.co, pc := c.iss.hdr
                       word := c.iss.word, raw := c.iss.raw, width := 4, st := .translated, notBefore := after }
  ({ s with stores := s.stores ++ [o] } : State).hitStore o bs

/-- The header's reserved bits are zero and LOGSZ is in range (R227). Bits 63:32 of the words of PROD and CONS and bits 63:5
of LOGSZ's count as reserved, and EVA is used as it stands (log 63). -/
def ringFormed (q : Nat → Nat) : Bool :=
  bits (q 0) 32 32 == 0 && bits (q 1) 32 32 == 0 && bits (q 2) 5 59 == 0 && q 5 == 0 && q 6 == 0 && q 7 == 0
    && 4 ≤ bits (q 2) 0 5 && bits (q 2) 0 5 ≤ 20

/-- Log a want: LOGGED and OVF of the status (R226 to R228). -/
def State.logWant (s : State) (c : Ctx) (r : Resource) (w : Want) : State × Bool × Bool :=
  let k := s.core c.iss.cl c.iss.co
  if !r.nofilt && k.filter.any fun e => e.resid == r.resid && e.lvl == w.lvl && e.px == w.px && e.py == w.py then
    (s, true, false)
  else match s.ringRead c r.ring with
  | (s, none) => (s, false, true)
  | (s, some bs) =>
    let q (i : Nat) : Nat := leNat ((bs.drop (8 * i)).take 8)
    let prod := bits (q 0) 0 32
    let cons := bits (q 1) 0 32
    let logsz := bits (q 2) 0 5
    if !ringFormed q then (s, false, true)
    else if (prod + 2 ^ 32 - cons) % 2 ^ 32 ≥ 2 ^ logsz then (s.ringOverflow c r.ring (q 3), false, true)
    else match s.ringWrite c r.ring (leBytes (prod + 1) 4) with
    | (s, none) => (s, false, true)
    | (s, some g) =>
      let entry := leBytes (2 ^ 63 + w.py % 4096 * 2 ^ 48 + w.px % 4096 * 2 ^ 36 + w.lvl * 2 ^ 32 + r.resid) 8
        ++ leBytes s.time 8
      let va := (q 4 + 16 * (prod % 2 ^ logsz)) % 2 ^ 64
      match s.ringXlat c va with
      | (s, none) => (s.ringOverflow c r.ring (q 3), false, true)
      | (s, some x) =>
        let s := s.ringEntry c va x entry g
        let e : FiltEntry := { resid := r.resid, lvl := w.lvl, px := w.px, py := w.py, time := s.time }
        (if r.nofilt then s else s.updCore c.iss.cl c.iss.co fun k =>
          { k with filter := (k.filter ++ [e]).drop (k.filter.length + 1 - 64) }, true, false)

/-- Log several wants in order. -/
def State.logWants (s : State) (c : Ctx) (r : Resource) (ws : List Want) : State × Bool × Bool :=
  ws.foldl (fun (s, l, o) w => match s.logWant c r w with | (s, l', o') => (s, l || l', o || o')) (s, false, false)

/-! ### Serving (R225, R226) -/

/-- What was served: the level, the fallback bits and the texels with their error marks. -/
structure Served where
  level : Nat
  tailu : Bool
  none : Bool
  stale : Bool
  texels : List (Word × Bool)
  deriving DecidableEq, Repr

/-- Read every texel of a level, up to the first whose page is missing. `none` stands for a border texel. -/
def State.readTexels (s : State) (c : Ctx) (tacq : Nat) (r : Resource) (l : Nat) (ts : List (Option (Nat × Nat))) :
    State × LodRes (List (Word × Bool)) :=
  ts.foldl (fun (s, acc) t =>
    match acc, t with
    | .ok ws, none => (s, .ok (ws ++ [(r.border, false)]))
    | .ok ws, some (x, y) =>
      match s.lodRead c tacq (r.elem l x y) 4 with
      | (s, .ok (bs, bad)) => (s, .ok (ws ++ [(BitVec.ofNat 32 (leNat bs), bad)]))
      | (s, .missing) => (s, .missing)
      | (s, .again w) => (s, .again w)
    | stop, _ => (s, stop)) (s, .ok [])

/-- Nothing resident: zeros, at the level tried last (R225). -/
def nothingServed (l : Nat) (stale : Bool) (n : Nat) : Served :=
  { level := l, tailu := true, none := true, stale := stale, texels := List.replicate n (0, false) }

/-- Fall back from a level until one is resident (R225). -/
def State.serve (c : Ctx) (tacq : Nat) (r : Resource) (foot : Nat → List (Option (Nat × Nat))) :
    Nat → Nat → Bool → State → State × LodRes Served
  | 0, l, stale, s => (s, .ok (nothingServed l stale (foot l).length))
  | fuel + 1, l, stale, s =>
    match s.readTexels c tacq r l (foot l) with
    | (s, .ok ws) => (s, .ok { level := l, tailu := r.tail ≤ l, none := false, stale := stale, texels := ws })
    | (s, .again w) => (s, .again w)
    | (s, .missing) =>
      if r.tail ≤ l then (s, .ok (nothingServed l stale (foot l).length))
      else State.serve c tacq r foot fuel (l + 1) true s

/-- The map byte, TAIL when the read meets an absent or protection outcome; whether it did. The read acquires at device
scope (R225, R253). -/
def State.readMap (s : State) (c : Ctx) (r : Resource) (x y : Nat) : State × LodRes (Nat × Bool) :=
  match s.lodUse c c.tacq (r.mapAt x y) 1 with
  | (s, .again w) => (s, .again w)
  | (s, .missing) => (s, .ok (r.tail, true))
  | (s, .ok bs) => (s.acquire c.t.id c.w c.own, .ok (leNat bs, false))

def b2n (b : Bool) (k : Nat) : Nat := if b then 2 ^ k else 0

/-- The status word (R226). -/
def Served.status (v : Served) (w : Nat) (logged ovf : Bool) : Word :=
  BitVec.ofNat 32 (v.level * 2 ^ 12 + b2n ovf 8 + b2n logged 7 + b2n v.stale 6 + b2n v.none 5 + b2n v.tailu 4
    + min 13 (v.level - w))

def statNone : Word := 0x20

/-! ### Operands (R248) -/

def lodA (iss : Issue) (a : BitVec 7) : Opnd := ((iss.reg a.toNat).grp 2 2).src (some [.addr])
def lodC (iss : Issue) (c : BitVec 7) (tags : Option (List Tag)) : Opnd := ((iss.reg c.toNat).grp 3 1).src tags
def lodD (iss : Issue) (d : BitVec 7) (n : Nat) : Opnd := ((iss.reg d.toNat).grp n 1).dst

/-- A descriptor address is 64-byte aligned (R222). -/
def descCheck (a : Opnd) (c : Ctx) : Option Nat := alignCheck (c.pair a) 64

/-- The lines a load references, for the sketch (R70): the elements' lines. -/
def State.noteTexels (s : State) (c : Ctx) (r : Resource) (l : Nat) (ts : List (Option (Nat × Nat))) : State :=
  ts.foldl (fun s t => match t with
    | some (x, y) => s.noteLine c.t.id c.w (r.elem l x y)
    | none => s) s

/-- Bind a level-of-detail load's results: long-latency like any load (R248). -/
def State.lodBind (s : State) (c : Ctx) (d : Opnd) (ws : List (Word × Tag)) : State × LaneRes :=
  (s.boundLoad c d ws none, .done)

/-- Pages of a level that hold texels, each once, in order. -/
def wantsOf (lvl : Nat) (ts : List (Option (Nat × Nat))) : List Want :=
  ts.foldl (fun ws t => match t with
    | some (x, y) =>
      let w : Want := { lvl := lvl, px := x / 128, py := y / 128 }
      if ws.contains w then ws else ws ++ [w]
    | none => ws) []

/-- Serve a footprint of the region that holds (x, y) and log a fallback: what was served and its status word (R225 to
R228). The element reads come after the map's acquire. -/
def State.lodServe (s : State) (c : Ctx) (r : Resource) (w x y : Nat) (foot : Nat → List (Option (Nat × Nat))) :
    State × LodRes (Served × Word) :=
  match s.readMap c r x y with
  | (s, .missing) => (s, .missing)
  | (s, .again w) => (s, .again w)
  | (s, .ok (f, _)) =>
    match State.serve c (max c.tacq (s.thread c.t.id c.w c.l).tacq) r foot 16 (max w (min f r.tail)) false s with
    | (s, .missing) => (s, .missing)
    | (s, .again w) => (s, .again w)
    | (s, .ok v) =>
      let s := s.noteTexels c r v.level (foot v.level)
      let (s, l, o) := if v.level > w && r.log then s.logWants c r (wantsOf w (foot w)) else (s, false, false)
      (s, .ok (v, v.status w l o))

/-- A texel's register, POISON when it met an error. -/
def texelReg (r : Resource) (x : Word × Bool) : Word × Tag := if x.2 then (0, .poison) else (x.1, r.etag)

/-! ### LDL (R250) -/

/-- What the words on a resource share: the descriptor's address is canonical, earlier accesses of the thread are settled,
and the descriptor is read, a line that counts for the sketch when `note` (R70, R195). -/
def State.lodWord (s : State) (k : Ctx) (pa : Opnd) (note : Bool) (missing : State → State × LaneRes)
    (go : State → Resource → State × LaneRes) : State × LaneRes :=
  if !canonical (k.pair pa) then (s, .trap 0x0C)
  else if s.lodGate k then (s, .stay .retry)
  else match s.readDesc k (k.pair pa) with
  | (s, .again w) => (s, .stay w)
  | (s, .missing) => missing s
  | (s, .ok r) => go (if note then s.noteLine k.t.id k.w (k.pair pa) else s) r

def execLdl (d a c : BitVec 7) (s : State) : Out :=
  withIssue s fun iss =>
    let pa := lodA iss a
    let pc := lodC iss c (some [.n32, .i32])
    let pd := lodD iss d 2
    ({ grp := .mem, os := [pa, pc, pd], inOrder := true } : Form).perform iss (descCheck pa) fun s k =>
      s.lodWord k pa true (·.lodBind k pd [(0, .raw), (statNone, .stat)]) fun s r =>
        let x := (k.rd pc 0).toNat
        let y := (k.rd pc 1).toNat
        if x ≥ r.width ∨ y ≥ r.height then s.lodBind k pd [(0, r.etag), (statNone, .stat)] else
        match s.lodServe k r (min (k.rd pc 2).toNat (r.levels - 1)) x y fun l => [some (x >>> l, y >>> l)] with
        | (s, .ok (v, st)) => s.lodBind k pd [texelReg r (v.texels.getD 0 (0, false)), (st, .stat)]
        | (s, .missing) => s.lodBind k pd [(0, .raw), (statNone, .stat)]
        | (s, .again w) => (s, .stay w)

/-! ### SMPL and GATH4 (R251, R252) -/

/-- Floor of an exact dyadic number. -/
def floorNum (neg : Bool) (m : Nat) (e : Int) : Int :=
  let v : Int := if neg then -(m : Int) else m
  if e ≥ 0 then v * 2 ^ e.toNat else Int.fdiv v (2 ^ (-e).toNat)

/-- A finite F32 as sign, significand and exponent; what is not finite counts as zero. -/
def finiteOr0 (x : Word) : Bool × Nat × Int :=
  match unpack fmtF32 x.toNat with
  | .fin n m e => (n, m, e)
  | _ => (false, 0, 0)

/-- The texel index an addressing mode gives (R251); `none` for the border. -/
def texIdx (c : Int) (n mode : Nat) : Option Nat :=
  match mode with
  | 0 => some (Int.emod c n).toNat
  | 1 => some (if c < 0 then 0 else min c.toNat (n - 1))
  | 2 =>
    let m := (Int.emod c (2 * n)).toNat
    some (if m < n then m else 2 * n - 1 - m)
  | _ => if 0 ≤ c ∧ c < n then some c.toNat else none

/-- floor(u * n) exactly. -/
def scaleFloor (u : Word) (n : Nat) : Int := let (g, m, e) := finiteOr0 u; floorNum g (m * n) e

/-- floor and 1/256 fraction of u * n - 1/2 (R251). -/
def scaleBil (u : Word) (n : Nat) : Int × Nat :=
  let (g, m, e) := finiteOr0 u
  let q := floorNum g (m * n) (e + 9)
  -- q = floor(512 u n); x = u n - 1/2, so floor(512 x) = q - 256
  let t := q - 256
  (Int.fdiv t 512, (Int.emod t 512).toNat / 2)

/-- A sampler's wanted level from λ and the bias; a NaN gives level 0, without the bias (R251). -/
def wantedLevel (r : Resource) (lam : Word) : Nat :=
  match unpack fmtF32 lam.toNat with
  | .fin g m e =>
    -- floor((16 λ + LBIAS) / 16), where LBIAS is a whole number of sixteenths
    let fl := Int.fdiv (floorNum g m (e + 4) + r.lbias) 16
    if fl < 0 then 0 else min fl.toNat (r.levels - 1)
  | .inf g => if g then 0 else r.levels - 1
  | _ => 0

/-- A texel from indices, a border one when either is. -/
def texel (r : Resource) (l : Nat) (x y : Int) : Option (Nat × Nat) :=
  match texIdx x (r.w l) r.amu, texIdx y (r.h l) r.amv with
  | some i, some j => some (i, j)
  | _, _ => none

/-- The footprint at a level: one texel, or t00, t10, t01, t11. -/
def footprint (r : Resource) (bil : Bool) (u v : Word) (l : Nat) : List (Option (Nat × Nat)) :=
  if bil then
    let (i, _) := scaleBil u (r.w l)
    let (j, _) := scaleBil v (r.h l)
    [texel r l i j, texel r l (i + 1) j, texel r l i (j + 1), texel r l (i + 1) (j + 1)]
  else [texel r l (scaleFloor u (r.w l)) (scaleFloor v (r.h l))]

/-- The bilinear sum (R252): weights in 1/65536, rounded once. -/
def bilinear (ts : List Word) (al be : Nat) : Word :=
  let ws := [(256 - al) * (256 - be), al * (256 - be), (256 - al) * be, al * be]
  let ns := ts.map fun t => unpack fmtF32 t.toNat
  let part := (ns.zip ws).filter fun x => x.2 != 0
  let infs := part.filterMap fun x => match x.1 with | .inf g => some g | _ => none
  if ns.any Num.isNan then BitVec.ofNat 32 fmtF32.nanBits
  else match infs with
  | g :: gs => if gs.all (· == g) then BitVec.ofNat 32 (signed fmtF32 g fmtF32.infBits) else BitVec.ofNat 32 fmtF32.nanBits
  | [] =>
    let lo := part.foldl (fun m x => match x.1 with | .fin _ _ e => min m e | _ => m) (0 : Int)
    let sum := part.foldl (fun (a : Int) x => match x.1 with
      | .fin g m e => a + (if g then -1 else 1) * ((m * x.2 * 2 ^ (e - lo).toNat : Nat) : Int)
      | _ => a) 0
    let allNeg := part.all fun x => x.1.neg
    if sum = 0 then (if allNeg then 0x80000000 else 0)
    else BitVec.ofNat 32 (roundMag fmtF32 0 (decide (sum < 0)) sum.natAbs (lo - 16) false).bits

/-- What SMPL and GATH4 share: the texels served, the status word and whether the texel at level 0 is the border. -/
def State.sample (s : State) (k : Ctx) (r : Resource) (pc : Opnd) (bil : Bool) : State × LodRes (Served × Word × Bool) :=
  let u := k.rd pc 0
  let v := k.rd pc 1
  let w := wantedLevel r (k.rd pc 2)
  match texel r 0 (scaleFloor u r.width) (scaleFloor v r.height) with
  | none =>
    let sv : Served := { level := w, tailu := false, none := false, stale := false, texels := List.replicate 4 (r.border, false) }
    (s, .ok (sv, BitVec.ofNat 32 (w * 2 ^ 12), true))
  | some (x, y) =>
    match s.lodServe k r w x y (footprint r bil u v) with
    | (s, .ok (sv, st)) => (s, .ok (sv, st, false))
    | (s, .missing) => (s, .missing)
    | (s, .again w) => (s, .again w)

def execSmpl (d a c : BitVec 7) (filt : BitVec 2) (s : State) : Out :=
  withIssue s fun iss =>
    let pa := lodA iss a
    let pc := lodC iss c (some [.f32])
    let pd := lodD iss d 2
    ({ grp := .mem, wf := (Instr.smpl d a c filt).wf, os := [pa, pc, pd], inOrder := true } : Form).perform iss (descCheck pa) fun s k =>
      s.lodWord k pa true (·.lodBind k pd [(0, .raw), (statNone, .stat)]) fun s r =>
        let bil := (filt == 2 || (filt == 0 && r.bil)) && r.etag == .f32
        match s.sample k r pc bil with
        | (s, .ok (v, st, _)) =>
          let val : Word × Tag :=
            if v.none || !bil then texelReg r (if v.none then (0, false) else v.texels.getD 0 (0, false))
            else if v.texels.any (·.2) then (0, .poison)
            else (bilinear (v.texels.map (·.1)) (scaleBil (k.rd pc 0) (r.w v.level)).2 (scaleBil (k.rd pc 1) (r.h v.level)).2
              , r.etag)
          s.lodBind k pd [val, (st, .stat)]
        | (s, .missing) => s.lodBind k pd [(0, .raw), (statNone, .stat)]
        | (s, .again w) => (s, .stay w)

def execGath4 (d a c : BitVec 7) (s : State) : Out :=
  withIssue s fun iss =>
    let pa := lodA iss a
    let pc := lodC iss c (some [.f32])
    let pd := lodD iss d 5
    ({ grp := .mem, os := [pa, pc, pd], inOrder := true } : Form).perform iss (descCheck pa) fun s k =>
      s.lodWord k pa true (·.lodBind k pd (List.replicate 4 (0, .raw) ++ [(statNone, .stat)])) fun s r =>
        match s.sample k r pc true with
        | (s, .ok (v, st, _)) => s.lodBind k pd ((v.texels.map (texelReg r)) ++ [(st, .stat)])
        | (s, .missing) => s.lodBind k pd (List.replicate 4 (0, .raw) ++ [(statNone, .stat)])
        | (s, .again w) => (s, .stay w)

/-! ### RESQ and FBCK (R253, R254) -/

def execResq (d a c : BitVec 7) (s : State) : Out :=
  withIssue s fun iss =>
    let pa := lodA iss a
    let pc := lodC iss c (some [.n32, .i32])
    let pd := lodD iss d 1
    ({ grp := .mem, os := [pa, pc, pd], inOrder := true } : Form).perform iss (descCheck pa) fun s k =>
      let out (x : Nat) (s : State) : State × LaneRes :=
        (s.updWarp k.t.id k.w fun wp => wp.setGroup k.l pd [(BitVec.ofNat 32 x, .n32)], .done)
      s.lodWord k pa false (out 0x1000) fun s r =>
        let x := (k.rd pc 0).toNat
        let y := (k.rd pc 1).toNat
        let fields := r.tail * 2 ^ 8 + r.levels * 2 ^ 4
        if x ≥ r.width ∨ y ≥ r.height then out (2 ^ 13 + fields + r.tail) s
        else match s.readMap k r x y with
          | (s, .ok (f, bad)) => out (b2n bad 12 + fields + min f r.tail) s
          | (s, .missing) => out (2 ^ 12 + fields + r.tail) s
          | (s, .again w) => (s, .stay w)

def execFbck (a c : BitVec 7) (s : State) : Out :=
  withIssue s fun iss =>
    let pa := lodA iss a
    let pc := lodC iss c (some [.n32, .i32])
    ({ grp := .mem, os := [pa, pc], inOrder := true } : Form).perform iss (descCheck pa) fun s k =>
      s.lodWord k pa false (fun s => (s, .done)) fun s r =>
        let x := (k.rd pc 0).toNat
        let y := (k.rd pc 1).toNat
        let w := min (k.rd pc 2).toNat (r.levels - 1)
        if !r.log ∨ x ≥ r.width ∨ y ≥ r.height then (s, .done)
        else ((s.logWant k r { lvl := w, px := (x >>> w) / 128, py := (y >>> w) / 128 }).1, .done)

end Sys2Proof.Machine
end

