-- ==== Sys2Proof/Machine/Moves.lean ====
section
/-! DEFINITION. Predicate and move words 0x90 to 0x96 (07_isa_alu R193, R194). -/

namespace Sys2Proof.Machine

def execSel (f : PS) (s : State) : Out :=
  regWord (fun iss => { grp := .alu, wf := (Instr.sel f).wf
                        past := iss.past (iss.dF f.d) (iss.aF f.a) (iss.bF f.b)
                        os := [(iss.reg (iss.aF f.a)).src none, (iss.reg (iss.bF f.b)).src none,
                               (iss.prd f.p.toNat).src none, (iss.reg (iss.dF f.d)).dst] })
    (fun iss c =>
      let x := if c.isTrue (iss.prd f.p.toNat) then iss.reg (iss.aF f.a) else iss.reg (iss.bF f.b)
      { regs := [((iss.reg (iss.dF f.d)).dst, [(c.rd x, c.tag x)])] }) s

/-- The operations of PLOG by cond. -/
def plogOp (cond : Nat) (a b : Bool) : Bool :=
  match cond with
  | 0 => a && b | 1 => a || b | 2 => a != b | 3 => a && !b | 4 => !a | _ => a

def execPlog (f : P3) (s : State) : Out :=
  regWord (fun iss =>
      let b := iss.bF f.b
      let two := f.cond.toNat ≤ 3
      { grp := .alu, wf := (Instr.plog f).wf
        past := pdOver iss f.pd || predOver iss f.a || (iss.stepB != 0 && b > if two then 7 else 127)
        os := [iss.predA f.a f.ea] ++ (if two then [iss.predB f.b f.eb] else []) ++ [f.pdst iss] })
    (fun iss c => { regs := [predRes (f.pdst iss)
      (plogOp f.cond.toNat (c.isTrue (iss.predA f.a f.ea)) (c.isTrue (iss.predB f.b f.eb)))] }) s

/-- Bit i holds predicate i, bit 7 is 1. -/
def predMask (c : Ctx) (iss : Issue) : Word :=
  (List.range 8).foldl (fun m i => if c.isTrue (iss.prd i) then m ||| BitVec.ofNat 32 (2 ^ i) else m) 0

def execPget (f : A3) (s : State) : Out :=
  regWord (fun iss => { grp := .alu, wf := (Instr.pget f).wf, past := f.past iss
                        os := [((iss.prd 0).src none).grp 7 1, f.dst iss] })
    (fun iss c => { regs := [(f.dst iss, [(predMask c iss, .mask)])] }) s

def execPput (f : A3) (s : State) : Out :=
  regWord (fun iss => { grp := .alu, wf := (Instr.pput f).wf, past := f.past iss
                        os := [f.srcA iss (some [.mask, .n32, .i32]), ((iss.prd 0).dst).grp 7 1] })
    (fun iss c =>
      let a := (c.rd (f.srcA iss none)).toNat
      { regs := [((iss.prd 0).dst, (List.range 7).map fun i => (if bitAt a i then 1 else 0, .raw))] }) s

def execMov (f : A3) (s : State) : Out :=
  regWord (fun iss => f.form iss (Instr.mov f).wf false false none none none)
    (fun iss c =>
      let a := f.srcA iss none
      { regs := [(f.dst iss, [(c.rd a, c.tag a)])] }) s

def execRdln (f : A3) (s : State) : Out :=
  regWord (fun iss => { grp := .alu, wf := (Instr.rdln f).wf && ((f.bs == 1) == (iss.cls != 0)), past := f.past iss
                        os := [f.srcB iss none, f.dst iss] })
    (fun iss c => { regs := [(f.dst iss, [(c.rd (f.srcB iss none), .raw)])] }) s

end Sys2Proof.Machine
end

