-- ==== Sys2Proof/Machine/Memo.lean ====
section
/-! DEFINITION. Signatures and the memo table (13_memo R345 to R347, R354 to R369). -/

namespace Sys2Proof.Machine

/-! ### The Sterex mix (R345 to R347) -/

/-- An absorption state (R346). -/
structure Mix where
  a : Word
  b : Word
  c : Word
  d : Word
  count : Nat := 0
  deriving DecidableEq, Repr

/-- The initial state of a kind under a 128-bit key (R345). -/
def Mix.init (key : BitVec 128) (kind : Nat) : Mix :=
  let n := BitVec.ofNat 32 kind
  { a := key.extractLsb' 0 32 ^^^ (0x53A1C300#32 + n), b := key.extractLsb' 32 32 ^^^ (0x7E194D00#32 + n)
    c := key.extractLsb' 64 32 ^^^ (0x2B8F6A00#32 + n), d := key.extractLsb' 96 32 ^^^ (0xC6401E00#32 + n) }

def Mix.absorb (m : Mix) (w : Word) : Mix :=
  let a := (m.a ^^^ w) * 0x9E3779B1#32
  let b := m.b.rotateLeft 5 + a
  let c := m.c ^^^ a.rotateLeft 13
  { a := a, b := b, c := c, d := m.d + c, count := m.count + 1 }

def Mix.absorbAll (m : Mix) (ws : List Word) : Mix := ws.foldl (·.absorb ·) m

def Mix.finalise (m : Mix) : Mix := m.absorbAll [BitVec.ofNat 32 m.count, 0, 0]

/-- The words of a signature, lowest first. -/
def Mix.words (m : Mix) : List Word := [m.a, m.b, m.c, m.d]

/-- The 128-bit signature of its words, lowest first. -/
def sigNat (ws : List Word) : Nat := leNat (ofWords ws)

/-- Fraction bits a tolerance class clears (R347). -/
def tolBits (t : Nat) : Nat := 6 * t

/-- Quantise an F32 pattern (R347). -/
def quantF32 (x : Word) (n : Nat) : Word :=
  let m := bits x.toNat 0 31
  if m > 0x7F800000 then 0x7FC00000 else
  let m := if n = 0 then m else (m + 2 ^ (n - 1)) / 2 ^ n * 2 ^ n
  let m := if m ≥ 0x7F800000 then 0x7F800000 else m
  if m = 0 then 0 else BitVec.ofNat 32 (m + if bitAt x.toNat 31 then 2 ^ 31 else 0)

/-! ### Owners (R354, R355) -/

/-- The absorption state of the word's owner: the warp in class 0, else the thread. -/
def Ctx.ab (c : Ctx) : Absorb := if c.iss.cls = 0 then c.wp.ab else c.th.ab

def State.setAb (s : State) (c : Ctx) (f : Absorb → Absorb) : State :=
  if c.iss.cls = 0 then s.updWarp c.t.id c.w fun wp => { wp with ab := f wp.ab }
  else s.updThread c.t.id c.w c.l fun th => { th with ab := f th.ab }

def Absorb.mix (a : Absorb) : Mix := { a := a.a, b := a.b, c := a.c, d := a.d, count := a.count }
def Absorb.setMix (a : Absorb) (m : Mix) : Absorb := { a with a := m.a, b := m.b, c := m.c, d := m.d, count := m.count }

/-- Clear every signed-input bit of an owner's files. -/
def Warp.clearSigned (wp : Warp) (scalar : Bool) (l : Nat) : Warp :=
  if scalar then { wp with s := wp.s.map fun (r : SReg) => { r with signed := false }
                           sp := wp.sp.map fun (r : PReg) => { r with signed := false } }
  else wp.updThread l fun th => { th with v := th.v.map fun (r : Reg) => { r with signed := false }
                                          p := th.p.map fun (r : PReg) => { r with signed := false } }

/-- Set the signed-input bit of a register or predicate. -/
def Warp.signCell (wp : Warp) (l : Nat) (f : RFile) (n : Nat) : Warp :=
  match f with
  | .vec => wp.updThread l fun th => { th with v := updAt th.v n fun r => { r with signed := true } }
  | .uni => { wp with s := updAt wp.s n fun r => { r with signed := true } }
  | .pred => wp.updThread l fun th => { th with p := updAt th.p n fun r => { r with signed := true } }
  | .upred => { wp with sp := updAt wp.sp n fun r => { r with signed := true } }

def Warp.signGroup (wp : Warp) (l : Nat) (o : Opnd) : Warp :=
  (List.range o.cnt).foldl (fun wp k => wp.signCell l o.file (o.n + k)) wp

/-- The owner's cost counter (R357, R358). -/
def State.cost (s : State) (c : Ctx) : Nat := c.ab.cost (s.clkOf c.t.id)

/-! ### SIGB, SIGA, SIGX, SIGE (R363 to R365) -/

/-- SIGB of a warp waits for no thread: one in ABSORB or OPEN forbids it (R356). -/
def Ctx.busyThreads (c : Ctx) : Bool :=
  c.iss.cls = 0 && c.wp.live.any fun l => match (c.wp.thread l).ab.region with
    | .absorbing | .opened => true
    | _ => false

def State.launchKey (s : State) (t : Team) : BitVec 128 := ((s.launch? t.launch).map (·.key)).getD 0

def execSigb (kind : BitVec 4) (tol : BitVec 2) (s : State) : Out :=
  withIssue s fun iss => ({ grp := .memo0, wf := (Instr.sigb kind tol).wf } : Form).perform iss (fun _ => none) fun s c =>
    if c.ab.region = .opened || c.busyThreads then (s, .trap 0x0E) else
    let s := s.setAb c fun a => { a.setMix (Mix.init (s.launchKey c.t) kind.toNat) with
      kind := kind.toNat, tol := tol.toNat, region := .absorbing }
    (s.updWarp c.t.id c.w fun wp => wp.clearSigned (iss.cls == 0) c.l, .done)

/-- Registers or predicates that SIGA and SIGX name (R364). -/
def sigOpnd (iss : Issue) (a : BitVec 7) (cnt : BitVec 4) (pr : BitVec 1) : Opnd :=
  if pr = 1 then ((iss.prd 0).src none).grp 7 1 else ((iss.reg a.toNat).src none).many (cnt.toNat + 1)

/-- The words SIGA absorbs. -/
def sigWords (c : Ctx) (o : Opnd) (pr : BitVec 1) (cls : Nat) (fl : Bool) : List Word :=
  if pr = 1 then [if fl then quantF32 (predMask c c.iss) (tolBits cls) else predMask c c.iss]
  else (List.range o.cnt).map fun k =>
    if fl || c.tag o k == .f32 then quantF32 (c.rd o k) (tolBits cls) else c.rd o k

def execSiga (a : BitVec 7) (cnt : BitVec 4) (tolsel : BitVec 3) (fl pr : BitVec 1) (s : State) : Out :=
  withIssue s fun iss =>
    let o := sigOpnd iss a cnt pr
    ({ grp := .memo0, wf := (Instr.siga a cnt tolsel fl pr).wf, os := [o] } : Form).perform iss (fun _ => none) fun s c =>
      if c.ab.region ≠ .absorbing then (s, .trap 0x0E) else
      let cls := if tolsel = 4 then c.ab.tol else tolsel.toNat
      let s := s.setAb c fun x => x.setMix (x.mix.absorbAll (sigWords c o pr cls (fl == 1)))
      (s.updWarp c.t.id c.w fun wp => wp.signGroup c.l o, .done)

def execSigx (a : BitVec 7) (cnt : BitVec 4) (pr : BitVec 1) (s : State) : Out :=
  withIssue s fun iss =>
    let o := sigOpnd iss a cnt pr
    ({ grp := .memo0, wf := (Instr.sigx a cnt pr).wf, os := [o] } : Form).perform iss (fun _ => none) fun s c =>
      if c.ab.region ≠ .absorbing then (s, .trap 0x0E)
      else (s.updWarp c.t.id c.w fun wp => wp.signGroup c.l o, .done)

def execSige (d : BitVec 7) (s : State) : Out :=
  withIssue s fun iss =>
    let o := ((iss.reg d.toNat).grp 4 4).dst
    ({ grp := .memo0, wf := (Instr.sige d).wf, os := [o] } : Form).perform iss (fun _ => none) fun s c =>
      if c.ab.region ≠ .absorbing then (s, .trap 0x0E) else
      let m := c.ab.mix.finalise
      let now := s.clkOf c.t.id
      let s := s.setAb c fun a => { a.setMix m with region := .opened, acc := 0, since := now }
      (s.updWarp c.t.id c.w fun wp => wp.setGroup c.l o (m.words.map fun w => (w, .sig)), .done)

/-! ### Oasis (R358 to R362) -/

def OasisEntry.is (e : OasisEntry) (sig dom kind : Nat) : Bool := e.sig == sig && e.dom == dom && e.kind == kind

/-- Entries of the set of a signature. -/
def Oasis.inSet (o : Oasis) (sig : Nat) : List OasisEntry := o.entries.filter fun e => e.set == sig % 16384

/-- Look an entry up (R359); `check` is the word the verify form compares. -/
def Oasis.lookup (o : Oasis) (sig dom kind : Nat) (ptr : Bool) (n : Nat) (check : Option Word) :
    Oasis × Option OasisEntry :=
  match o.entries.find? fun e => e.is sig dom kind && e.ptr == ptr && e.pay.length == n with
  | none => ({ o with misses := o.misses + 1 }, none)
  | some e =>
    if check.any (· != e.check) then ({ o with misses := o.misses + 1, coll := o.coll + 1 }, none)
    else ({ o with hits := o.hits + 1
                   entries := o.entries.map fun (x : OasisEntry) =>
                     if x.is sig dom kind then { x with age := 15 } else x }, some e)

/-- The way with the least COST × (AGE + 1), the lowest on a tie. -/
def Oasis.victimWay (es : List OasisEntry) : Option Nat :=
  (es.foldl (fun (b : Option OasisEntry) (x : OasisEntry) => match b with
    | none => some x
    | some y =>
      if x.cost * (x.age + 1) < y.cost * (y.age + 1)
        ∨ (x.cost * (x.age + 1) = y.cost * (y.age + 1) ∧ x.way < y.way) then some x else some y) none).map (·.way)

/-- Insert an entry (R359). -/
def Oasis.insert (o : Oasis) (e : OasisEntry) : Oasis :=
  let set := e.sig % 16384
  let same (x : OasisEntry) : Bool := x.is e.sig e.dom e.kind
  let o := { o with entries := o.entries.map fun (x : OasisEntry) =>
    if x.set == set && !same x then { x with age := x.age - 1 } else x }
  let put (o : Oasis) (way : Nat) : Oasis :=
    { o with entries := { e with set := set, way := way, age := 15 }
               :: o.entries.filter fun (x : OasisEntry) => !(x.set == set && x.way == way)
             inserts := o.inserts + 1 }
  match o.entries.find? same with
  | some x => put o x.way
  | none =>
    let ways := (List.range 16).filter (!o.waysDown.contains ·)
    match ways.find? fun w => !(o.inSet e.sig).any (·.way == w) with
    | some w => put o w
    | none =>
      match Oasis.victimWay (o.inSet e.sig) with
      | some w => { put o w with evicts := o.evicts + 1 }
      | none => o

/-- Invalidate entries (R362, R369). -/
def Oasis.invalidate (o : Oasis) (p : OasisEntry → Bool) : Oasis := { o with entries := o.entries.filter fun e => !p e }

/-! ### MEMOL, MEMOS, PEND, MEMOI (R366 to R369) -/

/-- Memo use of a launch (R31). -/
def State.memoOn (s : State) (t : Team) : Bool := t.prog.memo && ((s.launch? t.launch).map (·.node.memo)).getD false
def State.launchDom (s : State) (t : Team) : Nat := ((s.launch? t.launch).map (·.dom)).getD 0

def memoSig (iss : Issue) (r : BitVec 7) : Opnd := ((iss.reg r.toNat).grp 4 4).src (some [.sig])

/-- Registers of a payload. -/
def memoCnt (p : BitVec 1) (cnt : BitVec 3) : Nat := if p = 1 then 2 else cnt.toNat + 1
def memoPay (iss : Issue) (r : BitVec 7) (p : BitVec 1) (cnt : BitVec 3) : Opnd :=
  if p = 1 then (iss.reg r.toNat).grp 2 2 else (iss.reg r.toNat).many (memoCnt p cnt)

/-- Words of an operand. -/
def Ctx.opWords (c : Ctx) (o : Opnd) : List Word := (List.range o.cnt).map fun k => c.rd o k

def execMemol (f : MemolF) (s : State) : Out :=
  withIssue s fun iss =>
    let d := (memoPay iss f.d f.p f.cnt).dst
    let sg := memoSig iss f.s
    let pd := (iss.prd f.pd.toNat).dst
    let ck := (iss.reg f.c.toNat).src none
    ({ grp := .memo0, wf := (Instr.memol f).wf, len := 2, os := [sg, d, pd] ++ if f.v = 1 then [ck] else [] } : Form).perform
      iss (fun _ => none) fun s c =>
        if s.acquiring c.t.id c.w c.own then (s, .stay .retry) else
        let (o, hit) := if s.memoOn c.t then
            s.oasis.lookup (sigNat (c.opWords sg)) (s.launchDom c.t) f.kind.toNat (f.p == 1) d.cnt
              (if f.v = 1 then some (c.rd ck) else none)
          else (s.oasis, none)
        let s := { s with oasis := o }
        let s := match hit with
          | some e => s.updCluster iss.cl fun k => { k with r := { k.r with cred := k.r.cred + BitVec.ofNat 32 e.cost } }
          | none => s
        let (s, id) := s.fresh
        let st : LoadState := match hit with
          | some e => .bound e.pay (some true)
          | none => .bound [] (some false)
        (s.pushLoad c [d, pd] { id := id, dst := c.dest d [pd], mem := false, st := st
                                acq := hit.map fun _ => 2 }, .done)

/-- Insert what a MEMOS stores, when memo use is on and the domain takes it (R360, R367). -/
def State.memoStore (s : State) (c : Ctx) (f : MemosF) (pay : List (Word × Tag)) (sig : Nat) (check : Word) (cost : Nat) :
    State :=
  if !s.memoOn c.t || (f.p = 1 && ((s.launch? c.t.launch).map (·.share)).getD false) then s
  else { s with oasis := s.oasis.insert { set := 0, way := 0, sig := sig, dom := s.launchDom c.t, kind := f.kind.toNat
                                          ptr := f.p == 1, pay := pay, cost := cost, age := 15, check := check } }

/-- The visible thread's MEMOS, compared or alone: its release, then the insertion (R361, R367). -/
def memosGo (f : MemosF) (pay : Ctx → List (Word × Tag)) (sig : Ctx → Nat) (check : Ctx → Word) (s : State) (c : Ctx) :
    State × LaneRes :=
  match s.releaseGate c 2 false with
  | some w => (s, .stay w)
  | none =>
    let cost := (c.ab.waiting).getD 0
    let s := s.memoStore c f (pay c) (sig c) (check c) cost
    let s := s.setAb c fun a => { a with waiting := none }
    (if s.isProtected c.t then s.setAb { c with l := c.l ^^^ 1 } fun a => { a with waiting := none } else s, .done)

def execMemos (f : MemosF) (s : State) : Out :=
  withIssue s fun iss =>
    let pa := (memoPay iss f.a f.p f.cnt).src (if f.p = 1 then some [.addr] else none)
    let sg := memoSig iss f.s
    let ck := (iss.reg f.c.toNat).src none
    let pay (c : Ctx) : List (Word × Tag) := (List.range pa.cnt).map fun k => (c.rd pa k, c.tag pa k)
    let sig (c : Ctx) : Nat := sigNat (c.opWords sg)
    let check (c : Ctx) : Word := if f.ck = 1 then c.rd ck else 0
    let go (s : State) (c : Ctx) : State × LaneRes :=
      s.pairGate c 2 ([iss.raw.toNat, iss.raw2.toNat, sig c, (check c).toNat] ++ (pay c).map fun x => x.1.toNat)
        (fun s k =>
          match s.team? k.t.id with
          | none => (s, .stay .retry)
          | some t => memosGo f pay sig check s { k with t := t })
    ({ grp := .memo0, wf := (Instr.memos f).wf, len := 2, os := [pa, sg] ++ if f.ck = 1 then [ck] else [] } : Form).perform
      iss (fun _ => none) fun s c =>
        match c.ab.waiting, c.ab.region with
        | some _, _ => go s c
        | none, .absorbing => (s, .trap 0x0E)
        | none, .lapsed => (s.setAb c fun a => { a with region := .idle }, .done)
        | none, .opened =>
          let k := s.cost c
          go (s.setAb c fun a => { a with region := .idle, waiting := some k }) c
        | none, .idle => go (s.setAb c fun a => { a with waiting := some a.latched }) c

def execPend (s : State) : Out :=
  withIssue s fun iss => ({ grp := .memo0, wf := Instr.pend.wf } : Form).perform iss (fun _ => none) fun s c =>
    (s.setAb c fun a => a.pend (s.clkOf c.t.id), .done)

def execMemoi (form : BitVec 1) (kind : BitVec 4) (s : State) : Out :=
  withIssue s fun iss =>
    ({ grp := .memo, wf := (Instr.memoi form kind).wf, pure := true } : Form).perform iss (fun _ => none) fun s c =>
      if s.memoOn c.t then
        let dom := s.launchDom c.t
        ({ s with oasis := s.oasis.invalidate fun e => e.dom == dom && (form == 0 || e.kind == kind.toNat) }, .done)
      else (s, .done)

end Sys2Proof.Machine
end

