-- ==== Sys2Proof/Machine/Power.lean ====
section
/-! DEFINITION. Converters, frequency steps, gating and wake, droop, the governor, the timer and the start (15_power_and_start
R404 to R419, R422; 10_synchronised R294). -/

namespace Sys2Proof.Machine

/-! ### Converters and steps (R404 to R406) -/

/-- Frequency of a step in units of 10 MHz. -/
def freqOf (ratio step : Nat) : Nat :=
  (match ratio with
    | 0 => [290, 270, 250, 230, 210, 190, 170, 150]
    | 1 => [210, 190, 170, 150, 130, 110, 90, 70]
    | _ => [130, 120, 110, 100, 90, 80, 70, 60]).getD step 0

def Cluster.freq (c : Cluster) : Nat := freqOf c.r.ratio c.r.step
def Cluster.busy (c : Cluster) : Bool := c.change.isSome

/-- A write of RATIO: 3, a write while BUSY and the present ratio do nothing; else the clock stops for 2 us. -/
def Cluster.writeConv (c : Cluster) (v now : Nat) : Cluster :=
  let r := bits v 0 2
  if r = 3 ∨ c.busy ∨ r = c.r.ratio then c else { c with change := some (r, now + 2000) }

/-- The end of a ratio change. -/
def Cluster.endChange (c : Cluster) (now : Nat) : Cluster :=
  match c.change with
  | some (r, t) => if t ≤ now then { c with r := { c.r with ratio := r }, change := none } else c
  | none => c

def Cluster.setStep (c : Cluster) (n : Nat) : Cluster := { c with r := { c.r with step := n } }

/-- CONV_WRITE of `value` for the target's cluster. -/
def execConvWrite (s : State) : Out := .next (s.updCluster s.target.cl fun c => c.writeConv s.target.value s.time)

/-- RATIO_CHANGE_DONE of the target's cluster. -/
def execRatioChangeDone (s : State) : Out := .next (s.updCluster s.target.cl fun c => c.endChange s.time)

/-- A write of STEP, ignored while the governor moves steps. -/
def State.writeStep (s : State) (cl v : Nat) : State :=
  if s.gbudEn then s else s.updCluster cl fun c => c.setStep (bits v 0 3)

/-- FSTEP_WRITE of `value` for the target's cluster. -/
def execFstepWrite (s : State) : Out := .next (s.writeStep s.target.cl s.target.value)

/-! ### Gating (R408 to R410) -/

/-- A condition of R409 refuses the gating of a cluster. -/
def State.refuses (s : State) (cl : Nat) : Bool :=
  let c := s.cluster cl
  s.anyTeam cl || !c.placing.isEmpty || !c.depend.isEmpty || !c.watch.isEmpty || c.resv.busy || !c.queries.isEmpty || c.busy
    || s.passes.any fun p => !p.finished && p.tiles.any fun t => t.cl == cl && t.slot.isSome

/-- Agents that have arrived go on at the word after their write. -/
def State.releaseGated (s : State) (cl : Nat) : State :=
  { s with teams := s.teams.map fun (t : Team) =>
      if t.priv && (match t.place with | .resident c _ => c == cl | _ => false) then
        { t with warps := t.warps.map fun (w : Warp) => { w with threads := w.threads.map fun (th : Thread) =>
            if th.wait == .gated then th.unpark else th } }
      else t }

/-- The request ends without gating: REFUSED is set and the cluster is on. -/
def State.endGating (s : State) (cl : Nat) : State :=
  (s.updCluster cl fun c => { c with gate := .on, arrived := [], refused := true }).releaseGated cl

/-- A core as it stands once only the retention state of R410 is left. -/
def Core.retained (k : Core) : Core :=
  { exists_ := k.exists_, agent := none, lresOff := k.lresOff, lresReserve := k.lresReserve, ctx := k.ctx }

/-- The switches open: everything but the retention state is lost, the agents' state with it. -/
def State.gateOff (s : State) (cl : Nat) : State :=
  let gone (t : Team) : Bool := t.priv && match t.place with
    | .resident c _ => c == cl
    | _ => false
  let ids := (s.teams.filter gone).map (·.id)
  let s := { s with
    teams := s.teams.filter fun t => !gone t
    loads := s.loads.filter fun (o : LoadOp) => !ids.contains o.dst.team
    stores := s.stores.filter fun (o : StoreOp) => !ids.contains o.team || o.st == StoreState.translated }
  s.updCluster cl fun c => { r := c.r, enabled := c.enabled, slotsDown := c.slotsDown, gate := .off, frac := c.frac
                             cores := c.cores.map Core.retained }

/-- While a request is pending: once every live agent has written OFF, the cluster is gated or the request refused. -/
def State.settleGate (s : State) (cl : Nat) : State :=
  if (s.cluster cl).gate == .quiescing && (s.liveCores cl).all ((s.cluster cl).arrived.contains ·) then
    if s.refuses cl then s.endGating cl else s.gateOff cl
  else s

/-- An agent arrives at gating; the last arrival gates the cluster or is refused. -/
def State.arriveGate (s : State) (cl co : Nat) : State :=
  let c := s.cluster cl
  if !c.gate.up then s else
  (s.updCluster cl fun c => { c with
    gate := .quiescing, arrived := if c.arrived.contains co then c.arrived else co :: c.arrived }).settleGate cl

/-- An agent holds a ticket of its own: it has not stopped taking tickets. -/
def Cluster.agentHolds (c : Cluster) (co : Nat) : Bool := c.hands.any (·.co == co) || c.cohorts.any (·.co == co)

/-- PGATE_OFF by the agent of the target's core, once it holds no ticket. -/
def execPgateOff (s : State) : Out :=
  let t := s.target
  .next (if s.agentLive t.cl t.co && !(s.cluster t.cl).agentHolds t.co then s.arriveGate t.cl t.co else s)

/-- A cancel ends a pending request. -/
def State.cancelGate (s : State) (cl : Nat) : State :=
  if (s.cluster cl).gate = .quiescing then s.endGating cl else s

/-- PGATE_CAN by an agent of the target's cluster. -/
def execPgateCan (s : State) : Out := .next (s.cancelGate s.target.cl)

/-- Post a wake request (R407): it ends a pending gating, and is ignored for a domain that is on, waking or queued. -/
def State.postWake (s : State) (d : Domain) : State :=
  let queue (s : State) : State := if s.inrush.contains d ∨ s.inrush.length ≥ 16 then s else { s with inrush := s.inrush ++ [d] }
  match d with
  | .cluster n =>
    if n ≥ s.clusters.length || !(s.cluster n).enabled then s else
    match (s.cluster n).gate with
    | .quiescing => s.endGating n
    | .off => queue s
    | _ => s
  | .port n => if ((s.ports.getD n {}).powered) then s else queue s

/-- PGATE_WAKE for the cluster `id`. -/
def execPgateWake (s : State) : Out := .next (s.postWake (.cluster s.target.id))

/-- A write of sr.pgate by a warp of the cluster: REFUSED, then WAKE or CAN. OFF is the writer's own affair. -/
def State.writePgate (s : State) (cl : Nat) (v : Nat) : State :=
  let n := (if bitAt v 0 then 1 else 0) + (if bitAt v 1 then 1 else 0) + if bitAt v 2 then 1 else 0
  if n > 1 then s else
  let s := if bitAt v 29 then s.updCluster cl fun c => { c with refused := false } else s
  if bitAt v 0 then s.postWake (.cluster (bits v 8 3))
  else if bitAt v 2 then s.cancelGate cl
  else s

def Gate.code : Gate → Nat
  | .on => 0 | .quiescing => 1 | .off => 2 | .waking => 3

/-- The host's WAKE word (R422). -/
def State.hostWake (s : State) (v : Nat) : State :=
  (List.range 8).foldl (fun s c => if bitAt v c then s.postWake (.cluster c) else s) s

/-- HOST_WAKE with the mask `value`. -/
def execHostWake (s : State) : Out := .next (s.hostWake s.target.value)

/-! ### Routes to peers (R294, R401) -/

/-- Discard the copies of peers' lines that `out` names, in the remote data cache and in every L1. -/
def State.dropCopies (s : State) (out : Nat → Bool) : State :=
  { s with
    remote := s.remote.filter fun (x : Sector) => !out x.key
    clusters := s.clusters.map fun (c : Cluster) => { c with cores := c.cores.map fun (k : Core) =>
      { k with l1 := k.l1.filter fun (x : Sector) => !out x.key } } }

/-- The lock with a peer is lost: its line copies go, and releases at system scope wait for 64,020 ns (R294). -/
def State.losePeer (s : State) (chip : Nat) : State :=
  let lo := Home.key (.peer chip) 0
  let s := s.dropCopies fun k => lo ≤ k && k < lo + 2 ^ 53
  { s with
    peers := s.peers.map fun (p : Peer) => if p.chip == chip then { p with locked := false } else p
    timer := { s.timer with lossUntil := max s.timer.lossUntil (s.time + 64020) } }

/-- A port carries accesses: its domain is on and lanes are left (R401, R407). -/
def LinkPort.up (p : LinkPort) : Bool := p.powered && p.lanes != 0

/-- A route reaches the peer. -/
def State.reaches (s : State) (p : Peer) : Bool := p.via.any fun k => (s.ports[k]?).any (·.up)

/-- The routing tables after a change of the ports: a chip that no route reaches any more leaves lock (R294, R401). -/
def State.reroute (s : State) : State :=
  let lost := (s.peers.filter fun p => p.locked && !s.reaches p).map (·.chip)
  let s := { s with peers := s.peers.map fun (p : Peer) => { p with routed := s.reaches p } }
  lost.foldl State.losePeer s

/-! ### The in-rush arbiter and waking (R407, R411) -/

/-- INRUSH_GRANT: the next domain, when the chain of the one before has closed. -/
def execInrushGrant (s : State) : Out :=
  .next (match s.inrush with
  | [] => s
  | d :: rest =>
    let open_ : Bool := match s.closing with
      | some (_, t) => s.time < t
      | none => false
    if open_ then s else
    let s := { s with inrush := rest, closing := some (d, s.time + 8000) }
    match d with
    | .cluster n => s.updCluster n fun c => { c with gate := .waking, wakeAt := s.time + 28000 }
    | .port n => ({ s with ports := updAt s.ports n fun p => { p with powered := true } } : State).reroute)

/-- The firmware agent of a core is loaded, when the core exists and a start has verified the firmware (R42, R411, R419). -/
def Core.loadAgent (k : Core) (verified : Bool) : Core := { k with agent := if k.exists_ && verified then some {} else none }

/-- CLUSTER_WAKE_DONE of the target's cluster: its SRAM is zero, the retention state is restored with CUR = INIT, and its agents
start at the firmware entry. -/
def execClusterWakeDone (s : State) : Out :=
  .next (if (s.cluster s.target.cl).gate = .waking ∧ (s.cluster s.target.cl).wakeAt ≤ s.time then
      s.updCluster s.target.cl fun c => { c with
        gate := .on, r := { c.r with rampCur := c.r.rampInit }, window := s.time / 1000, starts := 0
        epochClk := c.r.clk, credMark := c.r.cred, cores := c.cores.map (·.loadAgent (s.start.step == 7)) }
    else s)

/-! ### Droop (R412, R413) -/

/-- PIPE_CLOCK_GATING of a quadrant that has issued nothing for 256 cycles. -/
def execPipeClockGating (s : State) : Out :=
  let t := s.target
  .next (if (s.core t.cl t.co).lastIssue.getD t.quad 0 + 256 ≤ (s.cluster t.cl).r.clk + 1 then
      s.updCore t.cl t.co fun k => { k with gated := setAt k.gated t.quad true }
    else s)

/-- An alarm: counted, and unless the clock is stopped the cycles to come are stretched. `stretch` and `halved` hold one
more than the cycles left, 0 when neither applies. -/
def Cluster.alarm (c : Cluster) : Cluster :=
  if !c.r.dthrEn then c else
  let c := { c with r := { c.r with acnt := min 65535 (c.r.acnt + 1) } }
  if c.busy then c else { c with stretch := c.r.str + 1, halved := 0 }

/-- DROOP_ALARM of the target's cluster, whose supply has fallen by `value` mV: an alarm when that is THR or more. -/
def execDroopAlarm (s : State) : Out :=
  let c := s.cluster s.target.cl
  .next (if c.gate.up && c.r.thr ≤ s.target.value then s.updCluster s.target.cl Cluster.alarm else s)

/-- DROOP_STRETCH_END: halved issue begins. -/
def execDroopStretchEnd (s : State) : Out :=
  .next (s.updCluster s.target.cl fun c =>
    if c.stretch = 1 then { c with stretch := 0, halved := if c.r.half = 0 then 0 else c.r.half + 1 } else c)

/-- DROOP_HALF_END. -/
def execDroopHalfEnd (s : State) : Out :=
  .next (s.updCluster s.target.cl fun c => if c.halved = 1 then { c with halved := 0 } else c)

/-! ### The governor (R415, R416) -/

/-- Saved cycles of the epoch. -/
def Cluster.saved (c : Cluster) : Nat := (c.r.cred - c.credMark).toNat
def Cluster.cycles (c : Cluster) : Nat := c.r.clk - c.epochClk
def Cluster.slack (c : Cluster) : Bool := c.cycles ≤ 8 * c.saved
/-- The governor may move the cluster. -/
def Cluster.movable (c : Cluster) : Bool := c.enabled && c.gate == .on && !c.busy

/-- The second loop of R416 over clusters ascending, with the total power as a fraction over `den` of milliwatts. -/
def speedUp (budget : Nat) (power : Nat → Nat) : List Nat → Nat → Nat → State → State
  | [], _, _, s => s
  | n :: ns, num, den, s =>
    let c := s.cluster n
    if c.movable && 7 * c.cycles ≤ 8 * c.busyCycles && !c.slack && c.r.step > 0 then
      let f1 := freqOf c.r.ratio (c.r.step - 1)
      let f0 := freqOf c.r.ratio c.r.step
      -- est = num / den + power * (f1 - f0) / f0
      let num' := num * f0 + power n * (f1 - f0) * den
      let den' := den * f0
      if 16 * num' ≤ 15 * budget * den' then speedUp budget power ns num' den' (s.updCluster n fun c => c.setStep (c.r.step - 1))
      else speedUp budget power ns num den s
    else speedUp budget power ns num den s

/-- The clusters that are on, with their power in milliwatts. -/
def State.onClusters (s : State) : List Nat :=
  (List.range s.clusters.length).filter fun n => (s.cluster n).enabled && (s.cluster n).gate == .on

/-- One epoch's moves. -/
def State.govern (s : State) (power : Nat → Nat) : State :=
  let on := s.onClusters
  let p := on.foldl (fun x n => x + power n) 0
  let b := s.gbudWatt * 1000
  if p > b then
    on.foldl (fun s n =>
      let c := s.cluster n
      if c.movable ∧ p ≤ power n * on.length ∧ c.r.step < 7 then s.updCluster n fun c => c.setStep (c.r.step + 1) else s) s
  else
    let slow (s : State) : State := on.foldl (fun s n =>
      let c := s.cluster n
      if c.movable ∧ c.slack ∧ c.r.step < 7 then s.updCluster n fun c => c.setStep (c.r.step + 1) else s) s
    speedUp b power on p 1 (slow s)

/-- GOVERNOR_EPOCH with the measured powers, once for an epoch of global time that has begun. -/
def execGovernorEpoch (s : State) : Out :=
  let power (n : Nat) : Nat := ((s.target.meas[n]?).map (·.powerMilliwatt)).getD 0
  if s.time / 50000 ≤ s.epoch then .next s else
  let s := if s.gbudEn then s.govern power else s
  .next { s with
    epoch := s.time / 50000
    clusters := s.clusters.map fun (c : Cluster) =>
      { c with credMark := c.r.cred, epochClk := c.r.clk, busyCycles := 0 } }

/-- A write of sr.gbud. -/
def State.writeGbud (s : State) (v : Nat) : State :=
  { s with gbudEn := bitAt v 31, gbudWatt := max 50 (min 550 (bits v 0 16)) }

/-! ### The timer (R417, R418, R294) -/

/-- The timer leaves lock: the copies of peers' lines go, and releases at system scope wait for 64,020 ns. -/
def State.loseLock (s : State) : State :=
  if s.timer.lock then
    { s.dropCopies (2 ^ 61 ≤ ·) with
      timer := { s.timer with lock := false, goodRun := 0, lossUntil := s.time + 64020 } }
  else { s with timer := { s.timer with goodRun := 0 } }

/-- The low half of CORR is staged (R92), unless the servo owns CORR. -/
def State.stageToff (s : State) (v : Word) : State :=
  if s.timer.lock then s else { s with timer := { s.timer with corrLow := v } }

/-- The high half of CORR takes effect with the staged low half, unless the servo owns it. -/
def State.writeToff (s : State) (v : Word) : State :=
  if s.timer.lock then s
  else { s with timer := { s.timer with corr := (v ++ s.timer.corrLow : BitVec 64).toInt } }

/-- TOFF_WRITE of the high half `value`. -/
def execToffWrite (s : State) : Out := .next (s.writeToff (BitVec.ofNat 32 s.target.value))

/-- A write of SRC clears LOCK. -/
def State.writeTsync (s : State) (v : Nat) : State :=
  let s := s.loseLock
  { s with timer := { s.timer with src := bits v 28 3, lastExchange := s.time } }

/-- TSYNC_WRITE of `value`. -/
def execTsyncWrite (s : State) : Out := .next (s.writeTsync s.target.value)

/-- An offset as OFFS holds it: signed 16 bits, saturating. -/
def offsField (x : Int) : Int := max (-32768) (min 32767 x)

/-- PTP_EXCHANGE with the measured `offset` from the source (the source's time less the chip's) and the source's time
`source`: 16 good exchanges in a row lock, and the first lock after a start jumps forward. -/
def execPtpExchange (s : State) : Out :=
  let t := s.timer
  .next (if t.src = 7 ∨ s.time < t.lastExchange + 125000 then s else
    let x := s.target.offset
    let good := if x.natAbs ≤ 8 then t.goodRun + 1 else 0
    let s := { s with timer := { t with offs := offsField x, lastExchange := s.time, goodRun := good } }
    if t.lock then
      if x.natAbs > 10 then s.loseLock else { s with timer := { s.timer with corr := x } }
    else if good ≥ 16 then
      let now := if t.jumped then t.time else max t.time s.target.source
      { s with
        timer := { s.timer with lock := true, jumped := true, time := now, lastExchange := now }
        peers := s.peers.map fun (p : Peer) => { p with locked := p.routed } }
    else s)

/-- PTP_TIMEOUT: no exchange for 1 ms. -/
def execPtpTimeout (s : State) : Out :=
  .next (if s.timer.lock ∧ s.timer.lastExchange + 1000000 ≤ s.time then s.loseLock else s)

/-! ### The start (R419, R422) -/

/-- Units out of use at a start: those that the configuration record disables, and those of the fault log (R1, R400). -/
def State.unitsOff (s : State) : List HwUnit := (s.record.units ++ s.health.disabled).eraseDups

/-- A cluster after a start: what the record and the fault log name is out of use. -/
def Cluster.started (c : Cluster) (n : Nat) (r : ConfigRecord) (out : List HwUnit) : Cluster :=
  let here (i : Nat) : Bool := !out.any fun u => match u with
    | .core cl co => cl.toNat == n && co.toNat == i
    | _ => false
  { enabled := !r.clustersOff.contains n
    slotsDown := (out.filter fun u => match u with
      | .tileSlot cl _ => cl.toNat == n
      | _ => false).length
    cores := (c.cores.zipIdx).map fun (_, i) => ({ exists_ := here i } : Core).loadAgent true }

/-- A lane, which a start trains anew: its port's width is what the training leaves (R419). -/
def hwIsLane : HwUnit → Bool
  | .lane .. => true
  | _ => false

def laneWidth (n : Nat) : Nat := if n ≥ 8 then 8 else if n ≥ 4 then 4 else if n ≥ 2 then 2 else 0

/-- A port after a start: what the training leaves, with its domain's wake posted; a warm start leaves a healthy port as it is
(R407, R419). -/
def LinkPort.started (p : LinkPort) (cold : Bool) (lanes : Nat) : LinkPort :=
  { lanes := laneWidth lanes, powered := !cold && p.powered && p.lanes == 8 }

/-- The chip at the end of a start that succeeds: the count remains, and memory but for what the cleared slices had not written
back; the grade and the units out of use are those of the record and of the fault log, which module flash keeps (R1, R204,
R400). -/
def State.startDone (s : State) (cold : Bool) (lanes : List Nat) : State :=
  let ports := (s.ports.zipIdx).map fun (p, k) => p.started cold (lanes.getD k 0)
  State.reroute
  { record := s.record
    clusters := (s.clusters.zipIdx).map fun (c, n) => c.started n s.record s.unitsOff
    timer := { time := s.time, src := Config.recordSrc % 8, lastExchange := s.time }
    epoch := s.time / 50000
    ports := ports
    inrush := ((ports.zipIdx).filter fun (p, _) => !p.powered).map fun (_, k) => .port k
    peers := s.peers.map fun (p : Peer) => { p with locked := false }
    health := { disabled := s.health.disabled.filter fun u => !hwIsLane u }
    oasis := { waysDown := s.unitsOff.filterMap fun u => match u with
      | .oasisWay w => some w.toNat
      | _ => none }
    mem := s.memBelow, badGranules := s.badGranules, nextId := s.nextId, free := s.free
    msix := s.msix ++ [66] }

/-- A failed start: nothing runs; the third in a row, or a bad signature, enters safe mode. -/
def State.startFailed (s : State) (step : Nat) : State :=
  let fails := min 3 (s.start.fails + 1)
  let safe := s.start.safe || fails == 3 || step == 1
  let t := s.startDone true []
  { t with
    inrush := []
    clusters := t.clusters.map fun (c : Cluster) => { c with gate := .off, cores := c.cores.map (·.loadAgent false) }
    start := { step := step, safe := safe, fails := fails, lastOk := false }
    msix := if safe ∧ !s.start.safe then s.msix ++ [66] else s.msix }

/-- Run a start. -/
def State.runStart (s : State) (cold : Bool) (o : StartOutcome) : State :=
  match o with
  | .failed n =>
    if n = 1 ∨ n = 2 ∨ n = 3 ∨ n = 6 then s.startFailed n.toNat else s.startDone cold [8, 8, 8, 8]
  | .complete lanes =>
    let t := s.startDone cold lanes
    if cold then t else { t with start := { t.start with safe := s.start.safe, fails := s.start.fails } }

/-- DONE and FAILED of a killed team of a running launch are set (R49, R391); bits on an absent page wait for nothing, since the
start goes on (log 57). -/
def State.killedBits (s : State) (t : Team) : State :=
  match s.launch? t.launch with
  | some l => if l.phase == .running then (s.setTeamBits (.agent l.cmd) l t.index true).1 else s
  | none => s

/-- Kill every team of every context: what has passed translation is performed, and then the teams' bits are set (R391,
R422). -/
def State.killAll (s : State) : State :=
  let ts := s.teams.filter (·.place != .gone)
  let s := ts.foldl (fun s t => s.killTeam t.id) s
  let s := s.stores.foldl (fun s o => match o.op with
    | .store d => s.performPlain o d
    | _ => s.performAtom o) s
  ts.foldl State.killedBits s

/-- COLD_RESTART: a REQ write of 1. -/
def execColdRestart (s : State) : Out := .next (s.killAll.runStart true s.target.outcome)

/-- WARM_RESTART: a REQ write of 2; after a failed start it is cold. -/
def execWarmRestart (s : State) : Out := .next (s.killAll.runStart (!s.start.lastOk) s.target.outcome)

/-- POWER_ON: module memory and every count have lost what they held (log 1). -/
def execPowerOn (s : State) : Out :=
  let s := { s with mem := s.mem.filter fun x => 2 ^ 60 ≤ x.1, sysCache := [], badGranules := [] }
  .next ({ s with timer := {} }.runStart true s.target.outcome)

end Sys2Proof.Machine
end

