-- ==== Sys2Proof/Machine/Ray.lean ====
section
/-! DEFINITION. Ray queries (12_rendering R341 to R343, 13_memo R370 to R375). Geometry is evaluated exactly on the F32
inputs, as integers of 2^-149. -/

namespace Sys2Proof.Machine

/-! ### Exact geometry (R342) -/

/-- A finite F32 value in units of 2^-149. -/
def f32Int (x : Nat) : Int :=
  match unpack fmtF32 x with
  | .fin n m e => mantAt n m e (-149)
  | _ => 0

def f32Finite (x : Nat) : Bool := bits x 23 8 != 255
def f32Nan (x : Nat) : Bool := bits x 0 31 > 0x7F800000

/-- A quotient, with infinities as den = 0. -/
structure Ext where
  num : Int
  den : Nat
  deriving DecidableEq, Repr

def Ext.le (a b : Ext) : Bool := if a.den = 0 ∧ b.den = 0 then a.num ≤ b.num else a.num * b.den ≤ b.num * a.den
def Ext.max (a b : Ext) : Ext := if a.le b then b else a
def Ext.min (a b : Ext) : Ext := if a.le b then a else b

/-- The value of an F32 pattern that is no NaN. -/
def Ext.ofF32 (x : Nat) : Ext :=
  if f32Finite x then ⟨f32Int x, 2 ^ 149⟩ else ⟨if bitAt x 31 then -1 else 1, 0⟩

/-- The next F32 pattern up. -/
def f32Up (x : Nat) : Nat :=
  if x = 0x80000000 then 1
  else if bitAt x 31 then x - 1
  else if x ≥ 0x7F800000 then x else x + 1

/-- The next F32 pattern down. -/
def f32Down (x : Nat) : Nat :=
  if x = 0 then 0x80000001
  else if bitAt x 31 then (if x ≥ 0xFF800000 then x else x + 1) else x - 1

def f32Le (a b : Nat) : Bool :=
  match fpOrder fmtF32 a b with
  | some .gt | none => false
  | _ => true

/-- (c - o) / d for a box coordinate, d nonzero. -/
def slabT (c : Nat) (o d : Int) : Ext :=
  if f32Finite c then ⟨(f32Int c - o) * d.sign, d.natAbs⟩ else ⟨(if bitAt c 31 then -1 else 1) * d.sign, 0⟩

/-- The origin lies between the planes of an axis along which the ray does not move. -/
def slabHolds (lo hi : Nat) (o : Int) : Bool :=
  (Ext.ofF32 lo).le ⟨o, 2 ^ 149⟩ && (Ext.ofF32 hi |> fun h => (⟨o, 2 ^ 149⟩ : Ext).le h)

/-- One axis of the slab test: the interval left, or none. -/
def slabAxis (lo hi : Nat) (o d : Int) (r : Option (Ext × Ext)) : Option (Ext × Ext) :=
  match r with
  | none => none
  | some (a, b) =>
    if d = 0 then (if slabHolds lo hi o then some (a, b) else none)
    else
      let x := slabT (if d > 0 then lo else hi) o d
      let y := slabT (if d > 0 then hi else lo) o d
      let a := a.max x
      let b := b.min y
      if a.le b then some (a, b) else none

/-- Entry distance of a box, six patterns, over an interval. -/
def slabEntry (o d : List Int) (box : List Nat) (tmin tmax : Ext) : Option Ext :=
  ((List.range 3).foldl (fun r k => slabAxis (box.getD k 0) (box.getD (k + 3) 0) (o.getD k 0) (d.getD k 0) r)
    (some (tmin, tmax))).map (·.1)

/-- Twice the signed area spanned by two plane vectors. -/
def cross2 (a b : Int × Int) : Int := a.1 * b.2 - a.2 * b.1

/-- The top-left rule on the direction of an edge with the inside to its left. -/
def topLeft (e : Int × Int) : Bool := e.2 < 0 || (e.2 == 0 && e.1 < 0)

/-- The axis along which a direction is longest, the lowest on a tie. -/
def longAxis (d : List Int) : Nat :=
  let a (k : Nat) : Nat := (d.getD k 0).natAbs
  if a 0 ≥ a 1 ∧ a 0 ≥ a 2 then 0 else if a 1 ≥ a 2 then 1 else 2

/-- A quotient rounded once by nearest even to an F32 pattern. -/
def ratioF32 (num den : Int) : Nat :=
  if num = 0 then 0 else (roundFrac fmtF32 0 (decide (num < 0) != decide (den < 0)) num.natAbs den.natAbs 0).bits

/-- t, u and v of a hit of the line o + t d on a triangle of nine coordinates, projected along the ray onto the plane of
the two shorter axes; u weighs the second vertex and v the third. -/
def triHit (o d v : List Int) : Option (Nat × Nat × Nat) :=
  let z := longAxis d
  let x := (z + 1) % 3
  let y := (z + 2) % 3
  let dz := d.getD z 0
  let rel (i k : Nat) : Int := v.getD (3 * i + k) 0 - o.getD k 0
  let p (i : Nat) : Int × Int :=
    (rel i x * dz - rel i z * d.getD x 0, rel i y * dz - rel i z * d.getD y 0)
  let w0 := cross2 (p 1) (p 2)
  let w1 := cross2 (p 2) (p 0)
  let w2 := cross2 (p 0) (p 1)
  let det := w0 + w1 + w2
  let sub (a b : Int × Int) : Int × Int :=
    if det > 0 then (b.1 - a.1, b.2 - a.2) else (a.1 - b.1, a.2 - b.2)
  let inside (w : Int) (a b : Int × Int) : Bool := if w = 0 then topLeft (sub a b) else decide (w > 0) == decide (det > 0)
  if det = 0 ∨ dz = 0 then none
  else if inside w0 (p 1) (p 2) && inside w1 (p 2) (p 0) && inside w2 (p 0) (p 1) then
    some (ratioF32 (w0 * rel 0 z + w1 * rel 1 z + w2 * rel 2 z) (det * dz), ratioF32 w1 det, ratioF32 w2 det)
  else none

/-! ### Queries in their unit (R370, R371) -/

def State.updQuery (s : State) (cl id : Nat) (f : Query → Query) : State :=
  s.updCluster cl fun c => { c with queries := c.queries.map fun (q : Query) => if q.id == id then f q else q }

def State.query? (s : State) (cl id : Nat) : Option Query := (s.cluster cl).queries.find? fun q => q.id == id

/-- The value of a handle. -/
def Query.handle (q : Query) : Word := BitVec.ofNat 32 (q.slot + 2 ^ 13 * (q.gen % 2 ^ 19))

/-- The query a handle names for a team, unless it has been told to end. -/
def State.named (s : State) (cl tm : Nat) (h : Word) : Option Query :=
  (s.cluster cl).queries.find? fun q => q.handle == h && q.team == tm && !q.cmds.contains .end_

/-- A query ends with a committed hit: Mirage takes the leaf of it (R343). -/
def State.train (s : State) (cl : Nat) (q : Query) : State :=
  match q.commit with
  | some h =>
    if q.np then s else
    let e : MirageEntry := { idx := q.sig % 4096, tag := bits q.sig 12 32, ctx := q.ctx, header := q.header
                             version := q.version, leaf := h.leaf }
    s.updCluster cl fun k => { k with mirage := e :: k.mirage.filter fun (x : MirageEntry) => x.idx != e.idx }
  | none => s

/-- The query ends (R342, R343). -/
def State.endQuery (s : State) (cl : Nat) (q : Query) (err : Bool) : State :=
  let s := s.updQuery cl q.id fun q =>
    { q with st := if q.commit.isSome && !err then .hit else .miss, err := err, work := [], cand := none }
  if err then s else s.train cl q

/-- Perform the commands of a query in the order received, while it does not run (R370). -/
def State.performCmds (s : State) (cl id : Nat) : Nat → State
  | 0 => s
  | n + 1 =>
    match s.query? cl id with
    | none => s
    | some q =>
      match q.cmds with
      | [] => s
      | c :: rest =>
        if q.st = .running then s else
        let s := s.updQuery cl id fun q => { q with cmds := rest }
        (match c with
        | .run => if q.st = QState.candidate then s.updQuery cl id fun q => { q with st := .running, cand := none } else s
        | .commit =>
          let q := commitCand q
          let s := s.updQuery cl id fun _ => { q with cmds := rest }
          if q.commit.isSome && q.first && q.st == QState.candidate then s.endQuery cl { q with cmds := rest } false else s
        -- a query that stops at a candidate ends here, one that has ended before is freed
        | .end_ => (if q.st = QState.candidate then s.train cl q else s).updCluster cl fun k =>
            { k with queries := k.queries.filter fun (q : Query) => q.id != id }
        | .read load sel =>
          { s with loads := s.loads.map fun (o : LoadOp) =>
              if o.id == load then { o with st := .bound (selected q sel) none } else o }).performCmds cl id n
where
  /-- Commit the pending candidate (R342, R373). -/
  commitCand (q : Query) : Query :=
    match q.st, q.cand with
    | .candidate, some h =>
      { q with cand := none, commit := some (better q.commit h), tmax := h.t }
    | _, _ => q
  /-- The least t, then the least PRIM, then the least triangle VA. -/
  better (c : Option Hit) (h : Hit) : Hit :=
    match c with
    | none => h
    | some k =>
      match fpOrder fmtF32 h.t k.t with
      | some .lt => h
      | some .eq => if h.prim < k.prim ∨ (h.prim = k.prim ∧ h.va < k.va) then h else k
      | _ => k
  /-- What RQG returns (R374). -/
  selected (q : Query) (sel : Nat) : List (Word × Tag) :=
    let w (n : Nat) : Word := BitVec.ofNat 32 n
    let hit (h : Option Hit) : List (Word × Tag) := match h with
      | some h => [(w h.t, .f32), (w h.u, .f32), (w h.v, .f32), (w h.prim, .n32)]
      | none => [(0, .f32), (0, .f32), (0, .f32), (0, .n32)]
    match sel with
    | 0 =>
      let st : Nat := match q.st with
        | .running => 0 | .candidate => 1 | .hit => 2 | .miss => 3
      [(w (min q.ncand 65535 * 2 ^ 16 + (if q.pred then 8 else 0) + (if q.err then 4 else 0) + st), .mask)]
    | 1 => hit q.cand
    | 2 => hit q.commit
    | _ =>
      let va := (q.commit.map (·.va)).getD 0
      [(w va, .addr), (w (va / 2 ^ 32), .addr)]

/-- Commands that a query has received. -/
def State.cmdsOf (s : State) (cl id : Nat) : Nat := ((s.query? cl id).map (·.cmds.length)).getD 0

/-- Hand a command to the unit; a query that does not run performs it at once. -/
def State.sendQuery (s : State) (cl id : Nat) (c : QCmd) : State :=
  (s.updQuery cl id fun q => { q with cmds := q.cmds ++ [c] }).performCmds cl id (s.cmdsOf cl id + 1)

/-- Slots a ray unit holds (R341). -/
def raySlots : Nat := 8192

/-- The lowest slot that no query of the unit or of the team holds. -/
def freeSlot (used : List Nat) : Nat := ((List.range (used.length + 1)).find? fun k => !used.contains k).getD 0

/-- Start a query (R371). -/
def State.startQuery (s : State) (c : Ctx) (header : Nat) (ray : List Word) (np first : Bool) : State × Word :=
  let cl := c.iss.cl
  let k := s.cluster cl
  let slot := freeSlot (k.queries.map (·.slot))
  let gen := ((k.qgen.find? fun g => g.1 == slot).map (·.2)).getD 0
  let n (i : Nat) : Nat := (ray.getD i 0).toNat
  let (s, id) := s.fresh
  let key := (Mix.init (s.launchKey c.t) 3).absorbAll ((ray.take 6).map fun w => quantF32 w (tolBits 2))
  let dead := ray.any (fun w => f32Nan w.toNat) || !f32Le (n 6) (n 7)
  let q : Query := { id := id, slot := slot, gen := gen, team := c.t.id, ctx := c.t.ctx, header := header, version := 0
                     orig := (List.range 3).map n, dir := (List.range 3).map fun i => n (3 + i), tmin := n 6, tmax := n 7
                     np := np, first := first, st := if dead then .miss else .running
                     sig := sigNat key.finalise.words, tacq := c.th.tacq, started := dead }
  (s.updCluster cl fun k => { k with queries := k.queries ++ [q]
                                     qgen := (slot, gen + 1) :: k.qgen.filter fun (g : Nat × Nat) => g.1 != slot }, q.handle)

def rayA (iss : Issue) (a : BitVec 7) : Opnd := (iss.reg a.toNat).src (some [.n32])

/-- A stale handle, or another team's (R370). -/
def handleCheck (s : State) (iss : Issue) (o : Opnd) (c : Ctx) : Option Nat :=
  if (s.named iss.cl c.t.id (c.rd o)).isNone then some 0x04 else none

def execRqi (d a r : BitVec 7) (np first : BitVec 1) (s : State) : Out :=
  withIssue s fun iss =>
    let pa := ((iss.reg a.toNat).grp 2 2).src (some [.addr])
    let pr := ((iss.reg r.toNat).grp 8 8).src (some [.f32])
    let pd := (iss.reg d.toNat).dst
    ({ grp := .ray, wf := (Instr.rqi d a r np first).wf, os := [pa, pr, pd] } : Form).perform iss (fun _ => none) fun s c =>
      if (s.cluster iss.cl).queries.length ≥ raySlots then (s, .stay .retry) else
      match s.startQuery c (c.pair pa) (c.opWords pr) (np == 1) (first == 1) with
      | (s, h) => (s.updWarp c.t.id c.w fun wp => wp.setGroup c.l pd [(h, .n32)], .done)

def execRqp (a : BitVec 7) (s : State) : Out :=
  withIssue s fun iss =>
    let pa := rayA iss a
    ({ grp := .ray, wf := (Instr.rqp a).wf, os := [pa] } : Form).perform iss (handleCheck s iss pa) fun s c =>
      match s.named iss.cl c.t.id (c.rd pa) with
      | none => (s, .trap 0x04)
      | some q => (s.sendQuery iss.cl q.id .run, .done)

def execRqc (mode : BitVec 1) (a : BitVec 7) (s : State) : Out :=
  withIssue s fun iss =>
    let pa := rayA iss a
    ({ grp := .ray, wf := (Instr.rqc mode a).wf, os := [pa] } : Form).perform iss (handleCheck s iss pa) fun s c =>
      match s.named iss.cl c.t.id (c.rd pa) with
      | none => (s, .trap 0x04)
      | some q => (s.sendQuery iss.cl q.id (if mode = 1 then .end_ else .commit), .done)

/-- Registers RQG writes. -/
def rqgDst (iss : Issue) (d : BitVec 7) (sel : BitVec 2) : Opnd :=
  match sel.toNat with
  | 0 => (iss.reg d.toNat).dst
  | 3 => ((iss.reg d.toNat).grp 2 2).dst
  | _ => ((iss.reg d.toNat).grp 4 4).dst

def execRqg (d a : BitVec 7) (sel : BitVec 2) (s : State) : Out :=
  withIssue s fun iss =>
    let pa := rayA iss a
    let pd := rqgDst iss d sel
    ({ grp := .ray, wf := (Instr.rqg d a sel).wf, os := [pa, pd] } : Form).perform iss (handleCheck s iss pa) fun s c =>
      match s.named iss.cl c.t.id (c.rd pa) with
      | none => (s, .trap 0x04)
      | some q =>
        let (s, id) := s.fresh
        let s := s.pushLoad c [pd] { id := id, dst := c.dest pd [], mem := false, st := .engine }
        (s.sendQuery iss.cl q.id (.read id sel.toNat), .done)

/-! ### Traversal (R341 to R343) -/

/-- A read of the unit. -/
inductive RayRead where
  | ok (bs : List Byte)
  | parked
  | failed
  deriving DecidableEq, Repr

/-- Read `n` bytes of a structure; an absent unit parks the query, a protection outcome fails. -/
def State.rayRead (s : State) (cl : Nat) (q : Query) (va n : Nat) : State × RayRead :=
  let priv := ((s.team? q.team).map (·.priv)).getD false
  let co := (((s.team? q.team).bind Team.at?).map (·.2)).getD 0
  if !canonical va then (s, .failed) else
  match s.xlateAll cl co q.ctx priv .read ((List.range (n / 4)).map fun k => va + 4 * k) with
  | (s, .ok xs) =>
    if xs.any fun x => s.xlatBad x 4 then
      (s.machineCheck (((s.team? q.team).map (·.launch)).getD 0) 0x18, .failed)
    else (s, .ok (xs.flatMap fun x => s.homeBytes x 4))
  | (s, .absent a b k w) =>
    ((s.joinOrWait q.ctx a b k w 0 (.ray q.id)).updQuery cl q.id fun q => { q with parked := true }, .parked)
  | (s, .bad) => (s.machineCheck (((s.team? q.team).map (·.launch)).getD 0) 0x18, .failed)
  | (s, .prot _) => (s, .failed)

def refKind (r : Nat) : Nat := bits r 62 2
def refVa (r : Nat) : Nat := let va := bits r 6 51 * 64; if bitAt va 56 then va + (2 ^ 64 - 2 ^ 57) else va

/-- Words of bytes. -/
def bytesWord (bs : List Byte) (off n : Nat) : Nat := leNat ((bs.drop off).take n)

/-- Read the header and look up Mirage; the proposed leaf stands before the root. -/
def State.beginQuery (s : State) (cl : Nat) (q : Query) : State :=
  match s.rayRead cl q q.header 16 with
  | (s, .parked) => s
  | (s, .failed) => s.endQuery cl q true
  | (s, .ok bs) =>
    let root := bytesWord bs 0 8
    let version := bytesWord bs 8 8
    let hit := if q.np then none else (s.cluster cl).mirage.find? fun e =>
      e.idx == q.sig % 4096 && e.tag == bits q.sig 12 32 && e.ctx == q.ctx && e.header == q.header && e.version == version
    s.updQuery cl q.id fun q => { q with
      started := true, version := version, pred := hit.isSome, tested := hit.map (·.leaf)
      work := (match hit with
        | some e => [{ ref := e.leaf, proposed := true }]
        | none => []) ++ [{ ref := root }] }

/-- Every coordinate of the ray is finite. -/
def Query.finite (q : Query) : Bool := (q.orig ++ q.dir).all f32Finite

/-- Entry distance of a child's box; a box or ray with a NaN or an infinity where the test is not defined is decided by
a free value. -/
def Query.boxEntry (q : Query) (free : Nat) (box : List Nat) : Option Ext :=
  let t0 := Ext.ofF32 q.tmin
  if !q.finite || box.any f32Nan then (if Config.freeNat free % 2 = 1 then some t0 else none)
  else
    match slabEntry (q.orig.map f32Int) (q.dir.map f32Int) box (Ext.ofF32 (f32Down q.tmin)) (Ext.ofF32 (f32Up q.tmax)) with
    | none => none
    | some e => some (e.max t0)

/-- t, u and v of a triangle; with a coordinate that is not finite they are free values. -/
def Query.triangle (q : Query) (free : Nat) (v : List Nat) : Option (Nat × Nat × Nat) :=
  if q.finite && v.all f32Finite then triHit (q.orig.map f32Int) (q.dir.map f32Int) (v.map f32Int)
  else if Config.freeNat free % 2 = 1 then
    some ((Config.freeWord free).toNat, (Config.freeWord (free + 1)).toNat, (Config.freeWord (free + 2)).toNat)
  else none

/-- What remains to be visited is entered within the current interval, which a commit has shortened since its box was tested
(R342). -/
def Query.reaches (q : Query) (w : RayWork) : Bool :=
  match w.near with
  | some (n, d) => w.tri != 0 || f32Nan q.tmax || Ext.le ⟨n, d⟩ (Ext.ofF32 (f32Up q.tmax))
  | none => true

/-- Visit a node: its children that are entered, nearer first. -/
def State.visitNode (s : State) (cl : Nat) (q : Query) (bs : List Byte) (rest : List RayWork) : State :=
  let box (i : Nat) : List Nat := (List.range 6).map fun k => bytesWord bs (24 * i + 4 * k) 4
  let child (i : Nat) : Nat := bytesWord bs (48 + 8 * i) 8
  let e0 := if refKind (child 0) = 0 then none else q.boxEntry s.free (box 0)
  let e1 := if refKind (child 1) = 0 then none else q.boxEntry (s.free + 1) (box 1)
  let w (i : Nat) (e : Ext) : RayWork := { ref := child i, near := some (e.num, e.den) }
  let kids := match e0, e1 with
    | none, none => []
    | some a, none => [w 0 a]
    | none, some b => [w 1 b]
    | some a, some b => if a.le b then [w 0 a, w 1 b] else [w 1 b, w 0 a]
  ({ s with free := s.free + 2 } : State).updQuery cl q.id fun q => { q with work := kids ++ rest }

/-- A triangle's hit: committed when opaque, else the candidate the program decides on. -/
def Query.takeHit (q : Query) (h : Hit) (opaque_ : Bool) : Query :=
  if opaque_ then
    let q := { q with commit := some (State.performCmds.better q.commit h), tmax := h.t }
    q
  else { q with cand := some h, st := .candidate, ncand := min (q.ncand + 1) 65535 }

/-- Test the next triangle of a leaf. -/
def State.visitTri (s : State) (cl : Nat) (q : Query) (w : RayWork) (bs : List Byte) (rest : List RayWork) : State :=
  let v := (List.range 9).map fun k => bytesWord bs (4 * k) 4
  let cnt := bits w.ref 57 5 + 1
  let work := if w.tri + 1 < cnt then { w with tri := w.tri + 1 } :: rest else rest
  let hit := q.triangle s.free v
  let s := ({ s with free := s.free + 3 } : State).updQuery cl q.id fun q => { q with work := work }
  match hit with
  | none => s
  | some (t, u, v) =>
    if f32Le q.tmin t && f32Le t q.tmax then
      let h : Hit := { t := t, u := u, v := v, prim := bytesWord bs 36 4, va := refVa w.ref + 48 * w.tri, leaf := w.ref }
      let op := bitAt (bytesWord bs 40 4) 0
      let s := s.updQuery cl q.id fun q => q.takeHit h op
      if op && q.first then
        match s.query? cl q.id with
        | some q => s.endQuery cl q false
        | none => s
      else s
    else s

/-- One node or triangle of a running query. -/
def State.rayStep (s : State) (cl id : Nat) : State :=
  match s.query? cl id with
  | none => s
  | some q =>
    if q.st ≠ .running ∨ q.parked then s
    else if !q.started then s.beginQuery cl q
    else match q.work with
    | [] => s.endQuery cl q false
    | w :: rest =>
      let skip (s : State) : State := s.updQuery cl id fun q => { q with work := rest }
      if !q.reaches w then skip s else
      match refKind w.ref with
      | 0 => skip s
      | 1 =>
        match s.rayRead cl q (refVa w.ref) 64 with
        | (s, .parked) => s
        | (s, .failed) => s.endQuery cl q true
        | (s, .ok bs) => s.visitNode cl q bs rest
      | 2 =>
        if !w.proposed && q.tested = some w.ref then skip s else
        match s.rayRead cl q (refVa w.ref + 48 * w.tri) 48 with
        | (s, .parked) => s
        | (s, .failed) => s.endQuery cl q true
        | (s, .ok bs) => s.visitTri cl q w bs rest
      | _ => s.endQuery cl q true

/-- Several nodes and triangles, until an event. -/
def State.raySteps (s : State) (cl id : Nat) : Nat → State
  | 0 => s
  | n + 1 => (s.rayStep cl id).raySteps cl id n

/-- Nodes and triangles that one turn of a query visits. -/
def rayChunk : Nat := 64

/-- RAY_TRAVERSE_EVENT of the query `id` of the target's cluster. -/
def execRayTraverseEvent (s : State) : Out :=
  let tg := s.target
  let stopped := (s.query? tg.cl tg.id).any fun q => (s.team? q.team).any (·.saving.isSome)
  let s := if stopped then s else s.raySteps tg.cl tg.id rayChunk
  .next (s.performCmds tg.cl tg.id (s.cmdsOf tg.cl tg.id))

end Sys2Proof.Machine
end

