-- ==== Sys2Proof/Machine/Passes.lean ====
section
/-! DEFINITION. Passes as records open, fill and close them (12_rendering R322 to R325, R328, R330, R338). -/

namespace Sys2Proof.Machine

/-! ### Reads and writes of the units in pieces that lie in one page -/

/-- Read `n` bytes for a unit. -/
def State.spanRead (s : State) (w : Waiter) (ctx : Nat) : Nat → Nat → Nat → State × Got
  | 0, _, _ => (s, .data [])
  | fuel + 1, va, n =>
    if n = 0 then (s, .data []) else
    let k := min n (4096 - va % 4096)
    match s.unitRead w ctx false va k with
    | (s, .data a) =>
      match s.spanRead w ctx fuel ((va + k) % 2 ^ 64) (n - k) with
      | (s, .data b) => (s, .data (a ++ b))
      | r => r
    | r => r

/-- Write bytes for a unit. -/
def State.spanWrite (s : State) (w : Waiter) (ctx : Nat) : Nat → Nat → List Byte → State × Bool
  | 0, _, _ => (s, true)
  | fuel + 1, va, bs =>
    if bs.isEmpty then (s, true) else
    let k := min bs.length (4096 - va % 4096)
    match s.unitWrite w ctx false va (bs.take k) with
    | (s, true) => s.spanWrite w ctx fuel ((va + k) % 2 ^ 64) (bs.drop k)
    | r => r

/-- A read or write of at most 8 KiB. -/
def State.read8k (s : State) (w : Waiter) (ctx va n : Nat) : State × Got := s.spanRead w ctx 4 va n
def State.write8k (s : State) (w : Waiter) (ctx va : Nat) (bs : List Byte) : State × Bool := s.spanWrite w ctx 4 va bs

/-! ### The descriptor's fields (R322) -/

def Pass.rtva (p : Pass) : Nat := p.word 0x38
def Pass.sigva (p : Pass) : Nat := p.word 0x40
def Pass.imapva (p : Pass) : Nat := p.word 0x48
def Pass.workva (p : Pass) : Nat := p.word 0x50
def Pass.worksz (p : Pass) : Nat := p.word 0x58
def Pass.tileprog (p : Pass) : Nat := p.word 0x60
def Pass.doneva (p : Pass) : Nat := p.word 0x68
def Pass.frame (p : Pass) : Nat := p.word 0x70
def Pass.statva (p : Pass) : Nat := p.word 0x88
def Pass.mbound (p : Pass) : Nat := bits (p.word 0x80) 0 16
def Pass.drate (p : Pass) : Nat := bits (p.word 0x80) 16 16
def Pass.dfunc (p : Pass) : Nat := bits (p.word 0x30) 12 2
def Pass.rtfmt (p : Pass) : Nat := bits (p.word 0x30) 10 2
def Pass.tsize (p : Pass) : Nat := bits (p.word 0x30) 6 2
def Pass.seed (p : Pass) : Nat := bits (p.word 0x30) 32 32
def Pass.cols (p : Pass) : Nat := (p.width + p.edge - 1) / p.edge
def Pass.rows (p : Pass) : Nat := (p.height + p.edge - 1) / p.edge
def Pass.tileCount (p : Pass) : Nat := p.cols * p.rows
/-- Byte `k` of the sample pattern. -/
def Pass.pattern (p : Pass) (k : Nat) : Nat := bits (p.word ((0x90 + k) / 8 * 8)) (8 * ((0x90 + k) % 8)) 8

/-- Enabled clusters that CLMASK names, ascending (R328, R332). -/
def State.passClusters (s : State) (p : Pass) : List Nat :=
  (List.range s.clusters.length).filter fun cl => bitAt p.clmask cl && (s.cluster cl).enabled

/-- A unit descriptor (R322). -/
def isPassDesc (b : List Byte) : Bool := w64 b 0 == 0x81

def drawPortWord : Nat := 64 + 1 * 2 ^ 9 + 2 ^ 22
def gridPortWord : Nat := 32 + 1 * 2 ^ 9 + 2 ^ 22

/-- The checks 0x01 to 0x04 of R323 that the descriptor alone decides. -/
def State.passErr (s : State) (p : Pass) : Nat :=
  let al (x n : Nat) : Bool := x % n == 0 && canonical x
  let r (x lo len : Nat) : Bool := bits x lo len != 0
  let m := (s.passClusters p).length
  if r (p.word 8) 40 24 || p.word 0x10 != drawPortWord || p.word 0x18 != gridPortWord || p.word 0x20 != 0 || p.word 0x28 != 0
    || r (p.word 0x30) 14 18 || r (p.word 0x30) 0 6 || (p.words.drop 28).any (· != 0) then 0x01
  else if p.width = 0 ∨ p.width > 16384 ∨ p.height = 0 ∨ p.height > 16384 ∨ p.dfunc = 3 ∨ p.rtfmt > 1 ∨ p.sppCode = 3
    ∨ p.tsize = 3 ∨ p.drate < 16 ∨ p.drate > 256
    ∨ !((s.passClusters p).any fun cl => bitAt (s.context p.ctx).mask cl) then 0x02
  else if !(al p.rtva 256 && al p.sigva 64 && al p.imapva 8 && al p.workva 65536 && al p.tileprog 256 && al p.doneva 8
    && al p.statva 64) then 0x03
  else if p.worksz % 65536 != 0 || p.worksz < max (2 ^ 20) (131072 * (m + 1)) then 0x04
  else 0

/-- TILEPROG keeps R338; `none` while a page is waited for. -/
def State.tileProgOk (s : State) (p : Pass) : State × Option Bool :=
  if p.tileprog = 0 then (s, some true) else
  match s.unitRead (.dice p.id) p.ctx true p.tileprog 256 with
  | (s, .wait) => (s, none)
  | (s, .prot) => (s, some false)
  | (s, .data nb) =>
    let n := Node.ofBytes p.tileprog nb
    if n.prog % 128 != 0 || !canonical n.prog then (s, some false) else
    match s.unitRead (.dice p.id) p.ctx true n.prog 128 with
    | (s, .wait) => (s, none)
    | (s, .prot) => (s, some false)
    | (s, .data hb) =>
      let h := Prog.ofBytes n.prog hb
      (s, some (n.tx == 1 && n.ty == 1 && n.tz == 1 && h.cohort == 1 && 64 ≤ h.scratch
        && (n.port 0).rsize == 32 && (n.port 0).batch == 1 && !(n.port 0).join))

/-! ### Closing (R323, R324) -/

/-- The statistics block. -/
def Pass.stats (p : Pass) : List Byte :=
  [p.err, p.nTiles, p.nSkipped, p.nGrids, p.nFail, p.nCulled, p.nLost, p.nErr].flatMap (leBytes · 4) ++ List.replicate 32 0

/-- Every draw of the pass has been received. -/
def Pass.complete (p : Pass) : Bool :=
  match p.endIndex with
  | some e => (List.range (e + 1)).all (p.received.contains ·)
  | none => false

def State.addDropped (s : State) (cmd n : Nat) : State := s.updCommand cmd fun c => { c with dropped := c.dropped + n }

/-- Write the statistics block, and FRAME as a system-scope release after it; they wait on absent pages, and the release for
the units' writes of the pass and for timer lock (R292, R294). -/
def State.writePass (s : State) (id : Nat) : State :=
  match s.pass? id with
  | none => s
  | some p =>
    if p.written then s
    else if !p.stated then
      match s.unitWrite (.dice id) p.ctx false p.statva p.stats with
      | (s, false) => s
      | (s, true) => s.updPass id fun p => { p with stated := true }
    else if !s.passReleased p then s
    else
      match s.unitWrite (.dice id) p.ctx false p.doneva (leBytes p.frame 8) with
      | (s, false) => s
      | (s, true) => s.updPass id fun p => { p with written := true }

/-- A pass is rejected or fails: its draws are discarded (R323). -/
def State.rejectPass (s : State) (id err : Nat) : State :=
  match s.pass? id with
  | none => s
  | some p =>
    let s := p.draws.foldl (fun s d => s.addDropped d.cmd 1) s
    (s.updPass id fun p => { p with err := err, draws := [], tiles := [], ready := false }).writePass id

/-! ### Draw records (R323, R325) -/

/-- A draw record arrives at its open pass. -/
def State.takeDraw (s : State) (id cmd : Nat) (b : List Byte) : State :=
  match s.pass? id with
  | none => s
  | some p =>
    let idx := w32 b 0x18
    let last := bitAt (w32 b 0x1C) 0
    let note (s : State) : State := s.updPass id fun p => { p with
      received := if p.received.contains idx then p.received else p.received ++ [idx]
      endIndex := if last then some (p.endIndex.getD idx) else p.endIndex
      cmd := if last then cmd else p.cmd, cmds := if p.cmds.contains cmd then p.cmds else p.cmds ++ [cmd] }
    let clash : Bool := p.received.contains idx || (match p.endIndex with
        | some e => idx > e || last
        | none => false)
      || (last && p.received.any (idx < ·))
    let d : Draw := { index := idx, cmd := cmd, drawd := w64 b 0, patches := w64 b 8, first := w32 b 0x10, count := w32 b 0x14
                      tri := bitAt (w32 b 0x1C) 1, shade := w64 b 0x20 }
    if p.err != 0 then note (s.addDropped cmd 1)
    else if clash then note ((s.addDropped cmd 1).rejectPass id 0x05)
    else if w32 b 0x1C / 4 != 0 || (b.drop 0x28).any (· != 0) then note (s.addDropped cmd 1)
    else note (s.updPass id fun p => { p with draws := p.draws ++ [d] })

/-- The pass's checks that may wait, and what follows from a complete set of draws. -/
def State.settlePass (s : State) (id : Nat) : State :=
  match s.pass? id with
  | none => s
  | some p =>
    if p.finished then s
    else if p.err != 0 then
      let s := s.writePass id
      s.updPass id fun p => { p with finished := p.written && p.complete }
    else if p.ready then s
    else match s.tileProgOk p with
    | (s, none) => s
    | (s, some false) => s.rejectPass id 0x04
    | (s, some true) => s.updPass id fun p => if p.complete then { p with ready := true, readyAt := s.time } else p

/-- Open a pass for a descriptor that has none open (R323). -/
def State.openPass (s : State) (ctx cmd va : Nat) (desc : List Byte) (waiting : List (Nat × List Byte)) : State × Nat :=
  let (s, id) := s.fresh
  let p : Pass := { id := id, va := va, ctx := ctx, cmd := cmd, words := (List.range 32).map fun k => w64 desc (8 * k)
                    waiting := waiting, mem0 := s.mem }
  let s := { s with passes := s.passes ++ [p] }
  match s.passErr p with
  | 0 => (s, id)
  | e => (s.rejectPass id e, id)

/-- The open pass of a descriptor. -/
def State.openPassOf (s : State) (ctx va : Nat) : Option Pass :=
  s.passes.find? fun p => p.ctx == ctx && p.va == va && !p.finished

/-- Move the records that waited for a finished pass of the descriptor into the next one, as many as it takes. -/
def State.feed (s : State) (id : Nat) : Nat → State
  | 0 => s
  | n + 1 =>
    match s.pass? id with
    | none => s
    | some p =>
      match p.waiting with
      | [] => s
      | (cmd, b) :: rest =>
        if p.complete then s
        else (((s.updPass id fun p => { p with waiting := rest }).takeDraw id cmd b).settlePass id).feed id n

/-- A finished pass hands the records it held to the next pass of its descriptor, whose descriptor is read then. -/
def State.reopen (s : State) (id : Nat) : State :=
  match s.pass? id with
  | none => s
  | some p =>
    match p.waiting with
    | [] => s
    | (cmd, _) :: _ =>
      if !p.finished then s else
      match s.unitRead (.dice id) p.ctx false p.va 256 with
      | (s, .wait) => s
      | (s, .prot) =>
        (p.waiting.foldl (fun s x => s.addDropped x.1 1) s).updPass id fun p => { p with waiting := [] }
      | (s, .data b) =>
        let s := s.updPass id fun p => { p with waiting := [] }
        let (s, new) := s.openPass p.ctx cmd p.va b p.waiting
        s.feed new p.waiting.length

/-- Take a pass as far as no tile is needed, and settle the graphs it held when it has finished. -/
def State.pumpPass (s : State) (id : Nat) : State :=
  let s := (s.settlePass id).reopen id
  match s.pass? id with
  | some p => if p.finished then p.cmds.foldl (fun s c => s.settleGraph c) s else s
  | none => s

/-- Where a vertex array of a cluster of the pass lies (R328). -/
def State.arrayVA (s : State) (p : Pass) (cl a : Nat) : Nat :=
  (p.workva + 65536 + 131072 * (s.passClusters p).idxOf cl + 8192 * a) % 2 ^ 64

/-- A grid-ready record (R330): it fits an outstanding grid of the open pass, or is discarded. -/
def State.takeGrid (s : State) (pass? : Option Pass) (cmd : Nat) (b : List Byte) : State :=
  let va := w64 b 0
  let hit : Option (Pass × RTile × Grid) := pass?.bind fun p =>
    p.tiles.findSome? fun t => (t.grids.find? fun g =>
      g.fired && g.ready == 0 && !g.sampled && g.array.any fun a => s.arrayVA p t.cl a == va).map fun g => (p, t, g)
  match hit with
  | none => s.addDropped cmd 1
  | some (p, t, g) =>
    s.updPass p.id fun p => { p with
      cmds := if p.cmds.contains cmd then p.cmds else p.cmds ++ [cmd]
      tiles := p.tiles.map fun (x : RTile) => if x.k == t.k then
        { x with grids := x.grids.map fun (y : Grid) => if y == g then { y with ready := if bitAt (w32 b 8) 0 then 2 else 1 } else y }
        else x }

/-- A record reaches a port of a pass descriptor. -/
def State.takeUnit (s : State) (ctx cmd va port : Nat) (desc data : List Byte) : State :=
  if port = 0 then
    match s.openPassOf ctx va with
    | none =>
      let (s, id) := s.openPass ctx cmd va desc []
      (s.takeDraw id cmd data).pumpPass id
    | some p =>
      if p.complete then s.updPass p.id fun p => { p with waiting := p.waiting ++ [(cmd, data)] }
      else (s.takeDraw p.id cmd data).pumpPass p.id
  else s.takeGrid (s.openPassOf ctx va) cmd data

end Sys2Proof.Machine
end

