-- ==== Sys2Proof/Machine/Records.lean ====
section
/-! DEFINITION. Records, gatherers and firings: EMIT (05_issued R137, R138) and the gather timers (02_launched R45 to R48). -/

namespace Sys2Proof.Machine

/-! ### The record pool (R45) -/

/-- A fired batch still stands in the pool: it has not been copied into every team of its launch. -/
def State.uncopied (s : State) (l : Launch) : Bool :=
  l.cause == .firing && l.phase != .done && (l.phase != .running || l.next < l.total || s.teams.any fun t =>
    t.launch == l.id && match t.place with
      | .claimed .. => true
      | _ => false)

/-- Bytes of a graph's pool that hold records. -/
def State.poolUsed (s : State) (cmd : Nat) : Nat :=
  let held := (s.gathers.filter fun g => g.cmd == cmd).foldl (fun n g => n + g.recs.length * roundUp g.rsize 16) 0
  let fired := (s.launches.filter fun l => l.cmd == cmd && s.uncopied l).foldl
    (fun n l => n + ((l.fired.map (·.image.length)).getD 0)) 0
  let waiting := s.passes.foldl (fun n p => n + 64 * (p.waiting.filter (·.1 == cmd)).length) 0
  held + fired + waiting

/-! ### Gathering (R46, R47) -/

/-- Put a record into its list or batch, opening it with its timer when it is the first. R48 names the graph of the first
record and does not say whether graphs share a batch: the lists are kept for each command, whose pool holds the records, so
that they do not (DESIGN CHOICE, log 73). -/
def State.gatherRec (s : State) (c : Command) (va port : Nat) (p : Port) (tag : Nat) (data : List Byte) : State :=
  let key : Option Nat := if p.anyTag then none else some tag
  let isIt (g : Gather) : Bool := g.cmd == c.id && g.node == va && g.port == port && g.tag == key && g.join == p.join
  let r : Rec := { tag := tag, data := data }
  if s.gathers.any isIt then
    { s with gathers := s.gathers.map fun (g : Gather) => if isIt g then { g with recs := g.recs ++ [r] } else g }
  else
    let (s, id) := s.fresh
    let g : Gather := { id := id, cmd := c.id, node := va, port := port, tag := key, join := p.join, recs := [r]
                        rsize := p.rsize
                        deadline := if p.join || p.timeout = 0 then none else some (s.time + p.timeout) }
    { s with gathers := s.gathers ++ [g] }

/-- The list of a join port and tag. -/
def State.joinList (s : State) (c : Command) (va port tag : Nat) : List Rec :=
  ((s.gathers.find? fun g => g.cmd == c.id && g.node == va && g.port == port && g.tag == some tag && g.join).map (·.recs)).getD []

/-- Fire a join node for a tag when every used port holds a record with it (R24, R47). -/
def State.fireJoin (s : State) (c : Command) (va : Nat) (ports : List Port) (tag : Nat) : State :=
  let used := (List.range 4).filter fun k => (ports.getD k {}).rsize != 0
  if used.all fun k => !(s.joinList c va k tag).isEmpty then
    let image := used.flatMap fun k =>
      let d := (((s.joinList c va k tag).head?).map (·.data)).getD []
      d ++ List.replicate ((ports.getD k {}).slot - d.length) 0
    let s := { s with gathers := (s.gathers.map fun (g : Gather) =>
        if g.cmd == c.id && g.node == va && g.tag == some tag && g.join && used.contains g.port then
          { g with recs := g.recs.drop 1 } else g).filter fun (g : Gather) => !g.recs.isEmpty }
    s.fire c.id va .firing { image := image, s0 := 1, s1 := tag, s2 := used.foldl (fun m k => m + 2 ^ k) 0
                             count := used.length }
  else s

/-- A record is accepted at a node's port. -/
def State.acceptRec (s : State) (c : Command) (va port : Nat) (desc : List Byte) (tag : Nat) (data : List Byte) : State :=
  let ports := (List.range 4).map fun k => Port.ofWord (w64 desc (0x10 + 8 * k))
  let p := ports.getD port {}
  let s := s.gatherRec c va port p tag data
  if p.join then s.fireJoin c va ports tag
  else
    let key : Option Nat := if p.anyTag then none else some tag
    match s.gathers.find? fun g => g.cmd == c.id && g.node == va && g.port == port && g.tag == key && !g.join with
    | some g => if g.recs.length ≥ p.batch then s.fireBatch g else s
    | none => s

/-- GATHER_TIMEOUT of the open batch `id`. -/
def execGatherTimeout (s : State) : Out :=
  .next (match s.gathers.find? fun g => g.id == s.target.id with
  | some g =>
    match g.deadline with
    | some d => if d ≤ s.time && !g.join then (s.fireBatch g).driveGraph g.cmd else s
    | none => s
  | none => s)

end Sys2Proof.Machine

namespace Sys2Proof

open Machine

/-! ### EMIT (R137) -/

def EmitF.cnt (f : EmitF) : Nat := f.size.toNat + 1
def EmitF.tagO (f : EmitF) (iss : Issue) : Opnd := (iss.reg f.t.toNat).src (some [.n32, .i32])
/-- MODE 0: the data registers, whose tags are not looked at; MODE 1: the scratchpad address. -/
def EmitF.dataO (f : EmitF) (iss : Issue) : Opnd :=
  if f.mode = 0 then ((iss.reg f.a.toNat).src none).many f.cnt else (iss.reg f.a.toNat).src (some [.n32, .i32])

/-- Bytes of the record. -/
def EmitF.data (f : EmitF) (c : Ctx) : List Byte :=
  if f.mode = 0 then (List.range f.cnt).flatMap fun k => wordBytes (c.rd (f.dataO c.iss) k)
  else c.t.readScratch (c.rd (f.dataO c.iss)).toNat (4 * f.cnt)

/-- Lower lanes of the bundle instruction that still stand at the word: their records come first (R137). -/
def Machine.Ctx.ahead (c : Ctx) : List (Nat × Nat) :=
  (c.th.behind ++ c.iss.members.filter (·.2 < c.l)).eraseDups.filter fun m =>
    let u := c.t.thread m.1 m.2
    c.iss.cls != 0 && !u.exited && !u.sent && u.pos == c.iss.pos

/-- Accept the visible thread's record once its release has completed, its turn among the lanes of the bundle instruction
has come and a pool slot is free. In a protected launch the lanes that count are the visible ones, whose records are sent. -/
def Machine.emitGo (f : EmitF) (va port : Nat) (desc : List Byte) (s : State) (c : Ctx) : State × LaneRes :=
  match s.releaseGate c 2 false with
  | some w => (s, .stay w)
  | none =>
    if !(c.ahead.filter fun m => !s.isProtected c.t || m.2 % 2 == 0).isEmpty then (s, .stay .retry) else
    match (s.launch? c.t.launch).bind fun l => s.command? l.cmd with
    | none => (s, .stay .retry)
    | some cmd =>
      let slot := roundUp (4 * f.cnt) 16
      if s.poolUsed cmd.id + slot > cmd.poolSize then ((s.firePartials cmd.id).driveGraph cmd.id, .stay .pool)
      else
        let s := s.updLaunch c.t.launch fun l => { l with replayable := false }
        let tag := (c.rd (f.tagO c.iss)).toNat
        let s := if isPassDesc desc then s.takeUnit c.t.ctx cmd.id va port desc (f.data c)
          else s.acceptRec cmd va port desc tag (f.data c)
        ((s.driveGraph cmd.id).updThread c.t.id c.w c.l fun th => { th with sent := true }, .done)

/-- The target that the word names in the launch's node. -/
def EmitF.target (f : EmitF) (s : State) (c : Ctx) : OutTgt :=
  ((s.launch? c.t.launch).map fun l => l.node.tgts.getD f.tgt.toNat {}).getD {}

/-- RSIZE of the consumer's port, when its descriptor can be read (R137). -/
def EmitF.rsize (f : EmitF) (s : State) (c : Ctx) : Option Nat :=
  let tgt := f.target s c
  match (s.translate c.iss.cl c.iss.co c.t.ctx c.t.priv .read tgt.node).2 with
  | .ok x => some (Port.ofWord (w64 (s.readPath c.iss.cl c.iss.co x 256) (0x10 + 8 * tgt.port))).rsize
  | _ => none

/-- The causes of a bad operand, in the order of R102. -/
def Machine.emitCheck (f : EmitF) (s : State) (c : Ctx) : Option Nat :=
  let x := (c.rd (f.dataO c.iss)).toNat
  if !(f.target s c).v || (f.rsize s c).any (· != 4 * f.cnt) then some 0x04
  else if f.mode = 1 ∧ x % 4 ≠ 0 then some 0x09
  else if f.mode = 1 ∧ x + 4 * f.cnt > c.t.prog.scratch then some 0x0A
  else none

/-- The consumer's descriptor is read as a plain load of the thread. -/
def Machine.emitAct (f : EmitF) (s : State) (c : Ctx) : State × LaneRes :=
  let tgt := f.target s c
  match s.translate c.iss.cl c.iss.co c.t.ctx c.t.priv .read tgt.node with
  | (s, .prot) => (s, .trap 0x0C)
  | (s, .bad) => (s.machineCheck c.t.launch 0x18, .stay .retry)
  | (s, .absent b n w) => s.parkThread c tgt.node b n w 0
  | (s, .ok x) =>
    let desc := s.readPath c.iss.cl c.iss.co x 256
    if s.pathBad c.iss.cl c.iss.co { x with pa := x.pa + 0x10 } 32 then (s.machineCheck c.t.launch 0x18, .stay .retry) else
    if c.inRegion then (s, .trap 0x0E) else
    s.pairGate c 2 ([c.iss.raw.toNat, c.iss.raw2.toNat, (c.rd (f.tagO c.iss)).toNat]
        ++ (f.data c).map (·.toNat))
      fun s k => match s.team? k.t.id with
        | some t => emitGo f tgt.node tgt.port desc s { k with t := t }
        | none => (s, .stay .retry)

/-- A thread whose record is not accepted yet keeps the lanes that come before it; in a protected launch both members of its pair
stand at the word. -/
def Machine.emitLane (f : EmitF) (s : State) (c : Ctx) : State × LaneRes :=
  let keep (l : Nat) (s : State) : State := s.updThread c.t.id c.w l fun th =>
    if th.pos == c.iss.pos then { th with behind := ({ c with l := l } : Ctx).ahead } else th
  match emitAct f s c with
  | (s, .stay w) => (keep c.l s, .stay w)
  | (s, .moved) => (if s.isProtected c.t then keep (c.l ^^^ 1) (keep c.l s) else s, .moved)
  | r => r

def Machine.execEmit (f : EmitF) (s : State) : Out :=
  withIssue s fun iss =>
    ({ grp := .emit, wf := (Instr.emit f).wf, len := 2, os := [f.tagO iss, f.dataO iss] } : Form).perform iss
      (emitCheck f s) (emitLane f)

end Sys2Proof
end

