-- ==== Sys2Proof/Machine/Regroup.lean ====
section
/-! DEFINITION. Caravan, the bundle gatherer (05_issued R115 to R118, R123, R125), and the timeouts of meeting points,
collective points and barriers (R121, R126; 10_synchronised R282). -/

namespace Sys2Proof.Machine

/-! ### Threads that look again at what they wait for (R115) -/

/-- Every awaited thread of a parked thread's tile stands at its word (R123). -/
def State.tileStands (s : State) (t : Team) (m : Nat × Nat) : Bool :=
  let th := t.thread m.1 m.2
  let iss : Issue := { team := t.id, members := [m], hdr := th.pos.hdr, header := 0, word := th.pos.word, rep := th.pos.rep }
  (iss.awaited t (s.isProtected t) m).all fun l =>
    let u := t.thread m.1 l
    u.pos == th.pos && (u.wait == .none || u.wait == .crossLane)

/-- The thread does not wait, its wait is over, or it is one that only a new look tells (R115). -/
def State.waitOver (s : State) (t : Team) (m : Nat × Nat) : Bool :=
  let th := t.thread m.1 m.2
  match th.wait with
  | .none => true
  | .collective => (t.warp m.1).gathered th.pos
  | .crossLane => s.tileStands t m
  | .tbarrier u a p _ => (s.tbar u a).phase != p || (s.team? u).all (·.killed)
  | .mates g => !(t.live.any fun m => (t.thread m.1 m.2).replay == some g)
  | w => w.polled

/-- The word at a position is a cross-lane word of a clause that is no collective point (R123). -/
def State.crossAt (s : State) (cl co : Nat) (t : Team) (pos : Pos) : Bool :=
  match (s.fetch cl co t pos.hdr).2, (s.fetch cl co t ((pos.hdr + 4 * pos.word) % 2 ^ 64)).2 with
  | .word h, .word w => !hdrCollective h && 0x80 ≤ bits w.toNat 24 8 && bits w.toNat 24 8 < 0x8C
  | _, _ => false

/-- Threads that stand at the cross-lane word of a thread in its warp. -/
def Team.standing (t : Team) (m : Nat × Nat) : List (Nat × Nat) :=
  let w := t.warp m.1
  (w.live.filter fun l => let u := w.thread l
    u.pos == (w.thread m.2).pos && (u.wait == .none || u.wait == .crossLane || u.wait.polled)).map fun l => (m.1, l)

def Core.bundled (k : Core) (tm w l : Nat) : Bool :=
  k.bundles.any fun b => match b with
    | some b => b.team == tm && b.members.contains (w, l)
    | none => false

/-- The bundle whose turn tells whether a thread is ready: the thread alone, or at a cross-lane word the threads of its
warp that stand there; `none` while it is bundled already or its wait goes on. -/
def State.trial (s : State) (m : Nat × Nat) (t : Team) : Option (Nat × Nat × Bundle) :=
  match t.at? with
  | none => none
  | some (cl, co) =>
    if (t.thread m.1 m.2).exited || !t.started || (s.core cl co).bundled t.id m.1 m.2 || !s.waitOver t m then none
    else some (cl, co, { team := t.id, members := if s.crossAt cl co t (t.thread m.1 m.2).pos then t.standing m else [m] })

/-- A wait that makes a thread not ready before its word issues (R115, R123). -/
def Wait.unready : Wait → Bool
  | .collective | .crossLane | .horizon _ => true
  | w => w.polled

/-- The thread's readiness, as the trial `x` of its word showed it: it keeps or takes the wait that the trial met; a ready
thread does not wait, and the time at which its wait began stays until its word issues (R78). -/
def State.settleLook (s : State) (tm w l : Nat) (x : State) : State :=
  let th := x.thread tm w l
  let old := s.thread tm w l
  s.updThread tm w l fun u =>
    if th.pos = old.pos ∧ !th.exited ∧ th.wait.unready then u.park s.time th.wait else { u with wait := .none }

/-! ### Bundles (R116, R117) -/

/-- A ready thread: where it stands and its warp's age. -/
structure Ready where
  team : Nat
  age : Nat
  warp : Nat
  lane : Nat
  pos : Pos
  deriving DecidableEq, Repr

/-- The thread has begun its clause. -/
def Pos.begun (p : Pos) : Bool := p.word != 1 || p.rep.isSome

/-- Ready threads of a quadrant that no bundle holds, by warp age and then lane. A look at each of them has just left in
its wait what R115 asks of it (log 11). A thread of a warp that is not active finishes the clause it is in (R73). -/
def State.readyThreads (s : State) (cl co q : Nat) : List Ready :=
  let k := s.core cl co
  ((s.teams.filter fun t => t.onCore cl co && t.started) |> sortBy fun a b => a.age ≤ b.age).flatMap fun t =>
    ((List.range t.warps.length).filter fun w => w % 4 == q).flatMap fun w =>
      (((t.warp w).live).filter fun l => let th := (t.warp w).thread l
        th.wait == .none && !k.bundled t.id w l && ((t.warp w).active || th.pos.begun)).map fun l =>
        { team := t.id, age := t.age, warp := w, lane := l, pos := ((t.warp w).thread l).pos }

/-- A candidate of the list of R117: team, position, and its ready threads. -/
structure Candidate where
  team : Nat
  pos : Pos
  threads : List Ready
  deriving DecidableEq, Repr

def candidates (rs : List Ready) : List Candidate :=
  (rs.map fun r => (r.team, r.pos)).eraseDups.map fun k =>
    { team := k.1, pos := k.2, threads := rs.filter fun r => r.team == k.1 && r.pos == k.2 }

/-- Lanes a candidate fills. -/
def Candidate.size (c : Candidate) : Nat := (c.threads.map (·.lane)).eraseDups.length

/-- The key of a position among those a core watches for starvation. -/
def watchKey (tm q : Nat) : Nat := 4 * tm + q

/-- Since when a position has held a ready thread none of which was taken. -/
def Core.readySince (k : Core) (q : Nat) (c : Candidate) : Option Nat :=
  (k.ready.find? fun r => r.1 == watchKey c.team q && r.2.1 == c.pos).map (·.2.2)

def Core.starved (k : Core) (q clk : Nat) (c : Candidate) : Option Nat :=
  (k.readySince q c).bind fun x => if x + 256 ≤ clk then some x else none

/-- The candidate a slot takes: the oldest starved, else the largest, the earlier on a tie, of the first eight. -/
def pick (k : Core) (q clk : Nat) (cs : List Candidate) : Option Candidate :=
  let st := (cs.filterMap fun c => (k.starved q clk c).map fun x => (x, c)) |> sortBy fun a b => a.1 ≤ b.1
  match st with
  | (_, c) :: _ => some c
  | [] => (cs.take 8).foldl (fun (b : Option Candidate) c => match b with
    | none => some c
    | some x => if x.size < c.size then some c else some x) none

/-- Take groups of threads in order, each when every lane of it is free. -/
def takeGroups : List Ready → List (List Ready) → List Ready
  | acc, [] => acc
  | acc, g :: gs => takeGroups (if g.any fun r => acc.any (·.lane == r.lane) then acc else acc ++ g) gs

/-- The groups of a candidate that a bundle takes whole, by warp age: single threads, and at a cross-lane word complete
tiles (R125). -/
def State.groups (s : State) (cl co : Nat) (c : Candidate) : List (List Ready) :=
  match s.team? c.team with
  | none => []
  | some t =>
    if s.crossAt cl co t c.pos then
      let prot := s.isProtected t
      (c.threads.map fun r =>
        let iss : Issue := { team := t.id, members := [], hdr := c.pos.hdr, header := 0, word := c.pos.word, rep := c.pos.rep }
        let want := r.lane :: (iss.awaited t prot (r.warp, r.lane)).filter (· != r.lane)
        let g := c.threads.filter fun x => x.warp == r.warp && want.contains x.lane
        if g.length == want.length then g else []).eraseDups.filter (!·.isEmpty)
    else c.threads.map fun r => [r]

/-- In each lane the ready thread of the oldest warp, lanes ascending (R117). -/
def State.bundleOf (s : State) (cl co : Nat) (c : Candidate) : Bundle :=
  let rs := takeGroups [] (s.groups cl co c)
  { team := c.team
    members := (List.range 32).filterMap fun l => (rs.find? (·.lane == l)).map fun r => (r.warp, l) }

/-- Fill one slot of a quadrant when it is free. -/
def State.fillSlot (s : State) (cl co q slot : Nat) : State :=
  let k := s.core cl co
  if ((k.bundles.getD slot none).isSome) then s else
  let clk := (s.cluster cl).r.clk
  let cs := candidates (s.readyThreads cl co q)
  match pick k q clk cs with
  | none => s
  | some c =>
    let b := s.bundleOf cl co c
    if b.members.isEmpty then s else
    s.updCore cl co fun k => { k with
      bundles := setAt k.bundles slot (some b)
      ready := k.ready.filter fun r => !(r.1 == watchKey c.team q && r.2.1 == c.pos) }

/-- Keep since when each position has held a ready thread (R117). -/
def State.noteReady (s : State) (cl co q : Nat) : State :=
  let clk := (s.cluster cl).r.clk
  let cs := candidates (s.readyThreads cl co q)
  s.updCore cl co fun k => { k with
    ready := (k.ready.filter fun r => r.1 % 4 != q) ++
      cs.map fun c => (watchKey c.team q, c.pos, (k.readySince q c).getD clk) }

/-! ### Mismatches (R126) -/

/-- Parked at a collective point. -/
def Wait.atCollective : Wait → Bool
  | .collective | .crossLane => true
  | _ => false

/-- Every live thread is parked at a collective or meeting point, one at least at a collective point, not all at one. -/
def Warp.mismatched (w : Warp) : Bool :=
  let ths := w.live.map w.thread
  !ths.isEmpty && ths.all (fun th => th.wait.atCollective || th.atMeeting) && ths.any (·.wait.atCollective)
    && ths.any fun th => th.pos != (ths.headD {}).pos || th.wait.atCollective != (ths.headD {}).wait.atCollective

def State.noteMismatch (s : State) (tm : Nat) : State :=
  let clk := s.clkOf tm
  s.updTeam tm fun t => { t with warps := t.warps.map fun (w : Warp) =>
    { w with mismatchSince := if w.mismatched then some (w.mismatchSince.getD clk) else none } }

/-- REGROUP_PERIOD of the target's core. -/
def execRegroupPeriod (s : State) : Out :=
  let cl := s.target.cl
  let co := s.target.co
  .next (
    let ts := (s.teams.filter fun t => t.onCore cl co && t.started).map (·.id)
    let s := ts.foldl (fun s id => match s.team? id with
      | some _ => (s.noteMismatch id).noteMixed id
      | none => s) s
    [0, 1, 2, 3].foldl (fun s q =>
      ((s.noteReady cl co q).fillSlot cl co q (2 * q)).fillSlot cl co q (2 * q + 1)) s)

/-! ### Timeouts -/

/-- When the group of a meeting value began to park: the earliest of the threads parked now. Once a store-fault delivery has taken
the first of them out, the time of the next counts (log 79). -/
def Warp.groupSince (w : Warp) (mr : Word) : Option Nat :=
  (w.live.filterMap fun l => match (w.thread l).wait with
    | .meeting x => if (w.thread l).mr == mr then some x else none
    | _ => none).foldl (fun (b : Option Nat) x => some (match b with
      | none => x
      | some y => min x y)) none

/-- A group of the warp has waited sr.mto cycles. -/
def Warp.groupDue (w : Warp) (clk : Nat) (mr : Word) : Bool :=
  match w.groupSince mr with
  | some x => x + w.mto ≤ clk
  | none => false

/-- Some group of the warp is due. -/
def Warp.meetingDue (w : Warp) (clk : Nat) : Bool := w.live.any fun l => w.groupDue clk (w.thread l).mr

/-- MEETING_TIMEOUT of the target's warp: the groups that have waited too long are released. -/
def execMeetingTimeout (s : State) : Out :=
  let tg := s.target
  let clk := s.clkOf tg.team
  .next (s.updWarp tg.team tg.warp fun w =>
    { w with threads := w.threads.map fun (th : Thread) =>
        if !th.exited && th.atMeeting && w.groupDue clk th.mr then th.unpark else th })

/-- The word at which a parked thread of a mismatched warp stands: none at a header. -/
def State.parkedWord (s : State) (cl co : Nat) (t : Team) (th : Thread) : Nat × Word :=
  if th.wait = .crossLane then
    match s.fetch cl co t ((th.pos.hdr + 4 * th.pos.word) % 2 ^ 64) with
    | (_, .word w) => (th.pos.word, w)
    | _ => (th.pos.word, 0)
  else if th.wait = .collective ∧ (th.pos.word ≠ 1 ∨ th.pos.rep.isSome) then
    match s.fetch cl co t ((th.pos.hdr + 4 * th.pos.word) % 2 ^ 64) with
    | (_, .word w) => (th.pos.word, w)
    | _ => (th.pos.word, 0)
  else (0, 0)

/-- COLLECTIVE_MISMATCH_TIMEOUT of the target's warp; a meeting timeout that is due wins. -/
def execCollectiveMismatchTimeout (s : State) : Out :=
  let tg := s.target
  .next (match (s.team? tg.team).bind fun t => t.at?.map fun p => (t, p) with
  | none => s
  | some (t, cl, co) =>
    let w := t.warp tg.warp
    let clk := s.clkOf tg.team
    let due := match w.mismatchSince with
      | some x => x + w.mto ≤ clk
      | none => false
    if !due || !w.mismatched || w.meetingDue clk then s else
    (w.live.foldl (fun s l =>
      let th := w.thread l
      if (s.thread t.id tg.warp l).exited then s else
      let (n, raw) := s.parkedWord cl co t th
      s.takeTrap t.id tg.warp l { cause := 0x13, word := n, rep := th.pos.rep, hdr := th.pos.hdr, raw := raw
                                  mask := laneMask w.live }) s).noteMismatch t.id)

/-- BAR_MIXED_TIMEOUT of the target's team (R282): threads at BAR.T trap, and have not arrived; those at BAR.C stand. -/
def execBarMixedTimeout (s : State) : Out :=
  let tg := s.target
  .next (match (s.noteMixed tg.team).team? tg.team |>.bind fun t => t.at?.map fun p => (t, p) with
  | none => s
  | some (t, cl, co) =>
    let clk := s.clkOf tg.team
    match t.mixedSince with
    | none => s
    | some x =>
      let ms := t.live.filter fun m => (t.thread m.1 m.2).wait == .barrier false && x + (t.warp m.1).mto ≤ clk
      if ms.isEmpty then s else
      let s := s.updTeam t.id fun t => { t with arrT := t.arrT.filter fun m => !ms.contains m }
      (ms.foldl (fun s m =>
        let th := t.thread m.1 m.2
        let raw := match s.fetch cl co t ((th.pos.hdr + 4 * th.pos.word) % 2 ^ 64) with
          | (_, .word w) => w
          | _ => 0
        if (s.thread t.id m.1 m.2).exited then s else
        s.takeTrap t.id m.1 m.2 { cause := 0x13, word := th.pos.word, rep := th.pos.rep, hdr := th.pos.hdr, raw := raw
                                  mask := laneMask ((ms.filter (·.1 == m.1)).map (·.2)) }) s).noteMixed t.id)

end Sys2Proof.Machine
end

