-- ==== Sys2Proof/Machine/Seif.lean ====
section
/-! DEFINITION. The arithmetic of dicing and sampling (12_rendering R326, R327, R330, R334, R335, R339; 17_programs R439,
R440): projection, boxes, splits, coverage, interpolation and resolve. Positions are exact integers of 2^-149. -/

namespace Sys2Proof.Machine

/-! ### F32 steps, each rounded to nearest even -/

def fadd (a b : Nat) : Nat := (fpAdd fmtF32 0 a b).bits
def fsub (a b : Nat) : Nat := (fpSub fmtF32 0 a b).bits
def fmul (a b : Nat) : Nat := (fpMul fmtF32 0 a b).bits
def fdiv (a b : Nat) : Nat := (fpDiv fmtF32 0 a b).bits
def fsqrt (a : Nat) : Nat := (fpSqrt fmtF32 0 a).bits
def f32One : Nat := 0x3F800000
def f32Two : Nat := 0x40000000
def f32OfNat (n : Nat) : Nat := (roundMag fmtF32 0 false n 0 false).bits

/-- An F32 value that is no NaN as an integer of 2^-149; an infinity lies beyond every finite value. -/
def f32Pos (x : Nat) : Int := if f32Finite x then f32Int x else if bitAt x 31 then -(2 ^ 300) else 2 ^ 300

/-- An integer of 2^-k rounded to F32. -/
def f32OfInt (v : Int) (k : Nat) : Nat := (roundMag fmtF32 0 (v < 0) v.natAbs (-(k : Int)) false).bits

/-- The exact sum of F32 values with positive weights, an eighth of it rounded once to F32. An infinity carries through, and
infinities of both signs or a NaN give a NaN, as in any F32 sum (log 47). -/
def eighthSum (ts : List (Nat × Nat)) : Nat :=
  let xs := ts.map (·.2)
  let inf (neg : Bool) : Bool := xs.any fun x => unpack fmtF32 x == .inf neg
  if xs.any f32Nan || (inf false && inf true) then fmtF32.nanBits
  else if inf false then fmtF32.infBits
  else if inf true then signed fmtF32 true fmtF32.infBits
  else f32OfInt (ts.foldl (fun (v : Int) t => v + t.1 * f32Int t.2) 0) 152

/-! ### Control points (R325, R326) -/

/-- Bits of a bound of a part in u or v: as many halvings as the model makes at most (log 47). -/
def uvBits : Nat := 320

/-- A part of a patch: control points of four F32 patterns, its bounds in u and v in units of 2^-uvBits, and the patch's place
among the free values (log 6). -/
structure Piece where
  pts : List (List Nat)
  u0 : Nat := 0
  u1 : Nat := 2 ^ uvBits
  v0 : Nat := 0
  v1 : Nat := 2 ^ uvBits
  place : Nat := 0
  deriving DecidableEq, Repr

def Piece.pt (p : Piece) (k : Nat) : List Nat := p.pts.getD k []

/-- The part's own place among the free values: `i` below 16 numbers the values of one part. -/
def Piece.free (p : Piece) (i : Nat) : Nat :=
  let unit := 2 ^ (uvBits + 1)
  Config.freeNat (((((p.place * unit + p.u0) * unit + p.u1) * unit + p.v0) * unit + p.v1) * 16 + i)

/-- Projected pixel coordinates of a control point (R326). -/
def Pass.project (ps : Pass) (pt : List Nat) : Nat × Nat :=
  let w := pt.getD 3 0
  (fdiv (fmul (fadd (fdiv (pt.getD 0 0) w) f32One) (f32OfNat ps.width)) f32Two
  , fdiv (fmul (fsub f32One (fdiv (pt.getD 1 0) w)) (f32OfNat ps.height)) f32Two)

/-- A box: least and greatest x, least and greatest y. -/
abbrev Box := List Int

def listMin (l : List Int) : Int := l.foldl min (l.headD 0)
def listMax (l : List Int) : Int := l.foldl max (l.headD 0)

/-- A control point of the part projects to no number, so that its box is not stated (log 6). -/
def Pass.lost (ps : Pass) (p : Piece) : Bool := p.pts.any fun pt => f32Nan (ps.project pt).1 || f32Nan (ps.project pt).2

/-- The box of a part's projected control points, expanded by MBOUND (R326). -/
def Pass.box (ps : Pass) (p : Piece) : Box :=
  if ps.lost p then (List.range 4).map fun i => (p.free i : Int) - p.free (4 + i)
  else
    let pr := p.pts.map ps.project
    let xs := pr.map fun c => f32Pos c.1
    let ys := pr.map fun c => f32Pos c.2
    let m : Int := ps.mbound * 2 ^ 149
    [listMin xs - m, listMax xs + m, listMin ys - m, listMax ys + m]

/-- The box touches the pixels from (x, y) that are `w` wide and `h` high (R439). -/
def touches (b : Box) (x y w h : Nat) : Bool :=
  let u : Int := 2 ^ 149
  b.getD 0 0 < (x + w : Nat) * u && b.getD 1 0 > x * u && b.getD 2 0 < (y + h : Nat) * u && b.getD 3 0 > y * u

/-! ### Subdivision (R326, R327) -/

/-- One cubic's coordinate split at one half: the lower and the upper four, rounded to F32. -/
def cubicHalves (a b c d : Nat) : List Nat × List Nat :=
  let m := eighthSum [(1, a), (3, b), (3, c), (1, d)]
  ([a, eighthSum [(4, a), (4, b)], eighthSum [(2, a), (4, b), (2, c)], m],
    [m, eighthSum [(2, b), (4, c), (2, d)], eighthSum [(4, c), (4, d)], d])

/-- The four control points of row `r`, or of column `r`. -/
def meshLine (inU : Bool) (r : Nat) : List Nat :=
  (List.range 4).map fun k => if inU then 4 * r + k else r + 4 * k

/-- Split a bicubic part at the middle of u or v. -/
def Piece.halve (p : Piece) (inU : Bool) : Piece × Piece :=
  let lines := (List.range 4).map fun r =>
    let ps := (meshLine inU r).map p.pt
    (List.range 4).map fun i =>
      let c (k : Nat) : Nat := (ps.getD k []).getD i 0
      cubicHalves (c 0) (c 1) (c 2) (c 3)
  let pick (hi : Bool) : List (List Nat) := (List.range 16).map fun n =>
    let r := if inU then n / 4 else n % 4
    let k := if inU then n % 4 else n / 4
    (lines.getD r []).map fun h => (if hi then h.2 else h.1).getD k 0
  let um := (p.u0 + p.u1) / 2
  let vm := (p.v0 + p.v1) / 2
  if inU then ({ p with pts := pick false, u1 := um }, { p with pts := pick true, u0 := um })
  else ({ p with pts := pick false, v1 := vm }, { p with pts := pick true, v0 := vm })

/-- w ≤ 0: no NaN, and negative or zero. -/
def behind (pt : List Nat) : Bool := !f32Nan (pt.getD 3 0) && f32Pos (pt.getD 3 0) ≤ 0

/-- The near plane: the parts that stay, and how many are culled; `n` levels of splitting are left. -/
def nearSplit : Nat → Piece → List Piece × Nat
  | n, p =>
    if p.pts.all behind then ([], 1)
    else if !p.pts.any behind then ([p], 0)
    else match n with
    | 0 => ([], 1)
    | n + 1 =>
      let h := p.halve true
      let a := h.1.halve false
      let b := h.2.halve false
      [a.1, a.2, b.1, b.2].foldl (fun r q => let x := nearSplit n q; (r.1 ++ x.1, r.2 + x.2)) ([], 0)

/-- The parts of a patch that survive the culling of R326, and the number culled. `k` is the patch's place among the free
values. -/
def Pass.pieces (ps : Pass) (tri : Bool) (b : List Byte) (k : Nat) : List Piece × Nat :=
  let pts := (List.range (if tri then 10 else 16)).map fun n => (List.range 4).map fun i => w32 b (16 * n + 4 * i)
  let x : List Piece × Nat :=
    if tri then (if pts.any behind then ([], 1) else ([{ pts := pts, place := k }], 0))
    else nearSplit 8 { pts := pts, place := k }
  let on := x.1.filter fun p => touches (ps.box p) 0 0 ps.width ps.height
  (on, x.2 + (x.1.length - on.length))

/-! ### Grid sizes (R327) -/

/-- The summed length of the segments between projected points. -/
def chainLen (pr : List (Nat × Nat)) : Nat :=
  (pr.zip (pr.drop 1)).foldl (fun n s =>
    let dx := fsub s.2.1 s.1.1
    let dy := fsub s.2.2 s.1.2
    fadd n (fsqrt (fadd (fmul dx dx) (fmul dy dy)))) 0

/-- The largest of some lengths; a NaN among them is the answer. -/
def longest (l : List Nat) : Nat :=
  l.foldl (fun a b => if f32Nan a then a else if f32Nan b || f32Pos a < f32Pos b then b else a) 0

/-- Vertices along a side of length `len`; an infinite length asks for more than any grid has, and a length that is no number
for what the part's free value `i` says (log 6). -/
def Pass.sideCount (ps : Pass) (p : Piece) (i len : Nat) : Nat :=
  if f32Nan len then 2 + p.free i % 15
  else if !f32Finite len then 17
  else
    let n := 256 * (f32Int len).toNat
    let d := ps.drate * 2 ^ 149
    max 2 ((n + d - 1) / d + 1)

def Pass.lineLen (ps : Pass) (p : Piece) (l : List Nat) : Nat := chainLen (l.map fun k => ps.project (p.pt k))

/-- The three edges of a triangular control net given in rows of four, three, two and one. -/
def triEdges : List (List Nat) := [[0, 1, 2, 3], [3, 6, 8, 9], [9, 7, 4, 0]]

/-- A part that is a grid, with NU and NV. -/
structure Diced where
  piece : Piece
  nu : Nat
  nv : Nat
  deriving DecidableEq, Repr

/-- Dice a bicubic part: split while a side has more than 16 vertices, u first. Splitting that `n` halvings do not end has no
end in F32, where the halves of two neighbouring values are those values: the sizes are free values then (log 6, log 47). -/
def Pass.diceBicubic (ps : Pass) : Nat → Piece → List Diced
  | n, p =>
    let nu := ps.sideCount p 8 (longest ((List.range 4).map fun r => ps.lineLen p (meshLine true r)))
    let nv := ps.sideCount p 9 (longest ((List.range 4).map fun r => ps.lineLen p (meshLine false r)))
    match n with
    | 0 => [⟨p, if nu > 16 then 2 + p.free 10 % 15 else nu, if nv > 16 then 2 + p.free 11 % 15 else nv⟩]
    | n + 1 =>
      if nu > 16 then let h := p.halve true; ps.diceBicubic n h.1 ++ ps.diceBicubic n h.2
      else if nv > 16 then let h := p.halve false; ps.diceBicubic n h.1 ++ ps.diceBicubic n h.2
      else [⟨p, nu, nv⟩]

/-- The grids of a part of a patch. -/
def Pass.dice (ps : Pass) (tri : Bool) (p : Piece) : List Diced :=
  if tri then
    let n := min 16 (ps.sideCount p 8 (longest (triEdges.map (ps.lineLen p))))
    [⟨p, n, n⟩]
  else ps.diceBicubic (uvBits - 8) p

/-- A bound of a part as F32. -/
def boundF32 (x : Nat) : Nat := f32OfInt x uvBits

/-! ### Vertices and samples (R330, R334) -/

/-- A vertex of a grid. -/
structure Vertex where
  x0 : Nat
  y0 : Nat
  x1 : Nat
  y1 : Nat
  z : Nat
  rgba : List Nat
  coc : Nat
  disc : Bool
  deriving DecidableEq, Repr

def Vertex.ofBytes (b : List Byte) : Vertex :=
  { x0 := w32 b 0, y0 := w32 b 4, x1 := w32 b 8, y1 := w32 b 12, z := w32 b 16
    rgba := (List.range 4).map fun c => bits (w64 b 20) (16 * c) 16
    coc := (fpToFp fmtF16 fmtF32 0 false (bits (w32 b 28) 0 16)).bits, disc := bitAt (w32 b 28) 16 }

/-- (b + 0.5) / 256. -/
def patValue (b : Nat) : Nat := f32OfInt (2 * b + 1 : Nat) 9

/-- Snap to 1/256 pixel, ties to even, in units of 1/512 pixel; `none` for what is no finite number. -/
def snap (x : Nat) : Option Int :=
  match unpack fmtF32 x with
  | .fin n m e => some (2 * (roundToInt 0 n m (e + 8)).1)
  | _ => none

/-- Where pattern entry `e` places a vertex. -/
def Pass.placeVertex (ps : Pass) (e : Nat) (v : Vertex) : Option (Int × Int) :=
  let tt := patValue (ps.pattern (5 * e + 2))
  let lens (b : Nat) : Nat := fsub (fmul f32Two (patValue b)) f32One
  let at_ (a b l : Nat) : Option Int := snap (fadd (fadd a (fmul tt (fsub b a))) (fmul v.coc (lens l)))
  match at_ v.x0 v.x1 (ps.pattern (5 * e + 3)), at_ v.y0 v.y1 (ps.pattern (5 * e + 4)) with
  | some x, some y => some (x, y)
  | _, _ => none

/-! ### Coverage and interpolation (R335) -/

def crossZ (a b c : Int × Int) : Int := (b.1 - a.1) * (c.2 - a.2) - (b.2 - a.2) * (c.1 - a.1)

/-- With y down and a positive area, an edge from `a` to `b` is top or left. -/
def edgeKept (a b : Int × Int) : Bool := b.2 < a.2 || (b.2 == a.2 && a.1 < b.1)

/-- The weights of a triangle's vertices at a point it covers, and twice its area. -/
def cover (a b c p : Int × Int) : Option (List Int × Int) :=
  let area := crossZ a b c
  if area = 0 then none else
  let flip : Bool := area < 0
  let (b', c') := if flip then (c, b) else (b, c)
  let inside (q r : Int × Int) (w : Int) : Bool := w > 0 || (w == 0 && edgeKept q r)
  let wa := crossZ b' c' p
  let wb := crossZ c' a p
  let wc := crossZ a b' p
  if inside b' c' wa && inside c' a wb && inside a b' wc then
    some (if flip then [wa, wc, wb] else [wa, wb, wc], area.natAbs)
  else none

/-- A weighted mean of values in a format, rounded once: a NaN gives the canonical NaN, an infinity of nonzero weight
stays, infinities of both signs give a NaN. -/
def interp (f : Fmt) (vals : List Nat) (ws : List Int) (area : Int) : Nat :=
  let ns := vals.map (unpack f)
  let inf (neg : Bool) : Bool := (ns.zip ws).any fun x => x.2 != 0 && x.1 == .inf neg
  if ns.any (·.isNan) then f.nanBits
  else if inf false && inf true then f.nanBits
  else if inf false then f.infBits
  else if inf true then signed f true f.infBits
  else
    let lo : Int := f.emin - f.fracBits
    let sum := (ns.zip ws).foldl (fun (t : Int) x => t + x.2 * (match x.1 with
      | .fin n m e => mantAt n m e lo
      | _ => 0)) 0
    (roundFrac f 0 (sum < 0) sum.natAbs area.natAbs lo).bits

/-- DFUNC: the new depth passes against the stored one. -/
def Pass.depthPass (ps : Pass) (new old : Nat) : Bool :=
  match ps.dfunc, fpOrder fmtF32 new old with
  | 2, _ => true
  | 0, some .lt => true
  | 1, some .lt => true
  | 1, some .eq => true
  | _, _ => false

/-! ### A tile's samples (R333) -/

/-- Colours and depths of a tile's samples while a grid is sampled. -/
structure Samples where
  colour : Array (List Nat)
  depth : Array Nat

def Pass.sampleCount (ps : Pass) : Nat := ps.edge * ps.edge * ps.samples

def Pass.loadSamples (ps : Pass) (k : Nat) : Samples :=
  let n := ps.sampleCount
  { colour := ((List.range n).map fun i =>
      let w := leNat (ps.slotRead k (8 * i) 8)
      (List.range 4).map fun c => bits w (16 * c) 16).toArray
    depth := ((List.range n).map fun i => leNat (ps.slotRead k (8 * n + 4 * i) 4)).toArray }

/-- The cells of a slot that hold the samples; what lies beyond them stays. -/
def Pass.storeSamples (ps : Pass) (k : Nat) (x : Samples) : Pass :=
  let n := ps.sampleCount
  let bs := (List.range n).flatMap (fun i => leBytes (((x.colour.getD i []).zipIdx).foldl (fun w c => w + c.1 * 2 ^ (16 * c.2)) 0) 8)
    ++ (List.range n).flatMap fun i => leBytes (x.depth.getD i 0) 4
  let cells : List Host.Cell := (bs.zipIdx).filterMap fun (b, a) =>
    let d := b ^^^ ps.clearByte a
    if d = 0 then none else some (a, d)
  { ps with tiles := updAt ps.tiles k fun t => { t with cells := cells ++ t.cells.filter fun c => ps.slotUsed ≤ c.1 } }

/-- Which pixels a triangle can cover: a range of pixels, cut to the tile's. -/
def pixelSpan (lo hi : Int) (first edge : Nat) : List Nat :=
  let a := max (first : Int) ((lo - 511) / 512)
  let b := min (first + edge - 1 : Int) (hi / 512)
  (List.range (b + 1 - a).toNat).map fun (i : Nat) => (a + (i : Int)).toNat

/-- Write a covered sample when its depth passes. -/
def Pass.shadeSample (ps : Pass) (x : Samples) (n : Nat) (z : Nat) (rgba : Unit → List Nat) : Samples :=
  if ps.depthPass z (x.depth.getD n 0) then { colour := x.colour.setIfInBounds n (rgba ()), depth := x.depth.setIfInBounds n z }
  else x

/-- Sample one triangle at the pixels whose samples take pattern entry `e`. A triangle with a position that is no finite
number covers what the free values from `k` on say (log 6). -/
def Pass.sampleTri (ps : Pass) (ox oy e k : Nat) (pos : List (Option (Int × Int))) (vs : List Vertex) (x : Samples) : Samples :=
  let s := ps.samples
  let visit (px py : Nat) (x : Samples) (f : Nat → Int × Int → Samples → Samples) : Samples :=
    (List.range s).foldl (fun x i =>
      if (i + px + 2 * py + ps.seed) % s = e then
        f (((py - oy) * ps.edge + (px - ox)) * s + i)
          (512 * px + 2 * ps.pattern (5 * i) + 1, 512 * py + 2 * ps.pattern (5 * i + 1) + 1) x
      else x) x
  match pos with
  | [some a, some b, some c] =>
    let xs := [a.1, b.1, c.1]
    let ys := [a.2, b.2, c.2]
    (pixelSpan (listMin ys) (listMax ys) oy ps.edge).foldl (fun x py =>
      (pixelSpan (listMin xs) (listMax xs) ox ps.edge).foldl (fun x px =>
        visit px py x fun n p x => match cover a b c p with
          | none => x
          | some (ws, area) =>
            ps.shadeSample x n (interp fmtF32 (vs.map (·.z)) ws area) fun _ =>
              (List.range 4).map fun ch => interp fmtF16 (vs.map fun v => v.rgba.getD ch 0) ws area) x) x
  | _ =>
    (List.range ps.edge).foldl (fun x dy => (List.range ps.edge).foldl (fun x dx =>
      visit (ox + dx) (oy + dy) x fun n _ x =>
        let j := k + 8 * n
        if Config.freeNat j % 2 = 0 then x
        else ps.shadeSample x n (Config.freeNat (j + 1) % 2 ^ 32) fun _ =>
          (List.range 4).map fun c => Config.freeNat (j + 2 + c) % 2 ^ 16) x) x

/-! ### A grid (R335) -/

/-- Free values that a grid may use. -/
def gridFree : Nat := 2 ^ 40

/-- The corners of micropolygon (i, j), counterclockwise in grid order. -/
def quadOf (nu i j : Nat) : List Nat := [j * nu + i, j * nu + i + 1, (j + 1) * nu + i + 1, (j + 1) * nu + i]

/-- Micropolygons of a grid in row-major order that no discarded vertex drops. -/
def gridQuads (nu nv : Nat) (vs : Array Vertex) : List (List Nat) :=
  let all := (List.range (nv - 1)).flatMap fun j => (List.range (nu - 1)).map fun i => quadOf nu i j
  all.filter fun q => !q.any fun n => (vs[n]?).any (·.disc)

/-- A vertex lies outside a box at shutter open or close. -/
def outside (b : Box) (v : Vertex) : Bool :=
  let out (x : Nat) (lo hi : Int) : Bool := f32Nan x || f32Pos x < lo || hi < f32Pos x
  [v.x0, v.x1].any (out · (b.getD 0 0) (b.getD 1 0)) || [v.y0, v.y1].any (out · (b.getD 2 0) (b.getD 3 0))

/-- Sample a grid into tile `k`, whose first pixel is (ox, oy): the pass, and micropolygons counted in LOST. -/
def Pass.sampleGrid (ps : Pass) (k ox oy free : Nat) (g : Grid) (b : List Byte) : Pass × Nat :=
  let vs := ((List.range (g.nu * g.nv)).map fun n => Vertex.ofBytes ((b.drop (32 * n)).take 32)).toArray
  let quads := gridQuads g.nu g.nv vs
  let v (n : Nat) : Vertex := (vs[n]?).getD (Vertex.ofBytes [])
  let lost := (quads.filter fun q => q.any fun n => outside g.box (v n)).length
  let x := (List.range ps.samples).foldl (fun x e =>
    let pos := vs.map (ps.placeVertex e)
    let at_ (n : Nat) : Option (Int × Int) := (pos[n]?).getD none
    (quads.zipIdx).foldl (fun x q =>
      [[0, 1, 2], [0, 2, 3]].zipIdx.foldl (fun x t =>
        let ns := t.1.map fun c => q.1.getD c 0
        ps.sampleTri ox oy e (free + (2 * q.2 + t.2) * 2 ^ 20) (ns.map at_) (ns.map v) x) x) x) (ps.loadSamples k)
  (ps.storeSamples k x, lost)

/-! ### Resolve (R339, R440) -/

/-- The exact mean of F16 samples as a resolved channel. -/
def resolveChannel (n8 : Bool) (vals : List Nat) : Nat :=
  let ns := vals.map (unpack fmtF16)
  let pos : Bool := ns.contains (.inf false)
  let neg : Bool := ns.contains (.inf true)
  if ns.any (·.isNan) || (pos && neg) then (if n8 then 0 else fmtF16.nanBits)
  else if pos then (if n8 then 255 else fmtF16.infBits)
  else if neg then (if n8 then 0 else signed fmtF16 true fmtF16.infBits)
  else
    let sum := ns.foldl (fun (t : Int) x => t + (match x with
      | .fin n m e => mantAt n m e (-24)
      | _ => 0)) 0
    let den := vals.length * 2 ^ 24
    if n8 then
      let m := min sum.toNat den
      let q := 255 * m / den
      let r := 2 * (255 * m % den)
      if r > den || (r == den && q % 2 == 1) then q + 1 else q
    else (roundFrac fmtF16 0 (sum < 0) sum.natAbs vals.length (-24)).bits

/-- The bytes of a resolved pixel. -/
def Pass.pixel (ps : Pass) (samples : List (List Nat)) : List Byte :=
  (List.range 4).flatMap fun c =>
    let v := resolveChannel (ps.rtfmt == 1) (samples.map fun s => s.getD c 0)
    leBytes v (if ps.rtfmt = 1 then 1 else 2)

def Pass.pixelBytes (ps : Pass) : Nat := if ps.rtfmt = 1 then 4 else 8

/-- The clear colour of every sample of a pixel. -/
def Pass.clearSamples (ps : Pass) : List (List Nat) :=
  List.replicate ps.samples ((List.range 4).map fun c => bits ps.clearC (16 * c) 16)

end Sys2Proof.Machine
end

