-- ==== Sys2Proof/Machine/Render.lean ====
section
/-! DEFINITION. The steps of a tile's life (12_rendering R328, R329, R331, R332, R335, R337 to R340; 13_memo R349 to R353):
binning, starting or skipping, dicing, sampling, completing and resolving. A tile is named by the target's `id` (its
pass) and `value` (its number). -/

namespace Sys2Proof.Machine

/-! ### Binning (R326, R328, R349, R351) -/

/-- Binning waits on an absent page (R328). -/
def State.parkPass (s : State) (id : Nat) : State := s.updPass id fun p => { p with parked := true }

/-- What a read of a unit gives: data, nothing for a protection outcome, or a wait. -/
inductive Look (α : Type) where
  | got (x : α)
  | bad
  | wait
  deriving DecidableEq, Repr

def State.look (s : State) (p : Pass) (va n : Nat) : State × Look (List Byte) :=
  match s.read8k (.dice p.id) p.ctx va n with
  | (s, .data b) => (s, .got b)
  | (s, .prot) => (s, .bad)
  | (s, .wait) => (s, .wait)

/-- A draw descriptor without a reserved bit and with its counts in range (R348, R349). -/
def drawDescOk (b : List Byte) : Bool :=
  let h := w64 b 8
  let nr := bits h 0 5
  bits h 13 51 == 0 && bits h 5 3 == 0 && bits (w64 b 0x10) 24 40 == 0 && w64 b 0x18 == 0 && bits h 8 5 ≤ 24 && nr ≤ 16
    && (List.range nr).all fun r => let e := w64 b (0x20 + 8 * r); bits e 57 6 == 0 && bits e 0 3 == 0

/-- The two words of a 64-bit value, low first. -/
def twoWords (b : List Byte) : List Word := [BitVec.ofNat 32 (w32 b 0), BitVec.ofNat 32 (w32 b 4)]

/-- Read a version word: what it held when the pass opened, for what is raised since does not count (R349). -/
def State.lookVersion (s : State) (p : Pass) (va : Nat) : State × Look (List Byte) :=
  match s.look p va 8, (({ s with mem := p.mem0 } : State).look p va 8).2 with
  | (s, .got _), .got b => (s, .got b)
  | r, _ => r

/-- The version words of a draw's resources, in ascending order. -/
def State.versions (s : State) (p : Pass) : List Nat → State × Look (List Word)
  | [] => (s, .got [])
  | va :: l =>
    match s.lookVersion p va with
    | (s, .wait) => (s, .wait)
    | (s, .bad) => (s, .bad)
    | (s, .got b) =>
      match s.versions p l with
      | (s, .got ws) => (s, .got (twoWords b ++ ws))
      | r => r

/-- PROGID of a draw's shading program. -/
def State.shadeId (s : State) (p : Pass) (d : Draw) : State × Look (List Word) :=
  match s.look p d.shade 8 with
  | (s, .got nb) =>
    match s.look p ((w64 nb 0 + 0x30) % 2 ^ 64) 8 with
    | (s, .got b) => (s, .got (twoWords b))
    | (s, .bad) => (s, .bad)
    | (s, .wait) => (s, .wait)
  | (s, .bad) => (s, .bad)
  | (s, .wait) => (s, .wait)

/-- The domain key of a pass's signatures (R345). -/
def State.passKey (s : State) (p : Pass) : BitVec 128 := (s.context p.ctx).key

/-- A draw's signature (R349), with PVER, the first word of its descriptor, among the versions; `bad` when it is invalid. -/
def State.drawSig (s : State) (p : Pass) (d : Draw) : State × Look (List Word) :=
  match s.look p d.drawd 256 with
  | (s, .wait) => (s, .wait)
  | (s, .bad) => (s, .bad)
  | (s, .got b) =>
    if !drawDescOk b then (s, .bad) else
    match s.shadeId p d with
    | (s, .wait) => (s, .wait)
    | (s, .bad) => (s, .bad)
    | (s, .got prog) =>
      let vas := ((List.range (bits (w64 b 8) 0 5)).map fun r => w64 b (0x20 + 8 * r)).filter (bitAt · 63)
      match s.versions p (d.drawd :: vas.map canon57) with
      | (s, .wait) => (s, .wait)
      | (s, .bad) => (s, .bad)
      | (s, .got vs) =>
        let consts := ((List.range (bits (w64 b 8) 8 5)).filter fun c => !bitAt (w64 b 0x10) c).map fun c =>
          BitVec.ofNat 32 (w32 b (0xA0 + 4 * c))
        let m := (Mix.init (s.passKey p) 1).absorbAll (prog ++ vs ++ consts)
        (s, .got m.finalise.words)

/-- What binning has found so far. -/
structure Bins where
  tiles : List RTile
  entries : Nat := 0
  culled : Nat := 0
  deriving DecidableEq, Repr

/-- Why binning stops. -/
inductive Halt where
  | wait | full
  deriving DecidableEq, Repr

/-- Tiles that a box touches, ascending. -/
def Pass.touched (p : Pass) (b : Box) : List Nat :=
  (List.range p.tileCount).filter fun k => touches b (k % p.cols * p.edge) (k / p.cols * p.edge) p.edge p.edge

/-- Entries the list area holds (R328). -/
def State.listRoom (s : State) (p : Pass) : Nat := (p.worksz - 65536 - 131072 * (s.passClusters p).length) / 8

/-- The free values of a patch (log 6). -/
def patchFree (p : Pass) (d : Draw) (i : Nat) : Nat := ((p.id + 1) * 2 ^ 32 + d.index) * 2 ^ 33 + i

/-- Append a patch to the lists of the tiles its parts touch. -/
def Bins.add (x : Bins) (p : Pass) (d : Draw) (i room : Nat) (parts : List Piece) : Bins × Option Halt :=
  let ks := parts.flatMap fun q => p.touched (p.box q)
  let x' := { x with entries := x.entries + ks.length }
  if x'.entries > room then (x', some .full)
  else
    let tiles := x.tiles.map fun (t : RTile) => if ks.contains t.k then { t with patches := t.patches ++ [(d.index, i)] } else t
    ({ x' with tiles := tiles }, none)

/-- Bin a draw's patches in order. -/
def State.binPatches (s : State) (p : Pass) (d : Draw) : List Nat → Bins → State × Bins × Option Halt
  | [], x => (s, x, none)
  | i :: l, x =>
    match s.look p ((d.patches + 256 * i) % 2 ^ 64) 256 with
    | (s, .wait) => (s, x, some .wait)
    | (s, .bad) => s.binPatches p d l { x with culled := x.culled + 1 }
    | (s, .got b) =>
      let r := p.pieces d.tri b (patchFree p d i)
      match ({ x with culled := x.culled + r.2 } : Bins).add p d i (s.listRoom p) r.1 with
      | (x, some h) => (s, x, some h)
      | (x, none) => s.binPatches p d l x

/-- Bin every draw in ascending index, with its signature. -/
def State.binDraws (s : State) (p : Pass) : List Draw → Bins → State × List Draw × Bins × Option Halt
  | [], x => (s, [], x, none)
  | d :: l, x =>
    match s.drawSig p d with
    | (s, .wait) => (s, [], x, some .wait)
    | (s, r) =>
      let sig : Option (List Word) := match r with
        | .got ws => some ws
        | _ => none
      let d := { d with sig := sig }
      match s.binPatches p d ((List.range d.count).map (d.first + ·)) x with
      | (s, x, some h) => (s, [], x, some h)
      | (s, x, none) =>
        match s.binDraws p l x with
        | (s, ds, r) => (s, d :: ds, r)

/-- The words of a tile's signature after PKEY (R351); an invalid draw signature enters as four zero words. -/
def tileWords (draws : List Draw) (t : RTile) : List Word :=
  (draws.filter fun d => t.patches.any fun e => e.1 == d.index).flatMap fun d =>
    (d.sig.getD [0, 0, 0, 0]) ++ [BitVec.ofNat 32 d.first, BitVec.ofNat 32 d.count]

/-- The header of the signature buffer; an unreadable one reads as zeros. -/
def State.sigHeader (s : State) (p : Pass) : State × Option (List Byte) :=
  match s.look p p.sigva 64 with
  | (s, .wait) => (s, none)
  | (s, .got b) => (s, some b)
  | (s, .bad) => (s, some (List.replicate 64 0))

def Pass.costVA (p : Pass) (k : Nat) : Nat := (p.sigva + 0x40 + 16 * p.tileCount + 4 * k) % 2 ^ 64
def Pass.entryVA (p : Pass) (k : Nat) : Nat := (p.sigva + 0x40 + 16 * k) % 2 ^ 64
def Pass.mapVA (p : Pass) (k : Nat) : Nat := (p.imapva + 8 * k) % 2 ^ 64

/-- Read, change and write a few bytes; `false` while a page is absent. A protected location stays as it is. -/
def State.change (s : State) (p : Pass) (va n : Nat) (f : Nat → Nat) : State × Bool :=
  match s.look p va n with
  | (s, .wait) => (s, false)
  | (s, .bad) => (s, true)
  | (s, .got b) => s.write8k (.dice p.id) p.ctx va (leBytes (f (leNat b)) n)

/-- Clear VALID of the cost words of some tiles. -/
def State.clearValid (s : State) (p : Pass) : List Nat → State × Bool
  | [] => (s, true)
  | k :: l =>
    match s.change p (p.costVA k) 4 (· % 2 ^ 31) with
    | (s, true) => s.clearValid p l
    | r => r

/-- Bin a pass that is ready (R326, R328, R349, R351): it is binned, fails with 0x06, or parks on an absent page. -/
def State.binPass (s : State) (id : Nat) : State :=
  match s.pass? id with
  | none => s
  | some p =>
    match s.sigHeader p with
    | (s, none) => s.parkPass id
    | (s, some h) =>
      let x : Bins := { tiles := (List.range p.tileCount).map fun k => { k := k, cl := 0 } }
      match s.binDraws p (p.draws |> sortBy fun a b => a.index ≤ b.index) x with
      | (s, _, _, some .wait) => s.parkPass id
      | (s, _, x, some .full) =>
        match s.clearValid p (List.range p.tileCount) with
        | (s, false) => s.parkPass id
        | (s, true) => (s.updPass id fun p => { p with nCulled := x.culled }).rejectPass id 0x06
      | (s, ds, x, none) =>
        let pkey := (List.range 4).map fun i => BitVec.ofNat 32 (w32 h (0x10 + 4 * i))
        let m := (Mix.init (s.passKey p) 0).absorbAll pkey
        s.updPass id fun p => { p with
          draws := ds, binned := true, nCulled := x.culled
          tiles := x.tiles.map fun (t : RTile) => { t with sig := (m.absorbAll (tileWords ds t)).finalise.words } }

/-! ### Tiles and clusters (R332, R340) -/

/-- The cluster a tile belongs to now: its own, or one of those the context still holds. -/
def State.tileOwner (s : State) (p : Pass) (k : Nat) : Option Nat :=
  let cs := s.passClusters p
  let held := cs.filter fun cl => s.serves p.ctx cl
  match cs[k % max 1 cs.length]? with
  | none => none
  | some cl => if held.contains cl then some cl else held[k % max 1 held.length]?

def RTile.inFlight (t : RTile) : Bool := t.phase == .started || t.phase == .diced || t.phase == .complete
def RTile.over (t : RTile) : Bool := t.phase == .done || t.phase == .skipped

/-- A pass has tiles on a cluster that are not over. -/
def State.passOn (s : State) (p : Pass) (cl : Nat) : Bool :=
  !p.finished && p.ready && p.err == 0 &&
    (if p.binned then p.tiles.any fun t => !t.over && (if t.inFlight then t.cl == cl else s.tileOwner p t.k == some cl)
     else (s.passClusters p).contains cl)

/-- The pass a cluster's sampling unit serves: the one that became ready first (R332). -/
def State.serving (s : State) (cl : Nat) : Option Nat :=
  ((s.passes.filter fun p => s.passOn p cl) |> sortBy fun a b =>
    a.readyAt < b.readyAt || (a.readyAt == b.readyAt && a.id ≤ b.id)).head?.map (·.id)

/-- Slots of a cluster that tiles hold. -/
def State.slotsHeld (s : State) (cl : Nat) : List Nat :=
  s.passes.flatMap fun p => p.tiles.filterMap fun t => if t.cl == cl then t.slot else none

/-- A free slot of a cluster for a pass (R332). -/
def State.freeTileSlot (s : State) (p : Pass) (cl : Nat) : Option Nat :=
  let n := min 16 (2 ^ 21 / p.slotBytes) - (s.cluster cl).slotsDown
  (List.range n).find? fun k => !(s.slotsHeld cl).contains k

def State.updTile (s : State) (id k : Nat) (f : RTile → RTile) : State := s.updPass id fun p => { p with tiles := updAt p.tiles k f }

/-- The shading launch of a grid. -/
def State.gridLaunch (s : State) (id k : Nat) (g : Grid) : Option Launch :=
  s.launches.find? fun l => l.cause == .grid id k g.draw g.patch g.gidx

def State.gridShaded (s : State) (id k : Nat) (g : Grid) : Bool := g.fired && (s.gridLaunch id k g).all (·.phase == .done)

/-- The grid's launch failed or was rejected, or it completed without a grid-ready record (R324, R331). -/
def State.gridFailed (s : State) (id k : Nat) (g : Grid) : Bool :=
  g.ready == 3 || (g.fired && (s.gridLaunch id k g).any fun l => !l.failedTeams.isEmpty || (l.phase == .done && l.doneTeams.isEmpty))

/-- The failed grids of a tile, as they stand now. -/
def State.tileFails (s : State) (id : Nat) (t : RTile) : Nat := (t.grids.filter (s.gridFailed id t.k ·)).length

/-- Close a pass whose every tile is resolved or skipped (R324): its failed grids are counted, and the entry of a tile whose
grid failed only after its resolve loses VALID (R352). -/
def State.endPass (s : State) (id : Nat) : State :=
  match s.pass? id with
  | none => s
  | some p =>
    if p.binned && p.err == 0 && !p.finished && p.tiles.all (·.over) then
      match if p.stated then (s, true) else s.clearValid p ((p.tiles.filter fun t => s.tileFails id t != 0).map (·.k)) with
      | (s, false) => s
      | (s, true) =>
        let n := (p.tiles.map (s.tileFails id ·)).sum
        let s := if p.stated then s else s.updPass id fun p => { p with nFail := n }
        ((s.writePass id).updPass id fun p => { p with finished := p.written }).pumpPass id
    else if p.finished || p.err != 0 then s.pumpPass id
    else s

/-! ### Start (R337 steps 1 and 2, R338, R352, R353) -/

/-- A firing of a unit: its s1 is a free value, for it has no tag (log 6). -/
def State.unitFire (s : State) (p : Pass) (va : Nat) (cause : Cause) (image : List Byte) : State :=
  let k := s.free
  (({ s with free := k + 1 } : State).fire p.cmd va cause
    { image := image, s0 := 1, s1 := Config.freeNat k, s2 := 0, count := 0 }).driveGraph p.cmd

/-- The tile record and its two barriers (R338). -/
def Pass.tileRecord (p : Pass) (k now : Nat) : List Byte :=
  let bar := leBytes ({ phase := 0, parr := 1, reload := 1, pgran := 0, err := false, ptime := now % 2 ^ 32 } : TBar).toNat 16
  leBytes (k / p.cols * 2 ^ 16 + k % p.cols) 4 ++ leBytes p.edge 4 ++ leBytes p.samples 4 ++ leBytes p.slotBytes 4
    ++ leBytes (p.frame % 2 ^ 32) 4 ++ List.replicate 12 0 ++ bar ++ bar

/-- A draw that touches the tile has an invalid signature. -/
def Pass.invalid (p : Pass) (t : RTile) : Bool :=
  p.draws.any fun d => d.sig.isNone && t.patches.any fun e => e.1 == d.index

/-- The tile is to be skipped (R352), with its COST; `none` while a page is absent. -/
def State.skipCost (s : State) (p : Pass) (t : RTile) : State × Option (Option Nat) :=
  match s.sigHeader p with
  | (s, none) => (s, none)
  | (s, some h) =>
    match s.look p (p.entryVA t.k) 16 with
    | (s, .wait) => (s, none)
    | (s, e) =>
      match s.look p (p.costVA t.k) 4 with
      | (s, .wait) => (s, none)
      | (s, c) =>
        let skip : Bool := w64 h 0 == 1 && w64 h 8 == 0 && (h.drop 0x20).all (· == 0)
        match e, c with
        | .got e, .got c =>
          let cost := leNat c
          (s, some (if skip && bitAt cost 31 && leNat e == sigNat t.sig && !p.invalid t then some (cost % 2 ^ 31) else none))
        | _, _ => (s, some none)

/-- Skip a tile: its cost is credited and its map word names it as skipped. -/
def State.skipTile (s : State) (p : Pass) (t : RTile) (cl cost : Nat) : State :=
  match s.change p (p.mapVA t.k) 8 (fun m => bits m 8 49 * 256 + 1) with
  | (s, false) => s
  | (s, true) =>
    let s := s.updCluster cl fun c => { c with r := { c.r with cred := c.r.cred + BitVec.ofNat 32 cost } }
    let s := s.updPass p.id fun p => { p with nSkipped := p.nSkipped + 1 }
    (s.updTile p.id t.k fun t => { t with phase := .skipped, cl := cl }).endPass p.id

/-- Give a tile a slot, cleared, and fire the tile program. -/
def State.openTile (s : State) (p : Pass) (k cl : Nat) : State :=
  match s.freeTileSlot p cl with
  | none => s
  | some n =>
    let s := s.updTile p.id k fun t => { t with
      phase := .started, cl := cl, slot := some n, cells := [], bad := [], startClk := (s.cluster cl).r.clk }
    if p.tileprog = 0 then s
    else
      let s := s.unitFire p p.tileprog (.tileProg p.id k) (p.tileRecord k s.time)
      s.updTile p.id k fun t => { t with launch := (s.launches.find? fun l => l.cause == .tileProg p.id k).map (·.id) }

/-- Start tile `k` of a pass. -/
def State.startTile (s : State) (p : Pass) (k : Nat) : State :=
  match s.tileOwner p k with
  | none => s
  | some cl =>
    let t := p.tile k
    let early := p.tiles.any fun u => u.k < k && u.phase == .idle && s.tileOwner p u.k == some cl
    if t.phase != .idle || early || s.serving cl != some p.id then s else
    match s.skipCost p t with
    | (s, none) => s
    | (s, some (some cost)) => s.skipTile p t cl cost
    | (s, some none) => s.openTile p k cl

/-- TILE_START: the pass's checks, its binning when it is ready, then the tile. -/
def execTileStart (s : State) : Out :=
  let id := s.target.id
  let s := s.pumpPass id
  .next (match s.pass? id with
  | none => s
  | some p =>
    if p.parked || !p.ready || p.finished || p.err != 0 then s else
    let s := if p.binned then s else s.binPass id
    match s.pass? id with
    | some p => if p.binned && !p.parked && s.target.value < p.tiles.length then (s.startTile p s.target.value).endPass id
                else s.endPass id
    | none => s)

/-! ### Dicing (R327 to R329) -/

/-- Put numbers to the grids of a patch, which continue those of its parts before. -/
def gridsFrom (p : Pass) (d : Draw) (i first : Nat) (box : Option Box) (ds : List Diced) : List Grid :=
  (ds.zipIdx).map fun (x, n) =>
    { draw := d.index, patch := i, gidx := first + n, u0 := boundF32 x.piece.u0, u1 := boundF32 x.piece.u1
      v0 := boundF32 x.piece.v0, v1 := boundF32 x.piece.v1, nu := x.nu, nv := x.nv, box := box.getD (p.box x.piece) }

/-- The grids of a patch for a tile: those whose box touches it. -/
def Pass.patchGrids (p : Pass) (d : Draw) (i k : Nat) (b : List Byte) : List Grid :=
  let on (x : Box) : Bool := touches x (k % p.cols * p.edge) (k / p.cols * p.edge) p.edge p.edge
  ((p.pieces d.tri b (patchFree p d i)).1.filter fun q => on (p.box q)).foldl (fun gs q =>
    let ds := p.dice d.tri q
    gs ++ (if d.tri then gridsFrom p d i gs.length (some (p.box q)) ds
      else gridsFrom p d i gs.length none (ds.filter fun x => on (p.box x.piece)))) []

/-- Dicing culls a patch, which counts once however often a tile's list is read (R328). -/
def State.losePatch (s : State) (id : Nat) (e : Nat × Nat) : State := s.updPass id fun p =>
  if p.lostPatches.contains e then p else { p with nCulled := p.nCulled + 1, lostPatches := e :: p.lostPatches }

/-- Dice the patches on a tile's list, in draw order and then in patch order. -/
def State.diceList (s : State) (p : Pass) (k : Nat) : List (Nat × Nat) → State × Option (List Grid)
  | [] => (s, some [])
  | e :: l =>
    match p.draws.find? fun d => d.index == e.1 with
    | none => s.diceList p k l
    | some d =>
      match s.look p ((d.patches + 256 * e.2) % 2 ^ 64) 256 with
      | (s, .wait) => (s, none)
      | (s, .bad) => (s.losePatch p.id e).diceList p k l
      | (s, .got b) =>
        match s.diceList p k l with
        | (s, some gs) => (s, some (p.patchGrids d e.2 k b ++ gs))
        | r => r

/-- Vertex arrays of a cluster that grids of the pass hold. -/
def Pass.arraysHeld (p : Pass) (cl : Nat) : List Nat :=
  p.tiles.flatMap fun t => if t.cl == cl then t.grids.filterMap (·.array) else []

/-- The grid record (R329). -/
def State.gridRecord (s : State) (p : Pass) (cl k : Nat) (d : Draw) (g : Grid) (a : Nat) : List Byte :=
  leBytes ((d.patches + 256 * g.patch) % 2 ^ 64) 8 ++ leBytes (s.arrayVA p cl a) 8
    ++ [g.u0, g.u1, g.v0, g.v1, (if d.tri then 256 else 0) + (g.nv - 1) * 16 + (g.nu - 1), g.draw, g.patch, g.gidx
      , k / p.cols * 2 ^ 16 + k % p.cols, 0].flatMap (leBytes · 4)
    ++ leBytes d.drawd 8

def Grid.isSame (g h : Grid) : Bool := g.draw == h.draw && g.patch == h.patch && g.gidx == h.gidx

def RTile.updGrid (t : RTile) (g : Grid) (f : Grid → Grid) : RTile :=
  { t with grids := t.grids.map fun h => if h.isSame g then f h else h }

/-- Give every waiting grid of a tile a vertex array and fire it, while arrays are free. -/
def State.sendGrids (s : State) (id k : Nat) : List Grid → State
  | [] => s
  | g :: l =>
    match s.pass? id with
    | none => s
    | some p =>
      let cl := (p.tile k).cl
      match (List.range 16).find? fun a => !(p.arraysHeld cl).contains a, p.draws.find? fun d => d.index == g.draw with
      | some a, some d =>
        let s := s.updTile id k (·.updGrid g fun h => { h with array := some a, fired := true })
        let s := s.unitFire p d.shade (.grid id k g.draw g.patch g.gidx) (s.gridRecord p cl k d g a)
        s.sendGrids id k l
      | _, _ => s

/-- The dicing unit of a cluster waits on an absent page, and its other tiles of the pass with it (R328). -/
def State.parkDicing (s : State) (id cl : Nat) : State := s.updPass id fun p => { p with parkedCl := cl :: p.parkedCl }

/-- DICE_TILE: dice the tile's patches once, then send grids as arrays are free. -/
def execDiceTile (s : State) : Out :=
  let id := s.target.id
  let k := s.target.value
  .next (match s.pass? id with
  | none => s
  | some p =>
    let t := p.tile k
    if p.parked || p.parkedCl.contains t.cl || !t.bad.isEmpty then s
    else if t.phase == .started then
      match s.diceList p k t.patches with
      | (s, none) => s.parkDicing id t.cl
      | (s, some gs) => (s.updTile id k fun t => { t with phase := .diced, grids := gs }).sendGrids id k gs
    else if t.phase == .diced then s.sendGrids id k (t.grids.filter (!·.fired))
    else s)

/-! ### Sampling (R331, R335) -/

/-- Take a grid off: it is sampled and its array is free. -/
def State.closeGrid (s : State) (id k : Nat) (g : Grid) (ready : Nat) : State :=
  (s.updTile id k (·.updGrid g fun h => { h with sampled := true, array := none, ready := ready })).updPass id fun p =>
    { p with nGrids := p.nGrids + 1 }

/-- Sample the next grid of a tile, when it is ready. -/
def State.sampleNext (s : State) (id k : Nat) : State :=
  match s.pass? id with
  | none => s
  | some p =>
    match (p.tile k).grids.find? (!·.sampled) with
    | none => s
    | some g =>
      if g.ready = 0 then (if s.gridShaded id k g then s.closeGrid id k g 3 else s)
      else if g.ready = 1 then
        match s.look p (s.arrayVA p (p.tile k).cl (g.array.getD 0)) (32 * g.nu * g.nv) with
        | (s, .wait) => s
        | (s, .bad) => s.closeGrid id k g g.ready
        | (s, .got b) =>
          let free := s.free
          let s := s.updPass id fun p =>
            let r := p.sampleGrid k (k % p.cols * p.edge) (k / p.cols * p.edge) free g b
            { r.1 with nLost := r.1.nLost + r.2 }
          ({ s with free := free + gridFree } : State).closeGrid id k g g.ready
      else s.closeGrid id k g g.ready

/-- GRID_SAMPLE. -/
def execGridSample (s : State) : Out :=
  let id := s.target.id
  let k := s.target.value
  .next (match s.pass? id with
  | some p => if (p.tile k).phase == .diced && (p.tile k).bad.isEmpty then s.sampleNext id k else s
  | none => s)

/-! ### Tile complete and resolve (R337 steps 4 to 7, R339, R340) -/

/-- The team of a tile's program, while it is there. -/
def State.tileTeam (s : State) (t : RTile) : Option Team :=
  t.launch.bind fun l => s.teams.find? fun u => u.launch == l && u.place != .gone

def State.tileProgDone (s : State) (t : RTile) : Bool :=
  match t.launch.bind s.launch? with
  | some l => l.phase == .done
  | none => true

/-- No further sample write comes to a tile: every grid is sampled, or the slot is in error (R337, R340). -/
def RTile.samplesDone (t : RTile) : Bool :=
  if t.bad.isEmpty then t.phase == .diced && t.grids.all (·.sampled) else t.phase == .started || t.phase == .diced

/-- TILE_COMPLETE: Seif arrives at the tile-complete barrier after the last sample write. -/
def execTileComplete (s : State) : Out :=
  let id := s.target.id
  let k := s.target.value
  .next (match s.pass? id with
  | none => s
  | some p =>
    let t := p.tile k
    if !t.samplesDone then s else
    let close (s : State) : State := s.updTile id k fun t => { t with phase := .complete }
    if s.tileProgDone t then close s
    else match s.tileTeam t with
    | none => s
    | some u =>
      if u.at?.isNone then s
      else if u.killed || u.draining then close s
      else close (s.tbUpdate u.id 0x20 (-1) 0))

/-- Resolve may start: the tile's team has completed, its drain included, or there is none; or its resolve barrier has changed
phase (R9, R339). -/
def State.mayResolve (s : State) (t : RTile) : Bool :=
  s.tileProgDone t || (s.tileTeam t).any fun u => (s.tbar u.id 0x30).phase != 0

/-- Write the tile's pixels, row by row. -/
def State.writePixels (s : State) (p : Pass) (k : Nat) (abandoned : Bool) : List Nat → State × Bool
  | [] => (s, true)
  | y :: l =>
    let px := k % p.cols * p.edge
    let py := k / p.cols * p.edge + y
    if py ≥ p.height then (s, true) else
    let n := min p.edge (p.width - px)
    let bs := (List.range n).flatMap fun x => p.pixel (if abandoned then p.clearSamples else
      (List.range p.samples).map fun i =>
        let w := leNat (p.slotRead k (8 * ((y * p.edge + x) * p.samples + i)) 8)
        (List.range 4).map fun c => bits w (16 * c) 16)
    match s.write8k (.dice p.id) p.ctx ((p.rtva + (py * p.width + px) * p.pixelBytes) % 2 ^ 64) bs with
    | (s, true) => s.writePixels p k abandoned l
    | r => r

/-- Write the tile's signature entry (R352) and its map word (R353). -/
def State.writeEntry (s : State) (p : Pass) (t : RTile) (abandoned : Bool) (cost : Nat) : State × Bool :=
  let w := Waiter.dice p.id
  let sig := if abandoned then s.change p (p.costVA t.k) 4 (· % 2 ^ 31)
    else match s.write8k w p.ctx (p.entryVA t.k) (leBytes (sigNat t.sig) 16) with
    | (s, false) => (s, false)
    | (s, true) =>
      let valid := if s.tileFails p.id t != 0 || p.invalid t then 0 else 2 ^ 31
      s.write8k w p.ctx (p.costVA t.k) (leBytes (valid + min cost (2 ^ 31 - 1)) 4)
  match sig with
  | (s, false) => (s, false)
  | (s, true) => s.write8k w p.ctx (p.mapVA t.k) (leBytes (bits p.rtva 8 49 * 256) 8)

/-- Free the slot of a tile that is over, once its program's team has completed. -/
def State.freeTile (s : State) (id k : Nat) : State :=
  match s.pass? id with
  | none => s
  | some p => if (p.tile k).phase == .done && s.tileProgDone (p.tile k) then s.updTile id k fun t => { t with slot := none, cells := [] }
              else s

/-- Resolve a tile, or abandon it for an uncorrectable error in its slot (R340). -/
def State.resolveTile (s : State) (id k : Nat) (abandoned : Bool) : State :=
  match s.pass? id with
  | none => s
  | some p =>
    let t := p.tile k
    match s.writePixels p k abandoned (List.range p.edge) with
    | (s, false) => s
    | (s, true) =>
      match s.writeEntry p t abandoned ((s.cluster t.cl).r.clk - t.startClk) with
      | (s, false) => s
      | (s, true) =>
        let s := s.updTile id k fun t => { t with
          phase := .done, grids := t.grids.map fun (g : Grid) => { g with array := none } }
        let s := s.updPass id fun p =>
          if abandoned then { p with nErr := p.nErr + 1 } else { p with nTiles := p.nTiles + 1 }
        (s.freeTile id k).endPass id

/-- TILE_RESOLVE; for a tile that is over it frees the slot, and it closes the pass. -/
def execTileResolve (s : State) : Out :=
  let id := s.target.id
  let k := s.target.value
  .next (match s.pass? id with
  | none => s
  | some p =>
    let t := p.tile k
    if t.phase == .complete && (!t.bad.isEmpty || s.mayResolve t) then s.resolveTile id k !t.bad.isEmpty
    else (s.freeTile id k).endPass id)

end Sys2Proof.Machine
end

