-- ==== Sys2Proof/Machine/Special.lean ====
section
/-! DEFINITION. Special registers and SPRW (04_encoding R90 to R94; 14_interrupted R383, R385; 03_placed R68, R74, R76), the
store-fault queue's pop (R93, R218), and TCTL (14_interrupted R393, R394). -/

namespace Sys2Proof.Machine

/-! ### Names (R90, R91, R94) -/

/-- Assigned identifiers. -/
def srAssigned (id : Nat) : Bool :=
  id ≤ 0x0B || (0x10 ≤ id && id ≤ 0x13) || (0x18 ≤ id && id ≤ 0x1C) || (0x20 ≤ id && id ≤ 0x26) || id == 0x28 || id == 0x29
    || (0x30 ≤ id && id ≤ 0x32) || id == 0x34 || id == 0x35 || (0x38 ≤ id && id ≤ 0x3A)
    || (0x80 ≤ id && id ≤ 0x82) || (0x84 ≤ id && id ≤ 0x86) || (0x88 ≤ id && id ≤ 0x8A) || id == 0x8C || id == 0x8D
    || id == 0x90 || id == 0x91 || (0x94 ≤ id && id ≤ 0x96) || (0x98 ≤ id && id ≤ 0x9A)

/-- Registers held per thread that software writes. -/
def srPerThread (id : Nat) : Bool :=
  [0x10, 0x18, 0x19, 0x1A, 0x1B, 0x1C, 0x24, 0x25, 0x26, 0x34, 0x35, 0x3A].contains id

/-! ### Reading -/

/-- A 64-bit register that a pair of identifiers names. Every cluster reads the one count as sr.time: of the skew between
clusters that R6 allows, 0 to 2 ns, the model takes 0 (log 69). -/
def State.srPair (s : State) (c : Ctx) (id : Nat) : Nat :=
  match id with
  | 0x06 => ((s.launch? c.t.launch).map (·.number)).getD 0
  | 0x08 => s.time
  | 0x0A => (s.cluster c.iss.cl).r.clk
  | 0x24 => c.th.tret.toNat
  | 0x38 => c.th.tls.toNat
  | 0x94 => (s.timer.corr % (2 ^ 64 : Int)).toNat
  | _ => (s.core c.iss.cl c.iss.co).troot.toNat

def srLow (id : Nat) : Bool := [0x06, 0x08, 0x0A, 0x24, 0x38, 0x94, 0x98].contains id
def srHigh (id : Nat) : Bool := [0x07, 0x09, 0x0B, 0x25, 0x39, 0x95, 0x99].contains id

/-- Word `k` of a queue's register block (R34). -/
def Queue.word (q : Queue) (k : Nat) : Nat :=
  match k with
  | 0 => q.base.toNat % 2 ^ 32
  | 1 => q.base.toNat / 2 ^ 32
  | 2 => (if q.en then 2 ^ 31 else 0) + (if q.priv then 2 ^ 30 else 0) + q.ctx * 2 ^ 16 + q.log
  | 4 => q.prod.toNat
  | 5 => q.cons.toNat
  | 6 => if q.halt then 2 ^ 31 + q.err else 0
  | _ => 0

/-- The registers of one word. Write-only fields read as zero (R8). -/
def State.srWord (s : State) (c : Ctx) (id : Nat) : Nat :=
  let th := c.th
  let wp := c.wp
  let cl := s.cluster c.iss.cl
  let r := cl.r
  let k := s.core c.iss.cl c.iss.co
  match id with
  | 0x00 => if s.isProtected c.t then c.l / 2 else c.l
  | 0x01 => c.w
  | 0x02 => c.t.index
  | 0x03 => c.t.index / max 1 c.t.prog.cohort
  | 0x04 => c.iss.co
  | 0x05 => c.iss.cl
  | 0x10 => th.mr.toNat
  | 0x11 => wp.part
  | 0x12 => th.rsd
  | 0x13 => wp.mto
  | 0x18 => th.fpst.toNat
  | 0x19 => th.fpctl.toNat
  | 0x1A => th.ist.toNat
  | 0x1B => if th.perm then 1 else 0
  | 0x1C => th.mxst.toNat
  | 0x20 => th.tinfo0.toNat
  | 0x21 => th.tinfo1.toNat
  | 0x22 => th.tinfo2.toNat
  | 0x23 => th.tinfo3.toNat
  | 0x26 => th.tsub.toNat
  | 0x29 => c.t.sfq.length
  | 0x30 => wp.decl
  | 0x31 => wp.lost * 2 ^ 16 + wp.meas
  | 0x32 => min 4194303 (wp.boostExp - s.time) * 2 ^ 10 + wp.boostLive s.time
  | 0x34 => th.sidel.toNat
  | 0x35 => th.sidex.toNat
  | 0x3A => th.swapt.toNat
  | 0x80 => r.rampCur * 2 ^ 24 + r.rampCeil * 2 ^ 16 + r.rampStep * 2 ^ 8 + r.rampInit
  | 0x81 => r.pass
  | 0x82 => (if k.lresOff then 2 ^ 31 else 0) + k.lresReserve
  | 0x84 => (if cl.busy then 2 ^ 31 else 0) + r.ratio
  | 0x85 => cl.freq * 2 ^ 16 + r.step
  | 0x86 => cl.gate.code * 2 ^ 30 + if cl.refused then 2 ^ 29 else 0
  | 0x88 => (if r.dthrEn then 2 ^ 31 else 0) + r.acnt * 2 ^ 8 + r.thr
  | 0x89 => r.str
  | 0x8A => r.half
  | 0x8C => (if s.gbudEn then 2 ^ 31 else 0) + s.gbudWatt
  | 0x8D => r.cred.toNat
  | 0x90 => k.qsel.toNat
  | 0x91 => (s.queues.getD (bits k.qsel.toNat 0 6) {}).word (bits k.qsel.toNat 8 4)
  | 0x96 => (if s.timer.lock then 2 ^ 31 else 0) + s.timer.src * 2 ^ 28 + (s.timer.offs % 65536).toNat
  | 0x9A => k.ctx
  | _ => 0

/-- Set the latch of R92 where the read is made: in class 0 in every live thread (log 13). -/
def State.setLatch (s : State) (c : Ctx) (x : Nat) : State :=
  (c.iss.lanes c.t (c.w, c.l)).foldl (fun s m => s.updThread c.t.id m.1 m.2 fun th =>
    { th with latch := BitVec.ofNat 32 (x / 2 ^ 32) }) s

/-- Read a special register. -/
def State.readSr (s : State) (c : Ctx) (id : Nat) : State × Word :=
  if srHigh id then (s, c.th.latch)
  else if srLow id then
    let x := s.srPair c id
    (s.setLatch c x, BitVec.ofNat 32 x)
  else
    (s, BitVec.ofNat 32 (s.srWord c id))

/-! ### Writing -/

/-- A value that a field refuses with a trap (R93, R383). -/
def srBad (c : Ctx) (id x : Nat) : Option Nat :=
  match id with
  | 0x10 => mrCheck (BitVec.ofNat 32 x)
  | 0x11 => if bits x 0 3 ≥ 5 then some 0x04 else none
  | 0x24 => if x % 4 ≠ 0 then some 0x09 else none
  | 0x28 => if bits x 0 18 % 16 ≠ 0 then some 0x09 else if bits x 0 18 + 32 > c.t.prog.scratch then some 0x0A else none
  | 0x34 => if bits x 18 5 > 16 then some 0x04 else if bits x 0 18 % 8 ≠ 0 then some 0x09 else none
  | _ => none

/-- A write of one half of sr.tret: the next RTT resumes at the header it names (R383). -/
def Thread.setTret (th : Thread) (high : Bool) (x : Word) : Thread :=
  let lo := th.tret.extractLsb' 0 32
  let hi := th.tret.extractLsb' 32 32
  { th with tret := if high then x ++ lo else hi ++ x, tretWritten := true }

/-- A write of a register held per thread. -/
def Thread.setSr (th : Thread) (id : Nat) (x : Word) : Thread :=
  match id with
  | 0x18 => { th with fpst := x.extractLsb' 0 5 }
  | 0x19 => { th with fpctl := x.extractLsb' 0 8 }
  | 0x1A => { th with ist := x.extractLsb' 0 3 }
  | 0x1B => { th with perm := x.getLsbD 0 }
  | 0x1C => { th with mxst := x.extractLsb' 0 5 }
  | 0x24 => th.setTret false x
  | 0x25 => th.setTret true x
  | 0x26 => { th with tsub := x }
  | 0x34 => { th with sidel := x &&& 0x807FFFFF#32 }
  | 0x35 => { th with sidex := x.extractLsb' 0 16 }
  | 0x3A => { th with swapt := x.extractLsb' 0 24 }
  | _ => th

/-- The 32 bytes of a store-fault record (R218). -/
def SfRecord.bytes (r : SfRecord) (team : Nat) : List Byte :=
  leBytes r.va 8 ++ leBytes r.pc 8
    ++ leBytes (team % 2 ^ 32 * 2 ^ 32 + 0x0C * 2 ^ 24 + r.width % 8 * 2 ^ 20 + r.word % 16 * 2 ^ 16 + r.warp % 32 * 2 ^ 5 + r.lane % 32) 8
    ++ leBytes r.data 8

/-- Pop the oldest store-fault record into the scratchpad (R93). -/
def State.popSf (s : State) (tm dest : Nat) : State :=
  match s.team? tm with
  | none => s
  | some t =>
    match t.sfq with
    | [] => s
    | r :: rs => (s.updTeam tm fun t =>
        { t with sfq := rs, owed := if r.delivered then t.owed else t.owed ++ [r] }).writeScratch tm dest (r.bytes t.index)

/-- A write of sr.ramp, which takes effect at the next window (R54). -/
def Cluster.writeRamp (c : Cluster) (v : Nat) : Cluster :=
  let ceil := bits v 16 8
  let init := bits v 0 8
  if init = 0 ∨ ceil = 0 ∨ init > ceil then c else { c with rampNext := some (ceil, bits v 8 8, init) }

/-- The registers held per cluster that take a plain write. -/
def Cluster.writeSr (c : Cluster) (id v now : Nat) : Cluster :=
  match id with
  | 0x80 => c.writeRamp v
  | 0x81 => if bits v 0 2 = 3 then c else { c with r := { c.r with pass := bits v 0 2 } }
  | 0x84 => c.writeConv v now
  | 0x88 => { c with r := { c.r with dthrEn := bitAt v 31, thr := max 8 (min 120 (bits v 0 8)) } }
  | 0x89 => { c with r := { c.r with str := max 1 (bits v 0 4) } }
  | 0x8A => { c with r := { c.r with half := bits v 0 12 } }
  | _ => c

/-- The registers held per core. sr.lres reads its old value until the activation step at which the write takes effect
(R74; log 70). -/
def Core.writeSr (k : Core) (id : Nat) (v : Word) : Core :=
  match id with
  | 0x82 => { k with lresNext := some (v.getLsbD 31, bits v.toNat 0 12) }
  | 0x90 => { k with qsel := v &&& 0xF3F#32 }
  | 0x98 => { k with trootLow := v }
  | 0x99 => { k with troot := v ++ k.trootLow }
  | 0x9A => { k with ctx := bits v.toNat 0 8 }
  | _ => k

/-- Write a special register; read-only ones ignore it. -/
def State.writeSr (s : State) (c : Ctx) (id : Nat) (x : Word) : State :=
  let cl := c.iss.cl
  let co := c.iss.co
  if id = 0x10 then s.setMr c.t.id (c.iss.lanes c.t (c.w, c.l)) x
  else if srPerThread id then
    (c.iss.lanes c.t (c.w, c.l)).foldl (fun s m => s.updThread c.t.id m.1 m.2 fun th => th.setSr id x) s
  else match id with
  | 0x11 => s.updWarp c.t.id c.w fun wp => { wp with part := bits x.toNat 0 3 }
  | 0x13 => s.updWarp c.t.id c.w fun wp => { wp with mto := max 64 (bits x.toNat 0 20) }
  | 0x28 => s.popSf c.t.id (bits x.toNat 0 18)
  | 0x30 => s.updWarp c.t.id c.w fun wp => { wp with decl := bits x.toNat 0 10 }
  | 0x85 => s.writeStep cl x.toNat
  | 0x86 => s.writePgate cl x.toNat
  | 0x8C => s.writeGbud x.toNat
  | 0x91 =>
    let q := (s.core cl co).qsel.toNat
    s.updQueue (bits q 0 6) fun u => u.write32 (4 * bits q 8 4) x.toNat
  | 0x94 => s.stageToff x
  | 0x95 => s.writeToff x
  | 0x96 => s.writeTsync x.toNat
  | _ => (s.updCluster cl fun c => c.writeSr id x.toNat s.time).updCore cl co fun k => k.writeSr id x

/-- The write that arrives at gating and no other (R409). -/
def isOffWrite (id : Nat) (x : Word) : Bool := id == 0x86 && x.getLsbD 1 && !x.getLsbD 0 && !x.getLsbD 2

/-- An agent's warp arrives at gating: it stands at the word after its write and issues nothing until the request ends. -/
def State.offWrite (s : State) (c : Ctx) (x : Word) : State :=
  let ms := c.iss.lanes c.t (c.w, c.l)
  let s := s.writePgate c.iss.cl x.toNat
  let s := ms.foldl (fun s m => s.advance c.t.id m.1 m.2 1) s
  let s := ms.foldl (fun s m => (s.unbundle c.t.id m.1 m.2).updThread c.t.id m.1 m.2 fun th => th.park s.time .gated) s
  s.arriveGate c.iss.cl c.iss.co

/-- SPRW's action in one thread, or once for the warp. A pop of the store-fault queue writes the scratchpad, and waits as a
scratchpad store of the thread does (R276, R449). -/
def sprwAct (wr : Bool) (o : Opnd) (id : Nat) (s : State) (c : Ctx) : State × LaneRes :=
  if wr then
    let x := c.rd o
    if isOffWrite id x then (s.offWrite c x, .moved)
    else match if id = 0x28 then s.writeGate c 0 0 else none with
      | some w => (s, .stay w)
      | none => (s.writeSr c id x, .done)
  else
    match s.readSr c id with
    | (s, x) => (s.updWarp c.t.id c.w fun wp => wp.setCell c.l o.file o.n x .n32, .done)

def execSprw (wr : BitVec 1) (reg : BitVec 7) (id : BitVec 8) (s : State) : Out :=
  withIssue s fun iss =>
    let w := wr == 1
    let n := id.toNat
    let o : Opnd := if w then (iss.reg reg.toNat).src none else (iss.reg reg.toNat).dst
    ({ grp := if w && srPerWarp n then .lease else .ctl, wf := (Instr.sprw wr reg id).wf, past := !srAssigned n
       priv := n ≥ 0x80, os := [o], pure := true } : Form).perform iss
      (fun c => if w then srBad c n (c.rd o).toNat else none) (sprwAct w o n)

/-- STORE_FAULT_POP: a write of sr.sfq with `value` for the target's team; a value that sr.sfq refuses writes nothing. -/
def execStoreFaultPop (s : State) : Out :=
  let d := bits s.target.value 0 18
  .next (match s.team? s.target.team with
  | some t => if d % 16 = 0 ∧ d + 32 ≤ t.prog.scratch then s.popSf t.id d else s
  | none => s)

/-- TRET_WRITE: `value` is written to the half of sr.tret that `id` names (1 for the high half) in the target's thread. -/
def execTretWrite (s : State) : Out :=
  let t := s.target
  .next (if t.id ≠ 1 ∧ t.value % 4 ≠ 0 then s
    else s.updThread t.team t.warp t.lane fun th => th.setTret (t.id == 1) (BitVec.ofNat 32 t.value))

/-! ### TCTL (R393, R394) -/

/-- The team that the registers name. -/
def State.tctlTeam (s : State) (number index ctx : Nat) : Option Team :=
  (s.launches.find? fun l => l.ctx == ctx && l.number == number && l.started).bind fun l =>
    s.teams.find? fun t => t.launch == l.id && t.index == index && t.place != .gone

/-- Take a team out of its cluster's lists. -/
def State.unlist (s : State) (t : Team) : State :=
  let is (k : Ticket) : Bool := k.launch == t.launch && k.first == t.index
  { s with clusters := s.clusters.map fun (c : Cluster) => { c with
      hands := c.hands.filter fun k => !is k, placing := c.placing.filter fun k => !is k, depend := c.depend.filter fun k => !is k
      watch := c.watch.filterMap fun (w : WakeEntry) => w.without s t.id } }

def Team.isSaved (t : Team) : Bool :=
  match t.place with
  | .saved | .swapped _ => true
  | _ => false
def Team.isClaimed (t : Team) : Bool :=
  match t.place with
  | .claimed .. => true
  | _ => false

/-- Give a team a place on the issuing core. -/
def State.tctlPlace (s : State) (t : Team) (cl co : Nat) : State × Nat :=
  match (s.unlist t).give t cl co with
  | none => (s, 1)
  | some s => (s, 0)

/-- An evict begins a save of a team resident on the core, as a pre-emption or as a swap-out; its status, 0 once the save is
under way. -/
def State.tctlEvict (s : State) (swap : Bool) (t : Team) (cl co : Nat) : State × Nat :=
  if t.place != .resident cl co || !t.savable then (s, 2)
  else if swap then
    match s.swapOut t cl with
    | (s, e) => (s, e.status)
  else match s.saveUnit t fun _ => .saved with
    | (s, true) => (s, 0)
    | (s, false) => (s, 3)

/-- What a TCTL form does, with its status. -/
def State.tctl (s : State) (form : Nat) (swap : Bool) (t? : Option Team) (cl co : Nat) : State × Nat :=
  match form, t? with
  | 0, none => (s, 1)
  | _, none => (s, 2)
  | 0, some t => if t.isClaimed then s.tctlPlace t cl co else (s, 1)
  | 1, some t => s.tctlEvict swap t cl co
  | 2, some t => ((s.unlist t).killTeam t.id, 0)
  | _, some t => if t.isSaved && !t.killed then s.tctlPlace t cl co else (s, 2)

/-- A reserved bit of the registers is set; bit 8 of the context word counts for evict alone. -/
def tctlReserved (form : Nat) (ws : List Nat) : Bool :=
  let x := ws.getD 3 0
  x ≥ 512 || (form != 1 && bitAt x 8) || (ws.drop 4).any (· != 0)

/-- The status of an evict is written when the save is complete: until then the agent's warp waits at the word (R394). -/
def State.tctlWaits (s : State) (form : Nat) (t? : Option Team) : Bool :=
  form == 1 && (t?.bind fun t => s.team? t.id).any (·.saving.isSome)

def execTctl (form : BitVec 2) (a : BitVec 9) (s : State) : Out :=
  withIssue s fun iss =>
    let src := uniOpnd a.toNat 7 8
    let dst : Opnd := { file := .uni, n := a.toNat + 7, wr := true }
    ({ grp := .tctl, wf := (Instr.tctl form a).wf, priv := true, coll := true, os := [src, dst] } : Form).performOnce iss
      (fun _ => none) fun s c =>
        let ws := (List.range 7).map fun k => (c.rd src k).toNat
        let x := ws.getD 3 0
        let t := s.tctlTeam (ws.getD 0 0 + 2 ^ 32 * ws.getD 1 0) (ws.getD 2 0) (x % 256)
        let (s, st) := if tctlReserved form.toNat ws then (s, 5)
          else if c.th.sent then (s, 0)
          else s.tctl form.toNat (bitAt x 8) t iss.cl iss.co
        if st == 0 && s.tctlWaits form.toNat t then
          (s.updThread c.t.id c.w c.l fun th => { th with sent := true }, .stay .retry)
        else (s.updWarp c.t.id c.w fun wp => wp.setUni (a.toNat + 7) (BitVec.ofNat 32 st), .done)

end Sys2Proof.Machine
end

