-- ==== Sys2Proof/Machine/Windows.lean ====
section
/-! DEFINITION. The host's windows and what strikes the chip from outside (02_launched R34, R460; 08_memory_paths R213, R228,
R231, R458; 13_memo R362; 14_interrupted R400, R401, R403; 15_power_and_start R421, R422; 10_synchronised R294). -/

namespace Sys2Proof.Machine

/-! ### What the windows read (R34, R213, R362, R403, R422) -/

/-- The word at offset 0x00 of the page-request window. -/
def State.requestWord (s : State) : Nat :=
  match s.requests with
  | [] => 0
  | r :: _ => 2 ^ 63 + r.acc % 4 * 2 ^ 61 + r.ctx % 256 * 2 ^ 45 + r.vpn % 2 ^ 45

/-- Stranded teams of a cluster, saturating at 255 (R392, R403). -/
def State.stranded (s : State) (c : Cluster) : Nat :=
  min 255 ((c.watch.flatMap fun e => if e.fault || e.wake.isSome then [] else (e.team :: e.cohort).eraseDups).filter fun u =>
    (s.team? u).any fun t => match t.place with
      | .swapped _ => true
      | _ => false).length

/-- The health window. -/
def State.healthWord (s : State) (off : Nat) : Nat :=
  let h := s.health
  match off with
  | 0x00 => h.window * 2 ^ 16 + h.thresh
  | 0x08 => ((h.log.head?).map fun e => 2 ^ 63 + e.1.toNat % 2 ^ 63).getD 0
  | 0x10 => h.info.toNat
  | 0x18 => (s.clusters.zipIdx).foldl (fun n (c, k) => n + s.stranded c * 2 ^ (8 * k)) 0
  | 0x20 => h.saveFull
  | 0x28 => h.log.length
  | _ => 0

/-- The start and power window. -/
def State.startWord (s : State) (off : Nat) : Nat :=
  match off with
  | 0x00 => (if s.start.safe then 32 else 0) + s.start.fails % 4 * 8 + s.start.step % 8
  | 0x10 => (s.clusters.zipIdx).foldl (fun n (c, k) => n + c.gate.code * 4 ^ k) 0
  | _ => 0

/-- The 64-bit word at an aligned offset of BAR0. -/
def State.barWord (s : State) (off : Nat) : Nat :=
  if 0x10000 ≤ off ∧ off < 0x11000 then
    let q := s.queues.getD ((off - 0x10000) / 0x40) {}
    let k := off % 0x40 / 4
    q.word k + q.word (k + 1) * 2 ^ 32
  else if off = 0x20000 then s.requestWord
  else if off = 0x20008 then s.ptime
  else if off = 0x20010 then s.requests.length
  else if off = 0x30000 then s.oasis.hits.toNat
  else if off = 0x30008 then s.oasis.misses.toNat
  else if off = 0x30010 then s.oasis.coll.toNat
  else if off = 0x30018 then s.oasis.inserts.toNat
  else if off = 0x30020 then s.oasis.evicts.toNat
  else if 0x40000 ≤ off ∧ off < 0x40030 then s.healthWord (off - 0x40000)
  else if 0x50000 ≤ off ∧ off < 0x50018 then s.startWord (off - 0x50000)
  else 0

/-- What a naturally aligned read of BAR0 returns; a popping word returns zero to a read narrower than 64 bits (R460), and in
safe mode every word outside the start and power window does (R419; log 57). -/
def State.barRead (s : State) (off size : Nat) : Nat :=
  let word := off / 8 * 8
  if (word = 0x20000 ∨ word = 0x40008) ∧ size ≠ 8 then 0
  else if s.start.safe ∧ ¬(0x50000 ≤ off ∧ off < 0x50018) then 0
  else bits (s.barWord word) (8 * (off % 8)) (8 * size)

/-! ### Popping (R213, R403): in safe mode neither window works (R419) -/

/-- PAGE_REQUEST_POP: an aligned 64-bit read of offset 0x00. -/
def execPageRequestPop (s : State) : Out :=
  .next (if s.start.safe then s else match s.requests with
  | [] => s
  | r :: rest => { s with requests := rest, ptime := r.time })

/-- HEALTH_LOG_POP: an aligned 64-bit read of offset 0x08. -/
def execHealthLogPop (s : State) : Out :=
  .next (if s.start.safe then s else match s.health.log with
  | [] => s
  | e :: rest => { s with health := { s.health with log := rest, info := e.2 } })

/-! ### Oasis (R362) -/

/-- A write of the low half of the word at offset 0x28. -/
def State.oasisCommand (s : State) (v : Nat) : State :=
  { s with oasis := s.oasis.invalidate fun e => bitAt v 12 || e.dom == bits v 0 12 }

/-- OASIS_INVALIDATE_ALL. -/
def execOasisInvalidateAll (s : State) : Out := .next (if s.start.safe then s else s.oasisCommand (2 ^ 12))

/-- OASIS_INVALIDATE_DOMAIN of the domain `value`. -/
def execOasisInvalidateDomain (s : State) : Out := .next (if s.start.safe then s else s.oasisCommand (bits s.target.value 0 12))

/-! ### Writes (R460) -/

/-- A field that takes any value but 0. -/
def nonzeroOr (v old : Nat) : Nat := if v = 0 then old else v

/-- WINDOW and THRESH. -/
def State.writeHealth (s : State) (v : Nat) : State :=
  { s with health := { s.health with window := nonzeroOr (bits v 16 16) s.health.window
                                     thresh := nonzeroOr (bits v 0 16) s.health.thresh } }

/-- The REQ field (R422). -/
def State.writeReq (s : State) (v : Nat) : State :=
  match bits v 6 2 with
  | 1 => s.killAll.runStart true s.target.outcome
  | 2 => s.killAll.runStart (!s.start.lastOk) s.target.outcome
  | _ => s

/-- An aligned 32-bit write of BAR0; in safe mode only the start and power window works (R419). -/
def State.write32 (s : State) (off v : Nat) : State :=
  if off = 0x50000 then s.writeReq v
  else if off = 0x50008 then s.hostWake v
  else if s.start.safe then s
  else if 0x10000 ≤ off ∧ off < 0x11000 then s.updQueue ((off - 0x10000) / 0x40) fun q => q.write32 (off % 0x40) v
  else if off = 0x30028 then s.oasisCommand v
  else if off = 0x40000 then s.writeHealth v
  else s

/-- REGISTER_WRITE of `size` bytes of `value` at offset `addr` of BAR0. -/
def execRegisterWrite (s : State) : Out :=
  let t := s.target
  .next ((regHalves t.addr t.size t.value).foldl (fun s x => s.write32 x.1 x.2) s)

/-! ### The feedback filter (R228) -/

/-- FILTER_EXPIRY in the target's core: entries of 1 ms leave. -/
def execFilterExpiry (s : State) : Out :=
  .next (s.updCore s.target.cl s.target.co fun k =>
    { k with filter := k.filter.filter fun (e : FiltEntry) => s.time < e.time + 1000000 })

/-! ### Correctable errors (R400, R401) -/

/-- Type and number of a unit as the health log gives them; type 5 stands for a lane. -/
def hwCode : HwUnit → Nat × Nat
  | .core cl co => (0, 16 * cl.toNat + co.toNat)
  | .slice n => (1, n.toNat)
  | .frame _ => (2, 0)
  | .oasisWay w => (3, w.toNat)
  | .tileSlot cl n => (4, 16 * cl.toNat + n.toNat)
  | .lane p l => (5, 8 * p.toNat + l.toNat)

/-- Take every team off a core that is out of use: they enter their contexts' resume lists (R63, R400). A save that the region
refuses is tried again at the cluster's activation steps (R389). -/
def State.clearCore (s : State) (cl co : Nat) : State :=
  (({ s with teams := s.teams.filter fun t => !(t.priv && t.onCore cl co) } : State).preempt cl (·.onCore cl co)).afterDeparture cl

/-- Saved teams and cohorts, of which a killed member needs no room (R81), that no cluster can hold any longer are killed. -/
def State.killUnheld (s : State) : State :=
  (s.teams.filter fun t => !t.killed && (match t.place with
    | .saved | .swapped _ => true
    | _ => false) && !(List.range s.clusters.length).any fun cl => (s.cluster cl).enabled && s.holds cl t.prog (s.unitOf t).length).foldl
      (fun s t => s.killTeam t.id) s

/-- A lane of a port drops: 8, 4, 2, none. Its link retraining posts the port's wake (R407). Chips that no route reaches any
more leave lock and meet protection outcomes; with every port down this chip's own timer leaves lock (R294, R401; log 54). -/
def State.dropLane (s : State) (p : Nat) : State :=
  let next (n : Nat) : Nat := if n ≥ 8 then 4 else if n ≥ 4 then 2 else 0
  let s := { s with ports := updAt s.ports p fun (x : LinkPort) => { x with lanes := next x.lanes } }
  let s := (s.postWake (.port p)).reroute
  if s.ports.all fun x => x.lanes == 0 then
    let s := s.loseLock
    { s with peers := s.peers.map fun (x : Peer) => { x with locked := false, routed := false } }
  else s

/-- What a lasting fault does. -/
def State.disable (s : State) (u : HwUnit) : State :=
  let s := { s with health := { s.health with disabled := u :: s.health.disabled } }
  match u with
  | .core cl co =>
    let s := s.updCore cl.toNat co.toNat fun k => { k with exists_ := false, agent := none }
    (s.clearCore cl.toNat co.toNat).killUnheld.settleGate cl.toNat
  | .oasisWay w => { s with oasis := { s.oasis with
      waysDown := w.toNat :: s.oasis.waysDown, entries := s.oasis.entries.filter fun e => e.way != w.toNat } }
  | .tileSlot cl _ => s.updCluster cl.toNat fun c => { c with slotsDown := c.slotsDown + 1 }
  | .lane p _ => s.dropLane p.toNat
  -- its lines are written back
  | .slice n => { s with sysCache := s.sysCache.filter fun x => homeSlice (128 * x.line) != n.toNat }
  | .frame _ => s

/-- The health log's entry for a unit taken out of use. -/
def State.logUnit (s : State) (u : HwUnit) : State :=
  match u with
  | .frame pa => s.logHealth (3 * 2 ^ 60) pa
  | .lane .. => s.logHealth (4 * 2 ^ 60 + (hwCode u).2 * 2 ^ 32) 0
  | _ => s.logHealth (2 * 2 ^ 60 + ((hwCode u).1 * 256 + (hwCode u).2) * 2 ^ 32) 0

/-- A unit's count and the start of its window, after one more error at `now`: a window begins with its first error. -/
def nextCount (window now : Nat) (old : Option (Nat × Nat)) : Nat × Nat :=
  match old with
  | some (n, t) => if now < t + window * 1000000 then (n + 1, t) else (1, now)
  | none => (1, now)

/-- The unit that counts an error: a frame is the 64 KiB frame around an address (R400). -/
def HwUnit.counted (u : HwUnit) : HwUnit :=
  match u with
  | .frame pa => .frame (pa / 65536 * 65536)
  | u => u

/-- CORRECTABLE_ERROR in the target's unit. -/
def execCorrectableError (s : State) : Out :=
  let u := HwUnit.counted s.target.unit
  .next (if s.health.disabled.contains u then s else
    let c := nextCount s.health.window s.time ((s.health.counts.find? fun x => x.1 == u).map (·.2))
    let rest := s.health.counts.filter fun (x : HwUnit × Nat × Nat) => x.1 != u
    if c.1 ≥ s.health.thresh then
      (({ s with health := { s.health with counts := rest } } : State).logUnit u).disable u
    else { s with health := { s.health with counts := (u, c) :: rest } })

/-- LINK_LANE_DROP of lane `value` of port `id`. -/
def execLinkLaneDrop (s : State) : Out :=
  let u := HwUnit.lane (BitVec.ofNat 2 s.target.id) (BitVec.ofNat 3 s.target.value)
  .next (if s.health.disabled.contains u then s else (s.logUnit u).disable u)

/-! ### Uncorrectable errors (R320, R340, R359, R388, R458) -/

/-- Corruption strikes stored data. -/
def State.strike (s : State) (e : ErrSite) : State :=
  match e with
  | .granule pa =>
    let g := pa / 32 * 32
    if g ≥ s.moduleBytes || s.badGranules.contains g then s else { s with badGranules := g :: s.badGranules }
  | .scratch tm a => s.updTeam tm fun t =>
      if a < t.prog.scratch then { t with scratchBad := a / 32 * 32 :: t.scratchBad.filter (· != a / 32 * 32) } else t
  | .tile tm n => s.updTeam tm fun t =>
      if n < 32 && n % 8 < t.prog.acc then t.updTile n fun x => { x with bad := true } else t
  | .plane tm n => s.updTeam tm fun t =>
      if n < 16 && n % 4 < t.prog.planes then t.updPlane n fun x => { x with bad := true } else t
  | .oasis set way => { s with oasis := { s.oasis with entries := s.oasis.entries.filter fun x => !(x.set == set && x.way == way) } }
  | .tileSlot p k g => s.updPass p fun p => { p with tiles := updAt p.tiles k fun t =>
      if t.slot.isSome then { t with bad := g / 32 * 32 :: t.bad } else t }
  | .queueRow tm q => s.updTeam tm fun t => { t with queues := updAt t.queues q.toNat fun (x : Stream) =>
      { x with queue := match x.queue with
        | r :: rest => { r with bad := true } :: rest
        | [] => [] } }
  | .saved tm => s.updTeam tm fun t => match t.place with
      | .saved | .swapped _ => { t with savedBad := true }
      | _ => t

/-- SOFT_ERROR at the target's site. -/
def execSoftError (s : State) : Out := .next (s.strike s.target.site)

/-! ### The host and the peers -/

/-- HOST_WINDOW_WRITE of `data` at the physical address `addr` of module memory, performed at its home; in safe mode the window
does not work (R419). -/
def execHostWindowWrite (s : State) : Out :=
  let t := s.target
  .next (if !s.start.safe && t.addr + t.data.length ≤ s.moduleBytes then s.writeHome { home := .own, pa := t.addr } t.data else s)

/-- PEER_ACCESS of the peer `id` at the physical address `addr`: a read of a sector grants a lease of class `value` while
both timers are locked; a write of `data` is performed at home (R205, R273). -/
def execPeerAccess (s : State) : Out :=
  let t := s.target
  .next (if s.start.safe || !s.peers.any (fun p => p.chip == t.id && p.routed) then s
    else if t.isRead then
      (if s.timer.lock && s.peers.any (fun p => p.chip == t.id && p.locked) && t.addr < s.moduleBytes then
        s.raiseMark t.addr (s.time + leaseNs (t.value % 4))
      else s)
    else if t.addr + t.data.length ≤ s.moduleBytes then s.writeHome { home := .own, pa := t.addr } t.data
    else s)

/-- PEER_LOCK_LOSS_NOTICE of the peer `id`: copies homed on it go, and releases at system scope wait. -/
def execPeerLockLossNotice (s : State) : Out :=
  let c := s.target.id
  .next (if s.peers.any fun p => p.chip == c && p.locked then s.losePeer c else s)

end Sys2Proof.Machine
end

