-- ==== Sys2Proof/Machine/Dispatch.lean ====
section
/-! DEFINITION. The meaning of every instruction: one arm for each constructor. -/

namespace Sys2Proof.Machine

/-- Run an instruction, command or step of the device. -/
def exec (i : Instr) (s : State) : Host.Outcome State Fault Refusal :=
  match i with
  | .iadd f => Sys2Proof.Machine.execIadd f s
  | .isub f => Sys2Proof.Machine.execIsub f s
  | .iadds f => Sys2Proof.Machine.execIadds f s
  | .nadds f => Sys2Proof.Machine.execNadds f s
  | .isubs f => Sys2Proof.Machine.execIsubs f s
  | .nsubs f => Sys2Proof.Machine.execNsubs f s
  | .imul f => Sys2Proof.Machine.execImul f s
  | .imulh f => Sys2Proof.Machine.execImulh f s
  | .nmulh f => Sys2Proof.Machine.execNmulh f s
  | .imad f => Sys2Proof.Machine.execImad f s
  | .idiv f => Sys2Proof.Machine.execIdiv f s
  | .ndiv f => Sys2Proof.Machine.execNdiv f s
  | .irem f => Sys2Proof.Machine.execIrem f s
  | .nrem f => Sys2Proof.Machine.execNrem f s
  | .imin f => Sys2Proof.Machine.execImin f s
  | .imax f => Sys2Proof.Machine.execImax f s
  | .nmin f => Sys2Proof.Machine.execNmin f s
  | .nmax f => Sys2Proof.Machine.execNmax f s
  | .iabs f => Sys2Proof.Machine.execIabs f s
  | .ineg f => Sys2Proof.Machine.execIneg f s
  | .and f => Sys2Proof.Machine.execAnd f s
  | .or f => Sys2Proof.Machine.execOr f s
  | .xor f => Sys2Proof.Machine.execXor f s
  | .andn f => Sys2Proof.Machine.execAndn f s
  | .not f => Sys2Proof.Machine.execNot f s
  | .shl f => Sys2Proof.Machine.execShl f s
  | .shr f => Sys2Proof.Machine.execShr f s
  | .sar f => Sys2Proof.Machine.execSar f s
  | .rol f => Sys2Proof.Machine.execRol f s
  | .popc f => Sys2Proof.Machine.execPopc f s
  | .clz f => Sys2Proof.Machine.execClz f s
  | .brev f => Sys2Proof.Machine.execBrev f s
  | .bfxi f => Sys2Proof.Machine.execBfxi f s
  | .bfxn f => Sys2Proof.Machine.execBfxn f s
  | .bfi f => Sys2Proof.Machine.execBfi f s
  | .iaddi f => Sys2Proof.Machine.execIaddi f s
  | .imuli f => Sys2Proof.Machine.execImuli f s
  | .andi f => Sys2Proof.Machine.execAndi f s
  | .ori f => Sys2Proof.Machine.execOri f s
  | .xori f => Sys2Proof.Machine.execXori f s
  | .shli f => Sys2Proof.Machine.execShli f s
  | .shri f => Sys2Proof.Machine.execShri f s
  | .sari f => Sys2Proof.Machine.execSari f s
  | .movi f => Sys2Proof.Machine.execMovi f s
  | .movh f => Sys2Proof.Machine.execMovh f s
  | .icmp f => Sys2Proof.Machine.execIcmp f s
  | .ncmp f => Sys2Proof.Machine.execNcmp f s
  | .icmpi f => Sys2Proof.Machine.execIcmpi f s
  | .aadd f => Sys2Proof.Machine.execAadd f s
  | .aaddi f => Sys2Proof.Machine.execAaddi f s
  | .ashl f => Sys2Proof.Machine.execAshl f s
  | .asub f => Sys2Proof.Machine.execAsub f s
  | .acmp f => Sys2Proof.Machine.execAcmp f s
  | .amov f => Sys2Proof.Machine.execAmov f s
  | .aexti f => Sys2Proof.Machine.execAexti f s
  | .aextn f => Sys2Proof.Machine.execAextn f s
  | .fadd f => Sys2Proof.Machine.execFadd f s
  | .fsub f => Sys2Proof.Machine.execFsub f s
  | .fmul f => Sys2Proof.Machine.execFmul f s
  | .ffma f => Sys2Proof.Machine.execFfma f s
  | .ffms f => Sys2Proof.Machine.execFfms f s
  | .fmin f => Sys2Proof.Machine.execFmin f s
  | .fmax f => Sys2Proof.Machine.execFmax f s
  | .fdiv f => Sys2Proof.Machine.execFdiv f s
  | .fsqrt f => Sys2Proof.Machine.execFsqrt f s
  | .frcp f => Sys2Proof.Machine.execFrcp f s
  | .frsq f => Sys2Proof.Machine.execFrsq f s
  | .fexp2 f => Sys2Proof.Machine.execFexp2 f s
  | .flog2 f => Sys2Proof.Machine.execFlog2 f s
  | .fsint f => Sys2Proof.Machine.execFsint f s
  | .fcost f => Sys2Proof.Machine.execFcost f s
  | .ftanh f => Sys2Proof.Machine.execFtanh f s
  | .fabs f => Sys2Proof.Machine.execFabs f s
  | .fneg f => Sys2Proof.Machine.execFneg f s
  | .fcmp f => Sys2Proof.Machine.execFcmp f s
  | .fclass f => Sys2Proof.Machine.execFclass f s
  | .frnd f => Sys2Proof.Machine.execFrnd f s
  | .fldex f => Sys2Proof.Machine.execFldex f s
  | .fsat f => Sys2Proof.Machine.execFsat f s
  | .famax f => Sys2Proof.Machine.execFamax f s
  | .hadd2 f => Sys2Proof.Machine.execHadd2 f s
  | .hmul2 f => Sys2Proof.Machine.execHmul2 f s
  | .hfma2 f => Sys2Proof.Machine.execHfma2 f s
  | .hmin2 f => Sys2Proof.Machine.execHmin2 f s
  | .hmax2 f => Sys2Proof.Machine.execHmax2 f s
  | .badd2 f => Sys2Proof.Machine.execBadd2 f s
  | .bmul2 f => Sys2Proof.Machine.execBmul2 f s
  | .bfma2 f => Sys2Proof.Machine.execBfma2 f s
  | .cvt f => Sys2Proof.Machine.execCvt f s
  | .cvtq f => Sys2Proof.Machine.execCvtq f s
  | .deq f => Sys2Proof.Machine.execDeq f s
  | .pack f => Sys2Proof.Machine.execPack f s
  | .unpk f => Sys2Proof.Machine.execUnpk f s
  | .tags f => Sys2Proof.Machine.execTags f s
  | .tagr f => Sys2Proof.Machine.execTagr f s
  | .sset f => Sys2Proof.Machine.execSset f s
  | .srot f => Sys2Proof.Machine.execSrot f s
  | .sget f => Sys2Proof.Machine.execSget f s
  | .smax f => Sys2Proof.Machine.execSmax f s
  | .welf f => Sys2Proof.Machine.execWelf f s
  | .wmrg f => Sys2Proof.Machine.execWmrg f s
  | .wfin f => Sys2Proof.Machine.execWfin f s
  | .vote f => Sys2Proof.Machine.execVote f s
  | .ballot f => Sys2Proof.Machine.execBallot f s
  | .shfl f => Sys2Proof.Machine.execShfl f s
  | .shflu f => Sys2Proof.Machine.execShflu f s
  | .shfld f => Sys2Proof.Machine.execShfld f s
  | .shflx f => Sys2Proof.Machine.execShflx f s
  | .red f => Sys2Proof.Machine.execRed f s
  | .scan f => Sys2Proof.Machine.execScan f s
  | .matchLanes f => Sys2Proof.Machine.execMatch f s
  | .wred f => Sys2Proof.Machine.execWred f s
  | .bcast f => Sys2Proof.Machine.execBcast f s
  | .sel f => Sys2Proof.Machine.execSel f s
  | .plog f => Sys2Proof.Machine.execPlog f s
  | .pget f => Sys2Proof.Machine.execPget f s
  | .pput f => Sys2Proof.Machine.execPput f s
  | .mov f => Sys2Proof.Machine.execMov f s
  | .rdln f => Sys2Proof.Machine.execRdln f s
  | .ldg f => Sys2Proof.Machine.execLdg f s
  | .stg f => Sys2Proof.Machine.execStg f s
  | .lds f => Sys2Proof.Machine.execLds f s
  | .sts f => Sys2Proof.Machine.execSts f s
  | .ldc f => Sys2Proof.Machine.execLdc f s
  | .stc f => Sys2Proof.Machine.execStc f s
  | .stcm f => Sys2Proof.Machine.execStcm f s
  | .ldb f => Sys2Proof.Machine.execLdb f s
  | .stb f => Sys2Proof.Machine.execStb f s
  | .atomg f => Sys2Proof.Machine.execAtomg f s
  | .atoms f => Sys2Proof.Machine.execAtoms f s
  | .casg f => Sys2Proof.Machine.execCasg f s
  | .cass f => Sys2Proof.Machine.execCass f s
  | .ldk f => Sys2Proof.Machine.execLdk f s
  | .preq f => Sys2Proof.Machine.execPreq f s
  | .drains => Sys2Proof.Machine.execDrains s
  | .ldl d a c => Sys2Proof.Machine.execLdl d a c s
  | .smpl d a c filt => Sys2Proof.Machine.execSmpl d a c filt s
  | .gath4 d a c => Sys2Proof.Machine.execGath4 d a c s
  | .resq d a c => Sys2Proof.Machine.execResq d a c s
  | .fbck a c => Sys2Proof.Machine.execFbck a c s
  | .fence kind scope => Sys2Proof.Machine.execFence kind scope s
  | .pfch f => Sys2Proof.Machine.execPfch f s
  | .cpt f => Sys2Proof.Machine.execCpt f s
  | .cpto f => Sys2Proof.Machine.execCpto f s
  | .cpx f => Sys2Proof.Machine.execCpx f s
  | .cpm f => Sys2Proof.Machine.execCpm f s
  | .cpa d a sz => Sys2Proof.Machine.execCpa d a sz s
  | .cseal d => Sys2Proof.Machine.execCseal d s
  | .cwait n => Sys2Proof.Machine.execCwait n s
  | .tbinit a b coh => Sys2Proof.Machine.execTbinit a b coh s
  | .tbarr d a coh warpWide => Sys2Proof.Machine.execTbarr d a coh warpWide s
  | .tbexp a b coh warpWide arr => Sys2Proof.Machine.execTbexp a b coh warpWide arr s
  | .tbwait a b coh => Sys2Proof.Machine.execTbwait a b coh s
  | .wptr d ch => Sys2Proof.Machine.execWptr d ch s
  | .strm q par roww lvl => Sys2Proof.Machine.execStrm q par roww lvl s
  | .popq d q pd => Sys2Proof.Machine.execPopq d q pd s
  | .sclos q => Sys2Proof.Machine.execSclos q s
  | .mload plane mir shape side sl => Sys2Proof.Machine.execMload plane mir shape side sl s
  | .mma tile plane src afmt a sa => Sys2Proof.Machine.execMma tile plane src afmt a sa s
  | .mmar tile plane src afmt a sa => Sys2Proof.Machine.execMmar tile plane src afmt a sa s
  | .mdrain d tile group => Sys2Proof.Machine.execMdrain d tile group s
  | .mzero tile atag mir => Sys2Proof.Machine.execMzero tile atag mir s
  | .mfill a tile group mir => Sys2Proof.Machine.execMfill a tile group mir s
  | .mside a clr => Sys2Proof.Machine.execMside a clr s
  | .mzp tile a range => Sys2Proof.Machine.execMzp tile a range s
  | .mscl mode unit a mir => Sys2Proof.Machine.execMscl mode unit a mir s
  | .sigb kind tol => Sys2Proof.Machine.execSigb kind tol s
  | .siga a cnt tolsel fl pr => Sys2Proof.Machine.execSiga a cnt tolsel fl pr s
  | .sigx a cnt pr => Sys2Proof.Machine.execSigx a cnt pr s
  | .sige d => Sys2Proof.Machine.execSige d s
  | .memol f => Sys2Proof.Machine.execMemol f s
  | .memos f => Sys2Proof.Machine.execMemos f s
  | .pend => Sys2Proof.Machine.execPend s
  | .memoi form kind => Sys2Proof.Machine.execMemoi form kind s
  | .rqi d a r np first => Sys2Proof.Machine.execRqi d a r np first s
  | .rqp a => Sys2Proof.Machine.execRqp a s
  | .rqc mode a => Sys2Proof.Machine.execRqc mode a s
  | .rqg d a sel => Sys2Proof.Machine.execRqg d a sel s
  | .emit f => Sys2Proof.Machine.execEmit f s
  | .br p neg off => Sys2Proof.Machine.execBr p neg off s
  | .jmp p neg a => Sys2Proof.Machine.execJmp p neg a s
  | .call p neg off => Sys2Proof.Machine.execCall p neg off s
  | .callr p neg a => Sys2Proof.Machine.execCallr p neg a s
  | .ret p neg => Sys2Proof.Machine.execRet p neg s
  | .meet d off => Sys2Proof.Machine.execMeet d off s
  | .meetr a => Sys2Proof.Machine.execMeetr a s
  | .bar mode => Sys2Proof.Machine.execBar mode s
  | .exit p neg mode => Sys2Proof.Machine.execExit p neg mode s
  | .rep count mask stride => Sys2Proof.Machine.execRep count mask stride s
  | .lease form a lines => Sys2Proof.Machine.execLease form a lines s
  | .waitt a => Sys2Proof.Machine.execWaitt a s
  | .waittD delay => Sys2Proof.Machine.execWaittD delay s
  | .trap p neg brk code => Sys2Proof.Machine.execTrap p neg brk code s
  | .rtt form => Sys2Proof.Machine.execRtt form s
  | .sprw wr reg id => Sys2Proof.Machine.execSprw wr reg id s
  | .tctl form a => Sys2Proof.Machine.execTctl form a s
  | .launchGraph h roots count recVA work bytes => Sys2Proof.Machine.execLaunchGraph h roots count recVA work bytes s
  | .launchNode h node recVA work bytes => Sys2Proof.Machine.execLaunchNode h node recVA work bytes s
  | .signal h va value => Sys2Proof.Machine.execSignal h va value s
  | .wait h va threshold => Sys2Proof.Machine.execWait h va threshold s
  | .timestamp h va => Sys2Proof.Machine.execTimestamp h va s
  | .setDomain h dom share key => Sys2Proof.Machine.execSetDomain h dom share key s
  | .partition h ctx mask excl slice root pool pages => Sys2Proof.Machine.execPartition h ctx mask excl slice root pool pages s
  | .doorbellWrite => Sys2Proof.Machine.execDoorbellWrite s
  | .haltClear => Sys2Proof.Machine.execHaltClear s
  | .registerWrite => Sys2Proof.Machine.execRegisterWrite s
  | .commandClaim => Sys2Proof.Machine.execCommandClaim s
  | .waitRecheck => Sys2Proof.Machine.execWaitRecheck s
  | .teamTicketClaim => Sys2Proof.Machine.execTeamTicketClaim s
  | .teamPass => Sys2Proof.Machine.execTeamPass s
  | .dependenceRecheck => Sys2Proof.Machine.execDependenceRecheck s
  | .cohortReserveRetry => Sys2Proof.Machine.execCohortReserveRetry s
  | .cohortMakeRoom => Sys2Proof.Machine.execCohortMakeRoom s
  | .rampWindow => Sys2Proof.Machine.execRampWindow s
  | .sliceEnd => Sys2Proof.Machine.execSliceEnd s
  | .activationStep => Sys2Proof.Machine.execActivationStep s
  | .leaseWindowEnd => Sys2Proof.Machine.execLeaseWindowEnd s
  | .boostExpiry => Sys2Proof.Machine.execBoostExpiry s
  | .wakeWatchTimeout => Sys2Proof.Machine.execWakeWatchTimeout s
  | .regroupPeriod => Sys2Proof.Machine.execRegroupPeriod s
  | .meetingTimeout => Sys2Proof.Machine.execMeetingTimeout s
  | .collectiveMismatchTimeout => Sys2Proof.Machine.execCollectiveMismatchTimeout s
  | .barMixedTimeout => Sys2Proof.Machine.execBarMixedTimeout s
  | .waittDeadline => Sys2Proof.Machine.execWaittDeadline s
  | .loadWriteback => Sys2Proof.Machine.execLoadWriteback s
  | .refillLand => Sys2Proof.Machine.execRefillLand s
  | .fillReturn => Sys2Proof.Machine.execFillReturn s
  | .mshrReplay => Sys2Proof.Machine.execMshrReplay s
  | .storePerformedAtHome => Sys2Proof.Machine.execStorePerformedAtHome s
  | .storeTranslated => Sys2Proof.Machine.execStoreTranslated s
  | .storeFaultDelivery => Sys2Proof.Machine.execStoreFaultDelivery s
  | .storeFaultPop => Sys2Proof.Machine.execStoreFaultPop s
  | .faultRewalk => Sys2Proof.Machine.execFaultRewalk s
  | .waiterRetranslate => Sys2Proof.Machine.execWaiterRetranslate s
  | .pageRequestPop => Sys2Proof.Machine.execPageRequestPop s
  | .filterExpiry => Sys2Proof.Machine.execFilterExpiry s
  | .granuleLand => Sys2Proof.Machine.execGranuleLand s
  | .tbPhaseChange => Sys2Proof.Machine.execTbPhaseChange s
  | .cpaEntryLand => Sys2Proof.Machine.execCpaEntryLand s
  | .streamRowArrive => Sys2Proof.Machine.execStreamRowArrive s
  | .releaseComplete => Sys2Proof.Machine.execReleaseComplete s
  | .matrixOpExecute => Sys2Proof.Machine.execMatrixOpExecute s
  | .gatherTimeout => Sys2Proof.Machine.execGatherTimeout s
  | .teamDrainDone => Sys2Proof.Machine.execTeamDrainDone s
  | .launchAbort => Sys2Proof.Machine.execLaunchAbort s
  | .shadowMismatch => Sys2Proof.Machine.execShadowMismatch s
  | .tretWrite => Sys2Proof.Machine.execTretWrite s
  | .tileStart => Sys2Proof.Machine.execTileStart s
  | .diceTile => Sys2Proof.Machine.execDiceTile s
  | .gridSample => Sys2Proof.Machine.execGridSample s
  | .tileComplete => Sys2Proof.Machine.execTileComplete s
  | .tileResolve => Sys2Proof.Machine.execTileResolve s
  | .rayTraverseEvent => Sys2Proof.Machine.execRayTraverseEvent s
  | .oasisInvalidateAll => Sys2Proof.Machine.execOasisInvalidateAll s
  | .oasisInvalidateDomain => Sys2Proof.Machine.execOasisInvalidateDomain s
  | .healthLogPop => Sys2Proof.Machine.execHealthLogPop s
  | .correctableError => Sys2Proof.Machine.execCorrectableError s
  | .linkLaneDrop => Sys2Proof.Machine.execLinkLaneDrop s
  | .droopAlarm => Sys2Proof.Machine.execDroopAlarm s
  | .droopStretchEnd => Sys2Proof.Machine.execDroopStretchEnd s
  | .droopHalfEnd => Sys2Proof.Machine.execDroopHalfEnd s
  | .convWrite => Sys2Proof.Machine.execConvWrite s
  | .ratioChangeDone => Sys2Proof.Machine.execRatioChangeDone s
  | .fstepWrite => Sys2Proof.Machine.execFstepWrite s
  | .pgateOff => Sys2Proof.Machine.execPgateOff s
  | .pgateCan => Sys2Proof.Machine.execPgateCan s
  | .pgateWake => Sys2Proof.Machine.execPgateWake s
  | .hostWake => Sys2Proof.Machine.execHostWake s
  | .inrushGrant => Sys2Proof.Machine.execInrushGrant s
  | .clusterWakeDone => Sys2Proof.Machine.execClusterWakeDone s
  | .governorEpoch => Sys2Proof.Machine.execGovernorEpoch s
  | .toffWrite => Sys2Proof.Machine.execToffWrite s
  | .tsyncWrite => Sys2Proof.Machine.execTsyncWrite s
  | .ptpExchange => Sys2Proof.Machine.execPtpExchange s
  | .ptpTimeout => Sys2Proof.Machine.execPtpTimeout s
  | .coldRestart => Sys2Proof.Machine.execColdRestart s
  | .warmRestart => Sys2Proof.Machine.execWarmRestart s
  | .powerOn => Sys2Proof.Machine.execPowerOn s
  | .softError => Sys2Proof.Machine.execSoftError s
  | .hostWindowWrite => Sys2Proof.Machine.execHostWindowWrite s
  | .peerAccess => Sys2Proof.Machine.execPeerAccess s
  | .peerLockLossNotice => Sys2Proof.Machine.execPeerLockLossNotice s
  | .pipeClockGating => Sys2Proof.Machine.execPipeClockGating s
  | .illegalOpcode => Sys2Proof.Machine.execIllegalOpcode s

end Sys2Proof.Machine
end

