-- ==== Sys2Proof/Machine/Policy.lean ====
section
/-! DEFINITION. The passing of time (15_power_and_start R404 to R406, R413, R417) and the round of turns that is taken when
the agenda is empty (log 2). The manual leaves the order of turns open; a round offers a turn to everything that may be
due, and ends with one nanosecond. A turn that finds nothing due changes nothing. -/

namespace Sys2Proof.Machine

/-! ### Time -/

/-- Cycles left of an alarm's period, held with one more; the last is left for the event that ends it. -/
def countDown (x k : Nat) : Nat := if x = 0 then 0 else max 1 (x - k)

/-- The clock of a cluster runs. -/
def Cluster.clocked (c : Cluster) : Bool := c.enabled && c.gate.up && !c.busy

/-- The cycles that the nominal periods passed so far make up, `frac` of them in hundredths: a stretched cycle lasts two
periods and counts as one cycle (R413). -/
def Cluster.runCycles : Nat → Cluster → Cluster
  | 0, c => c
  | n + 1, c =>
    let need := if c.stretch > 1 then 200 else 100
    if c.frac < need then c
    else Cluster.runCycles n { c with
      frac := c.frac - need, r := { c.r with clk := c.r.clk + 1 }
      stretch := countDown c.stretch 1, halved := countDown c.halved 1 }

/-- A cluster's clock in one nanosecond. Every cycle that it counts since a user bundle has issued counts for the governor
(R416; log 56). At most 2.9 periods pass, beside what is left of the one before. -/
def Cluster.tick (c : Cluster) : Cluster :=
  if !c.clocked then c else
  let d := Cluster.runCycles 5 { c with frac := c.frac + c.freq }
  let k := d.r.clk - c.r.clk
  if k = 0 then d else { d with busyCycles := if c.issued then c.busyCycles + k else c.busyCycles, issued := false }

/-- The count in one nanosecond: a correction runs it faster or slower by one part in 1,024 (R417). -/
def Timer.tick (t : Timer) : Timer :=
  if t.corr = 0 then { t with time := t.time + 1, slew := 0 }
  else if t.slew + 1 < 1024 then { t with time := t.time + 1, slew := t.slew + 1 }
  else if t.corr > 0 then { t with time := t.time + 2, slew := 0, corr := t.corr - 1 }
  else { t with slew := 0, corr := t.corr + 1 }

def State.tick1 (s : State) : State := { s with timer := s.timer.tick, clusters := s.clusters.map Cluster.tick }

/-- `n` nanoseconds pass. -/
def State.tick : Nat → State → State
  | 0, s => s
  | n + 1, s => s.tick1.tick n

/-! ### What may be due -/

def turnIf (b : Bool) (i : Instr) (t : Target := {}) : List Turn := if b then [.event i t] else []

/-- Timers of the chip and of its clusters. -/
def State.timerTurns (s : State) : List Turn :=
  turnIf (!s.inrush.isEmpty) .inrushGrant
  ++ turnIf (s.epoch < s.time / 50000) .governorEpoch
  ++ turnIf (s.timer.lock && s.timer.lastExchange + 1000000 ≤ s.time) .ptpTimeout
  ++ (s.clusters.zipIdx).flatMap fun (c, cl) =>
    let t : Target := { cl := cl }
    turnIf c.change.isSome .ratioChangeDone t
    ++ turnIf (c.gate == .waking) .clusterWakeDone t
    ++ turnIf (c.stretch == 1) .droopStretchEnd t
    ++ turnIf (c.halved == 1) .droopHalfEnd t
    ++ turnIf (c.window < s.time / 1000 && c.gate.up) .rampWindow t
    ++ turnIf (c.turn.any fun x => x.2 ≤ s.time) .sliceEnd t
    ++ turnIf (c.watch.any fun e => s.watchDue e) .wakeWatchTimeout t
    ++ turnIf c.reserved .cohortMakeRoom t
    ++ turnIf (!c.cohorts.isEmpty) .cohortReserveRetry t
    ++ turnIf (!c.depend.isEmpty) .dependenceRecheck t
    ++ c.hands.flatMap fun k => turnIf true .teamPass { cl := cl, team := ((s.ticketTeam k).map (·.id)).getD 0 }

/-- The fault table. -/
def State.faultTurns (s : State) : List Turn :=
  (s.faults.flatMap fun e => turnIf (e.due || e.lastWalk + 50000 ≤ s.time) .faultRewalk { id := e.id })
  ++ (List.range s.unlisted.length).map fun k => .event .waiterRetranslate { id := k }

/-- Accesses, copies and engines in flight. -/
def State.flightTurns (s : State) : List Turn :=
  (s.stores.flatMap fun o => turnIf (o.st == .issued || o.st == .blocked) .storeTranslated { id := o.id })
  ++ (s.stores.flatMap fun o => turnIf (o.st == .translated) .storePerformedAtHome { id := o.id })
  ++ ((s.clusters.zipIdx).flatMap fun (c, cl) => (c.cores.zipIdx).flatMap fun (k, co) =>
      (k.misses.map fun m => Turn.event .fillReturn { cl := cl, co := co, addr := m.key })
      ++ ((k.matq.zipIdx).flatMap fun (q, n) => turnIf (!q.isEmpty) .matrixOpExecute { cl := cl, co := co, quad := n })
      ++ turnIf (k.filter.any fun e => e.time + 1000000 ≤ s.time) .filterExpiry { cl := cl, co := co })
  ++ (s.loads.map fun o => .event (if o.refill.isSome then .refillLand else .loadWriteback) { id := o.id })
  ++ (s.cpas.map fun o => .event .cpaEntryLand { id := o.id })
  ++ ((s.clusters.zipIdx).flatMap fun (c, cl) =>
      c.queries.map fun q => .event .rayTraverseEvent { cl := cl, id := q.id })

/-- What the threads of a team wait for or are owed. -/
def State.threadTurns (s : State) (t : Team) : List Turn :=
  t.live.flatMap fun m =>
    let tg : Target := { team := t.id, warp := m.1, lane := m.2 }
    match (t.thread m.1 m.2).wait with
    | .release .. => [.event .releaseComplete tg]
    | .time d | .horizon d => turnIf (d ≤ s.time) .waittDeadline tg
    | .mshr => [.event .mshrReplay tg]
    | _ => []

/-- A team's own turns. -/
def State.teamTurns (s : State) (t : Team) : List Turn :=
  let tg : Target := { team := t.id }
  ((t.chans.zipIdx).flatMap fun (l, ch) => turnIf (!l.isEmpty) .granuleLand { team := t.id, id := ch })
  ++ ((t.queues.zipIdx).flatMap fun (q, n) => turnIf ((q.isOpen && q.fetched < q.total) || t.taken.any (·.q == n)) .streamRowArrive { team := t.id, id := n })
  ++ (t.tbHolds.map fun h => .event .tbPhaseChange { team := t.id, addr := h.addr })
  ++ ((t.owed ++ t.sfq).flatMap fun r => turnIf (!r.delivered) .storeFaultDelivery { team := t.id, warp := r.warp, lane := r.lane })
  ++ s.threadTurns t
  ++ (if s.isProtected t then t.live.map fun m => .event .shadowMismatch { team := t.id, warp := m.1, lane := m.2 } else [])
  ++ ((List.range t.warps.length).flatMap fun w =>
      let wp := t.warp w
      let wt : Target := { team := t.id, warp := w }
      turnIf (wp.meetingDue (s.clkOf t.id)) .meetingTimeout wt
      ++ turnIf wp.mismatchSince.isSome .collectiveMismatchTimeout wt
      ++ turnIf (wp.boostLines != 0 && wp.boostExp ≤ s.time) .boostExpiry wt
      ++ turnIf (t.at?.any fun p => wp.winStart + 4096 ≤ (s.cluster p.1).r.clk) .leaseWindowEnd wt)
  ++ turnIf t.mixedSince.isSome .barMixedTimeout tg
  ++ turnIf t.draining .teamDrainDone tg
  ++ (if t.saving.isSome then [.save t.id] else [])

/-- The cores that hold teams: their steps, and a turn of each bundle slot. -/
def State.coreTurns (s : State) : List Turn :=
  (s.clusters.zipIdx).flatMap fun (c, cl) =>
    if !c.clocked then [] else
    (c.cores.zipIdx).flatMap fun (k, co) =>
      if !(s.teams.any fun t => t.onCore cl co) then [] else
      let tg : Target := { cl := cl, co := co }
      turnIf (k.lastStep + 64 ≤ c.r.clk) .activationStep tg
      ++ if !k.exists_ then [] else ((s.teams.filter fun t => t.onCore cl co && t.started).flatMap fun t => t.live.map fun m => .look t.id m.1 m.2)
      ++ [.event .regroupPeriod tg]
      ++ ((List.range 4).flatMap fun q =>
          turnIf (!(k.gated.getD q true) && k.lastIssue.getD q 0 + 256 ≤ c.r.clk + 1) .pipeClockGating { tg with quad := q })
      ++ (List.range 8).map fun n => .issue cl co n

/-- An agent that works. -/
def State.someAgent (s : State) : Option (Nat × Nat) :=
  (List.range s.clusters.length).findSome? fun cl => ((s.liveCores cl).find? (s.agentLive cl ·)).map fun co => (cl, co)

/-- Queues with unclaimed commands, WAITs, and commands in flight. -/
def State.queueTurns (s : State) : List Turn :=
  match s.someAgent with
  | none => []
  | some (cl, co) =>
    ((s.queues.zipIdx).flatMap fun (q, n) =>
      turnIf (q.en && !q.halt && q.prod != q.claim && q.waiting.isNone) .commandClaim { cl := cl, co := co, id := n }
      ++ turnIf q.waiting.isSome .waitRecheck { id := n })
    ++ (s.commands.filter fun c => !c.finished || (c.isLaunch && !c.graphDone)).map fun c => .event c.instr { id := c.id }

/-- Agents with tickets to take or saved teams to resume. -/
def State.ticketTurns (s : State) : List Turn :=
  (List.range s.clusters.length).flatMap fun cl =>
    if s.launches.any (fun l => l.hasTickets && s.serves l.ctx cl)
      || s.teams.any (fun t => t.place == .saved && !t.killed && s.serves t.ctx cl)
    then (s.liveCores cl).map fun co => .event .teamTicketClaim { cl := cl, co := co }
    else []

/-- Passes and their tiles. -/
def State.passTurns (s : State) : List Turn :=
  s.passes.flatMap fun p =>
    if p.finished && p.waiting.isEmpty && p.tiles.all (·.slot.isNone) then [] else
    let idle := (p.tiles.filter (·.phase == .idle)).take 64
    [.event .tileStart { id := p.id, value := (idle.head?.map (·.k)).getD 0 }]
    ++ (idle.drop 1).map (fun t => .event .tileStart { id := p.id, value := t.k })
    ++ ((p.tiles.filter fun t => t.inFlight || t.slot.isSome).flatMap fun t =>
        [Instr.diceTile, .gridSample, .tileComplete, .tileResolve].map fun i => .event i { id := p.id, value := t.k })
    ++ [.event .tileResolve { id := p.id, value := 0 }]

/-- Open batches whose time is up. -/
def State.gatherTurns (s : State) : List Turn :=
  s.gathers.flatMap fun g => turnIf (g.deadline.any (· ≤ s.time)) .gatherTimeout { id := g.id }

/-- A round: everything that may be due, then one nanosecond. While no start is complete nothing runs; the in-rush arbiter still
serves the wake requests that the host posts (R407, R422). -/
def State.round (s : State) : List Turn :=
  if s.start.step ≠ 7 then s.timerTurns ++ [.tick 1] else
  s.timerTurns ++ s.faultTurns ++ s.flightTurns ++ (s.teams.filter fun t => t.place != .gone).flatMap s.teamTurns
    ++ s.coreTurns ++ s.queueTurns ++ s.ticketTurns ++ s.gatherTurns ++ s.passTurns ++ [.tick 1]

/-! ### Readiness (R115) -/

/-- A thread is looked at before a regroup period: its word is tried, in a state that is given up, and what it would wait
for becomes the thread's wait. -/
def State.lookThread (s : State) (tm w l : Nat) : State :=
  match (s.team? tm).bind fun t => (s.trial (w, l) t).map fun x => (t, x) with
  | none => s
  | some (t, cl, co, b) =>
    let s0 := b.members.foldl (fun s m => s.updThread tm m.1 m.2 fun th => { th with wait := .none }) s
    match s0.issueBundle cl co 8 ((s0.team? tm).getD t) b with
    | (x, none) => s.settleLook tm w l x
    | (x, some i) =>
      match exec i x with
      | .next x => s.settleLook tm w l x
      | _ => s.settleLook tm w l x

/-! ### One turn -/

/-- Take a turn. -/
def runTurn (t : Turn) (s : State) : Out :=
  match t with
  | .event i tg => exec i { s with target := tg }
  | .issue cl co slot =>
    match s.issueSlot cl co slot with
    | (s', some i) => exec i s'
    | (s', none) => .next s'
  | .look tm w l => .next (s.lookThread tm w l)
  | .save tm => .next (s.saveStep tm)
  | .tick n => .next (s.tick n)

/-- Take a turn of a list, or let a nanosecond pass when it is empty. -/
def runFirst (s : State) : List Turn → Out
  | [] => .next (s.tick 1)
  | t :: rest => runTurn t { s with agenda := rest }

/-! ### A state in which one word is fetched next -/

/-- The program of that state: every count at its largest. -/
def probeProg : Prog :=
  { hdr := 0x10000, handler := 0x200, sregs := 512, vregs := 128, scratch := 4096, slots := 16, queues := 8, planes := 4, acc := 8
    memo := true }

/-- The class of the clause that holds the word: class 0 for words that only it accepts (R98). -/
def probeClass (w : Nat) : Nat :=
  let op := bits w 24 8
  if op = 0x68 ∨ op = 0x69 ∨ (op = 0xFA ∧ bits w 22 2 ≠ 3) then 0 else 7

/-- The clause header (R96): as many words as the instruction takes, collective where the word must be. -/
def probeHeader (w n : Nat) : Nat :=
  12 * 2 ^ 28 + n * 2 ^ 24 + probeClass w * 2 ^ 21 + (if collWord w then 2 ^ 14 else 0)

/-- One thread that stands at word 1 of the clause at 0x10080. -/
def probeThread : Thread := { pos := { hdr := 0x10080 }, v := List.replicate 128 {}, fpctl := 0 }

def probeTeam (id launch w : Nat) : Team :=
  { id := id, launch := launch, priv := bits w 24 8 == 0xFF, prog := probeProg, place := .resident 0 0, slots := [0]
    warps := [{ threads := [probeThread], s := List.replicate 512 {} }] }

/-- The page of the code, cached in cluster 0. -/
def probePage (root : Nat) : TlbEntry :=
  { ctx := 0, root := root, va := 0x10000, size := 0x10000, xl := { pa := 0x10000 }, expiry := 2 ^ 64 }

/-- Words an instruction takes: the prefix REP is followed by the word it repeats, here a word of zeros, which is IADD. -/
def probeLen (w : Nat) : Nat := if wantsNext (BitVec.ofNat 32 w) then 2 else 1

end Sys2Proof.Machine
end

