-- ==== Sys2Proof/Machine/Step.lean ====
section
/-! DEFINITION. One step of the chip: the turn at the head of the agenda, or the first of a new round (log 2). -/

namespace Sys2Proof.Machine

/-- One step. -/
def step (s : State) : Host.Outcome State Fault Refusal :=
  match s.agenda with
  | t :: rest => runTurn t { s with agenda := rest }
  | [] => runFirst s s.round

/-- The state in which the next step fetches and runs the instruction whose words are `w` (log 3): a team of one thread
stands on core 0 of cluster 0 at a clause that holds them, and its bundle has the next turn. -/
def State.withFetchWord (s : State) (nbits w : Nat) : State :=
  let w := w % 2 ^ nbits
  let n := probeLen w
  let t := probeTeam s.nextId (s.nextId + 1) w
  let bytes := leBytes (probeHeader w n) 4 ++ leBytes w 8
  let root := s.rootOn 0 0 0
  let s := (s.setBundle 0 0 0 (some { team := t.id, members := [(0, 0)] })).updCluster 0 fun c =>
    { c with tlb := probePage root :: c.tlb }
  { s with
    teams := t :: s.teams, nextId := s.nextId + 2, mem := Memory.writeBytes s.mem 0x10080 bytes
    agenda := .issue 0 0 0 :: s.agenda }

end Sys2Proof.Machine
end

