-- ==== Sys2Proof/Safety.lean ====
section
/-! DEFINITION. What the statements speak of: everything of a state but where threads stand, the word that issues in one
place, and the invariants of a safe run. -/

namespace Sys2Proof.Machine

/-! ### A state without control -/

/-- A thread without its position and what it waits for. -/
def Thread.data (th : Thread) : Thread :=
  { th with pos := {}, wait := .none, waitSince := none, relDone := false, behind := [], sent := false
            replay := none, restart := none }

def Warp.data (w : Warp) : Warp := { w with threads := w.threads.map Thread.data }
def Team.data (t : Team) : Team := { t with warps := t.warps.map Warp.data }

/-- A core without its bundles. -/
def Core.data (k : Core) : Core := { k with bundles := [] }
def Cluster.data (c : Cluster) : Cluster := { c with cores := c.cores.map Core.data }

/-- The state without where its threads stand, what they wait for, the bundles they form, the word that issues and the
turns still to come: every register, flag, queue, table, access in flight and byte of memory. Two states with equal data
differ in the threads' progress alone. -/
def State.data (s : State) : State :=
  { s with teams := s.teams.map Team.data, clusters := s.clusters.map Cluster.data, agenda := [], issue := none }

/-- `i` completes in `s` with the effect `f`: exec answers a next state, and its data are those that `f` leaves of the
state whose word has been taken up. -/
def Completes (i : Instr) (s : State) (f : State → State) : Prop :=
  ∃ s', exec i s = .next s' ∧ s'.data = (f { s with issue := none }).data

/-! ### A word that issues in one place -/

/-- The word of `iss` acts in thread `l` of warp `w` of the team `t` alone, or in class 0 once for the warp, of which `l`
is the lowest live thread (R98, R116). -/
structure Acts (s : State) (iss : Issue) (t : Team) (w l : Nat) : Prop where
  issue : s.issue = some iss
  team : s.team? iss.team = some t
  actor : iss.actors t = [(w, l)]
  live : (t.thread w l).exited = false

/-- The word passes every check of R102: those common to its threads, and those of this one. -/
def Form.clear (fm : Form) (value : Ctx → Option Nat) (c : Ctx) : Prop :=
  fm.precheck c.iss c.t = none ∧ c.checks fm.os (value c) fm.pure = none

/-- Registers or predicates written full by the word in one place: `ws` from the first of the operand on. -/
def State.put (s : State) (c : Ctx) (o : Opnd) (ws : List (Word × Tag)) : State :=
  s.updWarp c.iss.team c.w fun wp => wp.setGroup c.l o ws

/-- The word's results: registers or predicates of one operand, and the flags it raises (R142 to R144). -/
def Ctx.write (c : Ctx) (o : Opnd) (ws : List (Word × Tag)) (fl : FpFlags) (ist : IntFlags) (s : State) : State :=
  (c.iss.setFlags (c.w, c.l) fl ist s).put c o ws

/-- The thread's enables let the flags through without a trap (R142, R144). -/
def Thread.untrapped (th : Thread) (fl : FpFlags) (ist : IntFlags) : Prop :=
  fl &&& th.fpTraps = 0 ∧ (th.idte = true → ist &&& 3 = 0)

/-- The word `i` of the form `fm` completes in the one place where it acts, once it has passed its checks and when no
flag it raises is enabled to trap, with the result `ws` in `o`. -/
def WritesOne (i : Instr) (fm : Issue → Form) (o : Issue → Opnd) (rule : Ctx → List (Word × Tag) → FpFlags → IntFlags → Prop) :
    Prop :=
  ∀ (s : State) (iss : Issue) (t : Team) (w l : Nat), Acts s iss t w l →
    (fm iss).clear (fun _ => none) ⟨t, w, l, iss⟩ →
    ∃ ws fl ist, rule ⟨t, w, l, iss⟩ ws fl ist ∧
      ((t.thread w l).untrapped fl ist → Completes i s (Ctx.write ⟨t, w, l, iss⟩ (o iss) ws fl ist))

/-- The word `i` of the form `fm`, with `value` the cause of a bad operand value, has the effect `eff` whenever it passes
its checks in the one place where it acts and `cond` holds there. -/
def Effects (i : Instr) (fm : Issue → Form) (value : Issue → Ctx → Option Nat)
    (cond : State → Ctx → Prop) (eff : Ctx → State → State) : Prop :=
  ∀ (s : State) (iss : Issue) (t : Team) (w l : Nat), Acts s iss t w l →
    (fm iss).clear (value iss) ⟨t, w, l, iss⟩ → cond { s with issue := none } ⟨t, w, l, iss⟩ → Completes i s (eff ⟨t, w, l, iss⟩)

/-- The word's action in some threads of its bundle in order, each upon what those before it have left, until `s'`; none of them
traps, nor does one stop the rest of a word that runs in the order of its lanes (R118, R201). -/
def Runs (inOrder : Bool) (act : State → Ctx → State × LaneRes) (iss : Issue) : List (Nat × Nat) → State → State → Prop
  | [], s, s' => s' = s
  | m :: ms, s, s' => ∃ (t : Team) (s1 : State) (r : LaneRes), s.team? iss.team = some t ∧
      act s ⟨t, m.1, m.2, iss⟩ = (s1, r) ∧ (∀ k, r ≠ .trap k) ∧ (inOrder = true → r ≠ .stay .mshr) ∧
      Runs inOrder act iss ms s1 s'

/-- The word `i` of the form `fm` completes in every thread of its bundle, with the results that `rule` gives each of them by
what its own operands held before, when no flag they raise is enabled to trap. -/
def WritesEach (i : Instr) (fm : Issue → Form) (o : Issue → Opnd)
    (rule : Ctx → List (Word × Tag) → FpFlags → IntFlags → Prop) : Prop :=
  ∀ (s : State) (iss : Issue) (t : Team), s.issue = some iss → s.team? iss.team = some t → (iss.actors t).Nodup →
    (∀ m ∈ iss.actors t, (fm iss).clear (fun _ => none) ⟨t, m.1, m.2, iss⟩) →
    ∃ (ws : Nat × Nat → List (Word × Tag)) (fl : Nat × Nat → FpFlags) (ist : Nat × Nat → IntFlags),
      (∀ m ∈ iss.actors t, rule ⟨t, m.1, m.2, iss⟩ (ws m) (fl m) (ist m)) ∧
      ((∀ m ∈ iss.actors t, (t.thread m.1 m.2).untrapped (fl m) (ist m)) →
        Completes i s fun s => (iss.actors t).foldl (fun s m =>
          Ctx.write ⟨t, m.1, m.2, iss⟩ (o iss) (ws m) (fl m) (ist m) s) s)

/-- A word with a floating-point flag whose trap is enabled, in the one place where it acts: the flags are set, nothing else is
done, and every thread concerned takes cause 0x07 (R142). `flags` are those the word raises. -/
def FlagTraps (i : Instr) (fm : Issue → Form) (value : Issue → Ctx → Option Nat) (flags : Ctx → FpFlags) : Prop :=
  ∀ (s : State) (iss : Issue) (t : Team) (w l : Nat), Acts s iss t w l →
    let c : Ctx := ⟨t, w, l, iss⟩
    (fm iss).clear (value iss) c → flags c &&& c.th.fpTraps ≠ 0 →
    exec i s = .next (iss.deliverTraps ((iss.lanes t (w, l)).map fun m => (m, 0x07, (0 : Word)))
      (iss.setFlags (w, l) (flags c) 0 { s with issue := none }))

/-- The word of `iss` acts once for its warp, through the thread `l` of warp `w`, the lowest of those it concerns, all of
which pass the checks of R102 (R255, R286, R393). -/
structure ActsOnce (s : State) (iss : Issue) (t : Team) (w l : Nat) (fm : Form) (value : Ctx → Option Nat) : Prop where
  issue : s.issue = some iss
  team : s.team? iss.team = some t
  first : ((iss.actors t).flatMap (iss.lanes t)).head? = some (w, l)
  pre : fm.precheck iss t = none
  ready : ∀ m ∈ (iss.actors t).flatMap (iss.lanes t),
    (Ctx.checks ⟨t, m.1, m.2, iss⟩ fm.os (value ⟨t, m.1, m.2, iss⟩) fm.pure) = none

/-- The word `i`, which acts once for its warp, has the effect `eff` whenever `cond` holds. -/
def EffectsOnce (i : Instr) (fm : Issue → Form) (value : Issue → Ctx → Option Nat)
    (cond : State → Ctx → Prop) (eff : Ctx → State → State) : Prop :=
  ∀ (s : State) (iss : Issue) (t : Team) (w l : Nat), ActsOnce s iss t w l (fm iss) (value iss) →
    cond { s with issue := none } ⟨t, w, l, iss⟩ → Completes i s (eff ⟨t, w, l, iss⟩)

/-- No cause of its own. -/
def noValue (_ : Issue) (_ : Ctx) : Option Nat := none

/-! ### A cross-lane word that every awaited thread has reached -/

/-- The position at which the word stands. -/
def Issue.at_ (iss : Issue) : Pos := { hdr := iss.hdr, word := iss.word, rep := iss.rep }

/-- The word of `iss` runs in each of its threads: they pass every check, and each stands in a complete tile (R123, R125,
R188). -/
structure Gathers (s : State) (iss : Issue) (t : Team) (fm : Form) (value : Ctx → Option Nat) : Prop where
  issue : s.issue = some iss
  team : s.team? iss.team = some t
  pre : fm.precheck iss t = none
  ready : ∀ m ∈ iss.actors t, (Ctx.checks ⟨t, m.1, m.2, iss⟩ fm.os (value ⟨t, m.1, m.2, iss⟩) fm.pure) = none
  whole : ∀ m ∈ iss.actors t, hdrCollective iss.header = true ∨
    (m.2 ∈ iss.awaited t (s.isProtected t) m ∧ ∀ l ∈ iss.awaited t (s.isProtected t) m, (m.1, l) ∈ iss.actors t)

/-- The tile in which a thread of the bundle runs the word: the lanes of it that are in the bundle and take part (R188). -/
def Issue.tile (iss : Issue) (s : State) (t : Team) (m : Nat × Nat) : XTile :=
  let prot := s.isProtected t
  let w := (t.warp m.1).tileWidth
  ⟨prot, w, tileBase prot w m.2, (tileLanes prot w m.2).filter fun l => (iss.actors t).contains (m.1, l)
    && (hdrCollective iss.header || (iss.awaited t prot m).contains l)⟩

/-- The tile of a thread has reached the word, and no lane of it counts as past it any more (R188). -/
def State.rejoin (s : State) (iss : Issue) (m : Nat × Nat) (x : XTile) : State :=
  (tileLanes x.prot x.w m.2).foldl (fun s l => s.updThread iss.team m.1 l fun th =>
    { th with skipped := th.skipped.filter (· != iss.at_) }) s

/-- Results of a cross-lane word in one thread: the registers written and the flags raised. -/
structure XRes where
  ws : List (Word × Tag)
  fl : FpFlags := 0
  ist : IntFlags := 0

/-- The cross-lane word `i` completes in every thread of its bundle with results that `rule` allows, when no flag they
raise is enabled to trap. -/
def CrossWrites (i : Instr) (fm : Issue → Form) (value : Issue → Ctx → Option Nat) (o : Issue → Opnd)
    (rule : XTile → Ctx → XRes → Prop) : Prop :=
  ∀ (s : State) (iss : Issue) (t : Team), Gathers s iss t (fm iss) (value iss) →
    ∃ res : Nat × Nat → XRes, (∀ m ∈ iss.actors t, rule (iss.tile s t m) ⟨t, m.1, m.2, iss⟩ (res m)) ∧
      ((∀ m ∈ iss.actors t, (t.thread m.1 m.2).untrapped (res m).fl (res m).ist) →
        Completes i s fun s' => (iss.actors t).foldl (fun s' m =>
          Ctx.write ⟨t, m.1, m.2, iss⟩ (o iss) (res m).ws (res m).fl (res m).ist (s'.rejoin iss m (iss.tile s t m))) s')

/-- What a thread's flags come to: the word is done there, or one of them is enabled to trap (R142, R144). -/
def Thread.outcome (th : Thread) (r : XRes) : LaneRes :=
  if r.fl &&& th.fpTraps ≠ 0 then .trap 0x07 else if th.idte = true ∧ r.ist &&& 3 ≠ 0 then .trap 0x08 else .done

/-- A thread takes its results, or the flags of its trap alone. -/
def XRes.take (r : XRes) (c : Ctx) (o : Opnd) (s : State) : State :=
  match c.th.outcome r with
  | .trap 0x07 => c.iss.setFlags (c.w, c.l) r.fl 0 s
  | .trap _ => c.iss.setFlags (c.w, c.l) 0 r.ist s
  | _ => Ctx.write c o r.ws r.fl r.ist s

/-- The cross-lane word `i` with results that `rule` allows, whole: each thread of its bundle takes its results and goes on, or
takes its flags alone and traps. -/
def CrossTraps (i : Instr) (fm : Issue → Form) (value : Issue → Ctx → Option Nat) (o : Issue → Opnd)
    (rule : XTile → Ctx → XRes → Prop) : Prop :=
  ∀ (s : State) (iss : Issue) (t : Team), Gathers s iss t (fm iss) (value iss) →
    ∃ res : Nat × Nat → XRes, (∀ m ∈ iss.actors t, rule (iss.tile s t m) ⟨t, m.1, m.2, iss⟩ (res m)) ∧
      exec i s = .next (iss.finish (fm iss).len
        ((iss.actors t).map fun m => (m, (t.thread m.1 m.2).outcome (res m), (0 : Word)))
        ((iss.actors t).foldl (fun s' m =>
          (res m).take ⟨t, m.1, m.2, iss⟩ (o iss) (s'.rejoin iss m (iss.tile s t m))) { s with issue := none }))

/-! ### Invariants -/

/-- Memory and the scratchpads of all teams have their canonical form (log 1). -/
def State.MemOk (s : State) : Prop := Memory.wf s.mem = true ∧ ∀ t ∈ s.teams, Memory.wf t.scratch = true

end Sys2Proof.Machine
end

