-- ==== Sys2Proof/Certificates/Slice0/Obligations.lean ====
section
/-! DEFINITION. The statements about the model. A statement about words says what one word does in the one place where it
acts (`Acts`), once it has passed the checks of R102 (`Form.clear`): the data of the next state are given whole, so that
whatever the statement does not name is unchanged. -/

namespace Sys2Proof.Machine

/-! ### Integer words -/

/-- A word of two sources and what its rule says of a result: a, b, the result and the integer flags. -/
structure TwoSource where
  op : A3 → Instr
  ta : Option (List Tag)
  tb : Option (List Tag)
  tag : Tag → Tag
  rule : Word → Word → Word → IntFlags → Prop

def TwoSource.form (r : TwoSource) (f : A3) (iss : Issue) : Form := f.form iss (r.op f).wf true false r.ta r.tb none

/-- The result that the rule of a two-source word gives, with its tag. -/
def TwoSource.gives (r : TwoSource) (f : A3) (c : Ctx) (ws : List (Word × Tag)) (fl : FpFlags) (ist : IntFlags) : Prop :=
  ∃ x, ws = [(x, r.tag (c.tag (f.srcA c.iss r.ta)))] ∧ fl = 0 ∧
    r.rule (c.rd (f.srcA c.iss r.ta)) (c.rd (f.srcB c.iss r.tb)) x ist

/-- The two-source word writes the result its rule gives. -/
def TwoSource.writes (r : TwoSource) : Prop := ∀ f : A3, WritesOne (r.op f) (r.form f) f.dst (r.gives f)

/-- A word of one source. -/
structure OneSource where
  op : A3 → Instr
  ta : Option (List Tag)
  tag : Tag → Tag
  rule : Word → Word → Prop

def OneSource.writes (r : OneSource) : Prop :=
  ∀ f : A3, WritesOne (r.op f) (fun iss => f.form iss (r.op f).wf false false r.ta none none) f.dst
    fun c ws fl ist => ∃ x, ws = [(x, r.tag (c.tag (f.srcA c.iss r.ta)))] ∧ fl = 0 ∧ ist = 0 ∧
      r.rule (c.rd (f.srcA c.iss r.ta)) x

/-- Clipped to a range, with SAT exactly when it is clipped (R143). -/
def clips (lo hi v x : Int) (ist : IntFlags) : Prop :=
  x = max lo (min hi v) ∧ ist = if x = v then 0 else flagSAT

/-- R144: the quotient and the remainder of a division by something other than the two corner cases. -/
def quotients (a b q : Int) : Prop := q.natAbs = a.natAbs / b.natAbs ∧ 0 ≤ q * (a * b)

/-- The integer arithmetic of R169. -/
def integerArithmetic : List TwoSource := [
  ⟨.iadd, tIN, tIN, fun _ => .i32, fun a b x ist => x.toNat = (a.toNat + b.toNat) % 2 ^ 32 ∧ ist = 0⟩,
  ⟨.isub, tIN, tIN, fun _ => .i32, fun a b x ist => (x.toNat + b.toNat) % 2 ^ 32 = a.toNat ∧ ist = 0⟩,
  ⟨.iadds, tI, tI, fun _ => .i32, fun a b x ist => clips (-2 ^ 31) (2 ^ 31 - 1) (a.toInt + b.toInt) x.toInt ist⟩,
  ⟨.nadds, tN, tN, fun _ => .n32, fun a b x ist => clips 0 (2 ^ 32 - 1) (a.toNat + b.toNat) x.toNat ist⟩,
  ⟨.isubs, tI, tI, fun _ => .i32, fun a b x ist => clips (-2 ^ 31) (2 ^ 31 - 1) (a.toInt - b.toInt) x.toInt ist⟩,
  ⟨.nsubs, tN, tN, fun _ => .n32, fun a b x ist => clips 0 (2 ^ 32 - 1) (a.toNat - b.toNat) x.toNat ist⟩,
  ⟨.imul, tIN, tIN, fun _ => .i32, fun a b x ist => x.toNat = a.toNat * b.toNat % 2 ^ 32 ∧ ist = 0⟩,
  ⟨.imulh, tI, tI, fun _ => .i32, fun a b x ist => x.toInt = a.toInt * b.toInt / 2 ^ 32 ∧ ist = 0⟩,
  ⟨.nmulh, tN, tN, fun _ => .n32, fun a b x ist => x.toNat = a.toNat * b.toNat / 2 ^ 32 ∧ ist = 0⟩,
  ⟨.imin, tI, tI, fun _ => .i32, fun a b x ist => x.toInt = min a.toInt b.toInt ∧ ist = 0⟩,
  ⟨.imax, tI, tI, fun _ => .i32, fun a b x ist => x.toInt = max a.toInt b.toInt ∧ ist = 0⟩,
  ⟨.nmin, tN, tN, fun _ => .n32, fun a b x ist => x.toNat = min a.toNat b.toNat ∧ ist = 0⟩,
  ⟨.nmax, tN, tN, fun _ => .n32, fun a b x ist => x.toNat = max a.toNat b.toNat ∧ ist = 0⟩]

/-- The divisions of R144: zero divisor, the overflow, and the rest. -/
def integerDivision : List TwoSource := [
  ⟨.idiv, tI, tI, fun _ => .i32, fun a b x ist =>
    (b = 0 → x = 0xFFFFFFFF ∧ ist = flagDZI) ∧ (a = 0x80000000 → b = 0xFFFFFFFF → x = 0x80000000 ∧ ist = flagDOV) ∧
    (b ≠ 0 → ¬(a = 0x80000000 ∧ b = 0xFFFFFFFF) → quotients a.toInt b.toInt x.toInt ∧ ist = 0)⟩,
  ⟨.ndiv, tN, tN, fun _ => .n32, fun a b x ist =>
    (b = 0 → x = 0xFFFFFFFF ∧ ist = flagDZI) ∧ (b ≠ 0 → x.toNat = a.toNat / b.toNat ∧ ist = 0)⟩,
  ⟨.irem, tI, tI, fun _ => .i32, fun a b x ist =>
    (b = 0 → x = a ∧ ist = flagDZI) ∧ (a = 0x80000000 → b = 0xFFFFFFFF → x = 0 ∧ ist = flagDOV) ∧
    (b ≠ 0 → ¬(a = 0x80000000 ∧ b = 0xFFFFFFFF) →
      (∃ q, quotients a.toInt b.toInt q ∧ x.toInt = a.toInt - q * b.toInt) ∧ ist = 0)⟩,
  ⟨.nrem, tN, tN, fun _ => .n32, fun a b x ist =>
    (b = 0 → x = a ∧ ist = flagDZI) ∧ (b ≠ 0 → x.toNat = a.toNat % b.toNat ∧ ist = 0)⟩]

/-- The bitwise words of R169 and the shifts and extractions of R170, bit by bit or as arithmetic. -/
def integerBits : List TwoSource := [
  ⟨.and, tINM, tINM, tagL, fun a b x ist => (∀ i, x.getLsbD i = (a.getLsbD i && b.getLsbD i)) ∧ ist = 0⟩,
  ⟨.or, tINM, tINM, tagL, fun a b x ist => (∀ i, x.getLsbD i = (a.getLsbD i || b.getLsbD i)) ∧ ist = 0⟩,
  ⟨.xor, tINM, tINM, tagL, fun a b x ist => (∀ i, x.getLsbD i = (a.getLsbD i != b.getLsbD i)) ∧ ist = 0⟩,
  ⟨.andn, tINM, tINM, tagL, fun a b x ist => (∀ i, x.getLsbD i = (a.getLsbD i && !b.getLsbD i)) ∧ ist = 0⟩,
  ⟨.shl, tINM, tIN, tagL, fun a b x ist => x.toNat = a.toNat * 2 ^ b.toNat % 2 ^ 32 ∧ ist = 0⟩,
  ⟨.shr, tINM, tIN, tagL, fun a b x ist => x.toNat = a.toNat / 2 ^ b.toNat ∧ ist = 0⟩,
  ⟨.sar, tINM, tIN, tagL, fun a b x ist => x.toInt = a.toInt / 2 ^ b.toNat ∧ ist = 0⟩,
  ⟨.rol, tINM, tIN, tagL, fun a b x ist =>
    (∀ i < 32, x.getLsbD ((i + b.toNat) % 32) = a.getLsbD i) ∧ ist = 0⟩,
  ⟨.bfxn, tINM, tIN, fun _ => .n32, fun a b x ist =>
    (∀ i, x.getLsbD i = (decide (i < fieldLen b) && a.getLsbD (fieldPos b + i))) ∧ ist = 0⟩,
  ⟨.bfxi, tINM, tIN, fun _ => .i32, fun a b x ist =>
    (∀ i < 32, x.getLsbD i = (decide (fieldLen b ≠ 0) && a.getLsbD (fieldPos b + min i (fieldLen b - 1)))) ∧ ist = 0⟩]

/-- The one-source integer words of R169. -/
def integerUnary : List OneSource := [
  ⟨.iabs, tI, fun _ => .i32, fun a x => x.toNat = a.toInt.natAbs⟩,
  ⟨.ineg, tIN, fun _ => .i32, fun a x => (x.toNat + a.toNat) % 2 ^ 32 = 0⟩,
  ⟨.not, tINM, tagL, fun a x => ∀ i < 32, x.getLsbD i = !a.getLsbD i⟩,
  ⟨.popc, tINM, fun _ => .n32, fun a x => x.toNat = ((List.range 32).filter fun i => a.getLsbD i).length⟩,
  ⟨.clz, tINM, fun _ => .n32, fun a x => x.toNat ≤ 32 ∧ (∀ i < x.toNat, a.getLsbD (31 - i) = false) ∧
    (x.toNat < 32 → a.getLsbD (31 - x.toNat) = true)⟩,
  ⟨.brev, tINM, tagL, fun a x => ∀ i < 32, x.getLsbD i = a.getLsbD (31 - i)⟩]

/-- IMAD and BFI read their destination too (R169, R170): a, b, the old d and the result. -/
def readsDest (mk : A3 → Instr) (ta tb td : Option (List Tag)) (tag : Tag → Tag) (rule : Word → Word → Word → Word → Prop) :
    Prop :=
  ∀ f : A3, WritesOne (mk f) (fun iss => f.form iss (mk f).wf true true ta tb td) f.dst
    fun c ws fl ist => ∃ x, ws = [(x, tag (c.tag (f.dst c.iss)))] ∧ fl = 0 ∧ ist = 0 ∧
      rule (c.rd (f.srcA c.iss ta)) (c.rd (f.srcB c.iss tb)) (c.rd (f.dst c.iss)) x

/-- A word with a 10-bit immediate (R171): the source, the immediate and the result. -/
structure ImmWord where
  op : AI → Instr
  ta : Option (List Tag)
  tag : Tag → Tag
  rule : Word → BitVec 10 → Word → Prop

/-- A source and a destination of a word with an immediate. -/
def AI.src (f : AI) (iss : Issue) : Opnd := iss.reg (iss.aF f.a)
def AI.dst (f : AI) (iss : Issue) : Opnd := (iss.reg (iss.dF f.d)).dst

def ImmWord.writes (r : ImmWord) : Prop :=
  ∀ f : AI, WritesOne (r.op f) (fun iss => f.form iss (r.op f).wf r.ta) (AI.dst f)
    fun c ws fl ist => ∃ x, ws = [(x, r.tag (c.tag (AI.src f c.iss)))] ∧ fl = 0 ∧ ist = 0 ∧
      r.rule (c.rd (AI.src f c.iss)) f.imm x

def integerImmediate : List ImmWord := [
  ⟨.iaddi, tIN, fun _ => .i32, fun a m x => ∃ k : Int, (x.toNat : Int) = a.toNat + m.toInt + 2 ^ 32 * k⟩,
  ⟨.imuli, tIN, fun _ => .i32, fun a m x => ∃ k : Int, (x.toNat : Int) = a.toNat * m.toInt + 2 ^ 32 * k⟩,
  ⟨.andi, tINM, tagL, fun a m x => ∀ i < 32, x.getLsbD i = (a.getLsbD i && m.getLsbD (min i 9))⟩,
  ⟨.ori, tINM, tagL, fun a m x => ∀ i < 32, x.getLsbD i = (a.getLsbD i || m.getLsbD (min i 9))⟩,
  ⟨.xori, tINM, tagL, fun a m x => ∀ i < 32, x.getLsbD i = (a.getLsbD i != m.getLsbD (min i 9))⟩,
  ⟨.shli, tINM, tagL, fun a m x => x.toNat = a.toNat * 2 ^ m.toNat % 2 ^ 32⟩,
  ⟨.shri, tINM, tagL, fun a m x => x.toNat = a.toNat / 2 ^ m.toNat⟩,
  ⟨.sari, tINM, tagL, fun a m x => x.toInt = a.toInt / 2 ^ m.toNat⟩]

/-- A word whose form has the given operands, with no check of its own: group 0x00 to 0x72 or 0x90 to 0x96. -/
def aluForm (i : Instr) (past : Issue → Bool) (os : Issue → List Opnd) (iss : Issue) : Form :=
  { grp := .alu, wf := i.wf, past := past iss, os := os iss }

/-- The bit a predicate operand receives (R168). -/
def oneBit (ws : List (Word × Tag)) (b : Prop) : Prop := ∃ x : Word, ws = [(x, .raw)] ∧ (x = 1 ∨ x = 0) ∧ (x = 1 ↔ b)

/-- The conditions of R105 that integer compares use, on two numbers. -/
def intCondition (cond : Nat) (a b : Int) : Prop :=
  match cond with
  | 0 => a = b | 1 => a ≠ b | 2 => a < b | 3 => a ≤ b | 4 => b < a | 5 => b ≤ a | 14 => True | _ => False

/-- A compare with a predicate destination (R173): how it reads its sources. -/
def Compares (mk : P3 → Instr) (tags : Option (List Tag)) (read : Word → Int) : Prop :=
  ∀ f : P3, intCond f.cond = true → WritesOne (mk f) (fun iss => f.form iss (mk f).wf tags tags) f.pdst
    fun c ws fl ist => fl = 0 ∧ ist = 0 ∧
      oneBit ws (intCondition f.cond.toNat (read (c.rd (f.srcA c.iss tags))) (read (c.rd (f.srcB c.iss tags))))

/-! ### Address words (R174) -/

/-- A 64-bit result in a pair, both halves ADDR. -/
def pairOf (ws : List (Word × Tag)) (x : Nat) : Prop :=
  ∃ lo hi : Word, ws = [(lo, .addr), (hi, .addr)] ∧ lo.toNat + 2 ^ 32 * hi.toNat = x % 2 ^ 64

/-- A pair operand. -/
def Opnd.pair (o : Opnd) : Opnd := o.grp 2 2

end Sys2Proof.Machine

open Sys2Proof Sys2Proof.Machine

/-- R169, R143: the integer arithmetic words write the wrapped, saturated or high result exactly, and raise SAT exactly
when they clip. -/
def Obligations.IntegerArithmeticIsExact : Prop := ∀ r ∈ integerArithmetic, r.writes

/-- R169, R170: the bitwise words, shifts and field extractions, bit by bit. -/
def Sys2Proof.Machine.BitwiseWordsAndShiftsActBitByBit : Prop := ∀ r ∈ integerBits, r.writes

/-- R169: the one-source integer words. -/
def Sys2Proof.Machine.UnaryIntegerWordsWriteTheirResult : Prop := ∀ r ∈ integerUnary, r.writes

/-- R169, R170: IMAD multiplies and adds its destination; BFI replaces a field of it and keeps the rest. -/
def Sys2Proof.Machine.ImadAndBfiReadTheirDestination : Prop :=
  readsDest .imad tIN tIN tIN (fun _ => .i32)
    (fun a b d x => x.toNat = (a.toNat * b.toNat + d.toNat) % 2 ^ 32) ∧
  readsDest .bfi tINM tIN tINM tagL (fun a b d x => ∀ i < 32, x.getLsbD i =
    if fieldPos b ≤ i ∧ i < fieldPos b + fieldLen b then a.getLsbD (i - fieldPos b) else d.getLsbD i)

/-- R171, R172: the words with an immediate, MOVI and MOVH. -/
def Sys2Proof.Machine.ImmediateWordsWriteTheirResult : Prop :=
  (∀ r ∈ integerImmediate, r.writes) ∧
  (∀ f : AW, WritesOne (.movi f) (aluForm (.movi f) (fun iss => iss.past (iss.dF f.d) 0 0) fun iss => [(iss.reg (iss.dF f.d)).dst])
    (fun iss => (iss.reg (iss.dF f.d)).dst)
    fun _ ws fl ist => ∃ x : Word, ws = [(x, .i32)] ∧ x.toInt = f.imm.toInt ∧ fl = 0 ∧ ist = 0) ∧
  ∀ f : AW, WritesOne (.movh f)
    (aluForm (.movh f) (fun iss => iss.past (iss.dF f.d) 0 0) fun iss => [{ (iss.reg (iss.dF f.d)).dst with rd := true }])
    (fun iss => (iss.reg (iss.dF f.d)).dst)
    fun c ws fl ist => let d := (c.iss.reg (c.iss.dF f.d)).dst
      ∃ x : Word, ws = [(x, c.tag d)] ∧ fl = 0 ∧ ist = 0 ∧
        x.toNat = (f.imm.toNat % 2 ^ 16) * 2 ^ 16 + (c.rd d).toNat % 2 ^ 16

/-- R105, R168, R173, R174: the compares write the condition's truth into their predicate. -/
def Sys2Proof.Machine.IntegerComparesWriteTheCondition : Prop :=
  Compares .icmp tI BitVec.toInt ∧ Compares .ncmp (some [.n32, .mask]) (fun x => x.toNat) ∧
  (∀ f : PI, intCond f.cond = true → WritesOne (.icmpi f)
    (aluForm (.icmpi f) (fun iss => pdOver iss f.pd || iss.past 0 (iss.aF f.a) 0)
      fun iss => [(iss.reg (iss.aF f.a)).src tI, (iss.prd (iss.pdF f.pd)).dst])
    (fun iss => (iss.prd (iss.pdF f.pd)).dst)
    fun c ws fl ist => fl = 0 ∧ ist = 0 ∧
      oneBit ws (intCondition f.cond.toNat (c.rd ((c.iss.reg (c.iss.aF f.a)).src tI)).toInt f.imm.toInt)) ∧
  ∀ f : P3, intCond f.cond = true → WritesOne (.acmp f)
    (aluForm (.acmp f) f.past fun iss => [(f.srcA iss tA).pair, (f.srcB iss tA).pair, f.pdst iss]) f.pdst
    fun c ws fl ist => fl = 0 ∧ ist = 0 ∧
      oneBit ws (intCondition f.cond.toNat (c.pair (f.srcA c.iss tA)) (c.pair (f.srcB c.iss tA)))

/-- R174: the address words compute modulo 2^64 on pairs; AMOV keeps the bits and tags of both halves. -/
def Sys2Proof.Machine.AddressWordsComputeModulo64Bits : Prop :=
  (∀ x ∈ [(Instr.aadd, fun a b => a + b), (Instr.asub, fun a b => a + (2 ^ 64 - b))], ∀ f : A3,
    WritesOne (x.1 f) (aluForm (x.1 f) f.past fun iss => [(f.srcA iss tA).pair, (f.srcB iss tA).pair, (f.dst iss).pair])
      (fun iss => (f.dst iss).pair)
      fun c ws fl ist => fl = 0 ∧ ist = 0 ∧ pairOf ws (x.2 (c.pair (f.srcA c.iss tA)) (c.pair (f.srcB c.iss tA)))) ∧
  (∀ x ∈ [(Instr.aaddi, fun (a : Nat) (m : BitVec 10) => ((a : Int) + m.toInt) % 2 ^ 64),
      (Instr.ashl, fun (a : Nat) (m : BitVec 10) => (a : Int) * 2 ^ m.toNat % 2 ^ 64)], ∀ f : AI,
    WritesOne (x.1 f) (aluForm (x.1 f) (fun iss => iss.past (iss.dF f.d) (iss.aF f.a) 0)
        fun iss => [((iss.reg (iss.aF f.a)).src tA).pair, (AI.dst f iss).pair])
      (fun iss => (AI.dst f iss).pair)
      fun c ws fl ist => fl = 0 ∧ ist = 0 ∧ pairOf ws (x.2 (c.pair ((c.iss.reg (c.iss.aF f.a)).src tA)) f.imm).toNat) ∧
  (∀ x ∈ [(Instr.aexti, tI, fun (a : Word) => a.toInt % 2 ^ 64), (Instr.aextn, tN, fun (a : Word) => (a.toNat : Int))],
    ∀ f : A3, WritesOne (x.1 f) (aluForm (x.1 f) f.past fun iss => [f.srcA iss x.2.1, (f.dst iss).pair])
      (fun iss => (f.dst iss).pair)
      fun c ws fl ist => fl = 0 ∧ ist = 0 ∧ pairOf ws (x.2.2 (c.rd (f.srcA c.iss x.2.1))).toNat) ∧
  ∀ f : A3, WritesOne (.amov f) (aluForm (.amov f) f.past fun iss => [(f.srcA iss none).pair, (f.dst iss).pair])
    (fun iss => (f.dst iss).pair)
    fun c ws fl ist => fl = 0 ∧ ist = 0 ∧
      ws = [(c.rd (f.srcA c.iss none), c.tag (f.srcA c.iss none)), (c.rd (f.srcA c.iss none) 1, c.tag (f.srcA c.iss none) 1)]

/-- R144: with IDTE set, a division that raises DZI or DOV sets the flag, writes no register and takes cause 0x08. -/
def Sys2Proof.Machine.DivisionTrapsWhenEnabled : Prop :=
  ∀ r ∈ integerDivision, ∀ (f : A3) (s : State) (iss : Issue) (t : Team) (w l : Nat), Acts s iss t w l →
    (f.form iss (r.op f).wf true false r.ta r.tb none).clear (fun _ => none) ⟨t, w, l, iss⟩ →
    (t.thread w l).idte = true → ∀ x ist, ist &&& 3 ≠ 0 →
    r.rule (Ctx.rd ⟨t, w, l, iss⟩ (f.srcA iss r.ta)) (Ctx.rd ⟨t, w, l, iss⟩ (f.srcB iss r.tb)) x ist →
    exec (r.op f) s = .next (iss.deliverTraps ((iss.lanes t (w, l)).map fun m => (m, 0x08, 0))
      (iss.setFlags (w, l) 0 ist { s with issue := none }))

/-- R144: IDIV, NDIV, IREM and NREM write the tabled results and set the tabled flags in sr.ist; when sr.fpctl.IDTE is 1 and
a flag arises, the thread takes cause 0x08 instead, with the flag in sr.ist and no destination written. -/
def Obligations.DivisionGivesTheTabledResults : Prop := (∀ r ∈ integerDivision, r.writes) ∧ Sys2Proof.Machine.DivisionTrapsWhenEnabled

namespace Sys2Proof.Machine

/-! ### Floating point -/

/-- An F32 word: RM, the operands and the result with its flags. -/
structure FpWord where
  op : A3 → Instr
  /-- It has a b source, and reads its destination as a third operand. -/
  two : Bool
  three : Bool := false
  val : Nat → Nat → Nat → Nat → FpRes

def FpWord.form (r : FpWord) (f : A3) (iss : Issue) : Form :=
  f.form iss (r.op f).wf r.two r.three tF (if r.two then tF else none) (if r.three then tF else none)

/-- What the F32 word delivers of its operands. -/
def FpWord.res (r : FpWord) (f : A3) (c : Ctx) : FpRes :=
  r.val c.th.rm (c.rd (f.srcA c.iss tF)).toNat (c.rd (f.srcB c.iss tF)).toNat (c.rd (f.dst c.iss)).toNat

/-- The delivered value, tagged F32, and the flags it raises (R140 to R142). -/
def FpWord.gives (r : FpWord) (f : A3) (c : Ctx) (ws : List (Word × Tag)) (fl : FpFlags) (ist : IntFlags) : Prop :=
  ws = [(wordOf (r.res f c), .f32)] ∧ fl = (r.res f c).fl ∧ ist = 0

/-- The F32 word writes the delivered value. -/
def FpWord.writes (r : FpWord) : Prop := ∀ f : A3, WritesOne (r.op f) (r.form f) f.dst (r.gives f)

/-- R175 to R177 and R179: what each F32 word delivers. -/
def fpWords : List FpWord := [
  ⟨.fadd, true, false, fun rm a b _ => deliverOpt fmtF32 rm (addExact rm (unpack fmtF32 a) (unpack fmtF32 b))⟩,
  ⟨.fsub, true, false, fun rm a b _ => deliverOpt fmtF32 rm (subExact rm (unpack fmtF32 a) (unpack fmtF32 b))⟩,
  ⟨.fmul, true, false, fun rm a b _ => deliverOpt fmtF32 rm (mulExact (unpack fmtF32 a) (unpack fmtF32 b))⟩,
  ⟨.ffma, true, true, fun rm a b d => fmaNum fmtF32 rm false (unpack fmtF32 a) (unpack fmtF32 b) (unpack fmtF32 d)⟩,
  ⟨.ffms, true, true, fun rm a b d => fmaNum fmtF32 rm true (unpack fmtF32 a) (unpack fmtF32 b) (unpack fmtF32 d)⟩,
  ⟨.fdiv, true, false, fun rm a b _ => fpDiv fmtF32 rm a b⟩,
  ⟨.fmin, true, false, fun _ a b _ => fpMinMax fmtF32 false a b⟩,
  ⟨.fmax, true, false, fun _ a b _ => fpMinMax fmtF32 true a b⟩,
  ⟨.famax, true, false, fun _ a b _ => fpMinMax fmtF32 true (a % 2 ^ 31) (b % 2 ^ 31)⟩,
  ⟨.fsqrt, false, false, fun rm a _ _ => fpSqrt fmtF32 rm a⟩,
  ⟨.frcp, false, false, fun rm a _ _ => fpRcp fmtF32 rm a⟩,
  ⟨.frsq, false, false, fun rm a _ _ => fpRsq fmtF32 rm a⟩,
  ⟨.fexp2, false, false, fun rm a _ _ => fpExp2 fmtF32 rm a⟩,
  ⟨.flog2, false, false, fun rm a _ _ => fpLog2 fmtF32 rm a⟩,
  ⟨.fsint, false, false, fun rm a _ _ => fpSinTurn fmtF32 rm a⟩,
  ⟨.fcost, false, false, fun rm a _ _ => fpCosTurn fmtF32 rm a⟩,
  ⟨.ftanh, false, false, fun rm a _ _ => fpTanh fmtF32 rm a⟩,
  ⟨.fsat, false, false, fun _ a _ _ => fpSat fmtF32 a⟩]

/-- A packed half word: the tag of its operands and what it delivers for one element. -/
structure PackedWord where
  op : A3 → Instr
  three : Bool
  tag : Tag
  val : Nat → Nat → Nat → Nat → FpRes

/-- The two halves of a register. -/
def loHalf (w : Word) : Nat := w.toNat % 2 ^ 16
def hiHalf (w : Word) : Nat := w.toNat / 2 ^ 16

def PackedWord.form (r : PackedWord) (f : A3) (iss : Issue) : Form :=
  f.form iss (r.op f).wf true r.three (some [r.tag]) (some [r.tag]) (if r.three then some [r.tag] else none)

/-- What a packed word delivers of one element of its operands, `half` picking it. -/
def PackedWord.res (r : PackedWord) (f : A3) (c : Ctx) (half : Word → Nat) : FpRes :=
  r.val c.th.rm (half (c.rd (f.srcA c.iss none))) (half (c.rd (f.srcB c.iss none))) (half (c.rd (f.dst c.iss)))

/-- R180: each element by itself, the flags of both ORed. -/
def PackedWord.gives (r : PackedWord) (f : A3) (c : Ctx) (ws : List (Word × Tag)) (fl : FpFlags) (ist : IntFlags) : Prop :=
  ∃ x : Word, ws = [(x, r.tag)] ∧ loHalf x = (r.res f c loHalf).bits ∧ hiHalf x = (r.res f c hiHalf).bits ∧
    fl = (r.res f c loHalf).fl ||| (r.res f c hiHalf).fl ∧ ist = 0

def PackedWord.writes (r : PackedWord) : Prop := ∀ f : A3, WritesOne (r.op f) (r.form f) f.dst (r.gives f)

def packedWords : List PackedWord := [
  ⟨.hadd2, false, .f16x2, fun rm a b _ => fpAdd fmtF16 rm a b⟩,
  ⟨.hmul2, false, .f16x2, fun rm a b _ => fpMul fmtF16 rm a b⟩,
  ⟨.hfma2, true, .f16x2, fun rm a b d => fpFma fmtF16 rm a b d⟩,
  ⟨.hmin2, false, .f16x2, fun _ a b _ => fpMinMax fmtF16 false a b⟩,
  ⟨.hmax2, false, .f16x2, fun _ a b _ => fpMinMax fmtF16 true a b⟩,
  ⟨.badd2, false, .b16x2, fun rm a b _ => fpAdd fmtB16 rm a b⟩,
  ⟨.bmul2, false, .b16x2, fun rm a b _ => fpMul fmtB16 rm a b⟩,
  ⟨.bfma2, true, .b16x2, fun rm a b d => fpFma fmtB16 rm a b d⟩]

/-- The rational a finite value stands for. -/
def Num.rat : Num → ℚ
  | .fin neg m e => (if neg then -1 else 1) * m * (2 : ℚ) ^ e
  | _ => 0

/-- The value of a magnitude's bits in a format, continued past the largest finite one. -/
def Fmt.val (f : Fmt) (q : Nat) : ℚ := (unpackMag f q).rat where
  unpackMag (f : Fmt) (q : Nat) : Num :=
    if q / 2 ^ f.fracBits = 0 then .fin false q (f.emin - f.fracBits)
    else .fin false (q % 2 ^ f.fracBits + 2 ^ f.fracBits) (f.emin - f.fracBits + (q / 2 ^ f.fracBits - 1 : Nat))

/-- The magnitude `q` is `x` rounded in the format, the sign `neg` in front (R140): nearest with ties to even, toward
zero, down or up; the bits of infinity stand for the next power of two. -/
def Fmt.rounds (f : Fmt) (rm : Nat) (neg : Bool) (x : ℚ) (q : Nat) : Prop :=
  q ≤ f.infBits ∧
  if rm = 0 then ∀ p ≤ f.infBits, |x - f.val q| ≤ |x - f.val p| ∧ (|x - f.val q| = |x - f.val p| → p ≠ q → q % 2 = 0)
  else if rm = 1 ∨ (rm = 2 ∧ neg = false) ∨ (rm = 3 ∧ neg = true) then
    f.val q ≤ x ∧ q ≤ f.maxBits ∧ (q = f.maxBits ∨ x < f.val (q + 1))
  else (x ≤ f.val q ∨ q = f.infBits) ∧ (q = 0 ∨ f.val (q - 1) < x)

/-- The exact value is below the smallest normal number after rounding to the precision as if the exponent were unbounded
(R142, tiny). -/
def Fmt.tiny (f : Fmt) (rm : Nat) (neg : Bool) (x : ℚ) : Prop :=
  let lim : ℚ := (2 : ℚ) ^ f.emin
  let ulp : ℚ := (2 : ℚ) ^ (f.emin - f.prec)
  if rm = 0 then x < lim - ulp / 2
  else if rm = 1 ∨ (rm = 2 ∧ neg = false) ∨ (rm = 3 ∧ neg = true) then x < lim
  else x ≤ lim - ulp

/-- A delivered result is the exact positive magnitude `x` rounded, with the flags R142 gives it. -/
def Fmt.delivers (f : Fmt) (rm : Nat) (neg : Bool) (x : ℚ) (r : FpRes) : Prop :=
  ∃ q, r.bits = signed f neg q ∧ f.rounds rm neg x q ∧
    (r.fl.getLsbD 4 = true ↔ f.val q ≠ x ∨ q = f.infBits) ∧
    (r.fl.getLsbD 3 = true ↔ f.val q ≠ x ∧ f.tiny rm neg x) ∧
    (r.fl.getLsbD 2 = true ↔ q = f.infBits ∨ f.val f.infBits ≤ x) ∧
    r.fl.getLsbD 1 = false ∧ r.fl.getLsbD 0 = false

/-- The condition of R105 on F32 operands, `none` for unordered. -/
def fpCondition (cond : Nat) (o : Option Ordering) : Prop :=
  match cond with
  | 0 => o = some .eq | 1 => o ≠ some .eq | 2 => o = some .lt | 3 => o = some .lt ∨ o = some .eq | 4 => o = some .gt
  | 5 => o = some .gt ∨ o = some .eq | 6 => o ≠ none | 7 => o = none | 8 => o = none ∨ o = some .eq
  | 9 => o = some .lt ∨ o = some .gt | 10 => o = none ∨ o = some .lt | 11 => o ≠ some .gt | 12 => o = none ∨ o = some .gt
  | 13 => o ≠ some .lt | 14 => True | _ => False

end Sys2Proof.Machine

/-- R175 to R177, R179: the F32 words complete with the delivered value; whether the value is the rounded exact one is
stated by RoundingIsCorrect, ExactSumsAndProducts and QuotientsAreCorrectlyRounded. -/
def Obligations.FloatWordsWriteTheDeliveredValue : Prop := ∀ r ∈ fpWords, r.writes

/-- R180: the packed words work on their two elements separately. -/
def Sys2Proof.Machine.PackedWordsActOnEachElement : Prop := ∀ r ∈ packedWords, r.writes

/-- R140, R142: an exact nonzero value is rounded once, with OF, UF and NX exactly as R142 says, in F32, F16 and B16 and
every mode. -/
def Obligations.RoundingIsCorrect : Prop :=
  ∀ f ∈ [fmtF32, fmtF16, fmtB16], ∀ rm < 4, ∀ (neg : Bool) (m : Nat) (e : Int), 0 < m →
    f.delivers rm neg (m * (2 : ℚ) ^ e) (roundMag f rm neg m e false)

/-- R175: sums and products of finite values are exact before they are rounded; an exact zero sum has the sign R175
gives it. -/
def Sys2Proof.Machine.ExactSumsAndProducts : Prop :=
  ∀ (rm : Nat) (na nb : Bool) (ma mb : Nat) (ea eb : Int),
    (∃ n m e, addExact rm (.fin na ma ea) (.fin nb mb eb) = some (.fin n m e) ∧
      (Num.fin n m e).rat = (Num.fin na ma ea).rat + (Num.fin nb mb eb).rat ∧
      (m = 0 → n = (rm == 2 || (na && ma == 0 && nb && mb == 0)))) ∧
    (∃ n m e, subExact rm (.fin na ma ea) (.fin nb mb eb) = some (.fin n m e) ∧
      (Num.fin n m e).rat = (Num.fin na ma ea).rat - (Num.fin nb mb eb).rat ∧
      (m = 0 → n = (rm == 2 || (na && ma == 0 && nb && mb == 0)))) ∧
    ∃ n m e, mulExact (.fin na ma ea) (.fin nb mb eb) = some (.fin n m e) ∧
      (Num.fin n m e).rat = (Num.fin na ma ea).rat * (Num.fin nb mb eb).rat ∧ n = (na != nb)

/-- R140, R175, R177: FDIV's quotient of finite nonzero values and FRCP's reciprocal are correctly rounded. -/
def Sys2Proof.Machine.QuotientsAreCorrectlyRounded : Prop :=
  ∀ rm < 4, ∀ (neg : Bool) (num den : Nat) (e : Int), 0 < num → num < 2 ^ 24 → 0 < den → den < 2 ^ 24 →
    fmtF32.delivers rm neg (num / den * (2 : ℚ) ^ e) (roundFrac fmtF32 rm neg num den e)

/-- R141, R177 to R179: the words on signs, classes, compares, integral values and exponents. -/
def Sys2Proof.Machine.FloatBitAndClassWords : Prop :=
  (∀ f : A3, WritesOne (.fabs f) (fun iss => f.form iss (Instr.fabs f).wf false false none none none) f.dst
    fun c ws fl ist => let a := f.srcA c.iss none
      fl = 0 ∧ ist = 0 ∧ ∃ x, ws = [(x, c.tag a)] ∧ ∀ i, x.getLsbD i = (decide (i ≠ 31) && (c.rd a).getLsbD i)) ∧
  (∀ f : A3, WritesOne (.fneg f) (fun iss => f.form iss (Instr.fneg f).wf false false none none none) f.dst
    fun c ws fl ist => let a := f.srcA c.iss none
      fl = 0 ∧ ist = 0 ∧ ∃ x, ws = [(x, c.tag a)] ∧ ∀ i < 32, x.getLsbD i = ((c.rd a).getLsbD i != decide (i = 31))) ∧
  (∀ f : A3, WritesOne (.fclass f) (fun iss => f.form iss (Instr.fclass f).wf false false tF none none) f.dst
    fun c ws fl ist => fl = 0 ∧ ist = 0 ∧ ∃ x k : Nat, ws = [(BitVec.ofNat 32 (2 ^ k), .mask)] ∧
      x = (c.rd (f.srcA c.iss tF)).toNat ∧ k < 10 ∧
      (k = 0 ↔ x = 0xFF800000) ∧ (k = 1 ↔ 0x80800000 ≤ x ∧ x < 0xFF800000) ∧ (k = 2 ↔ 0x80000001 ≤ x ∧ x < 0x80800000) ∧
      (k = 3 ↔ x = 0x80000000) ∧ (k = 4 ↔ x = 0) ∧ (k = 5 ↔ 1 ≤ x ∧ x < 0x00800000) ∧
      (k = 6 ↔ 0x00800000 ≤ x ∧ x < 0x7F800000) ∧ (k = 7 ↔ x = 0x7F800000) ∧
      (k = 8 ↔ 0x7F800001 ≤ x % 2 ^ 31 ∧ x % 2 ^ 31 < 0x7FC00000)) ∧
  (∀ f : P3, WritesOne (.fcmp f) (fun iss => f.form iss (Instr.fcmp f).wf tF tF) f.pdst
    fun c ws fl ist =>
      let a := unpack fmtF32 (c.rd (f.srcA c.iss tF)).toNat
      let b := unpack fmtF32 (c.rd (f.srcB c.iss tF)).toNat
      ist = 0 ∧ fl = (if a.isSnan || b.isSnan then flagNV else 0) ∧
      oneBit ws (fpCondition f.cond.toNat (if a.isNan || b.isNan then none else some (compareNum a b)))) ∧
  (∀ f : AI, WritesOne (.frnd f) (fun iss => f.form iss (Instr.frnd f).wf tF) (AI.dst f)
    fun c ws fl ist => ist = 0 ∧ ∃ x : FpRes, x = fpRoundInt fmtF32 f.imm.toNat (c.rd (AI.src f c.iss)).toNat ∧
      ws = [(wordOf x, .f32)] ∧ fl = x.fl) ∧
  ∀ f : A3, WritesOne (.fldex f) (fun iss => f.form iss (Instr.fldex f).wf true false tF (some [.i32]) none) f.dst
    fun c ws fl ist => ist = 0 ∧ ∃ x : FpRes,
      x = fpLdexp fmtF32 c.th.rm (c.rd (f.srcA c.iss tF)).toNat (c.rd (f.srcB c.iss (some [.i32]))).toInt ∧
      ws = [(wordOf x, .f32)] ∧ fl = x.fl

/-- R142: with its enable set, a flag that a float word raises traps with cause 0x07; sr.fpst takes every flag raised and
no register is written. -/
def Sys2Proof.Machine.FloatTrapsWhenEnabled : Prop :=
  ∀ r ∈ fpWords, ∀ f : A3, FlagTraps (r.op f) (r.form f) noValue fun c => (r.res f c).fl

namespace Sys2Proof.Machine

/-! ### Conversions, scale slots, Welford triples, predicates and moves -/

/-- A one-source word of the format CV. -/
def cvForm (i : Instr) (f : CV) (ta : Option (List Tag)) (d : Issue → Opnd) (iss : Issue) : Form :=
  { grp := .alu, wf := i.wf, past := iss.past (iss.dF f.d) (iss.aF f.a) 0, os := [(iss.reg (iss.aF f.a)).src ta, d iss] }

/-- The plain destination of a word, by its d field. -/
def dstOf (d : BitVec 7) (iss : Issue) : Opnd := (iss.reg (iss.dF d)).dst

/-- A scale slot that the team lacks raises cause 0x04 (R17). -/
def slotValue (slot : BitVec 4) (_ : Issue) (c : Ctx) : Option Nat :=
  if slot.toNat ≥ c.t.prog.slots then some 0x04 else none

/-- A scale slot that the team lacks, or a side list that leaves the scratchpad: cause 0x0A in its place among R102's causes
(R154, R157). -/
def sideValue (slot : BitVec 4) (eff : Ctx → Eff) (iss : Issue) (c : Ctx) : Option Nat :=
  (slotValue slot iss c).or (if (eff c).trap = some 0x0A then some 0x0A else none)

/-- The warp's scale slot `k`. -/
def Ctx.scaleSlot (c : Ctx) (k : BitVec 4) : ScaleSlot := c.wp.slots.getD k.toNat {}

/-- Put a scale slot. -/
def State.putSlot (s : State) (c : Ctx) (k : BitVec 4) (v : ScaleSlot) : State :=
  s.updWarp c.iss.team c.w fun wp => { wp with slots := setAt wp.slots k.toNat v }

/-- Fold the magnitudes of F32 patterns into a slot (R151): a NaN is not folded. -/
def ScaleSlot.foldAll (k : ScaleSlot) (xs : List Word) : ScaleSlot :=
  xs.foldl (fun k x => if 0x7F800000 < x.toNat % 2 ^ 31 then k else { k with cm := max k.cm (x.toNat % 2 ^ 31) }) k

/-- PACK's own causes (R182): fields that depend on the source's tag, and a position beyond the format. -/
def packValueCause (f : CV) (iss : Issue) (c : Ctx) : Option Nat :=
  let isInt := packInt f.tag.toNat (c.tag (iss.reg (iss.aF f.a)))
  if 8 ≤ f.tag.toNat ∧ ((isInt ∧ f.rm ≠ 0) ∨ (!isInt ∧ f.sat ≠ 0)) then some 0x03
  else if f.pos.toNat ≥ packCount f.tag.toNat then some 0x04 else none

/-- Element `k` of a packed register. -/
def element (tag k : Nat) (w : Word) : Nat := bits w.toNat (packWidth tag * k) (packWidth tag)

/-- SSET's causes (R185): a slot the team lacks, a NaN or negative magnitude, an exponent out of range. -/
def ssetCause (f : CQ) (iss : Issue) (c : Ctx) : Option Nat :=
  let a := iss.reg (iss.aF f.a)
  if f.slot.toNat ≥ c.t.prog.slots ∨ !((List.range 5).all fun i => slotValueOk (c.rd a i))
    ∨ (c.rd a 5).toInt < -64 ∨ 63 < (c.rd a 5).toInt then some 0x04 else none

/-- What SROT chooses (R152): the smallest exponent in range that brings the history below the format's maximum. -/
def chosen (h fm : Nat) (s : Int) : Prop :=
  (h = 0 → s = 0) ∧ (h = 0x7F800000 → s = 63) ∧
  (h ≠ 0 → h ≠ 0x7F800000 → -64 ≤ s ∧ s ≤ 63 ∧
    (s < 63 → compareNum (Num.scale (-s) (unpack fmtF32 h)) (.fin false fm 0) ≠ .gt) ∧
    (-64 < s → compareNum (Num.scale (1 - s) (unpack fmtF32 h)) (.fin false fm 0) = .gt))

/-- A Welford triple in three registers. -/
def tripleAt (c : Ctx) (o : Opnd) : Triple := ⟨c.rd o, (c.rd o 1).toNat, (c.rd o 2).toNat⟩

end Sys2Proof.Machine

/-- R149, R181: CVT writes the converted value, its other bits zero, tagged with its target. -/
def Sys2Proof.Machine.CvtWritesTheConvertedValue : Prop :=
  ∀ f : CV, WritesOne (.cvt f) (cvForm (.cvt f) f (cvtTags f.pos.toNat) (dstOf f.d)) (dstOf f.d)
    fun c ws fl ist =>
      let r := cvtValue f.tag.toNat f.pos.toNat f.rm.toNat (f.sat == 1) (c.rd (c.iss.reg (c.iss.aF f.a)))
      ws = [(BitVec.ofNat 32 r.bits, Tag.ofCode f.tag.toNat)] ∧ fl = r.fl ∧ ist = r.ist

/-- R149: a finite F32, F16 or B16 value converted to an integer range is rounded in the named mode and clipped; NV is
raised exactly on a clip, and NX exactly when it is not clipped and not integral. -/
def Sys2Proof.Machine.ConversionToIntegersRoundsAndClips : Prop :=
  ∀ f ∈ [fmtF32, fmtF16, fmtB16], ∀ rm < 4, ∀ (lo hi : Int) (a : Nat) (n : Bool) (m : Nat) (e : Int),
    -2 ^ 31 ≤ lo → lo ≤ 0 → 0 < hi → hi < 2 ^ 32 → unpack f a = .fin n m e →
    let x := (Num.fin n m e).rat
    ∃ v : Int, |(v : ℚ) - x| < 1 ∧
      (rm = 0 → |(v : ℚ) - x| ≤ 1 / 2 ∧ (|(v : ℚ) - x| = 1 / 2 → v % 2 = 0)) ∧ (rm = 1 → |(v : ℚ)| ≤ |x|) ∧
      (rm = 2 → (v : ℚ) ≤ x) ∧ (rm = 3 → x ≤ v) ∧
      fpToInt f rm lo hi 32 a = ⟨(BitVec.ofInt 32 (max lo (min hi v))).toNat,
        if v < lo ∨ hi < v then flagNV else if (v : ℚ) = x then 0 else flagNX⟩

/-- R182, R183: PACK puts the converted value into its element and keeps the others, which are zero for element 0, as the
bits above the elements always are; UNPK reads one element. -/
def Sys2Proof.Machine.PackAndUnpkMoveOneElement : Prop :=
  (∀ f : CV,
    let d := fun iss : Issue => { dstOf f.d iss with rd := f.pos.toNat != 0, tags := some [Tag.ofCode f.tag.toNat] }
    Effects (.pack f) (cvForm (.pack f) f (packTags f.tag.toNat) d) (packValueCause f)
      (fun _ c =>
        let r := packValue f.tag.toNat f.rm.toNat (f.sat == 1) (packInt f.tag.toNat (c.tag (c.iss.reg (c.iss.aF f.a))))
          (c.rd (c.iss.reg (c.iss.aF f.a)))
        c.th.untrapped r.fl r.ist)
      fun c =>
        let r := packValue f.tag.toNat f.rm.toNat (f.sat == 1) (packInt f.tag.toNat (c.tag (c.iss.reg (c.iss.aF f.a))))
          (c.rd (c.iss.reg (c.iss.aF f.a)))
        c.write (d c.iss)
          [(insertElem (packWidth f.tag.toNat) f.pos.toNat (c.rd (d c.iss)) r.bits, Tag.ofCode f.tag.toNat)] r.fl r.ist) ∧
  (∀ tag, 4 ≤ tag → tag ≤ 9 → ∀ (old : Word) (x pos k : Nat), pos < packCount tag → k < packCount tag →
    element tag k (insertElem (packWidth tag) pos old x) =
      if k = pos then x % 2 ^ packWidth tag else if pos = 0 then 0 else element tag k old) ∧
  (∀ tag, 4 ≤ tag → tag ≤ 9 → ∀ (old : Word) (x pos : Nat), pos < packCount tag →
    (insertElem (packWidth tag) pos old x).toNat < 2 ^ (packWidth tag * packCount tag)) ∧
  ∀ f : CV, Effects (.unpk f) (cvForm (.unpk f) f (some [Tag.ofCode f.tag.toNat]) (dstOf f.d))
    (fun _ _ => if f.pos.toNat ≥ packCount f.tag.toNat then some 0x04 else none)
    (fun _ c => c.th.untrapped (unpackValue f.tag.toNat f.pos.toNat (c.rd (c.iss.reg (c.iss.aF f.a)))).1.fl 0)
    fun c =>
      let r := unpackValue f.tag.toNat f.pos.toNat (c.rd (c.iss.reg (c.iss.aF f.a)))
      c.write (dstOf f.d c.iss) [(wordOf r.1, r.2)] r.1.fl 0

/-- R151, R152, R185: SSET writes a slot whole, SROT rotates its history and chooses an exponent, SMAX folds a magnitude,
SGET reads the slot. -/
def Sys2Proof.Machine.ScaleSlotWordsKeepTheSlot : Prop :=
  (∀ f : CQ, Effects (.sset f)
    (fun iss => { grp := .slot, wf := (Instr.sset f).wf, past := iss.past (iss.dF f.d) (iss.aF f.a) 0
                  os := [((iss.reg (iss.aF f.a)).src none).grp 6 1] })
    (ssetCause f) (fun _ _ => True)
    fun c s =>
      let a := c.iss.reg (c.iss.aF f.a)
      let h (i : Nat) : Nat := (c.rd a i).toNat % 2 ^ 31
      s.putSlot c f.slot { h0 := h 0, h1 := h 1, h2 := h 2, h3 := h 3, cm := h 4, s := (c.rd a 5).toInt }) ∧
  (∀ f : CQ, ∃ k : ScaleSlot → ScaleSlot,
    Effects (.srot f) (fun iss => { grp := .slot, wf := (Instr.srot f).wf, past := iss.past (iss.dF f.d) (iss.aF f.a) 0 })
      (slotValue f.slot) (fun _ _ => True)
      (fun c s => s.putSlot c f.slot (k (c.scaleSlot f.slot))) ∧
    ∀ o, (k o).h0 = o.cm ∧ (k o).h1 = o.h0 ∧ (k o).h2 = o.h1 ∧ (k o).h3 = o.h2 ∧ (k o).cm = 0 ∧
      (max (max o.cm o.h0) (max o.h1 o.h2) ≤ 0x7F800000 →
        chosen (max (max o.cm o.h0) (max o.h1 o.h2)) (formatMax f.tag.toNat) (k o).s)) ∧
  (∀ f : CQ, Effects (.smax f) (aluForm (.smax f) (fun iss => iss.past (iss.dF f.d) (iss.aF f.a) 0)
      fun iss => [(iss.reg (iss.aF f.a)).src (some [.f32])])
    (slotValue f.slot) (fun _ _ => True)
    fun c s => s.putSlot c f.slot ((c.scaleSlot f.slot).foldAll [c.rd (c.iss.reg (c.iss.aF f.a))])) ∧
  ∀ f : CQ, Effects (.sget f)
    (aluForm (.sget f) (fun iss => iss.past (iss.dF f.d) (iss.aF f.a) 0) fun iss => [(dstOf f.d iss).grp 6 1])
    (slotValue f.slot) (fun _ _ => True)
    fun c =>
      let k := c.scaleSlot f.slot
      c.write ((dstOf f.d c.iss).grp 6 1)
        [(BitVec.ofNat 32 k.h0, .f32), (BitVec.ofNat 32 k.h1, .f32), (BitVec.ofNat 32 k.h2, .f32),
         (BitVec.ofNat 32 k.h3, .f32), (BitVec.ofNat 32 k.cm, .f32), (BitVec.ofInt 32 k.s, .i32)] 0 0

namespace Sys2Proof.Machine

/-- The registers of a group of CVTQ or DEQ: a group of four is aligned (R89, R184). -/
def cqGroup (f : CQ) (o : Opnd) : Opnd := o.grp (groupSize f.tag.toNat) (if groupSize f.tag.toNat = 4 then 4 else 1)

def cqForm (i : Instr) (f : CQ) (os : Issue → List Opnd) (iss : Issue) : Form :=
  aluForm i (fun iss => iss.past (iss.dF f.d) (iss.aF f.a) 0) os iss

def cvtqForm (f : CQ) : Issue → Form :=
  cqForm (.cvtq f) f fun iss => [cqGroup f ((iss.reg (iss.aF f.a)).src (some [.f32])), dstOf f.d iss]

/-- What CVTQ's algorithm does. -/
def cvtqEff (f : CQ) (c : Ctx) : Eff :=
  quantise f.tag.toNat f.slot.toNat (f.esc == 1) (dstOf f.d c.iss)
    ((List.range (groupSize f.tag.toNat)).map fun k => c.rd (c.iss.reg (c.iss.aF f.a)) k) c

def deqForm (f : CQ) : Issue → Form :=
  cqForm (.deq f) f fun iss => [(iss.reg (iss.aF f.a)).src (some [Tag.ofCode f.tag.toNat]), cqGroup f (dstOf f.d iss)]

/-- What DEQ's algorithm does. -/
def dequantEff (f : CQ) (c : Ctx) : Eff :=
  deqAll f.tag.toNat (f.esc == 1) (c.scaleSlot f.slot).s c (c.rd (c.iss.reg (c.iss.aF f.a))) (cqGroup f (dstOf f.d c.iss))

end Sys2Proof.Machine

/-- R154 to R157: CVTQ quantises a group with its slot, folds its inputs and appends its escapes to the side list; DEQ
dequantises one: each has the effect its algorithm computes. -/
def Sys2Proof.Machine.QuantisingWordsRunTheirAlgorithm : Prop :=
  (∀ f : CQ, Effects (.cvtq f) (cvtqForm f) (sideValue f.slot (cvtqEff f)) (fun _ c => (cvtqEff f c).cause c.th = none)
    fun c => (cvtqEff f c).apply c.iss (c.w, c.l)) ∧
  ∀ f : CQ, Effects (.deq f) (deqForm f) (sideValue f.slot (dequantEff f)) (fun _ c => (dequantEff f c).cause c.th = none)
    fun c => (dequantEff f c).apply c.iss (c.w, c.l)

namespace Sys2Proof.Machine

/-- The forms of the Welford words (R187). -/
def welfForm (f : A3) : Issue → Form := aluForm (.welf f) f.past fun iss =>
  [f.srcA iss (some [.f32]), { (f.dst iss).grp 3 1 with rd := true, tags := some [.wel] }]
def wmrgForm (f : A3) : Issue → Form := aluForm (.wmrg f) f.past fun iss =>
  [(f.srcA iss (some [.wel])).grp 3 1, { (f.dst iss).grp 3 1 with rd := true, tags := some [.wel] }]
def wfinForm (f : A3) : Issue → Form := aluForm (.wfin f) f.past fun iss =>
  [(f.srcA iss (some [.wel])).grp 3 1, f.dst iss]

end Sys2Proof.Machine

/-- R160 to R162, R187: the Welford words update, merge and finish triples. -/
def Sys2Proof.Machine.WelfordWordsUpdateTriples : Prop :=
  (∀ f : A3, WritesOne (.welf f) (welfForm f) (fun iss => (f.dst iss).grp 3 1)
    fun c ws fl ist => let r := welfordAdd (tripleAt c (f.dst c.iss)) (c.rd (f.srcA c.iss none)).toNat
      ws = r.t.words ∧ fl = r.fl ∧ ist = r.ist) ∧
  (∀ f : A3, WritesOne (.wmrg f) (wmrgForm f) (fun iss => (f.dst iss).grp 3 1)
    fun c ws fl ist => let r := welfordMerge (tripleAt c (f.dst c.iss)) (tripleAt c (f.srcA c.iss none))
      ws = r.t.words ∧ fl = r.fl ∧ ist = r.ist) ∧
  (∀ f : A3, WritesOne (.wfin f) (wfinForm f) f.dst
    fun c ws fl ist => let r := welfordFinish (f.b == 1) (tripleAt c (f.srcA c.iss none))
      ws = [(wordOf r, .f32)] ∧ fl = r.fl ∧ ist = 0) ∧
  ∀ t : Triple, 0 ≤ t.n.toInt → welfordMerge t {} = ⟨t, 0, 0⟩ ∧ (t.n ≠ 0 → welfordMerge {} t = ⟨t, 0, 0⟩)

/-- R186, R193, R194: tags, selections, predicates and copies. -/
def Sys2Proof.Machine.PredicateTagAndMoveWords : Prop :=
  (∀ f : AI, WritesOne (.tags f) (fun iss => f.form iss (Instr.tags f).wf none) (AI.dst f)
    fun c ws fl ist => fl = 0 ∧ ist = 0 ∧ ws = [(c.rd (AI.src f c.iss), Tag.ofCode f.imm.toNat)]) ∧
  (∀ f : A3, WritesOne (.tagr f)
    (aluForm (.tagr f) f.past fun iss => [{ f.srcA iss none with machine := false }, f.dst iss]) f.dst
    fun c ws fl ist => fl = 0 ∧ ist = 0 ∧ ws = [(BitVec.ofNat 32 (c.tag (f.srcA c.iss none)).code, .n32)]) ∧
  (∀ f : PS, WritesOne (.sel f)
    (aluForm (.sel f) (fun iss => iss.past (iss.dF f.d) (iss.aF f.a) (iss.bF f.b)) fun iss =>
      [(iss.reg (iss.aF f.a)).src none, (iss.reg (iss.bF f.b)).src none, (iss.prd f.p.toNat).src none, dstOf f.d iss])
    (dstOf f.d)
    fun c ws fl ist => fl = 0 ∧ ist = 0 ∧
      let x := if c.isTrue (c.iss.prd f.p.toNat) then c.iss.reg (c.iss.aF f.a) else c.iss.reg (c.iss.bF f.b)
      ws = [(c.rd x, c.tag x)]) ∧
  (∀ f : P3,
    WritesOne (.plog f)
      (aluForm (.plog f)
        (fun iss => pdOver iss f.pd || predOver iss f.a ||
          (iss.stepB != 0 && decide (iss.bF f.b > if f.cond.toNat ≤ 3 then 7 else 127)))
        fun iss => [iss.predA f.a f.ea] ++ (if f.cond.toNat ≤ 3 then [iss.predB f.b f.eb] else []) ++ [f.pdst iss]) f.pdst
      fun c ws fl ist => fl = 0 ∧ ist = 0 ∧
        let a := c.isTrue (c.iss.predA f.a f.ea) = true
        let b := c.isTrue (c.iss.predB f.b f.eb) = true
        oneBit ws (match f.cond.toNat with
          | 0 => a ∧ b | 1 => a ∨ b | 2 => ¬(a ↔ b) | 3 => a ∧ ¬b | 4 => ¬a | _ => a)) ∧
  (∀ f : A3, WritesOne (.pget f) (aluForm (.pget f) f.past fun iss => [((iss.prd 0).src none).grp 7 1, f.dst iss]) f.dst
    fun c ws fl ist => fl = 0 ∧ ist = 0 ∧ ∃ x : Word, ws = [(x, .mask)] ∧
      ∀ i, x.getLsbD i = (decide (i = 7) || (decide (i < 7) && c.isTrue (c.iss.prd i)))) ∧
  (∀ f : A3, WritesOne (.pput f)
    (aluForm (.pput f) f.past fun iss => [f.srcA iss (some [.mask, .n32, .i32]), ((iss.prd 0).dst).grp 7 1])
    (fun iss => ((iss.prd 0).dst).grp 7 1)
    fun c ws fl ist => fl = 0 ∧ ist = 0 ∧ ws.length = 7 ∧
      ∀ i < 7, ws[i]? = some (if (c.rd (f.srcA c.iss none)).getLsbD i then 1 else 0, .raw)) ∧
  (∀ f : A3, WritesOne (.mov f) (fun iss => f.form iss (Instr.mov f).wf false false none none none) f.dst
    fun c ws fl ist => fl = 0 ∧ ist = 0 ∧ ws = [(c.rd (f.srcA c.iss none), c.tag (f.srcA c.iss none))]) ∧
  ∀ f : A3, WritesOne (.rdln f)
    (fun iss => { grp := .alu, wf := (Instr.rdln f).wf && ((f.bs == 1) == (iss.cls != 0)), past := f.past iss
                  os := [f.srcB iss none, f.dst iss] }) f.dst
    fun c ws fl ist => fl = 0 ∧ ist = 0 ∧ ws = [(c.rd (f.srcB c.iss none), .raw)]

namespace Sys2Proof.Machine

/-! ### Cross-lane words (R188 to R192) -/

/-- A mask with exactly the bits of the tile's live lanes that satisfy `p`, by their index in the warp. -/
def maskOf (ws : List (Word × Tag)) (x : XTile) (p : Nat → Prop) : Prop :=
  ∃ v : Word, ws = [(v, .mask)] ∧ ∀ i < 32, (v.getLsbD i = true ↔ ∃ l ∈ x.live, laneIndex x.prot l = i ∧ p l)

/-- What a shuffle reads in the lane of index `i`: the value with its tag, 0 tagged RAW where no live thread stands. -/
def shuffles (ws : List (Word × Tag)) (x : XTile) (c : Ctx) (a : Opnd) (i : Nat) : Prop :=
  (laneAt x.prot c.l i ∈ x.live → ws = [((c.at (laneAt x.prot c.l i)).rd a, (c.at (laneAt x.prot c.l i)).tag a)]) ∧
  (laneAt x.prot c.l i ∉ x.live → ws = [(0, .raw)])

/-- A shuffle with an immediate: the source index from the own index, base, width and immediate. -/
def shufflesBy (op : AI → Instr) (source : Nat → Nat → Nat → Nat → Nat) : Prop :=
  ∀ f : AI, CrossWrites (op f) (fun iss => { f.form iss (op f).wf none with grp := .cross }) noValue (AI.dst f)
    fun x c r => r.fl = 0 ∧ r.ist = 0 ∧
      shuffles r.ws x c (AI.src f c.iss) (source (laneIndex x.prot c.l) x.base x.w f.imm.toNat)

/-- The values at a tile's places, the identity of R165 where no live thread stands. -/
def tileValues (x : XTile) (c : Ctx) (a : Opnd) (ident : Word) : List Word :=
  (List.range x.w).map fun k =>
    let l := laneAt x.prot c.l (x.base + k)
    if x.live.contains l then (c.at l).rd a else ident

/-- The values at a tile's places, `none` where no live thread stands. -/
def tilePlaces (x : XTile) (c : Ctx) (a : Opnd) : List (Option Word) :=
  (List.range x.w).map fun k =>
    let l := laneAt x.prot c.l (x.base + k)
    if x.live.contains l then some ((c.at l).rd a) else none

/-- Ascending combination of the values at the first places, those without a thread left out; the first F32 NaN is delivered
as every result is (R141, R164, R165). -/
def combined (ty op rm : Nat) (vs : List (Option Word)) : Word :=
  match vs.filterMap id with
  | [] => redIdentity ty op
  | v :: vs => vs.foldl (fun acc v => (redStep ty op rm acc v).1)
      (if ty = 2 ∧ (unpack fmtF32 v.toNat).isNan then 0x7FC00000 else v)

end Sys2Proof.Machine

/-- R168, R189: VOTE, BALLOT and MATCH see exactly the tile's live threads. -/
def Sys2Proof.Machine.VotesAndMasksCoverTheTile : Prop :=
  (∀ f : P3, CrossWrites (.vote f)
    (fun iss => { grp := .cross, wf := (Instr.vote f).wf, past := pdOver iss f.pd || predOver iss f.a || iss.past 0 0 (iss.bF f.b)
                  os := [iss.predA f.a f.ea, f.pdst iss] }) noValue f.pdst
    fun x c r => r.fl = 0 ∧ r.ist = 0 ∧
      let p := fun l => (c.at l).isTrue (c.iss.predA f.a f.ea) = true
      oneBit r.ws (match f.cond.toNat with
        | 0 => ∀ l ∈ x.live, p l
        | 1 => ∃ l ∈ x.live, p l
        | _ => (∀ l ∈ x.live, p l) ∨ ∀ l ∈ x.live, ¬p l)) ∧
  (∀ f : A3, CrossWrites (.ballot f)
    (fun iss => { grp := .cross, wf := (Instr.ballot f).wf
                  past := iss.past (iss.dF f.d) 0 (iss.bF f.b) || predOver iss f.a
                  os := [iss.predA f.a f.ea, f.dst iss] }) noValue f.dst
    fun x c r => r.fl = 0 ∧ r.ist = 0 ∧ maskOf r.ws x fun l => (c.at l).isTrue (c.iss.predA f.a f.ea) = true) ∧
  ∀ f : A3, CrossWrites (.matchLanes f)
    (fun iss => { f.form iss (Instr.matchLanes f).wf false false none none none with grp := .cross }) noValue f.dst
    fun x c r => r.fl = 0 ∧ r.ist = 0 ∧ maskOf r.ws x fun l => (c.at l).rd (f.srcA c.iss none) = c.rd (f.srcA c.iss none)

/-- R190: the shuffles and BCAST read the lane their entry names, within the tile. -/
def Sys2Proof.Machine.ShufflesReadTheNamedLane : Prop :=
  (∀ f : A3, CrossWrites (.shfl f)
    (fun iss => { f.form iss (Instr.shfl f).wf true false none tIN none with grp := .cross }) noValue f.dst
    fun x c r => r.fl = 0 ∧ r.ist = 0 ∧
      shuffles r.ws x c (f.srcA c.iss none) (x.base + (c.rd (f.srcB c.iss tIN)).toNat % x.w)) ∧
  shufflesBy .shflu (fun i b _ imm => if i - imm < b ∨ i < imm then i else i - imm) ∧
  shufflesBy .shfld (fun i b w imm => if b + w ≤ i + imm then i else i + imm) ∧
  shufflesBy .shflx (fun i b w imm => if b ≤ i ^^^ imm ∧ i ^^^ imm < b + w then i ^^^ imm else i) ∧
  ∀ f : AI, CrossWrites (.bcast f) (fun iss => { f.form iss (Instr.bcast f).wf none with grp := .cross })
    (fun _ c => if f.imm.toNat ≥ 32 >>> c.wp.part then some 0x04 else none) (AI.dst f)
    fun x c r => r.fl = 0 ∧ r.ist = 0 ∧ shuffles r.ws x c (AI.src f c.iss) (x.base + f.imm.toNat)

namespace Sys2Proof.Machine

/-- RED gives the tree's value to every live thread (R191). -/
def redRule (f : AI) (x : XTile) (c : Ctx) (r : XRes) : Prop :=
  let ty := redType f.imm.toNat
  let op := redOp f.imm.toNat
  let v := redTree ty op (x.rm c) (tileValues x c (c.iss.reg (c.iss.aF f.a)) (redIdentity ty op))
  r.ws = [(v.1, redTag f.imm.toNat (c.tag (c.iss.reg (c.iss.aF f.a))))] ∧ r.fl = v.2 ∧ r.ist = 0

/-- SCAN gives the ascending combination of the lanes up to its own or before it; its flags are those of the whole scan (R191;
log 23). -/
def scanRule (f : AI) (x : XTile) (c : Ctx) (r : XRes) : Prop :=
  let ty := redType f.imm.toNat
  let op := redOp f.imm.toNat
  let vs := tilePlaces x c (c.iss.reg (c.iss.aF f.a))
  let k := laneIndex x.prot c.l - x.base
  r.fl = (scanAll ty op (x.rm c) none vs).2 ∧ r.ist = 0 ∧ (k < x.w →
    r.ws = [(combined ty op (x.rm c) (vs.take (if f.imm.getLsbD 5 then k else k + 1)),
      redTag f.imm.toNat (c.tag (c.iss.reg (c.iss.aF f.a))))])

/-- WRED gives the merged triple (R192). -/
def wredRule (f : A3) (x : XTile) (c : Ctx) (r : XRes) : Prop :=
  let empty : TripleRes := { t := {} }
  let vs := (List.range x.w).map fun k =>
    let l := laneAt x.prot c.l (x.base + k)
    if x.live.contains l then ({ t := tripleAt (c.at l) (f.srcA c.iss none) } : TripleRes) else empty
  let v := ((treeOf (fun p q : TripleRes =>
    let m := welfordMerge p.t q.t
    { m with fl := p.fl ||| q.fl ||| m.fl, ist := p.ist ||| q.ist ||| m.ist }) 5 vs).head?).getD empty
  r.ws = v.t.words ∧ r.fl = v.fl ∧ r.ist = v.ist

/-- The form of RED and SCAN. -/
def redForm (i : Instr) (f : AI) (iss : Issue) : Form := { f.form iss i.wf (redTags f.imm.toNat) with grp := .cross }

/-- The form of WRED. -/
def wredForm (f : A3) (iss : Issue) : Form :=
  { grp := .cross, wf := (Instr.wred f).wf, past := f.past iss, os := [(f.srcA iss (some [.wel])).grp 3 1, (f.dst iss).grp 3 1] }

end Sys2Proof.Machine

/-- R163 to R165, R191, R192: RED gives the tree's value to every live thread, SCAN the ascending combination of the
lanes up to its own or before it (its flags are those of the whole scan, log 23), and WRED the merged triple. -/
def Obligations.ReductionsAndScansCombineTheTile : Prop :=
  (∀ f : AI, CrossWrites (.red f) (redForm (.red f) f) noValue (AI.dst f) (redRule f)) ∧
  (∀ f : AI, CrossWrites (.scan f) (redForm (.scan f) f) noValue (AI.dst f) (scanRule f)) ∧
  ∀ f : A3, CrossWrites (.wred f) (wredForm f) noValue (fun iss => (f.dst iss).grp 3 1) (wredRule f)

/-- R142, R144, R191, R192: in a reduction, a scan or a merge each thread whose flags are enabled takes their cause with its
flags set and nothing written, and the other threads of the bundle complete. -/
def Sys2Proof.Machine.ReductionsTrapThreadByThread : Prop :=
  (∀ f : AI, CrossTraps (.red f) (redForm (.red f) f) noValue (AI.dst f) (redRule f)) ∧
  (∀ f : AI, CrossTraps (.scan f) (redForm (.scan f) f) noValue (AI.dst f) (scanRule f)) ∧
  ∀ f : A3, CrossTraps (.wred f) (wredForm f) noValue (fun iss => (f.dst iss).grp 3 1) (wredRule f)

/-- R142, R144, R180 to R184, R187: the other words that raise flags: the packed words, FCMP, FRND, FLDEX, the conversions, packing,
quantising and the Welford words. -/
def Sys2Proof.Machine.OtherFlagsTrapWhenEnabled : Prop :=
  (∀ r ∈ packedWords, ∀ f : A3, FlagTraps (r.op f) (r.form f) noValue fun c =>
    (r.res f c loHalf).fl ||| (r.res f c hiHalf).fl) ∧
  (∀ f : P3, FlagTraps (.fcmp f) (fun iss => f.form iss (Instr.fcmp f).wf tF tF) noValue fun c =>
    if (unpack fmtF32 (c.rd (f.srcA c.iss tF)).toNat).isSnan || (unpack fmtF32 (c.rd (f.srcB c.iss tF)).toNat).isSnan
      then flagNV else 0) ∧
  (∀ f : AI, FlagTraps (.frnd f) (fun iss => f.form iss (Instr.frnd f).wf tF) noValue fun c =>
    (fpRoundInt fmtF32 f.imm.toNat (c.rd (AI.src f c.iss)).toNat).fl) ∧
  (∀ f : A3, FlagTraps (.fldex f) (fun iss => f.form iss (Instr.fldex f).wf true false tF (some [.i32]) none) noValue fun c =>
    (fpLdexp fmtF32 c.th.rm (c.rd (f.srcA c.iss tF)).toNat (c.rd (f.srcB c.iss (some [.i32]))).toInt).fl) ∧
  (∀ f : CV, FlagTraps (.cvt f) (cvForm (.cvt f) f (cvtTags f.pos.toNat) (dstOf f.d)) noValue fun c =>
    (cvtValue f.tag.toNat f.pos.toNat f.rm.toNat (f.sat == 1) (c.rd (c.iss.reg (c.iss.aF f.a)))).fl) ∧
  (∀ f : CV, FlagTraps (.pack f)
    (cvForm (.pack f) f (packTags f.tag.toNat) fun iss =>
      { dstOf f.d iss with rd := f.pos.toNat != 0, tags := some [Tag.ofCode f.tag.toNat] }) (packValueCause f) fun c =>
    (packValue f.tag.toNat f.rm.toNat (f.sat == 1) (packInt f.tag.toNat (c.tag (c.iss.reg (c.iss.aF f.a))))
      (c.rd (c.iss.reg (c.iss.aF f.a)))).fl) ∧
  (∀ f : CV, FlagTraps (.unpk f) (cvForm (.unpk f) f (some [Tag.ofCode f.tag.toNat]) (dstOf f.d))
    (fun _ _ => if f.pos.toNat ≥ packCount f.tag.toNat then some 0x04 else none) fun c =>
    (unpackValue f.tag.toNat f.pos.toNat (c.rd (c.iss.reg (c.iss.aF f.a)))).1.fl) ∧
  (∀ f : CQ, FlagTraps (.cvtq f) (cvtqForm f) (sideValue f.slot (cvtqEff f)) fun c => (cvtqEff f c).fl) ∧
  (∀ f : CQ, FlagTraps (.deq f) (deqForm f) (sideValue f.slot (dequantEff f)) fun c => (dequantEff f c).fl) ∧
  (∀ f : A3, FlagTraps (.welf f) (welfForm f) noValue fun c =>
    (welfordAdd (tripleAt c (f.dst c.iss)) (c.rd (f.srcA c.iss none)).toNat).fl) ∧
  (∀ f : A3, FlagTraps (.wmrg f) (wmrgForm f) noValue fun c =>
    (welfordMerge (tripleAt c (f.dst c.iss)) (tripleAt c (f.srcA c.iss none))).fl) ∧
  ∀ f : A3, FlagTraps (.wfin f) (wfinForm f) noValue fun c =>
    (welfordFinish (f.b == 1) (tripleAt c (f.srcA c.iss none))).fl

/-- R118, R142, R180: in a bundle of several threads each takes the results that its own operands give, whatever the others
write. -/
def Sys2Proof.Machine.BundlesWriteThreadByThread : Prop :=
  (∀ r ∈ integerArithmetic ++ integerBits ++ integerDivision, ∀ f : A3, WritesEach (r.op f) (r.form f) f.dst (r.gives f)) ∧
  (∀ r ∈ fpWords, ∀ f : A3, WritesEach (r.op f) (r.form f) f.dst (r.gives f)) ∧
  ∀ r ∈ packedWords, ∀ f : A3, WritesEach (r.op f) (r.form f) f.dst (r.gives f)

/-- R118: a word acts in the threads of its bundle one after another, each upon what those before it have left; but for the
threads' progress its state is the one that these actions leave. -/
def Sys2Proof.Machine.BundlesActThreadByThread : Prop :=
  ∀ (fm : Form) (value : Ctx → Option Nat) (act : State → Ctx → State × LaneRes) (s s' : State) (iss : Issue) (t : Team),
    s.team? iss.team = some t → fm.precheck iss t = none →
    (∀ m ∈ iss.actors t, Ctx.checks ⟨t, m.1, m.2, iss⟩ fm.os (value ⟨t, m.1, m.2, iss⟩) fm.pure = none) →
    Runs fm.inOrder act iss (iss.actors t) s s' → (fm.perform iss value act s).data = s'.data

namespace Sys2Proof.Machine

/-! ### Memory words -/

/-- No earlier acquire of the thread waits for its data, and the access's own release, if it has one, is complete
(R278, R279). -/
def mayAccess (f : M2) (s : State) (c : Ctx) : Prop :=
  s.acquiring c.t.id c.w c.own = false ∧
  (f.order.toNat ≤ 1 ∨ c.th.relDone = true ∨ s.relReady c.t.id c.w c.own f.scope.toNat = true)

/-- An access that writes as it issues: the thread's earlier loads have their values too (R276, third row). -/
def mayWrite (f : M2) (s : State) (c : Ctx) : Prop := mayAccess f s c ∧ s.loadsSettled c.t.id c.w c.own = true

/-- The access is compared with nobody's: the launch is not protected, or the word acts for its warp (R399). -/
def unpaired (s : State) (c : Ctx) : Prop := s.isProtected c.t = false ∨ c.iss.cls = 0

/-- The state after a global load that found its page has been put in flight (R86, R201, R236). -/
def loadStarted (ldk : Bool) (f : M2) (c : Ctx) (x : Xlat) (s : State) : State × Option LoadOp :=
  let a := f.addr64 c
  let s := ((s.translate c.iss.cl c.iss.co c.t.ctx c.t.priv .read a).1.noteLine c.t.id c.w a)
  s.fresh.1.lookup { id := s.nextId, dst := c.dest (f.dst c.iss) (f.probe c.iss), va := a, xl := x
                     ctx := c.t.ctx, bytes := f.bytes, sext := bitAt f.sub.toNat 0, cache := f.cache.toNat, ldk := ldk
                     cl := c.iss.cl, co := c.iss.co, tacq := c.tacq, acq := acqOf f.order.toNat f.scope.toNat } c.slot

/-- A load's form: the address pair, the destination group, and the probe predicate. -/
def loadForm (i : Instr) (f : M2) (iss : Issue) : Form :=
  m2Form .mem0 i.wf false ([f.pairA iss, f.dst iss] ++ f.probe iss) none

/-- A global load (R236, R237): with its page present, a miss-status entry free and its order's waits over, it is in
flight with its destination empty; in probe mode an absent page writes zeros and a true predicate. -/
def GlobalLoad (op : M2 → Instr) (ldk : Bool) : Prop :=
  (∀ (f : M2) (x : Xlat), Effects (op f) (loadForm (op f) f)
    (fun _ c => alignCheck (f.addr64 c) f.bytes)
    (fun s c => canonical (f.addr64 c) = true ∧ mayAccess f s c ∧
      (s.translate c.iss.cl c.iss.co c.t.ctx c.t.priv .read (f.addr64 c)).2 = .ok x ∧ (ldk = true → x.imm = true ∧ x.doorbell = false) ∧
      (loadStarted ldk f c x s).2.isSome = true)
    (fun c s => (loadStarted ldk f c x s).1.pushLoad c (f.dst c.iss :: f.probe c.iss) ((loadStarted ldk f c x s).2.getD
      { id := 0, dst := c.dest (f.dst c.iss) [] }))) ∧
  ∀ f : M2, f.fmode = 1 → Effects (op f) (loadForm (op f) f)
    (fun _ c => alignCheck (f.addr64 c) f.bytes)
    (fun s c => canonical (f.addr64 c) = true ∧ mayAccess f s c ∧
      ∃ b n w, s.translate c.iss.cl c.iss.co c.t.ctx c.t.priv .read (f.addr64 c) = (s, .absent b n w))
    (fun c s => s.updWarp c.t.id c.w fun wp =>
      (wp.setGroup c.l (f.dst c.iss) (List.replicate f.cnt (0, .raw))).setCell c.l (c.iss.prd f.pp.toNat).file f.pp.toNat 1 .raw)

/-- A scratchpad, cohort or tile-buffer load: what it reads is bound as it issues, and written back later (R236, R240). -/
def boundLoadOf (f : M2) (c : Ctx) (ws : List (Word × Tag)) (acq : Option Nat) (s : State) : State :=
  s.boundLoad c (f.dst c.iss) ws acq

/-- The words that `n` bytes at an offset of a team's scratchpad give: narrow forms extended, POISON where storage is in
error (R236, R458). -/
def scratchWords (t : Team) (f : M2) (a : Nat) : List (Word × Tag) :=
  loadWords f.bytes (bitAt f.sub.toNat 0) (t.scratchBad.any fun g => overlap g 32 a f.bytes) (t.readScratch a f.bytes)

/-- A store of the thread's data on its way to the address it computes. -/
def storeSent (f : M2) (c : Ctx) (s : State) : State :=
  let s' := s.noteLine c.t.id c.w (f.addr64 c)
  { s' with
    nextId := s.nextId + 1
    stores := s.stores ++ [{ id := s.nextId, grp := s.nextId, team := c.t.id, warp := c.w, lane := c.own
                             ctx := c.t.ctx, launch := c.t.launch, va := f.addr64 c, bytes := f.bytes
                             op := .store (f.storeBytes c), cache := f.cache.toNat, cl := c.iss.cl, co := c.iss.co
                             pc := c.iss.hdr, word := c.iss.word, raw := c.iss.raw, width := f.width.toNat }] }

/-- The form of a store. -/
def storeForm (g : Group) (i : Instr) (f : M2) (addr : List Opnd) (iss : Issue) : Form :=
  m2Form g i.wf true (addr ++ [f.data iss]) (some (f.data iss))

/-- The tile team's pass and tile, when it has them (R338). -/
def Ctx.pass (s : State) (c : Ctx) : Option (Pass × Nat) := c.t.tileSlot.bind fun x => (s.pass? x.1).map fun p => (p, x.2)

/-- STCM's causes (R239). -/
def stcmCause (f : M2) (iss : Issue) (c : Ctx) : Option Nat :=
  let a := f.addr32 c
  let mask := (c.rd (f.maskA iss)).toNat
  if mask = 0 then none
  else (alignCheck a f.bytes).or (if a / 2 ^ 18 ≠ 0 ∨ mask ≥ 2 ^ c.t.prog.cohort ∨ a + f.bytes > c.t.prog.scratch
    then some 0x0A else none)

/-- The teams a mask names, each with its scratchpad. -/
def Ctx.masked (s : State) (c : Ctx) (mask : Nat) : List (Option Team) := (maskTeams mask).map fun k => s.cohortTeam? c.t k

/-- A compared access that needs no partner. -/
def atomicMay (f : M2) (s : State) (c : Ctx) : Prop := mayAccess f s c ∧ unpaired s c

/-- An atomic on its way to its home: the destination is empty, the operation is translated and will bind its load with
the old value (R241 to R244). -/
def atomicSent (f : M2) (d : Issue → Opnd) (op : Ctx → Nat → HomeOp) (x : Xlat) (c : Ctx) (s : State) : State :=
  let a := f.addr64 c
  let n := s.nextId
  let s := (s.translate c.iss.cl c.iss.co c.t.ctx c.t.priv .write a).1.noteLine c.t.id c.w a
  let id := s.nextId
  let load : LoadOp := { id := id + 1, dst := c.dest (d c.iss) [], va := a, xl := x, ctx := c.t.ctx
                         bytes := f.bytes, cl := c.iss.cl, co := c.iss.co, acq := acqOf f.order.toNat f.scope.toNat
                         st := .atHome, twin := some id }
  let s := ({ s with nextId := id + 2 } : State).pushLoad c [d c.iss] load
  let s := s.pushStore c f n id a (op c id)
  { s with stores := s.stores.map fun (o : StoreOp) => if o.id == id then { o with xl := x, st := .translated } else o }

/-- A scratchpad atomic (R242, R243): the old value on its way to the destination, the new one stored. -/
def atomicDone (f : M2) (d : Issue → Opnd) (tag : Tag) (new : Ctx → Nat → Option Nat) (c : Ctx) (s : State) : State :=
  let t := (s.team? c.t.id).getD c.t
  let old := leNat (t.readScratch (f.addr32 c) f.bytes)
  let s := s.boundLoad c (d c.iss) (oldWords f.bytes old tag) none
  match new c old with
  | some v => s.writeScratch c.t.id (f.addr32 c) (leBytes v f.bytes)
  | none => s

/-- The scratchpad bytes of an access are free of error. -/
def scratchSound (f : M2) (s : State) (c : Ctx) : Prop :=
  (((s.team? c.t.id).getD c.t).scratchBad.any fun g => overlap g 32 (f.addr32 c) f.bytes) = false

/-- An atomic's target that the home performs (R241). -/
def atomicTarget (x : Xlat) : Prop := x.imm = false ∧ x.home ≠ .host ∧ x.doorbell = false

end Sys2Proof.Machine

/-- R201, R214, R236, R237: LDG and LDK put their load in flight, or answer a probe. -/
def Obligations.GlobalLoadsGoInFlight : Prop := GlobalLoad .ldg false ∧ GlobalLoad .ldk true

/-- R195, R236, R240: LDS, LDC and LDB read the bytes their address names. -/
def Sys2Proof.Machine.LocalLoadsReadTheirBytes : Prop :=
  (∀ f : M2, Effects (.lds f) (fun iss => m2Form .mem0 (Instr.lds f).wf false [f.regA iss, f.dst iss] none)
    (fun _ c => scratchCheck c (f.addr32 c) f.bytes) (mayAccess f)
    (fun c => boundLoadOf f c (scratchWords c.t f (f.addr32 c)) none)) ∧
  (∀ (f : M2) (u : Team), Effects (.ldc f) (fun iss => m2Form .mem0 (Instr.ldc f).wf false [f.regA iss, f.dst iss] none)
    (fun _ c => cohortCheck c (f.addr32 c) f.bytes)
    (fun s c => mayAccess f s c ∧ s.cohortTeam? c.t (cohTeam (f.addr32 c)) = some u)
    (fun c => boundLoadOf f c (scratchWords u f (cohOffset (f.addr32 c))) (acqOf f.order.toNat f.scope.toNat))) ∧
  ∀ (f : M2) (p : Pass) (k : Nat) (s : State) (iss : Issue) (t : Team) (w l : Nat), Acts s iss t w l →
    (m2Form .mem (Instr.ldb f).wf false [f.regA iss, f.dst iss] none).clear (fun c => tileCheck s c (f.addr32 c) f.bytes)
      ⟨t, w, l, iss⟩ →
    mayAccess f s ⟨t, w, l, iss⟩ → Ctx.pass s ⟨t, w, l, iss⟩ = some (p, k) →
    Completes (.ldb f) s (boundLoadOf f ⟨t, w, l, iss⟩
      (loadWords f.bytes false ((p.tile k).badAt (f.addr32 ⟨t, w, l, iss⟩) f.bytes) (p.slotRead k (f.addr32 ⟨t, w, l, iss⟩) f.bytes))
      (acqOf f.order.toNat f.scope.toNat))

/-- R217, R238: STG puts one store of its data on its way to the address it computes, and no byte of memory changes as it
issues. -/
def Obligations.GlobalStoresGoOnTheirWay : Prop :=
  ∀ f : M2, Effects (.stg f) (fun iss => storeForm .mem0 (.stg f) f [f.pairA iss] iss)
    (fun _ c => alignCheck (f.addr64 c) f.bytes)
    (fun s c => canonical (f.addr64 c) = true ∧ mayAccess f s c ∧ unpaired s c)
    (storeSent f)

/-- R399: an access of a protected launch that is compared. The thread that comes first waits for its partner; when the partner has
issued the same access it is made once, for the visible thread, and both go on, or both stand there while it must wait; one
that differs raises the mismatch. A store is such an access. -/
def Sys2Proof.Machine.ProtectedAccessesGoInPairs : Prop :=
  (∀ (s : State) (c : Ctx) (len : Nat) (access : List Nat) (go : State → Ctx → State × LaneRes),
    s.isProtected c.t = true → c.iss.cls ≠ 0 →
    let p := c.l ^^^ 1
    let other := (s.thread c.t.id c.w p).wait
    let visible : Ctx := { c with l := c.l - c.l % 2 }
    let waits (s : State) : State := s.updThread c.t.id c.w c.l fun th => th.park s.time (.pair (s.clkOf c.t.id) access)
    ((other ≠ .partner ∧ ∀ x a, other ≠ .pair x a) → s.pairGate c len access go = (waits s, .moved)) ∧
    (∀ x a, other = .pair x a → a ≠ access → s.pairGate c len access go =
      ({ waits s with agenda := .event .shadowMismatch { team := c.t.id, warp := c.w, lane := c.l } :: s.agenda }, .moved)) ∧
    (other = .partner ∨ (∃ x, other = .pair x access) →
      (∀ s1, go s visible = (s1, .done) → s.pairGate c len access go =
        ((s1.updThread c.t.id c.w p Thread.unpark).advance c.t.id c.w p len, .done)) ∧
      ∀ s1 w, go s visible = (s1, .stay w) → ∃ s2, s.pairGate c len access go = (s2, .moved) ∧ s2.data = s1.data)) ∧
  ∀ (f : M2) (s : State) (iss : Issue) (t : Team) (w l : Nat), Acts s iss t w l → s.isProtected t = true → iss.cls ≠ 0 →
    let c : Ctx := ⟨t, w, l, iss⟩
    let access := f.access c [f.addr64 c]
    let other := (t.thread w (l ^^^ 1)).wait
    (storeForm .mem0 (.stg f) f [f.pairA iss] iss).clear (fun c => alignCheck (f.addr64 c) f.bytes) c →
    canonical (f.addr64 c) = true → mayAccess f s c → (t.thread w l).mustTrap = none →
    ((other ≠ .partner ∧ ∀ x a, other ≠ .pair x a) →
      exec (.stg f) s = .next (({ s with issue := none } : State).updThread t.id w l fun th =>
        th.park s.time (.pair (s.clkOf t.id) access))) ∧
    (other = .partner ∨ (∃ x, other = .pair x access) → Completes (.stg f) s (storeSent f ⟨t, w, l - l % 2, iss⟩))

/-- R238 to R240: STS, STC, STCM and STB write their data at the offset they compute, in their own team's scratchpad, a
cohort team's, every masked team's, or the tile's slot. -/
def Sys2Proof.Machine.LocalStoresWriteTheirBytes : Prop :=
  (∀ f : M2, Effects (.sts f) (fun iss => storeForm .mem0 (.sts f) f [f.regA iss] iss)
    (fun _ c => scratchCheck c (f.addr32 c) f.bytes) (fun s c => mayWrite f s c ∧ unpaired s c)
    (fun c s => s.writeScratch c.t.id (f.addr32 c) (f.storeBytes c))) ∧
  (∀ (f : M2) (u : Team), Effects (.stc f) (fun iss => storeForm .mem0 (.stc f) f [f.regA iss] iss)
    (fun _ c => cohortCheck c (f.addr32 c) f.bytes)
    (fun s c => mayWrite f s c ∧ unpaired s c ∧ s.cohortTeam? c.t (cohTeam (f.addr32 c)) = some u)
    (fun c s => s.writeScratch u.id (cohOffset (f.addr32 c)) (f.storeBytes c))) ∧
  (∀ (f : M2) (us : List Team), Effects (.stcm f) (fun iss => storeForm .mem (.stcm f) f [f.offsetA iss, f.maskA iss] iss)
    (stcmCause f)
    (fun s c => mayWrite f s c ∧ unpaired s c ∧ Ctx.masked s c (c.rd (f.maskA c.iss)).toNat = us.map some)
    (fun c s => us.foldl (fun s u => s.writeScratch u.id (f.addr32 c) (f.storeBytes c)) s)) ∧
  ∀ (f : M2) (p k : Nat) (s : State) (iss : Issue) (t : Team) (w l : Nat), Acts s iss t w l →
    (storeForm .mem (.stb f) f [f.regA iss] iss).clear (fun c => tileCheck s c (f.addr32 c) f.bytes) ⟨t, w, l, iss⟩ →
    mayWrite f s ⟨t, w, l, iss⟩ → unpaired s ⟨t, w, l, iss⟩ → t.tileSlot = some (p, k) →
    Completes (.stb f) s fun s => s.updPass p fun p => p.slotWrite k (f.addr32 ⟨t, w, l, iss⟩) (f.storeBytes ⟨t, w, l, iss⟩)

/-- R238: what STS stores reads back at the address it computes, every other byte of the scratchpad reads as before, and
memory, stores and loads are unchanged. The scratchpad is in its canonical form, which every step keeps
(MemoryStaysCanonical). -/
def Sys2Proof.Machine.ScratchStoresFrame : Prop :=
  ∀ (f : M2) (s : State) (iss : Issue) (t : Team) (w l : Nat), Acts s iss t w l →
    (storeForm .mem0 (.sts f) f [f.regA iss] iss).clear (fun c => scratchCheck c (f.addr32 c) f.bytes) ⟨t, w, l, iss⟩ →
    mayWrite f s ⟨t, w, l, iss⟩ → unpaired s ⟨t, w, l, iss⟩ → Memory.wf t.scratch = true →
    let c : Ctx := ⟨t, w, l, iss⟩
    ∃ s', exec (.sts f) s = .next s' ∧ s'.mem = s.mem ∧ s'.stores = s.stores ∧ s'.loads = s.loads ∧
      ∃ t', s'.team? t.id = some t' ∧ t'.readScratch (f.addr32 c) f.bytes = f.storeBytes c ∧
        ∀ a, (a < f.addr32 c ∨ f.addr32 c + f.bytes ≤ a) → t'.readScratch a 1 = t.readScratch a 1

/-- R241 to R244: ATOMG and CASG go to their home translated, with their destination empty; ATOMS and CASS are performed
as they issue and bind the old value. -/
def Sys2Proof.Machine.AtomicsActOnTheirAddress : Prop :=
  (∀ (f : M2) (x : Xlat), Effects (.atomg f) (fun iss => m2Form .mem0 (Instr.atomg f).wf true [f.pairA iss, f.atomD iss] none)
    (fun _ c => alignCheck (f.addr64 c) f.bytes)
    (fun s c => canonical (f.addr64 c) = true ∧ atomicMay f s c ∧ atomicTarget x ∧
      (s.translate c.iss.cl c.iss.co c.t.ctx c.t.priv .write (f.addr64 c)).2 = .ok x)
    (fun c => atomicSent f f.atomD (fun c id => .atom f.sub.toNat (f.atomX c) id) x c)) ∧
  (∀ (f : M2) (x : Xlat), Effects (.casg f)
    (fun iss => m2Form .mem0 (Instr.casg f).wf true [f.pairA iss, f.casAll iss, f.casD iss] none)
    (fun _ c => alignCheck (f.addr64 c) f.bytes)
    (fun s c => canonical (f.addr64 c) = true ∧ atomicMay f s c ∧ atomicTarget x ∧
      (s.translate c.iss.cl c.iss.co c.t.ctx c.t.priv .write (f.addr64 c)).2 = .ok x)
    (fun c => atomicSent f f.casD (fun c id => .cas (f.casVals c).1 (f.casVals c).2 id) x c)) ∧
  (∀ f : M2, Effects (.atoms f) (fun iss => m2Form .mem0 (Instr.atoms f).wf true [f.regA iss, f.atomD iss] none)
    (fun _ c => scratchCheck c (f.addr32 c) f.bytes) (fun s c => mayWrite f s c ∧ unpaired s c ∧ scratchSound f s c)
    (atomicDone f f.atomD (atomTags f.sub.toNat).2 fun c old => some (atomNew f.sub.toNat old (f.atomX c)))) ∧
  ∀ f : M2, Effects (.cass f) (fun iss => m2Form .mem0 (Instr.cass f).wf true [f.regA iss, f.casAll iss, f.casD iss] none)
    (fun _ c => scratchCheck c (f.addr32 c) f.bytes) (fun s c => mayWrite f s c ∧ unpaired s c ∧ scratchSound f s c)
    (atomicDone f f.casD .raw fun c old => if old = (f.casVals c).1 then some (f.casVals c).2 else none)

/-- R242: the new value of every atomic sub-operation on 32-bit values, by its arithmetic. -/
def Sys2Proof.Machine.AtomicSubOperationsCompute : Prop :=
  ∀ o v : Word,
    atomNew 0 o.toNat v.toNat = (o.toNat + v.toNat) % 2 ^ 32 ∧ atomNew 1 o.toNat v.toNat = v.toNat ∧
    (BitVec.ofNat 32 (atomNew 2 o.toNat v.toNat)).toInt = min o.toInt v.toInt ∧
    (BitVec.ofNat 32 (atomNew 3 o.toNat v.toNat)).toInt = max o.toInt v.toInt ∧
    atomNew 4 o.toNat v.toNat = min o.toNat v.toNat ∧ atomNew 5 o.toNat v.toNat = max o.toNat v.toNat ∧
    atomNew 6 o.toNat v.toNat = (o &&& v).toNat ∧ atomNew 7 o.toNat v.toNat = (o ||| v).toNat ∧
    atomNew 8 o.toNat v.toNat = (o ^^^ v).toNat ∧
    atomNew 9 o.toNat v.toNat = (if v.toNat ≤ o.toNat then 0 else o.toNat + 1) ∧
    atomNew 10 o.toNat v.toNat = (if o.toNat = 0 ∨ v.toNat < o.toNat then v.toNat else o.toNat - 1) ∧
    atomNew 11 o.toNat v.toNat = (fpAdd fmtF32 0 o.toNat v.toNat).bits ∧
    atomNew 12 o.toNat v.toNat = (fpMinMax fmtF32 false o.toNat v.toNat).bits ∧
    atomNew 13 o.toNat v.toNat = (fpMinMax fmtF32 true o.toNat v.toNat).bits ∧
    ∀ a b : Nat, a < 2 ^ 64 → b < 2 ^ 64 → atomNew 14 a b = (a + b) % 2 ^ 64

/-- R221, R245 to R247, R280: PREQ, PFCH, DRAINS and FENCE, each when nothing holds it. -/
def Obligations.RequestsFencesAndDrains : Prop :=
  (∀ f : M2, Effects (.preq f) (fun iss => m2Form .mem (Instr.preq f).wf false [f.pairA iss, (iss.prd f.pp.toNat).src none] none)
    noValue (fun _ c => c.isTrue (c.iss.prd f.pp.toNat) = false) (fun _ s => s)) ∧
  (∀ (f : M2) (b n w : Nat), Effects (.preq f)
    (fun iss => m2Form .mem (Instr.preq f).wf false [f.pairA iss, (iss.prd f.pp.toNat).src none] none) noValue
    (fun s c => c.isTrue (c.iss.prd f.pp.toNat) = true ∧ canonical (f.addr64 c) = true ∧
      s.translate c.iss.cl c.iss.co c.t.ctx c.t.priv .read (f.addr64 c) = (s, .absent b n w) ∧
      s.faultOf c.t.ctx b n = none ∧ s.faultFull = false)
    (fun c s => { (s.postRequest 3 c.t.ctx (f.addr64 c)) with
      nextId := s.nextId + 1
      faults := s.faults ++ [{ id := s.nextId, ctx := c.t.ctx, base := b, size := n, watch := w, va := f.addr64 c
                               lastWalk := s.time, waiters := [] }] })) ∧
  (∀ f : M2, Effects (.pfch f) (fun iss => m2Form .mem (Instr.pfch f).wf false [f.pairA iss] none) noValue
    (fun s c => canonical (f.addr64 c) = true ∧
      ∃ b n w, s.translate c.iss.cl c.iss.co c.t.ctx c.t.priv .read (f.addr64 c / 128 * 128) = (s, .absent b n w))
    (fun _ s => s)) ∧
  (∀ (f : M2) (x : Xlat), Effects (.pfch f) (fun iss => m2Form .mem (Instr.pfch f).wf false [f.pairA iss] none) noValue
    (fun s c => canonical (f.addr64 c) = true ∧
      (s.translate c.iss.cl c.iss.co c.t.ctx c.t.priv .read (f.addr64 c / 128 * 128)).2 = .ok x)
    (fun c s =>
      let a := f.addr64 c / 128 * 128
      let s := (s.translate c.iss.cl c.iss.co c.t.ctx c.t.priv .read a).1.noteLine c.t.id c.w a
      if f.cache = 2 then s
      else (s.prefetch c f.cache.toNat x).prefetch c f.cache.toNat { x with pa := x.pa + 64 })) ∧
  Effects .drains (fun _ => { grp := .mem0 }) noValue
    (fun s c => (∀ o ∈ s.stores, s.waitsStore c.t.id c.w c.own o = true → o.st = .translated ∧ o.wasHeld = false) ∧
      s.unlistedFor c.t.id c.w c.own = false) (fun _ s => s) ∧
  (∀ scope : BitVec 2, Effects (.fence 1 scope) (fun _ => { grp := .mem0 }) noValue
    (fun s c => s.loadsBound c.t.id c.w c.own = true)
    (fun c s => if scope = 0 then s else s.acquire c.t.id c.w c.own)) ∧
  (∀ scope : BitVec 2, Effects (.fence 2 scope) (fun _ => { grp := .mem0 }) noValue
    (fun s c => c.th.relDone = true ∨ s.relReady c.t.id c.w c.own scope.toNat = true) (fun _ s => s)) ∧
  ∀ scope : BitVec 2, Effects (.fence 3 scope) (fun _ => { grp := .mem0 }) noValue
    (fun s c => c.th.relDone = true ∨ s.relReady c.t.id c.w c.own scope.toNat = true)
    (fun c s => if scope = 0 then s else s.acquire c.t.id c.w c.own)

namespace Sys2Proof.Machine

/-! ### Level-of-detail loads, residency and feedback -/

/-- The registers of a level-of-detail word: descriptor address, coordinates, and `n` results. -/
def lodForm (a c : BitVec 7) (tags : List Tag) (d : Option (BitVec 7 × Nat)) (iss : Issue) : Form :=
  { grp := .mem, os := [lodA iss a, lodC iss c (some tags)] ++ (d.map fun x => lodD iss x.1 x.2).toList }

/-- The descriptor's address is canonical, no earlier acquire waits for its data, the thread's loads are settled and its stores
translated (R276, R279). -/
def lodMay (a : BitVec 7) (s : State) (k : Ctx) : Prop :=
  canonical (k.pair (lodA k.iss a)) = true ∧ s.lodGate k = false

/-- The descriptor as read. -/
def lodDesc (a : BitVec 7) (s : State) (k : Ctx) : State × LodRes Resource := s.readDesc k (k.pair (lodA k.iss a))

/-- The descriptor is absent, protected or malformed. -/
def lodUnusable (a : BitVec 7) (s : State) (k : Ctx) : Prop := (lodDesc a s k).2 = .missing

/-- The state once a usable descriptor has been read, its line counted (R70). -/
def lodAfter (a : BitVec 7) (s : State) (k : Ctx) : State :=
  (lodDesc a s k).1.noteLine k.t.id k.w (k.pair (lodA k.iss a))

/-- A bound load of the word's results, after the accesses made in `s`. -/
def lodBound (d : BitVec 7) (ws : List (Word × Tag)) (k : Ctx) (s : State) : State :=
  s.boundLoad k (lodD k.iss d ws.length) ws none

/-- The integer coordinates of LDL, RESQ and FBCK: x, y and the third. -/
def lodXY (c : BitVec 7) (k : Ctx) (i : Nat) : Nat := (k.rd (lodC k.iss c (some [.n32, .i32])) i).toNat

/-- What LDL serves of element (x, y): the level wanted, then the map's, then the first resident one, with its status word
(R224 to R226). -/
def ldlServed (r : Resource) (c : BitVec 7) (k : Ctx) (s : State) : State × LodRes (Served × Word) :=
  s.lodServe k r (min (lodXY c k 2) (r.levels - 1)) (lodXY c k 0) (lodXY c k 1)
    fun l => [some (lodXY c k 0 >>> l, lodXY c k 1 >>> l)]

/-- The filter that SMPL's field and the descriptor select: bilinear (R251). -/
def smplBil (filt : BitVec 2) (r : Resource) : Bool := (filt == 2 || (filt == 0 && r.bil)) && r.etag == .f32

/-- What a sampler serves of a resource. -/
def smplServed (a c : BitVec 7) (bil : Bool) (r : Resource) (s : State) (k : Ctx) : State × LodRes (Served × Word × Bool) :=
  (lodAfter a s k).sample k r (lodC k.iss c (some [.f32])) bil

/-- SMPL's value: a texel, or the bilinear sum of four, those of the border among them (R251, R252). -/
def smplValue (c : BitVec 7) (filt : BitVec 2) (k : Ctx) (r : Resource) (v : Served) : Word × Tag :=
  if v.none = true ∨ smplBil filt r = false then
    (if v.none then (0, r.etag) else texelReg r (v.texels.getD 0 (0, false)))
  else if v.texels.any (·.2) then (0, .poison)
  else (bilinear (v.texels.map (·.1)) (scaleBil (k.rd (lodC k.iss c (some [.f32])) 0) (r.w v.level)).2
    (scaleBil (k.rd (lodC k.iss c (some [.f32])) 1) (r.h v.level)).2, r.etag)

/-- A level-of-detail word completes with the results of `out`, whenever `cond` holds beside the common conditions. -/
def LodWrites (i : Instr) (d a c : BitVec 7) (n : Nat) (tags : List Tag) (cond : State → Ctx → Prop)
    (out : Ctx → State → State × List (Word × Tag)) : Prop :=
  (∀ k s, (out k s).2.length = n) →
  Effects i (lodForm a c tags (some (d, n))) (fun iss => descCheck (lodA iss a)) (fun s k => lodMay a s k ∧ cond s k)
    (fun k s => lodBound d (out k s).2 k (out k s).1)

end Sys2Proof.Machine

/-- R222 to R226, R250: LDL gives the element of the first resident level at or above the wanted one with its status, an
element of zeros with status 0x20 outside level 0, and the same with tag RAW where the descriptor cannot be used. -/
def Sys2Proof.Machine.LdlReadsTheFinestResidentLevel : Prop :=
  ∀ d a c : BitVec 7,
    LodWrites (.ldl d a c) d a c 2 [.n32, .i32] (lodUnusable a) (fun k s => ((lodDesc a s k).1, [(0, .raw), (0x20, .stat)])) ∧
    ∀ r : Resource,
      LodWrites (.ldl d a c) d a c 2 [.n32, .i32]
        (fun s k => (lodDesc a s k).2 = .ok r ∧ (r.width ≤ lodXY c k 0 ∨ r.height ≤ lodXY c k 1))
        (fun k s => (lodAfter a s k, [(0, r.etag), (0x20, .stat)])) ∧
      ∀ (v : Served) (st : Word), LodWrites (.ldl d a c) d a c 2 [.n32, .i32]
        (fun s k => (lodDesc a s k).2 = .ok r ∧ lodXY c k 0 < r.width ∧ lodXY c k 1 < r.height ∧
          (ldlServed r c k (lodAfter a s k)).2 = .ok (v, st))
        (fun k s => ((ldlServed r c k (lodAfter a s k)).1, [texelReg r (v.texels.getD 0 (0, false)), (st, .stat)]))

namespace Sys2Proof.Machine

/-- The state once `n` levels from `l` on have been tried in turn (R225). -/
def triedFrom (c : Ctx) (tacq : Nat) (r : Resource) (foot : Nat → List (Option (Nat × Nat))) (l : Nat) (s : State) : Nat → State
  | 0 => s
  | n + 1 => ((triedFrom c tacq r foot l s n).readTexels c tacq r (l + n) (foot (l + n))).1

/-- What reading level `k` gives when the levels from `l` up to it have been tried before it. -/
def triedAt (c : Ctx) (tacq : Nat) (r : Resource) (foot : Nat → List (Option (Nat × Nat))) (l : Nat) (s : State) (k : Nat) :
    State × LodRes (List (Word × Bool)) :=
  (triedFrom c tacq r foot l s (k - l)).readTexels c tacq r k (foot k)

/-- A page wanted stands in the core's filter, and the resource asks for the filter (R228). -/
def wantKnown (s : State) (c : Ctx) (r : Resource) (w : Want) : Prop :=
  r.nofilt = false ∧ ∃ e ∈ (s.core c.iss.cl c.iss.co).filter, e.resid = r.resid ∧ e.lvl = w.lvl ∧ e.px = w.px ∧ e.py = w.py

end Sys2Proof.Machine

/-- R225: serving starts at the level asked for and goes up while a page of a level is missing: every level it passes was
tried and found missing, and it ends at the first whose texels can all be read, or with zeros once the tail is missing too. -/
def Sys2Proof.Machine.LevelsAreTriedUpToTheFirstResidentOne : Prop :=
  ∀ (c : Ctx) (tacq : Nat) (r : Resource) (foot : Nat → List (Option (Nat × Nat))) (fuel l : Nat) (s s' : State) (v : Served),
    max l r.tail < l + fuel → State.serve c tacq r foot fuel l false s = (s', .ok v) →
    l ≤ v.level ∧ v.level ≤ max l r.tail ∧ (v.stale = true ↔ l < v.level) ∧ v.texels.length = (foot v.level).length ∧
      (∀ k, l ≤ k → k < v.level → (triedAt c tacq r foot l s k).2 = .missing) ∧
      (v.none = false → (v.tailu = true ↔ r.tail ≤ v.level) ∧ triedAt c tacq r foot l s v.level = (s', .ok v.texels)) ∧
      (v.none = true → v.tailu = true ∧ (∀ x ∈ v.texels, x = (0, false)) ∧ v.level = max l r.tail ∧
        triedAt c tacq r foot l s v.level = (s', .missing))

/-- R224 to R226: a load is served from the level it wants or the finest one that the map names, whichever is the coarser,
onwards; where another level than the wanted one serves and the resource asks for it, the wanted pages are logged, and the
status says how that went; else nothing is logged. -/
def Sys2Proof.Machine.FallbacksAreLogged : Prop :=
  ∀ (c : Ctx) (r : Resource) (foot : Nat → List (Option (Nat × Nat))) (w x y : Nat) (s s' : State) (v : Served) (st : Word),
    r.tail < 16 → s.lodServe c r w x y foot = (s', .ok (v, st)) →
    ∃ (s1 s2 : State) (f : Nat) (missed : Bool), s.readMap c r x y = (s1, .ok (f, missed)) ∧
      State.serve c (max c.tacq (s1.thread c.t.id c.w c.l).tacq) r foot 16 (max w (min f r.tail)) false s1 = (s2, .ok v) ∧
      w ≤ v.level ∧
      let s3 := s2.noteTexels c r v.level (foot v.level)
      let log := s3.logWants c r (wantsOf w (foot w))
      (v.level = w ∨ r.log = false → s' = s3 ∧ st = v.status w false false) ∧
      (v.level ≠ w → r.log = true → s' = log.1 ∧ st = v.status w log.2.1 log.2.2)

/-- R226 to R228: a want that the core's filter holds counts as logged; one for which the ring is absent, or is full, raises
OVF; else PROD goes on by one and the entry of the wanted page, with the time, is on its way behind that write. -/
def Sys2Proof.Machine.WantsEnterTheRing : Prop :=
  ∀ (s : State) (c : Ctx) (r : Resource) (w : Want),
    (wantKnown s c r w → s.logWant c r w = (s, true, false)) ∧
    (¬ wantKnown s c r w → ∀ s1, s.ringRead c r.ring = (s1, none) → s.logWant c r w = (s1, false, true)) ∧
    (¬ wantKnown s c r w → ∀ s1 bs, s.ringRead c r.ring = (s1, some bs) →
      let q (i : Nat) : Nat := leNat ((bs.drop (8 * i)).take 8)
      let used := (q 0 % 2 ^ 32 + 2 ^ 32 - q 1 % 2 ^ 32) % 2 ^ 32
      let va := (q 4 + 16 * (q 0 % 2 ^ 32 % 2 ^ (q 2 % 2 ^ 5))) % 2 ^ 64
      ringFormed q = true →
      (2 ^ (q 2 % 2 ^ 5) ≤ used → s.logWant c r w = (s1.ringOverflow c r.ring (q 3), false, true)) ∧
      (used < 2 ^ (q 2 % 2 ^ 5) → ∀ s2 g s3 x, s1.ringWrite c r.ring (leBytes (q 0 % 2 ^ 32 + 1) 4) = (s2, some g) →
        s2.ringXlat c va = (s3, some x) → (s.logWant c r w).2 = (true, false) ∧
        ∃ o : StoreOp, (s.logWant c r w).1.stores = s3.stores ++ [o] ∧ o.va = va ∧ o.xl = x ∧ o.notBefore = g ∧
          o.op = .store (leBytes (2 ^ 63 + w.py % 4096 * 2 ^ 48 + w.px % 4096 * 2 ^ 36 + w.lvl * 2 ^ 32 + r.resid) 8
            ++ leBytes s2.time 8)))

/-- R224 to R228: serving falls back to the nearest resident level, and the fallback is logged. -/
def Sys2Proof.Machine.ServingFallsBackToAResidentLevel : Prop :=
  LevelsAreTriedUpToTheFirstResidentOne ∧ FallbacksAreLogged ∧ WantsEnterTheRing

/-- R251, R252: SMPL gives one texel or the bilinear sum of four with the status, GATH4 the four texels and the status;
an unusable descriptor gives zeros with tag RAW and status 0x20. -/
def Sys2Proof.Machine.SamplersReadTheirFootprint : Prop :=
  ∀ d a c : BitVec 7,
    (∀ filt : BitVec 2, (Instr.smpl d a c filt).wf = true →
      LodWrites (.smpl d a c filt) d a c 2 [.f32] (lodUnusable a)
        (fun k s => ((lodDesc a s k).1, [(0, .raw), (0x20, .stat)])) ∧
      ∀ (r : Resource) (v : Served) (st : Word) (border : Bool),
        LodWrites (.smpl d a c filt) d a c 2 [.f32]
          (fun s k => (lodDesc a s k).2 = .ok r ∧ (smplServed a c (smplBil filt r) r s k).2 = .ok (v, st, border))
          (fun k s => ((smplServed a c (smplBil filt r) r s k).1, [smplValue c filt k r v, (st, .stat)]))) ∧
    LodWrites (.gath4 d a c) d a c 5 [.f32] (lodUnusable a)
      (fun k s => ((lodDesc a s k).1, List.replicate 4 (0, .raw) ++ [(0x20, .stat)])) ∧
    ∀ (r : Resource) (v : Served) (st : Word) (border : Bool), v.texels.length = 4 →
      LodWrites (.gath4 d a c) d a c 5 [.f32]
        (fun s k => (lodDesc a s k).2 = .ok r ∧ (smplServed a c true r s k).2 = .ok (v, st, border))
        (fun k s => ((smplServed a c true r s k).1, v.texels.map (texelReg r) ++ [(st, .stat)]))

/-- R253, R254: RESQ answers at once what the residency map says of a coordinate; FBCK logs the page wanted where the
descriptor asks for it, and does nothing else. -/
def Sys2Proof.Machine.ResidencyAndFeedbackWords : Prop :=
  ∀ d a c : BitVec 7,
    (let answer (cond : State → Ctx → Prop) (out : Ctx → State → State × Nat) : Prop :=
      Effects (.resq d a c) (lodForm a c [.n32, .i32] (some (d, 1))) (fun iss => descCheck (lodA iss a))
        (fun s k => lodMay a s k ∧ cond s k)
        (fun k s => (out k s).1.updWarp k.t.id k.w fun wp =>
          wp.setGroup k.l (lodD k.iss d 1) [(BitVec.ofNat 32 (out k s).2, .n32)])
     answer (lodUnusable a) (fun k s => ((lodDesc a s k).1, 0x1000)) ∧
     ∀ r : Resource,
       answer (fun s k => (lodDesc a s k).2 = .ok r ∧ (r.width ≤ lodXY c k 0 ∨ r.height ≤ lodXY c k 1))
         (fun k s => ((lodDesc a s k).1, 0x2000 + r.tail * 256 + r.levels * 16 + r.tail)) ∧
       ∀ (finest : Nat) (missed : Bool),
         answer (fun s k => (lodDesc a s k).2 = .ok r ∧ lodXY c k 0 < r.width ∧ lodXY c k 1 < r.height ∧
             ((lodDesc a s k).1.readMap k r (lodXY c k 0) (lodXY c k 1)).2 = .ok (finest, missed))
           (fun k s => (((lodDesc a s k).1.readMap k r (lodXY c k 0) (lodXY c k 1)).1,
             (if missed then 0x1000 else 0) + r.tail * 256 + r.levels * 16 + min finest r.tail))) ∧
    (let log (cond : State → Ctx → Prop) (eff : Ctx → State → State) : Prop :=
      Effects (.fbck a c) (lodForm a c [.n32, .i32] none) (fun iss => descCheck (lodA iss a))
        (fun s k => lodMay a s k ∧ cond s k) eff
     log (lodUnusable a) (fun k s => (lodDesc a s k).1) ∧
     ∀ r : Resource,
       log (fun s k => (lodDesc a s k).2 = .ok r ∧ (r.log = false ∨ r.width ≤ lodXY c k 0 ∨ r.height ≤ lodXY c k 1))
         (fun k s => (lodDesc a s k).1) ∧
       log (fun s k => (lodDesc a s k).2 = .ok r ∧ r.log = true ∧ lodXY c k 0 < r.width ∧ lodXY c k 1 < r.height)
         (fun k s =>
           let w := min (lodXY c k 2) (r.levels - 1)
           ((lodDesc a s k).1.logWant k r
             { lvl := w, px := (lodXY c k 0 >>> w) / 128, py := (lodXY c k 1 >>> w) / 128 }).1))

namespace Sys2Proof

open Machine

/-! ### Copies, streams and transaction barriers -/

/-- The copy word of a kind. -/
def CopyF.instr (f : CopyF) : CopyKind → Instr
  | .cpt => .cpt f
  | .cpto => .cpto f
  | .cpx => .cpx f
  | .cpm => .cpm f

/-- A collective copy's form: two words, in a collective clause, CPTO outside a pure region alone (R255, R356). -/
def CopyF.form (f : CopyF) (kind : CopyKind) (_ : Issue) : Form :=
  { grp := .copy, wf := (f.instr kind).wf, len := 2, coll := true, os := f.os (kind == .cpx || kind == .cpm)
    pure := kind == .cpto }

/-- The mask register of CPX and CPM. -/
def CopyF.extra (f : CopyF) (kind : CopyKind) (c : Ctx) : Nat :=
  if kind = .cpx ∨ kind = .cpm then (c.rd f.extraO).toNat else 0

/-- The slice that a warp hands over (R256, R257). -/
def CopyF.slice (f : CopyF) (kind : CopyKind) (c : Ctx) : Slice :=
  { warp := c.w, shape := c.words f.shapeO, glob := f.addr c, gs := f.strides c, barr := f.barrier c
    xmask := f.extra kind c, tacq := c.th.tacq, pc := c.iss.hdr, word := c.iss.word, raw := c.iss.raw }

/-- The warp's next copy on the channel, and the copy of that number when another warp has begun it (R257). -/
def CopyF.seq (f : CopyF) (c : Ctx) : Nat := c.wp.copySeq.getD f.ch.toNat 0
def CopyF.begun (f : CopyF) (c : Ctx) : Option Copy :=
  (c.t.chans.getD f.ch.toNat []).find? fun k => k.seq == f.seq c

/-- No acquire of a live thread of the warp waits for its data (R259, R268, R279). -/
def Machine.Ctx.noneAcquires (c : Ctx) (s : State) : Prop := s.acquiring c.t.id c.w 32 = false

/-- The address is canonical, no acquire of the warp waits for its data, and every team a CPM names is there. -/
def CopyF.may (f : CopyF) (kind : CopyKind) (s : State) (c : Ctx) : Prop :=
  canonical (f.addr c) = true ∧ c.noneAcquires s ∧
  (kind = .cpm → ∀ k ∈ maskTeams (f.extra kind c), (s.cohortTeam? c.t k).isSome = true)

/-- The channel's copies change, and the warp has handed one copy more over. -/
def CopyF.hand (f : CopyF) (g : List Copy → List Copy) (c : Ctx) (s : State) : State :=
  (s.updTeam c.t.id fun t => { t with chans := updAt t.chans f.ch.toNat g }).updWarp c.t.id c.w fun wp =>
    { wp with copySeq := setAt wp.copySeq f.ch.toNat (f.seq c + 1) }

namespace Machine

/-- Where an address of a barrier word lies: in the team's own scratchpad, or in the cohort's (R286). -/
def BarrierAt (s : State) (c : Ctx) (a : BitVec 7) (coh : BitVec 1) (tm x : Nat) : Prop :=
  if coh = 1 then ∃ u, s.cohortTeam? c.t (cohTeam (c.rd (tbA c.iss a)).toNat) = some u ∧ u.id = tm ∧
    x = cohOffset (c.rd (tbA c.iss a)).toNat
  else tm = c.t.id ∧ x = (c.rd (tbA c.iss a)).toNat

/-- A barrier word's address check. -/
def barrierCheck (a : BitVec 7) (coh : BitVec 1) (iss : Issue) (c : Ctx) : Option Nat :=
  tbCheck c (c.rd (tbA iss a)).toNat (coh == 1)

/-- No engine release waits on the barrier, and the release that the word makes is complete (R285, R287). -/
def barrierOpen (s : State) (c : Ctx) (coh : BitVec 1) (whole rel : Bool) (tm x : Nat) : Prop :=
  s.tbHeld tm x = false ∧ (rel = true → s.releaseGate c (if coh = 1 then 1 else 0) whole = none)

/-- An engine release waits on the barrier, and the release that the word makes is complete (R284). -/
def barrierBusy (s : State) (c : Ctx) (coh : BitVec 1) (whole rel : Bool) (tm x : Nat) : Prop :=
  s.tbHeld tm x = true ∧ (rel = true → s.releaseGate c (if coh = 1 then 1 else 0) whole = none)

/-- The update stands behind those that the barrier's engine release holds already (R284). -/
def holdUpdate (tm x : Nat) (u : TbUpd) (s : State) : State :=
  s.updTeam tm fun t => { t with tbHolds := t.tbHolds.map fun h => if h.addr = x then { h with held := h.held ++ [u] } else h }

/-- A source of a barrier word. -/
def barrierB (b : BitVec 7) (iss : Issue) : Opnd := (iss.reg b.toNat).src (some [.n32, .i32])

/-- A word in each thread or once for its warp. -/
def EffectsBy (whole : Bool) (i : Instr) (fm : Issue → Form) (value : Issue → Ctx → Option Nat)
    (cond : State → Ctx → Prop) (eff : Ctx → State → State) : Prop :=
  if whole then EffectsOnce i fm value cond eff else Effects i fm value cond eff

end Machine

end Sys2Proof

/-- R255 to R257, R259: CPT, CPTO, CPX and CPM hand their warp's slice over: a new copy on the channel when there is room,
or the slice joins the copy that another warp has begun, in the order of the warps. -/
def Sys2Proof.Machine.CopiesTakeTheSliceOfTheirWarp : Prop :=
  ∀ (f : CopyF) (kind : CopyKind),
    EffectsOnce (f.instr kind) (f.form kind) (fun _ => f.check kind)
      (fun s c => f.may kind s c ∧ f.begun c = none ∧ (c.t.chans.getD f.ch.toNat []).length < 4)
      (fun c => f.hand (fun l => l ++ [{ seq := f.seq c, kind := kind, slices := [f.slice kind c] }]) c) ∧
    ∀ k : Copy, EffectsOnce (f.instr kind) (f.form kind) (fun _ => f.check kind)
      (fun s c => f.may kind s c ∧ f.begun c = some k ∧ k.kind = kind)
      (fun c => f.hand (fun l => l.map fun (k : Copy) =>
        if k.seq == f.seq c then { k with slices := insertSlice (f.slice kind c) k.slices } else k) c)

/-- R261, R263 to R265: CPA adds an entry to the thread's open batch, CSEAL closes the batch and answers its number, CWAIT
goes on when no more than its count of batches are outstanding, WPTR reads the granules landed on a channel. -/
def Sys2Proof.Machine.ThreadCopiesJoinTheirBatch : Prop :=
  (∀ (d a : BitVec 7) (sz : BitVec 2),
    let pd (iss : Issue) : Opnd := (iss.reg d.toNat).src (some [.n32, .i32])
    let pa (iss : Issue) : Opnd := ((iss.reg a.toNat).grp 2 2).src (some [.addr])
    Effects (.cpa d a sz) (fun iss => { grp := .copy, wf := (Instr.cpa d a sz).wf, os := [pd iss, pa iss] })
      (fun iss c => (alignCheck (c.pair (pa iss)) (4 * 2 ^ sz.toNat)).or (scratchCheck c (c.rd (pd iss)).toNat (4 * 2 ^ sz.toNat)))
      (fun s c => canonical (c.pair (pa c.iss)) = true ∧ s.acquiring c.t.id c.w c.l = false ∧ c.th.openBatch < 32 ∧
        (s.thread c.t.id c.w c.l).batch = c.th.batch)
      (fun c s => ({ s with
        nextId := s.nextId + 1
        cpas := s.cpas ++ [{ id := s.nextId, team := c.t.id, warp := c.w, lane := c.l, batch := c.th.batch
                             dst := (c.rd (pd c.iss)).toNat, va := c.pair (pa c.iss), bytes := 4 * 2 ^ sz.toNat
                             tacq := c.th.tacq, pc := c.iss.hdr, word := c.iss.word, raw := c.iss.raw }] } : State).updThread
          c.t.id c.w c.l fun th => { th with openBatch := th.openBatch + 1 })) ∧
  (∀ d : BitVec 7, Effects (.cseal d) (fun iss => { grp := .copy, os := [(iss.reg d.toNat).dst] }) noValue
    (fun s c => s.outstanding c.t.id c.w c.l < 16)
    (fun c s => (s.seal c.t.id c.w c.l).1.updWarp c.t.id c.w fun wp =>
      wp.setGroup c.l (c.iss.reg d.toNat).dst [((s.thread c.t.id c.w c.l).batch, .n32)])) ∧
  (∀ n : BitVec 4, Effects (.cwait n) (fun _ => { grp := .copy }) noValue
    (fun s c => s.outstanding c.t.id c.w c.l ≤ n.toNat) (fun _ s => s)) ∧
  ∀ (d : BitVec 7) (ch : BitVec 3), Effects (.wptr d ch) (fun iss => { grp := .copy, os := [(iss.reg d.toNat).dst] }) noValue
    (fun _ _ => True)
    (fun c s => s.updWarp c.t.id c.w fun wp =>
      wp.setGroup c.l (c.iss.reg d.toNat).dst [(c.t.landed.getD ch.toNat 0, .n32)])

/-- R267 to R271: STRM starts a stream over its parameters in place of the one it closes, SCLOS closes one, and POPQ takes
the next row: the one that has arrived, one on its way, or zeros and a false predicate after the last. A queue that the team
lacks is a field out of its range (R17, R104). -/
def Sys2Proof.Machine.StreamWordsFeedTheirQueue : Prop :=
  (∀ (q : BitVec 3) (par : BitVec 9) (roww : BitVec 5) (lvl : BitVec 2),
    EffectsOnce (.strm q par roww lvl)
      (fun _ => { grp := .copy, wf := (Instr.strm q par roww lvl).wf, coll := true, os := [strmO par] })
      (fun _ c =>
        if q.toNat ≥ c.t.prog.queues ∨ (strmCounts c par lvl.toNat).any (fun n => n == 0 || n > 2 ^ 24) then some 0x04
        else if c.pair (strmO par) % 4 ≠ 0 ∨ (strmStrides c par 3).any (fun g => g % 4 != 0) then some 0x09
        else none)
      (fun s c => canonical (c.pair (strmO par)) = true ∧ c.noneAcquires s)
      (fun c s => ({ (s.closeStream c.t.id q.toNat) with nextId := s.nextId + 1 } : State).updStream c.t.id q.toNat fun _ =>
        { isOpen := true, id := s.nextId, base := c.pair (strmO par), counts := strmCounts c par lvl.toNat
          strides := strmStrides c par lvl.toNat, roww := roww.toNat
          total := (strmCounts c par lvl.toNat).foldl (· * ·) 1, tacq := c.th.tacq, warp := c.w
          pc := c.iss.hdr, word := c.iss.word, raw := c.iss.raw })) ∧
  (∀ (q : BitVec 3) (s : State) (iss : Issue) (t : Team) (w l : Nat),
    ActsOnce s iss t w l { grp := .copy, coll := true, os := queueO s iss q } (fun _ => none) →
    Completes (.sclos q) s fun s => s.closeStream t.id q.toNat) ∧
  (∀ (s : State) (tm q : Nat), (∀ t, s.team? tm = some t → ∀ k ∈ t.taken, k.q = q → k.parked = false) →
    s.closeStream tm q =
      { (s.updStream tm q fun st => { st with isOpen := false, queue := [], total := 0, fetched := 0, next := 0
                                              blocked := none, roww := 0, parked := false }) with
        faults := s.faults.map fun e => { e with waiters := e.waiters.filter (· != .stream tm q) }
        unlisted := s.unlisted.filter fun x => x.1 != .stream tm q }) ∧
  ∀ (d : BitVec 7) (q pd : BitVec 3) (s : State) (iss : Issue) (t : Team) (w l : Nat), Acts s iss t w l →
    let st := t.queues.getD q.toNat {}
    let n := if st.isOpen then st.roww + 1 else 1
    let dst := ((iss.reg d.toNat).many n).dst
    let p := (iss.prd pd.toNat).dst
    let c : Ctx := ⟨t, w, l, iss⟩
    let load : LoadOp := { id := s.nextId, dst := c.dest dst [p], bytes := 4 * n, mem := false }
    Form.clear { grp := .copy, os := queueO s iss q ++ [dst, p] } (fun _ => none) c →
    ((st.isOpen = false ∨ st.total ≤ st.next) → Completes (.popq d q pd) s fun s => s.updWarp t.id w fun wp =>
      (wp.setGroup l dst (List.replicate n (0, .raw))).setCell l p.file p.n 0 .raw) ∧
    (st.isOpen = true → st.next < st.total → ∀ (r : Row) (rest : List Row), st.queue = r :: rest →
      Completes (.popq d q pd) s fun s =>
        (({ s with nextId := s.nextId + 1 } : State).updStream t.id q.toNat fun st =>
          { st with queue := rest, next := st.next + 1 }).pushLoad c [dst, p]
            { load with st := .bound (r.words.map fun w => (w, if r.bad then .poison else .raw)) (some true) }) ∧
    (st.isOpen = true → st.next < st.total → st.queue = [] →
      Completes (.popq d q pd) s fun s =>
        ((({ s with nextId := s.nextId + 1 } : State).updStream t.id q.toNat fun st =>
          { st with next := st.next + 1 }).updTeam t.id fun t =>
          { t with taken := t.taken ++ [{ q := q.toNat, strm := st.id, idx := st.next, va := st.va st.next
                                          words := st.roww + 1, load := load.id, warp := st.warp, pc := st.pc
                                          word := st.word, raw := st.raw }] }).pushLoad c [dst, p] { load with st := .engine })

/-- R283 to R289: TBINIT writes a fresh barrier, TBARR counts one arrival and answers the phase it counted in, TBEXP adds
to the expected granules and may arrive, and TBWAIT goes on when the phase is not the one it names. While an engine release
waits on the barrier, TBINIT, TBARR and TBEXP put their update behind those it already holds; TBWAIT reads the barrier as it stands
then too (the model's choice, log 25). -/
def Sys2Proof.Machine.BarrierWordsCountTheirArrivals : Prop :=
  ∀ (a : BitVec 7) (coh : BitVec 1) (tm x : Nat),
    (∀ b : BitVec 7, Effects (.tbinit a b coh) (fun iss => { grp := .copy, os := [tbA iss a, barrierB b iss] })
      (fun iss c => if c.rd (barrierB b iss) = 0 ∨ (c.rd (barrierB b iss)).toNat > 0xFFFFF then some 0x04
        else barrierCheck a coh iss c)
      (fun s c => BarrierAt s c a coh tm x ∧ barrierOpen s c coh false false tm x)
      (fun c s => s.putTbar tm x
        { phase := 0, parr := (c.rd (barrierB b c.iss)).toNat, reload := (c.rd (barrierB b c.iss)).toNat, pgran := 0
          err := false, ptime := s.time % 2 ^ 32 }) ∧
      Effects (.tbinit a b coh) (fun iss => { grp := .copy, os := [tbA iss a, barrierB b iss] })
      (fun iss c => if c.rd (barrierB b iss) = 0 ∨ (c.rd (barrierB b iss)).toNat > 0xFFFFF then some 0x04
        else barrierCheck a coh iss c)
      (fun s c => BarrierAt s c a coh tm x ∧ s.tbHeld tm x = true)
      (fun c => holdUpdate tm x (.init (c.rd (barrierB b c.iss)).toNat))) ∧
    (∀ (d : BitVec 7) (whole : BitVec 1), EffectsBy (whole == 1) (.tbarr d a coh whole)
      (fun iss => { grp := .copy, coll := whole == 1, os := [tbA iss a, (iss.reg d.toNat).dst] }) (barrierCheck a coh)
      (fun s c => BarrierAt s c a coh tm x ∧ barrierOpen s c coh (whole == 1) true tm x)
      (fun c s => (s.tbUpdate tm x (-1) 0).updWarp c.t.id c.w fun wp =>
        (if whole = 1 then c.wp.live else [c.l]).foldl (fun wp l =>
          wp.setGroup l (c.iss.reg d.toNat).dst [(BitVec.ofNat 32 (s.tbar tm x).phase, .n32)]) wp) ∧
      EffectsBy (whole == 1) (.tbarr d a coh whole)
      (fun iss => { grp := .copy, coll := whole == 1, os := [tbA iss a, (iss.reg d.toNat).dst] }) (barrierCheck a coh)
      (fun s c => BarrierAt s c a coh tm x ∧ barrierBusy s c coh (whole == 1) true tm x)
      (fun c => holdUpdate tm x (.bump (-1) 0 (some
        { team := c.t.id, warp := c.w, lanes := if whole = 1 then c.wp.live else [c.l], dst := (c.iss.reg d.toNat).n })))) ∧
    (∀ (b : BitVec 7) (whole arr : BitVec 1), EffectsBy (whole == 1) (.tbexp a b coh whole arr)
      (fun iss => { grp := .copy, coll := whole == 1, os := [tbA iss a, barrierB b iss] }) (barrierCheck a coh)
      (fun s c => BarrierAt s c a coh tm x ∧ barrierOpen s c coh (whole == 1) (arr == 1) tm x)
      (fun c s => s.tbUpdate tm x (if arr = 1 then -1 else 0) (c.rd (barrierB b c.iss)).toNat) ∧
      EffectsBy (whole == 1) (.tbexp a b coh whole arr)
      (fun iss => { grp := .copy, coll := whole == 1, os := [tbA iss a, barrierB b iss] }) (barrierCheck a coh)
      (fun s c => BarrierAt s c a coh tm x ∧ barrierBusy s c coh (whole == 1) (arr == 1) tm x)
      (fun c => holdUpdate tm x (.bump (if arr = 1 then -1 else 0) (c.rd (barrierB b c.iss)).toNat none))) ∧
    ∀ b : BitVec 7, Effects (.tbwait a b coh) (fun iss => { grp := .copy, os := [tbA iss a, barrierB b iss] })
      (barrierCheck a coh)
      (fun s c => BarrierAt s c a coh tm x ∧ (s.tbar tm x).phase ≠ (c.rd (barrierB b c.iss)).toNat % 16)
      (fun c s => if coh = 1 then s.acquire c.t.id c.w c.own else s)

/-- R284, R285, R288: an update that finds no engine release under way takes effect at once, the completion time of an outbound
granule entering the phase that counts it and a held TBARR answering the phase it arrived in; one that finds a release stands
behind those it holds. -/
def Sys2Proof.Machine.BarrierUpdatesTakeTheirOrder : Prop :=
  ∀ (s : State) (tm x : Nat) (u : TbUpd),
    (s.tbHeld tm x = true → s.tbApply tm x u = holdUpdate tm x u s) ∧
    (s.tbHeld tm x = false →
      (∀ n, u = .init n → s.tbApply tm x u = s.putTbar tm x
        { phase := 0, parr := n, reload := n, pgran := 0, err := false, ptime := s.time % 2 ^ 32 }) ∧
      (∀ arr gran, u = .bump arr gran none none → s.tbApply tm x u = s.tbUpdate tm x arr gran) ∧
      (∀ arr gran g peer, u = .bump arr gran none (some (g, peer)) →
        s.tbApply tm x u = (s.tbNote tm x g peer).tbUpdate tm x arr gran) ∧
      ∀ arr gran r, u = .bump arr gran (some r) none →
        s.tbApply tm x u = (s.tbUpdate tm x arr gran).tbAnswer (s.tbar tm x).phase r)

/-- R283 to R285: a barrier's sixteen bytes hold its fields; an update adds to both counts, floors them at zero and
records what does not fit; and when both counts are zero the phase's engine release begins. -/
def Sys2Proof.Machine.BarrierUpdatesAddAndClamp : Prop :=
  (∀ b : TBar, b.phase < 16 → b.parr < 2 ^ 20 → b.reload < 2 ^ 20 → b.pgran < 2 ^ 32 → b.ptime < 2 ^ 32 →
    TBar.ofNat b.toNat = b) ∧
  ∀ (s : State) (tm x : Nat) (arr gran : Int), s.tbHeld tm x = false →
    let old := s.tbar tm x
    ∃ b : TBar, b.phase = old.phase ∧ b.reload = old.reload ∧ b.ptime = old.ptime ∧
      ((b.parr : Int) = max 0 (old.parr + arr)) ∧ ((b.pgran : Int) = max 0 (min (2 ^ 32 - 1) (old.pgran + gran))) ∧
      (b.err = true ↔ old.err = true ∨ (old.parr : Int) + arr < 0 ∨ (old.pgran : Int) + gran < 0 ∨
        (2 ^ 32 : Int) ≤ old.pgran + gran) ∧
      s.tbUpdate tm x arr gran =
        if b.parr = 0 ∧ b.pgran = 0 then (s.putTbar tm x b).updTeam tm fun t =>
          { t with tbHolds := t.tbHolds ++ [{ addr := x, until_ := s.tbUntil tm x }] }
        else s.putTbar tm x b

namespace Sys2Proof.Machine

/-! ### The matrix engine -/

/-- A matrix word acts in every thread of its bundle, all of which pass their checks (R299, R312). -/
structure ActsMat (s : State) (iss : Issue) (t : Team) (fm : Form) (value : Ctx → Option Nat) : Prop where
  issue : s.issue = some iss
  team : s.team? iss.team = some t
  some_ : iss.actors t ≠ []
  pre : fm.precheck iss t = none
  ready : ∀ m ∈ iss.actors t, (Ctx.checks ⟨t, m.1, m.2, iss⟩ fm.os (value ⟨t, m.1, m.2, iss⟩) fm.pure) = none

/-- The word `i` has the effect `eff` on the threads of its bundle whenever `cond` holds. -/
def EffectsMat (i : Instr) (fm : State → Issue → Form) (value : Issue → Ctx → Option Nat)
    (cond : State → Issue → Team → List Ctx → Prop) (eff : Issue → List Ctx → State → State) : Prop :=
  ∀ (s : State) (iss : Issue) (t : Team), ActsMat s iss t (fm { s with issue := none } iss) (value iss) →
    cond { s with issue := none } iss t ((iss.actors t).map fun m => ⟨t, m.1, m.2, iss⟩) →
    Completes i s (eff iss ((iss.actors t).map fun m => ⟨t, m.1, m.2, iss⟩))

/-- The quadrant's queue has room, and the partner quadrant's too when the operation enters both (R299). -/
def matFree (both : Bool) (s : State) (iss : Issue) (_ : Team) (cs : List Ctx) : Prop :=
  s.matRoom iss (quadOfCtxs cs) both = true

/-- The bundle's operation enters its queue, and `upd` sets what the order of issue fixes in the team's tiles. -/
def matEnters (both : Bool) (work : List Ctx → MatWork) (upd : Team → Team) (iss : Issue) (cs : List Ctx) (s : State) :
    State :=
  (s.enqueue iss (quadOfCtxs cs) (memberList cs) (work cs) both).updTeam iss.team upd

/-- The rows of A as issued, one for each thread, with its side list when `sa` (R304, R309, R314, R315). -/
def mmaRows (prot : Bool) (src : BitVec 2) (afmt : BitVec 3) (a : BitVec 7) (sa : BitVec 1) (cs : List Ctx) : List ARow :=
  cs.map fun c =>
    { warp := c.w, lane := c.l
      elems := rowElems (afmtTag afmt.toNat)
        (if sa = 1 then some (c.th.aside.base, c.t.sideList c.th.aside.addr c.th.aside.count) else none)
        (rowFor prot src afmt a cs c).1 }

/-- What an accumulation needs: tile and operation of one kind, room, its rows of a stream there, no acquire before its reads
of the scratchpad, and no row in error. -/
def mmaReady (red : Bool) (tile : BitVec 5) (plane : BitVec 4) (src : BitVec 2) (afmt : BitVec 3) (a : BitVec 7)
    (sa : BitVec 1) (s : State) (iss : Issue) (t : Team) (cs : List Ctx) : Prop :=
  (t.tile tile.toNat).int = mmaInt t afmt plane ∧ matFree red s iss t cs ∧
  (src = 1 → (streamNeed t (a.toNat % 8) (popPlaces (s.isProtected t) (a.toNat % 8) cs).length).2 = true) ∧
  (2 ≤ src.toNat ∨ sa = 1 → ∀ c ∈ cs, s.acquiring iss.team c.w c.l = false) ∧
  (∀ c ∈ cs, (rowFor (s.isProtected t) src afmt a cs c).2 = false) ∧
  (sa = 1 → ∀ c ∈ cs, t.badScratch c.th.aside.addr (8 * c.th.aside.count) = false)

/-- An accumulation enters the queue with its rows; without M the tile's pair is dissolved, and a stream's rows are taken, of a
protected pair one, which is kept for the thread that comes later (R321). -/
def mmaEnters (red : Bool) (tile : BitVec 5) (plane : BitVec 4) (src : BitVec 2) (afmt : BitVec 3) (a : BitVec 7)
    (sa : BitVec 1) (iss : Issue) (cs : List Ctx) (s : State) : State :=
  match cs.head?.map (·.t) with
  | none => s
  | some t =>
  let prot := s.isProtected t
  let int := mmaInt t afmt plane
  let s := matEnters red
    (fun cs => .mma tile.toNat plane.toNat (mmaRows prot src afmt a sa cs) (afmt == 2 || afmt == 3) int red)
    (fun t => if red then t.updTiles tile.toNat true fun x => { x with int := int }
      else (t.updTile tile.toNat fun x => { x with int := int }).unpair tile.toNat) iss cs s
  let s := if src = 1 ∧ prot = true then
    s.updTeam iss.team (keepMates (a.toNat % 8) (cs.map fun c => (c, rowFor prot src afmt a cs c))) else s
  if src = 1 then s.updStream iss.team (a.toNat % 8) fun st =>
    let n := (streamNeed t (a.toNat % 8) (popPlaces prot (a.toNat % 8) cs).length).1
    { st with queue := st.queue.drop n, next := st.next + n }
  else s

/-- The matrix queue's head, an operation in one queue, leaves it. -/
def Executes (s : State) (op : MatOp) (t : Team) (eff : State → State) : Prop :=
  ∀ rest, s.matQueue s.target.cl s.target.co s.target.quad = op :: rest → op.shadow = false → op.both = false →
    s.team? op.team = some t →
    exec .matrixOpExecute s = .next (eff (s.setMatQueue s.target.cl s.target.co s.target.quad rest))

/-- A finite number. -/
def Num.Finite (x : Num) : Prop := ∃ n m e, x = .fin n m e

/-- The exact value of an accumulation. -/
def mmaSum (c : ℚ) (e : Int) (ps : List (Machine.Num × Machine.Num)) : ℚ := c + (ps.map fun p => p.1.rat * p.2.rat * (2 : ℚ) ^ e).sum

end Sys2Proof.Machine

/-- R299 to R301, R304, R309, R312, R314, R315: MMA and MMAR enter the quadrant's queue with the rows read as they issue. -/
def Sys2Proof.Machine.AccumulationsEnterTheQueue : Prop :=
  ∀ (tile : BitVec 5) (plane : BitVec 4) (src : BitVec 2) (afmt : BitVec 3) (a : BitVec 7) (sa : BitVec 1),
    EffectsMat (.mma tile plane src afmt a sa)
      (fun s iss => matForm (Instr.mma tile plane src afmt a sa).wf (mmaPast tile plane iss s) (mmaOs iss src afmt a))
      (fun _ => mmaCheck src afmt a sa) (mmaReady false tile plane src afmt a sa) (mmaEnters false tile plane src afmt a sa) ∧
    EffectsMat (.mmar tile plane src afmt a sa)
      (fun s iss => matForm (Instr.mmar tile plane src afmt a sa).wf
        (mmaPast tile plane iss s || !((s.team? iss.team).map fun t => (t.tile tile.toNat).paired).getD false)
        (mmaOs iss src afmt a))
      (fun _ => mmaCheck src afmt a sa) (mmaReady true tile plane src afmt a sa) (mmaEnters true tile plane src afmt a sa)

/-- R321: the two threads of a protected pair supply one row between them: from a record always, from a stream in one bundle,
and also in two, where the thread that comes first leaves its row for the other, which takes it and no row of the stream. -/
def Sys2Proof.Machine.ProtectedPairsShareTheirRow : Prop :=
  ∀ (afmt : BitVec 3) (a : BitVec 7) (c : Ctx) (cs : List Ctx),
    let q := a.toNat % 8
    let p : Ctx := { c with l := c.l ^^^ 1 }
    rowFor true 3 afmt a cs p = rowFor true 3 afmt a cs c ∧
    (c.t.mateRow q c = none → c.t.mateRow q p = none → rowFor true 1 afmt a cs p = rowFor true 1 afmt a cs c) ∧
    (c.t.mateRow q c = none → popPlaces true q [c, p] = [(c.w, c.l - c.l % 2)] ∨ (c.t.mateRow q p).isSome = true) ∧
    (∀ row : List Word × Bool, c.t.mateRow q c = none → c.t.mateRow q p = none →
      let t := keepMates q [(c, row)] c.t
      ∃ r : MateRow, t.mateRow q p = some r ∧ rowFor true 1 afmt a [{ p with t := t }] { p with t := t } = row ∧
        popPlaces true q [{ p with t := t }] = [] ∧ keepMates q [({ p with t := t }, row)] t = { t with mates := t.mates.erase r })

/-- R299, R311, R313, R316 to R319: the other matrix words. MLOAD, MZERO, MFILL, MZP and MSCL enter the queue with what
they read; MDRAIN empties its eight registers and enters with a load for each thread; MSIDE sets the thread's side list. -/
def Sys2Proof.Machine.MatrixWordsEnterTheQueue : Prop :=
  (∀ (plane : BitVec 4) (mir : BitVec 1) (shape side : BitVec 9) (sl : BitVec 1) (s : State) (iss : Issue) (t : Team)
      (w l : Nat),
    let c : Ctx := ⟨t, w, l, iss⟩
    let h := Shape.ofWords (c.words (uniOpnd shape.toNat 3 4))
    let x := c.rd (mloadSide side)
    let n := if sl = 1 then sideCount x else 0
    ActsOnce s iss t w l
      { matForm (Instr.mload plane mir shape side sl).wf (s.unowned iss fun p w => p.ownsPlane w plane.toNat)
          ([uniOpnd shape.toNat 3 4] ++ if sl = 1 then [mloadSide side] else []) with coll := true }
      (mloadCheck shape side sl) →
    s.matRoom iss (w % 4) (mir == 1) = true → (∀ l ∈ (t.warp w).live, s.acquiring t.id w l = false) →
    (∀ k < min h.e1 64, ∀ i < h.e0, t.badScratch (h.addr i k 0) 4 = false) → t.badScratch (sideAddr x) (8 * n) = false →
    Completes (.mload plane mir shape side sl) s fun s =>
      (s.enqueue iss (w % 4) ((t.warp w).live.map fun l => (w, l))
        (.mload plane.toNat (planeOf t h (t.sideList (sideAddr x) n)) (mir == 1)) (mir == 1)).updTeam iss.team fun t =>
          t.updPlanes plane.toNat (mir == 1) fun y => { y with etag := h.tag }) ∧
  (∀ (d : BitVec 7) (tile : BitVec 5) (group : BitVec 2) (s : State) (iss : Issue) (t : Team),
    let dst := ((iss.reg d.toNat).grp 8 8).dst
    let tl := t.tile tile.toNat
    let cs : List Ctx := (iss.actors t).map fun m => ⟨t, m.1, m.2, iss⟩
    let load (n : Nat) (c : Ctx) : LoadOp :=
      { id := n, dst := c.dest dst [], bytes := 32, mem := false, mat := true, st := .engine }
    ActsMat s iss t (matForm true (tilePast tile iss s) [dst]) (fun _ => none) →
    s.matRoom iss (quadOfCtxs cs) tl.paired = true →
    Completes (.mdrain d tile group) s fun s =>
      let s' := cs.foldl (fun s c => ({ s with nextId := s.nextId + 1 } : State).pushLoad c [dst] (load s.nextId c)) s
      s'.enqueue iss (quadOfCtxs cs) (memberList cs)
        (.mdrain tile.toNat group.toNat tl.paired (if tl.int then .i32 else .f32)
          (cs.zipIdx.map fun x => ((x.1.w, x.1.l), s.nextId + x.2))) tl.paired) ∧
  (∀ (tile : BitVec 5) (atag mir : BitVec 1),
    EffectsMat (.mzero tile atag mir) (fun s iss => matForm true (tilePast tile iss s) []) noValue (matFree (mir == 1))
      (matEnters (mir == 1) (fun cs => .mzero tile.toNat (mir == 1) (cs.map (·.l))) fun t =>
        if mir = 1 then t.updTiles tile.toNat true fun x => { x with int := atag == 1, paired := true }
        else (t.updTile tile.toNat fun x => { x with int := atag == 1 }).unpair tile.toNat)) ∧
  (∀ (a : BitVec 7) (tile : BitVec 5) (group : BitVec 2) (mir : BitVec 1) (int : Bool),
    let src (iss : Issue) : Opnd := ((iss.reg a.toNat).grp 8 8).src (some [if int then .i32 else .f32])
    EffectsMat (.mfill a tile group mir) (fun s iss => matForm true (tilePast tile iss s) [src iss]) noValue
      (fun s iss t cs => matFree (mir == 1) s iss t cs ∧ s.atagIs iss.team tile.toNat = int)
      (fun iss => matEnters (mir == 1)
        (fun cs => .mfill tile.toNat group.toNat (mir == 1) (cs.map fun c => (c.l, c.words (src iss)))) (fun t =>
          if mir = 1 then t.updTiles tile.toNat true fun x => { x with int := int, paired := true }
          else t.unpair tile.toNat) iss)) ∧
  (∀ (a : BitVec 7) (clr : BitVec 1),
    let src (iss : Issue) : Opnd := (iss.reg a.toNat).src (some [.n32, .i32])
    Effects (.mside a clr) (fun iss => matForm (Instr.mside a clr).wf false (if clr = 1 then [] else [src iss])) noValue
      (fun _ _ => True)
      (fun c s => s.updThread c.t.id c.w c.l fun th =>
        if clr = 1 then { th with aside := { th.aside with count := 0 } }
        else { th with aside := { addr := sideAddr th.sidel, count := sideCount th.sidel
                                  base := (c.rd (src c.iss)).toNat % 2 ^ 16 } })) ∧
  (∀ (tile : BitVec 5) (a : BitVec 7) (range : BitVec 1),
    let src (iss : Issue) : Opnd := (iss.reg a.toNat).src (some [.i32, .n32])
    EffectsMat (.mzp tile a range) (fun s iss => matForm true (tilePast tile iss s) [src iss])
      (fun iss c => let v := (c.rd (src iss)).toInt
        if v < (if range = 1 then 0 else -128) ∨ v > (if range = 1 then 255 else 127) then some 0x04 else none)
      (matFree false)
      (fun iss => matEnters false (fun cs => .mzp tile.toNat (cs.map fun c => (c.l, (c.rd (src iss)).toInt)))
        (·.unpair tile.toNat) iss)) ∧
  ∀ (unit : BitVec 5) (a : BitVec 7) (mir : BitVec 1),
    let src (iss : Issue) : Opnd := (iss.reg a.toNat).src (some [.i32])
    let range (iss : Issue) (c : Ctx) : Option Nat :=
      if (c.rd (src iss)).toInt < -64 ∨ (c.rd (src iss)).toInt > 63 then some 0x04 else none
    EffectsMat (.mscl 0 unit a mir)
      (fun s iss => matForm (Instr.mscl 0 unit a mir).wf (s.unowned iss fun p w => p.ownsTile w unit.toNat) [src iss])
      range (matFree false)
      (fun iss => matEnters false (fun cs => .msclRow unit.toNat (cs.map fun c => (c.l, (c.rd (src iss)).toInt)))
        (·.unpair unit.toNat) iss) ∧
    EffectsMat (.mscl 1 unit a mir)
      (fun s iss => matForm (Instr.mscl 1 unit a mir).wf (s.unowned iss fun p w => p.ownsPlane w unit.toNat) [src iss])
      range (matFree (mir == 1))
      (fun iss => matEnters (mir == 1)
        (fun cs => .msclCol unit.toNat (mir == 1) (cs.map fun c => (c.l, (c.rd (src iss)).toInt))) id iss)

/-- R299, R316, R320: MATRIX_OP_EXECUTE takes the head of a quadrant's queue and carries it out: a plane loaded, rows
accumulated with their flags, rows drained to their loads, rows zeroed or filled, zero points and exponents set. -/
def Obligations.MatrixOperationsExecuteInOrder : Prop :=
  ∀ (s : State) (op : MatOp) (t : Team),
    (∀ p content mir, op.work = .mload p content mir → content.uncov.any id = false →
      Executes s op t fun s => s.updTeam t.id fun t => t.updPlanes p mir fun y => { content with etag := y.etag }) ∧
    (∀ tile plane rows zp int, op.work = .mma tile plane rows zp int false →
      (t.tile tile).bad = false → (t.plane plane).bad = false →
      Executes s op t fun s => rows.foldl (fun s r => s.updThread t.id r.warp r.lane fun th => { th with
          mxst := th.mxst ||| (mmaRowRes (t.tile tile) ((t.tile tile).ea.getD r.lane 0) ((t.tile tile).z.getD r.lane 0)
            (t.plane plane) zp int r).2 })
        (s.updTeam t.id fun t' => t'.updTile tile fun x =>
          { x with words := (mmaTile (t.tile tile) (t.tile tile).ea (t.tile tile).z (t.plane plane) zp int rows).words })) ∧
    (∀ tile g tag dsts, op.work = .mdrain tile g false tag dsts → (t.tile tile).bad = false →
      Executes s op t fun s => dsts.foldl (fun s x => s.bindLoad x.2
        ((List.range 8).map fun k => (((t.tile tile).words.getD x.1.2 []).getD (8 * g + k) 0, tag)) none) s) ∧
    (∀ tile mir lanes, op.work = .mzero tile mir lanes →
      Executes s op t fun s => s.updTeam t.id fun t => t.updTiles tile mir fun x =>
        { x with words := lanes.foldl (fun ws l => setAt ws l (List.replicate 32 0)) x.words
                 bad := x.bad && !((List.range 32).all lanes.contains) }) ∧
    (∀ tile g mir rows, op.work = .mfill tile g mir rows →
      Executes s op t fun s => s.updTeam t.id fun t => t.updTiles tile mir fun x =>
        { x with words := rows.foldl (fun ws r => updAt ws r.1 fun row => putCols row g r.2) x.words }) ∧
    (∀ tile vals, op.work = .mzp tile vals →
      Executes s op t fun s => s.updTeam t.id fun t => t.updTile tile fun x =>
        { x with z := vals.foldl (fun z v => setAt z v.1 v.2) x.z }) ∧
    (∀ tile vals, op.work = .msclRow tile vals →
      Executes s op t fun s => s.updTeam t.id fun t => t.updTile tile fun x =>
        { x with ea := vals.foldl (fun z v => setAt z v.1 v.2) x.ea }) ∧
    ∀ p mir vals, op.work = .msclCol p mir vals →
      Executes s op t fun s => s.updTeam t.id fun t => t.updPlanes p mir fun x =>
        { x with eb := vals.foldl (fun z v => setAt z v.1 v.2) x.eb }

/-- R305, R306: an element of an F32 tile becomes its old value plus all products, summed exactly and rounded once by
nearest even, with OF and NX alone; a NaN gives the canonical NaN; an integer element is the exact sum rounded to an
integer and clipped, with ISAT on a clip and NX when the sum is no integer. -/
def Obligations.AccumulationIsExact : Prop :=
  ∀ (c : Word) (e : Int) (ps : List (Machine.Num × Machine.Num)),
    (((unpack fmtF32 c.toNat).isNan = true ∨ ∃ p ∈ ps, p.1.isNan = true ∨ p.2.isNan = true) →
      mmaF32 c e ps = (0x7FC00000, 0)) ∧
    ((∀ p ∈ ps, p.1.Finite ∧ p.2.Finite) →
      ((unpack fmtF32 c.toNat).Finite →
        let x := mmaSum (unpack fmtF32 c.toNat).rat e ps
        (x ≠ 0 → ∃ r : FpRes, fmtF32.delivers 0 (decide (x < 0)) |x| r ∧
          mmaF32 c e ps = (BitVec.ofNat 32 r.bits,
            (if r.fl.getLsbD 2 then mxOF else 0) ||| (if r.fl.getLsbD 4 then mxNX else 0))) ∧
        (x = 0 → mmaF32 c e ps =
          (if c = 0x80000000 ∧ ∀ p ∈ ps, (p.1.rat = 0 ∨ p.2.rat = 0) ∧ p.1.neg ≠ p.2.neg then 0x80000000 else 0, 0))) ∧
      let x := mmaSum c.toInt e ps
      ∃ v : Int, |(v : ℚ) - x| ≤ 1 / 2 ∧ (|(v : ℚ) - x| = 1 / 2 → v % 2 = 0) ∧
        mmaI32 c e ps = (BitVec.ofInt 32 (max (-2 ^ 31) (min (2 ^ 31 - 1) v)),
          (if (v : ℚ) = x then 0 else mxNX) ||| (if v < -2 ^ 31 ∨ 2 ^ 31 ≤ v then mxISAT else 0)))

namespace Sys2Proof.Machine

/-! ### Signatures, the memo table, ray queries and records -/

def memoForm (i : Instr) (os : Issue → List Opnd) (iss : Issue) : Form := { grp := .memo0, wf := i.wf, os := os iss }

/-- The release of a MEMOS or EMIT is complete (R361, R138). -/
def released (s : State) (c : Ctx) : Prop := c.th.relDone = true ∨ s.relReady c.t.id c.w c.own 2 = true

/-- What MEMOS stores: payload with tags, signature, check word (R367). -/
def memosPay (f : MemosF) (c : Ctx) : List (Word × Tag) :=
  let pa := (memoPay c.iss f.a f.p f.cnt).src (if f.p = 1 then some [.addr] else none)
  (List.range pa.cnt).map fun k => (c.rd pa k, c.tag pa k)
def memosSig (f : MemosF) (c : Ctx) : Nat := sigNat (c.opWords (memoSig c.iss f.s))
def memosCheck (f : MemosF) (c : Ctx) : Word := if f.ck = 1 then c.rd ((c.iss.reg f.c.toNat).src none) else 0

/-- MEMOS's form. -/
def memosForm (f : MemosF) (iss : Issue) : Form :=
  { grp := .memo0, wf := (Instr.memos f).wf, len := 2
    os := [(memoPay iss f.a f.p f.cnt).src (if f.p = 1 then some [.addr] else none), memoSig iss f.s]
      ++ if f.ck = 1 then [(iss.reg f.c.toNat).src none] else [] }

/-- MEMOS with the cost `k` of its region: the owner's state `upd` leaves, the insertion, and no cost kept (R357, R367). -/
def memosStores (f : MemosF) (upd : Absorb → Absorb) (k : Ctx → State → Nat) (c : Ctx) (s : State) : State :=
  (({ s.setAb c upd with
      oasis := (s.memoStore c f (memosPay f c) (memosSig f c) (memosCheck f c) (k c s)).oasis } : State).setAb c
    fun a => { a with waiting := none })

/-- MEMOL's operands. -/
def memolD (f : MemolF) (iss : Issue) : Opnd := (memoPay iss f.d f.p f.cnt).dst
def memolPd (f : MemolF) (iss : Issue) : Opnd := (iss.prd f.pd.toNat).dst
def memolCk (f : MemolF) (iss : Issue) : Opnd := (iss.reg f.c.toNat).src none
def memolForm (f : MemolF) (iss : Issue) : Form :=
  { grp := .memo0, wf := (Instr.memol f).wf, len := 2
    os := [memoSig iss f.s, memolD f iss, memolPd f iss] ++ if f.v = 1 then [memolCk f iss] else [] }

/-- What a MEMOL finds in the table, and the table after it (R359, R366). -/
def memolFinds (f : MemolF) (s : State) (c : Ctx) : Oasis × Option OasisEntry :=
  s.oasis.lookup (sigNat (c.opWords (memoSig c.iss f.s))) (s.launchDom c.t) f.kind.toNat (f.p == 1) (memolD f c.iss).cnt
    (if f.v = 1 then some (c.rd (memolCk f c.iss)) else none)

/-- A MEMOL's load, bound as it issues: a payload and a true predicate, or a false predicate alone. -/
def memolLoads (f : MemolF) (st : LoadState) (acq : Option Nat) (c : Ctx) (s : State) : State :=
  ({ s with nextId := s.nextId + 1 } : State).pushLoad c [memolD f c.iss, memolPd f c.iss]
    { id := s.nextId, dst := c.dest (memolD f c.iss) [memolPd f c.iss], mem := false, st := st, acq := acq }

/-- A ray word's form and its handle's check. -/
def rayForm (i : Instr) (os : Issue → List Opnd) (iss : Issue) : Form := { grp := .ray, wf := i.wf, os := os iss }

/-- A ray word on a query its handle names: the command goes to the query (R370). -/
def RaySends (i : Instr) (a : BitVec 7) (os : Issue → List Opnd) (eff : Ctx → Query → State → State) : Prop :=
  ∀ (s : State) (iss : Issue) (t : Team) (w l : Nat) (q : Query), Acts s iss t w l →
    (rayForm i (fun iss => rayA iss a :: os iss) iss).clear (handleCheck s iss (rayA iss a)) ⟨t, w, l, iss⟩ →
    s.named iss.cl t.id (Ctx.rd ⟨t, w, l, iss⟩ (rayA iss a)) = some q → Completes i s (eff ⟨t, w, l, iss⟩ q)

/-- Where EMIT's target stands (R32, R137). -/
def EmitTo (f : EmitF) (s : State) (c : Ctx) (tgt : OutTgt) (cmd : Command) : Prop :=
  ∃ l, s.launch? c.t.launch = some l ∧ l.node.tgts.getD f.tgt.toNat {} = tgt ∧ tgt.v = true ∧ s.command? l.cmd = some cmd

end Sys2Proof.Machine

/-- R354 to R358, R363 to R365: SIGB starts absorbing under the launch's key, SIGA absorbs and signs its registers, SIGX
signs them, SIGE finalises the signature and opens the region, PEND ends it with its cost. -/
def Sys2Proof.Machine.SignatureWordsDriveTheRegion : Prop :=
  (∀ (kind : BitVec 4) (tol : BitVec 2), Effects (.sigb kind tol) (memoForm (.sigb kind tol) fun _ => []) noValue
    (fun _ c => c.ab.region ≠ .opened ∧ c.busyThreads = false)
    (fun c s => (s.setAb c fun a => { a.setMix (Mix.init (s.launchKey c.t) kind.toNat) with
        kind := kind.toNat, tol := tol.toNat, region := .absorbing }).updWarp c.t.id c.w fun wp =>
      wp.clearSigned (c.iss.cls == 0) c.l)) ∧
  (∀ (a : BitVec 7) (cnt : BitVec 4) (tolsel : BitVec 3) (fl pr : BitVec 1),
    Effects (.siga a cnt tolsel fl pr) (memoForm (.siga a cnt tolsel fl pr) fun iss => [sigOpnd iss a cnt pr]) noValue
      (fun _ c => c.ab.region = .absorbing)
      (fun c s => (s.setAb c fun x => x.setMix (x.mix.absorbAll (sigWords c (sigOpnd c.iss a cnt pr) pr
          (if tolsel = 4 then c.ab.tol else tolsel.toNat) (fl == 1)))).updWarp c.t.id c.w fun wp =>
        wp.signGroup c.l (sigOpnd c.iss a cnt pr))) ∧
  (∀ (a : BitVec 7) (cnt : BitVec 4) (pr : BitVec 1),
    Effects (.sigx a cnt pr) (memoForm (.sigx a cnt pr) fun iss => [sigOpnd iss a cnt pr]) noValue
      (fun _ c => c.ab.region = .absorbing)
      (fun c s => s.updWarp c.t.id c.w fun wp => wp.signGroup c.l (sigOpnd c.iss a cnt pr))) ∧
  (∀ d : BitVec 7, Effects (.sige d) (memoForm (.sige d) fun iss => [((iss.reg d.toNat).grp 4 4).dst]) noValue
    (fun _ c => c.ab.region = .absorbing)
    (fun c s => (s.setAb c fun a => { a.setMix c.ab.mix.finalise with
        region := .opened, acc := 0, since := s.clkOf c.t.id }).updWarp c.t.id c.w fun wp =>
      wp.setGroup c.l ((c.iss.reg d.toNat).grp 4 4).dst (c.ab.mix.finalise.words.map fun w => (w, .sig)))) ∧
  Effects .pend (memoForm .pend fun _ => []) noValue (fun _ _ => True)
    (fun c s => s.setAb c fun a => { a with
      region := .idle, latched := if a.region = .opened then min 65535 (a.acc + (s.clkOf c.t.id - a.since)) else a.latched })

/-- R347: quantising an F32 value a second time in the same tolerance class changes nothing, and both zeros become +0. -/
def Sys2Proof.Machine.QuantisationIsIdempotent : Prop :=
  ∀ (x : Word) (tol : BitVec 2),
    quantF32 (quantF32 x (tolBits tol.toNat)) (tolBits tol.toNat) = quantF32 x (tolBits tol.toNat) ∧
    quantF32 0 (tolBits tol.toNat) = 0 ∧ quantF32 0x80000000 (tolBits tol.toNat) = 0 ∧
    (0x7F800000 < x.toNat % 2 ^ 31 → quantF32 x (tolBits tol.toNat) = 0x7FC00000)

/-- R358 to R362, R366 to R369: MEMOL looks its key up and loads the payload or a false predicate, MEMOS inserts with the
region's cost, MEMOI invalidates the launch's domain; a launch without memo use finds and changes nothing. -/
def Sys2Proof.Machine.MemoWordsUseTheTable : Prop :=
  (∀ f : MemolF,
    (∀ e : OasisEntry, Effects (.memol f) (memolForm f) noValue
      (fun s c => s.acquiring c.t.id c.w c.own = false ∧ s.memoOn c.t = true ∧ (memolFinds f s c).2 = some e)
      (fun c s => memolLoads f (.bound e.pay (some true)) (some 2) c
        (({ s with oasis := (memolFinds f s c).1 } : State).updCluster c.iss.cl fun k =>
          { k with r := { k.r with cred := k.r.cred + BitVec.ofNat 32 e.cost } }))) ∧
    Effects (.memol f) (memolForm f) noValue
      (fun s c => s.acquiring c.t.id c.w c.own = false ∧ s.memoOn c.t = true ∧ (memolFinds f s c).2 = none)
      (fun c s => memolLoads f (.bound [] (some false)) none c { s with oasis := (memolFinds f s c).1 }) ∧
    Effects (.memol f) (memolForm f) noValue
      (fun s c => s.acquiring c.t.id c.w c.own = false ∧ s.memoOn c.t = false)
      (memolLoads f (.bound [] (some false)) none)) ∧
  (∀ f : MemosF,
    Effects (.memos f) (memosForm f) noValue
      (fun s c => released s c ∧ unpaired s c ∧ c.ab.waiting = none ∧ c.ab.region = .opened)
      (memosStores f (fun a => { a with region := .idle }) fun c s => min 65535 (c.ab.acc + (s.clkOf c.t.id - c.ab.since))) ∧
    Effects (.memos f) (memosForm f) noValue
      (fun s c => released s c ∧ unpaired s c ∧ c.ab.waiting = none ∧ c.ab.region = .idle)
      (memosStores f id fun c _ => c.ab.latched) ∧
    Effects (.memos f) (memosForm f) noValue (fun _ c => c.ab.waiting = none ∧ c.ab.region = .lapsed)
      (fun c s => s.setAb c fun a => { a with region := .idle })) ∧
  ∀ (form : BitVec 1) (kind : BitVec 4),
    Effects (.memoi form kind) (fun _ => { grp := .memo, wf := (Instr.memoi form kind).wf, pure := true }) noValue
      (fun _ _ => True)
      (fun c s => if s.memoOn c.t then { s with oasis := { s.oasis with
        entries := s.oasis.entries.filter fun e => !(e.dom == s.launchDom c.t && (form == 0 || e.kind == kind.toNat)) } } else s)

/-- R359: what an insertion puts into the table, a lookup of the same key finds, while a way of it is up. -/
def Sys2Proof.Machine.InsertedEntriesAreFound : Prop :=
  ∀ (o : Oasis) (e : OasisEntry), (∃ w < 16, w ∉ o.waysDown) →
    ∃ e', ((o.insert e).lookup e.sig e.dom e.kind e.ptr e.pay.length none).2 = some e' ∧ e'.pay = e.pay ∧
      e'.cost = e.cost ∧ e'.check = e.check ∧ e'.set = e.sig % 16384 ∧ e'.age = 15

/-- R370 to R374: RQI starts a query while the unit has a slot and answers its handle; RQP, RQC and RQG send the query
their commands, RQG with a load that the unit will bind. -/
def Sys2Proof.Machine.RayWordsCommandTheirQuery : Prop :=
  (∀ (d a r : BitVec 7) (np first : BitVec 1),
    let pa (iss : Issue) : Opnd := ((iss.reg a.toNat).grp 2 2).src (some [.addr])
    let pr (iss : Issue) : Opnd := ((iss.reg r.toNat).grp 8 8).src (some [.f32])
    let pd (iss : Issue) : Opnd := (iss.reg d.toNat).dst
    Effects (.rqi d a r np first) (rayForm (.rqi d a r np first) fun iss => [pa iss, pr iss, pd iss]) noValue
      (fun s c => (s.cluster c.iss.cl).queries.length < 8192)
      (fun c s =>
        let q := s.startQuery c (c.pair (pa c.iss)) (c.opWords (pr c.iss)) (np == 1) (first == 1)
        q.1.updWarp c.t.id c.w fun wp => wp.setGroup c.l (pd c.iss) [(q.2, .n32)])) ∧
  (∀ a : BitVec 7, RaySends (.rqp a) a (fun _ => []) fun c q s => s.sendQuery c.iss.cl q.id .run) ∧
  (∀ (mode : BitVec 1) (a : BitVec 7),
    RaySends (.rqc mode a) a (fun _ => []) fun c q s => s.sendQuery c.iss.cl q.id (if mode = 1 then .end_ else .commit)) ∧
  ∀ (d a : BitVec 7) (sel : BitVec 2),
    RaySends (.rqg d a sel) a (fun iss => [rqgDst iss d sel]) fun c q s =>
      (({ s with nextId := s.nextId + 1 } : State).pushLoad c [rqgDst c.iss d sel]
        { id := s.nextId, dst := c.dest (rqgDst c.iss d sel) [], mem := false, st := .engine }).sendQuery
          c.iss.cl q.id (.read s.nextId sel.toNat)

/-- R370, R371: a query that starts holds its ray and runs, unless a component is a NaN or its interval is empty, when it
is a miss at once; its handle names it. -/
def Sys2Proof.Machine.StartedQueriesAnswerToTheirHandle : Prop :=
  ∀ (s : State) (c : Ctx) (header : Nat) (ray : List Word) (np first : Bool), ray.length = 8 →
    c.iss.cl < s.clusters.length → (s.cluster c.iss.cl).queries.length < 8192 →
    (∀ q ∈ (s.cluster c.iss.cl).queries, q.slot < 8192) →
    let r := s.startQuery c header ray np first
    ∃ q, r.1.named c.iss.cl c.t.id r.2 = some q ∧ q.id = s.nextId ∧ q.header = header ∧ q.np = np ∧ q.first = first ∧
      q.orig ++ q.dir ++ [q.tmin, q.tmax] = ray.map (·.toNat) ∧ q.commit = none ∧ q.cand = none ∧
      (∀ p ∈ (s.cluster c.iss.cl).queries, p.slot ≠ q.slot) ∧
      (q.st = .running ↔ (∀ w ∈ ray, w.toNat % 2 ^ 31 ≤ 0x7F800000) ∧ f32Le q.tmin q.tmax = true) ∧
      (q.st = .running ∨ q.st = .miss)

/-- R45, R137, R138: EMIT takes its record to the port of its target once its release is complete, the lower lanes of its
bundle have sent theirs, the port's record size is its own and the pool has room, and the launch can no longer be replayed. -/
def Sys2Proof.Machine.EmittedRecordsReachTheirTarget : Prop :=
  ∀ (f : EmitF) (tgt : OutTgt) (cmd : Command) (x : Xlat) (s0 : State) (iss : Issue) (t : Team) (w l : Nat),
    Acts s0 iss t w l →
    let c : Ctx := ⟨t, w, l, iss⟩
    let s : State := { s0 with issue := none }
    let after : State := (s.translate iss.cl iss.co t.ctx t.priv .read tgt.node).1
    let desc : List Byte := after.readPath iss.cl iss.co x 256
    Form.clear { grp := .emit, wf := (Instr.emit f).wf, len := 2, os := [f.tagO iss, f.dataO iss] }
      (fun c => emitCheck f s c) c →
    EmitTo f s c tgt cmd → EmitTo f after c tgt cmd → after.team? t.id = some t → c.inRegion = false → c.ahead = [] →
    (s.translate iss.cl iss.co t.ctx t.priv .read tgt.node).2 = .ok x →
    after.pathBad iss.cl iss.co { x with pa := x.pa + 0x10 } 32 = false →
    unpaired after c → released after c → after.poolUsed cmd.id + roundUp (4 * f.cnt) 16 ≤ cmd.poolSize →
    Completes (.emit f) s0 fun _ =>
      let s := after.updLaunch t.launch fun l => { l with replayable := false }
      (if isPassDesc desc then s.takeUnit t.ctx cmd.id tgt.node tgt.port desc (f.data c)
        else s.acceptRec cmd tgt.node tgt.port desc (c.rd (f.tagO iss)).toNat (f.data c)).driveGraph cmd.id

namespace Sys2Proof.Machine

/-! ### Control flow -/

/-- The word `i` sets the thread's position itself: exec answers exactly what `eff` leaves, when the thread owes no trap to
its partner (R399). -/
def Goes (i : Instr) (fm : Issue → Form) (value : Issue → Ctx → Option Nat)
    (cond : State → Ctx → Prop) (eff : Ctx → State → State) : Prop :=
  ∀ (s : State) (iss : Issue) (t : Team) (w l : Nat), Acts s iss t w l →
    (fm iss).clear (value iss) ⟨t, w, l, iss⟩ → cond { s with issue := none } ⟨t, w, l, iss⟩ →
    (∀ x, ((eff ⟨t, w, l, iss⟩ { s with issue := none }).thread iss.team w l).mustTrap ≠ some x) →
    exec i s = .next (eff ⟨t, w, l, iss⟩ { s with issue := none })

/-- The threads that a word in one place concerns: its thread, or in class 0 every live thread of the warp. -/
def Ctx.all (c : Ctx) : List (Nat × Nat) := c.iss.lanes c.t (c.w, c.l)

/-- Every thread concerned arrives at a header (R118, R120, R129). -/
def arriveAll (c : Ctx) (hdr : Nat) (s : State) : State :=
  c.all.foldl (fun s m => s.arrive c.iss.team m.1 m.2 hdr) s

/-- The header a relative transfer names: its offset in words from this clause's header (R129). -/
def Issue.relative (iss : Issue) (off : BitVec 20) : Nat := (((iss.hdr : Int) + 4 * off.toInt) % (2 ^ 64 : Int)).toNat

/-- A call goes ahead: each thread concerned has room in its stack, and the entry it spills is there (R127, R130). -/
def mayCall (c : Ctx) : Prop := ∀ m ∈ c.all, (c.t.thread m.1 m.2).pushStop c.t.prog.tls = none

/-- A return goes ahead: each thread concerned holds its top entry, the same in all of them (R127, R131). -/
def mayReturn (c : Ctx) : Prop :=
  (∀ m ∈ c.all, (c.t.thread m.1 m.2).popStop = none) ∧ topsDiffer c.t c.all = false

/-- A taken call: the address after the clause is pushed, then the threads arrive. -/
def callAll (c : Ctx) (hdr : Nat) (s : State) : State :=
  arriveAll c hdr (c.all.foldl (fun s m => s.push c.iss c.t m ((c.iss.hdr + 4 * (1 + hdrN c.iss.header)) % 2 ^ 64)) s)

def ctlForm (os : Issue → List Opnd) (iss : Issue) : Form := { grp := .ctl, os := os iss }

/-- Every thread concerned goes on: to the next word of its clause, or to the header after it (R99). -/
def goOn (c : Ctx) (s : State) : State :=
  c.all.foldl (fun s m => s.advance c.iss.team m.1 m.2 1 c.iss.cnt) s

/-- The word `i` completes: exec answers the state that `eff` leaves, with every thread concerned gone on, when none of them
owes a trap to its partner (R399). -/
def Proceeds (i : Instr) (fm : Issue → Form) (value : Issue → Ctx → Option Nat)
    (cond : State → Ctx → Prop) (eff : Ctx → State → State) : Prop :=
  ∀ (s : State) (iss : Issue) (t : Team) (w l : Nat), Acts s iss t w l →
    let c : Ctx := ⟨t, w, l, iss⟩
    (fm iss).clear (value iss) c → cond { s with issue := none } c → (∀ m ∈ c.all, (t.thread m.1 m.2).mustTrap = none) →
    exec i s = .next (goOn c (eff c { s with issue := none }))

/-- The thread's meeting register takes a value, and the groups of its warp are tested anew (R120, R133). -/
def meetsAt (c : Ctx) (x : Word) (s : State) : State :=
  (s.updThread c.t.id c.w c.l fun th => { th with mr := x }).updWarp c.t.id c.w Warp.settleMeetings

/-- A thread arrives at a barrier and waits there; in a clause that keeps its bundle it stays in it (R118, R281). -/
def waitsAtBar (iss : Issue) (coh : Bool) (s : State) (m : Nat × Nat) : State :=
  let s := s.updThread iss.team m.1 m.2 fun th => th.park s.time (.barrier coh)
  if iss.together then s else s.unbundle iss.team m.1 m.2

/-- Every thread concerned waits at the word; in a clause that keeps its bundle it stays in it (R118). -/
def waitAll (c : Ctx) (w : Wait) (s : State) : State :=
  c.all.foldl (fun s m => s.holdLane c.iss.team (!c.iss.together) w m) s

/-- Every thread concerned takes a trap. -/
def trapAll (c : Ctx) (cause : Nat) (s : State) : State :=
  c.iss.deliverTraps (c.all.map fun m => (m, cause, (0 : Word))) s

/-- Where RTT resumes (R382). -/
def rttPos (th : Thread) : Pos :=
  if th.tretWritten = true ∨ th.tinfo0.toNat / 2 ^ 8 % 16 = 0 then { hdr := th.tret.toNat }
  else { hdr := th.tret.toNat, word := th.tinfo0.toNat / 2 ^ 8 % 16
         rep := if th.trapRep then some (th.tinfo0.toNat / 2 ^ 12 % 64) else none }

/-- R288: TBWAIT waits while the barrier is in the phase it names, and its wait is over once the phase is another or the barrier's
team is killed. -/
def BarrierWaitsEndWithThePhase : Prop :=
  (∀ (a b : BitVec 7) (coh : BitVec 1) (tm x : Nat),
    Goes (.tbwait a b coh) (fun iss => { grp := .copy, os := [tbA iss a, barrierB b iss] }) (barrierCheck a coh)
      (fun s c => BarrierAt s c a coh tm x ∧ (s.tbar tm x).phase = (c.rd (barrierB b c.iss)).toNat % 16)
      (fun c s => waitAll c (.tbarrier tm x ((c.rd (barrierB b c.iss)).toNat % 16) (coh == 1)) s)) ∧
  ∀ (s : State) (t : Team) (m : Nat × Nat) (tm x p : Nat) (coh : Bool), (t.thread m.1 m.2).wait = .tbarrier tm x p coh →
    (s.waitOver t m = true ↔ (s.tbar tm x).phase ≠ p ∨ ∀ u, s.team? tm = some u → u.killed = true)

end Sys2Proof.Machine

/-- R128 to R131: a transfer whose predicate holds takes its threads to the header it names, CALL and CALLR push the
address after their clause, RET pops it; where it does not hold the threads go on to the next clause and nothing else changes. A
pair of another tag traps an untaken JMP or CALLR too (the model's choice, log 64). -/
def Sys2Proof.Machine.TransfersGoWhereTheyName : Prop :=
  ∀ (p : BitVec 3) (neg : BitVec 1),
    (∀ off : BitVec 20,
      (let fm (iss : Issue) := transferForm iss p true []
       Goes (.br p neg off) fm noValue (fun _ c => c.taken p neg = true) (fun c => arriveAll c (c.iss.relative off)) ∧
       Proceeds (.br p neg off) fm noValue (fun _ c => c.taken p neg = false) (fun _ s => s) ∧
       Goes (.call p neg off) fm noValue (fun _ c => c.taken p neg = true ∧ mayCall c)
         (fun c => callAll c (c.iss.relative off)) ∧
       Proceeds (.call p neg off) fm noValue (fun _ c => c.taken p neg = false) (fun _ s => s))) ∧
    (∀ a : BitVec 7,
      (let fm (iss : Issue) := transferForm iss p true [iss.jumpA a]
       let chk (_ : Issue) (c : Ctx) := c.jumpCheck p neg a
       Goes (.jmp p neg a) fm chk (fun _ c => c.taken p neg = true) (fun c => arriveAll c (c.pair (c.iss.jumpA a))) ∧
       Proceeds (.jmp p neg a) fm chk (fun _ c => c.taken p neg = false) (fun _ s => s)) ∧
      (let fm (iss : Issue) := transferForm iss p true [{ iss.jumpA a with tags := none }]
       let chk (_ : Issue) (c : Ctx) := c.callCheck p neg a
       Goes (.callr p neg a) fm chk (fun _ c => c.taken p neg = true ∧ mayCall c)
         (fun c => callAll c (c.pair (c.iss.jumpA a))) ∧
       Proceeds (.callr p neg a) fm chk (fun _ c => c.taken p neg = false) (fun _ s => s)) ∧
      ∀ i ∈ [Instr.jmp p neg a, Instr.callr p neg a], ∀ (s : State) (iss : Issue) (t : Team) (w l : Nat), Acts s iss t w l →
        let c : Ctx := ⟨t, w, l, iss⟩
        let fm := transferForm iss p true [iss.jumpA a]
        fm.precheck iss t = none → c.taken p neg = false → (∀ o ∈ fm.os, c.outOfRange o = false) → c.blocked fm.os = false →
        c.badTag (iss.jumpA a) = true → exec i s = .next (trapAll c 0x05 { s with issue := none })) ∧
    (let fm (iss : Issue) := transferForm iss p true []
     Goes (.ret p neg) fm noValue (fun _ c => c.taken p neg = true ∧ mayReturn c)
       (fun c s => c.all.foldl (fun s m => (s.pop c.iss c.t m).1.arrive c.iss.team m.1 m.2 (s.pop c.iss c.t m).2) s) ∧
     Proceeds (.ret p neg) fm noValue (fun _ c => c.taken p neg = false) (fun _ s => s))

/-- R102, R130: a CALLR whose push cannot go ahead raises 0x04, whatever its pair holds. -/
def Sys2Proof.Machine.CallsPushBeforeTheyLook : Prop :=
  ∀ (p : BitVec 3) (neg : BitVec 1) (a : BitVec 7) (s : State) (iss : Issue) (t : Team) (w l : Nat), Acts s iss t w l →
    iss.cls ≠ 0 →
    let c : Ctx := ⟨t, w, l, iss⟩
    let fm := transferForm iss p true [{ iss.jumpA a with tags := none }]
    fm.precheck iss t = none → (∀ o ∈ fm.os, c.outOfRange o = false) → c.blocked fm.os = false →
    c.taken p neg = true → (t.thread w l).rsd = 65535 ∨ (8 ≤ (t.thread w l).rsd ∧ t.prog.tls < 8 * ((t.thread w l).rsd - 7)) →
    exec (.callr p neg a) s = .next (trapAll c 0x04 { s with issue := none })

/-- R127, R130, R131: within the eight held entries a return gives back what the call before it pushed, at the same depth,
and neither touches memory. -/
def Sys2Proof.Machine.ReturnsUndoCalls : Prop :=
  ∀ (s : State) (iss : Issue) (t : Team) (w l x : Nat), s.team? t.id = some t → (t.thread w l).exited = false →
    (t.thread w l).rsd < 8 →
    let s1 := s.push iss t (w, l) x
    ∃ t1, s1.team? t.id = some t1 ∧ (t1.thread w l).rsd = (t.thread w l).rsd + 1 ∧ (t1.thread w l).popStop = none ∧
      s1.stores = s.stores ∧
      (s1.pop iss t1 (w, l)).2 = x ∧
      (∃ t2, (s1.pop iss t1 (w, l)).1.team? t.id = some t2 ∧ (t2.thread w l).rsd = (t.thread w l).rsd) ∧
      (s1.pop iss t1 (w, l)).1.mem = s.mem

/-- R99, R107, R129: a thread that goes on stands at the next word of its clause, at the next repetition of the same word under
REP, or at the header after the clause; nothing else of it changes, and no byte of memory does. -/
def Sys2Proof.Machine.ThreadsGoOnWordByWord : Prop :=
  ∀ (s : State) (t : Team) (w l : Nat) (cnt : Option Nat), s.team? t.id = some t → w < t.warps.length →
    l < (t.warp w).threads.length →
    let th := t.thread w l
    let s' := s.advance t.id w l 1 cnt
    ∃ t', s'.team? t.id = some t' ∧ (t'.thread w l).data = th.data ∧ s'.mem = s.mem ∧
      (∀ i k, th.pos.rep = some i → cnt = some k → i < k →
        (t'.thread w l).pos = { th.pos with rep := some (i + 1) } ∧ (t'.thread w l).wait = .none) ∧
      ((∀ i k, th.pos.rep = some i → cnt = some k → k ≤ i) →
        (th.pos.word < th.clauseN →
          (t'.thread w l).pos = { hdr := th.pos.hdr, word := th.pos.word + 1 } ∧ (t'.thread w l).wait = .none) ∧
        (th.clauseN ≤ th.pos.word → (t'.thread w l).pos = { hdr := (th.pos.hdr + 4 * (1 + th.clauseN)) % 2 ^ 64 }))

/-- R132: a thread that exits is live no longer, its return stack is empty, and no byte of memory changes. -/
def Sys2Proof.Machine.ExitedThreadsAreLiveNoLonger : Prop :=
  ∀ (s : State) (t : Team) (w l : Nat), s.team? t.id = some t → w < t.warps.length → l < (t.warp w).threads.length →
    ∃ t', (s.exitThread t.id w l).team? t.id = some t' ∧ (t'.thread w l).exited = true ∧ (t'.thread w l).rsd = 0 ∧
      (s.exitThread t.id w l).mem = s.mem

/-- R132 to R136, R281, R381: EXIT, MEET, MEETR, BAR, REP, LEASE, WAITT, WAITT.D and TRAP, each with the state it leaves whole:
where its threads stand is part of it. -/
def Obligations.ControlWordsHaveTheirEffect : Prop :=
  (∀ (p : BitVec 3) (neg : BitVec 1) (mode : BitVec 2),
    let fm (iss : Issue) := transferForm iss p (Instr.exit p neg mode).wf []
    (mode ≠ 1 → Goes (.exit p neg mode) fm noValue
      (fun s c => c.taken p neg = true ∧ (s.isProtected c.t = false ∨ c.iss.cls = 0))
      (fun c s => (c.all.foldl (fun s m => s.exitThread c.iss.team m.1 m.2)
        (if c.iss.cls = 0 then s.updWarp c.iss.team c.w fun wp => { wp with ab := wp.ab.pend (s.clkOf c.iss.team) }
          else s)).releaseSlot c.iss.team c.w)) ∧
    (mode = 1 → Goes (.exit p neg mode) fm noValue
      (fun s c => c.taken p neg = true ∧ (s.isProtected c.t = false ∨ c.iss.cls = 0)) (fun c s => s.killTeam c.iss.team)) ∧
    (mode ≠ 1 → ∀ (s : State) (iss : Issue) (t : Team) (w l : Nat), Acts s iss t w l → iss.members = [(w, l)] →
      w < t.warps.length → l < (t.warp w).threads.length → s.isProtected t = true → iss.cls ≠ 0 →
      (fm iss).clear (fun _ => none) ⟨t, w, l, iss⟩ → Ctx.taken ⟨t, w, l, iss⟩ p neg = true →
      (t.thread w l).mustTrap = none →
      let s1 := (({ s with issue := none } : State).exitThread iss.team w l).releaseSlot iss.team w
      exec (.exit p neg mode) s = .next (if (t.thread w (l ^^^ 1)).exited then s1 else
        { s1 with agenda := .event .shadowMismatch { team := iss.team, warp := w, lane := l } :: s1.agenda })) ∧
    Proceeds (.exit p neg mode) fm noValue
      (fun s c => c.taken p neg = false ∧ (s.isProtected c.t = false ∨ c.iss.cls = 0)) (fun _ s => s)) ∧
  (∀ (d : BitVec 7) (off : BitVec 17),
    let offset (iss : Issue) (c : Ctx) : Int := (iss.hdr : Int) - c.t.prog.hdr + 4 * off.toInt
    Proceeds (.meet d off) (fun iss => { grp := .meet, os := [(iss.reg d.toNat).dst] })
      (fun iss c => if offset iss c < 0 ∨ offset iss c ≥ 2 ^ 32 then some 0x04 else none) (fun _ _ => True)
      (fun c s => meetsAt c (BitVec.ofInt 32 (offset c.iss c))
        (s.updWarp c.t.id c.w fun wp => wp.setGroup c.l (c.iss.reg d.toNat).dst [(c.th.mr, .n32)]))) ∧
  (∀ a : BitVec 7,
    let src (iss : Issue) : Opnd := (iss.reg a.toNat).src (some [.n32])
    Proceeds (.meetr a) (fun iss => { grp := .meet, os := [src iss] }) (fun iss c => mrCheck (c.rd (src iss)))
      (fun _ _ => True) (fun c => meetsAt c (c.rd (src c.iss)))) ∧
  (∀ (mode : BitVec 1) (s : State) (iss : Issue) (t : Team) (w l : Nat), Acts s iss t w l →
    let c : Ctx := ⟨t, w, l, iss⟩
    let arrived := if mode = 1 then t.arrC else t.arrT
    Form.clear { grp := .ctl } (fun _ => none) c → (∃ m ∈ c.all, m ∉ arrived) →
    s.releaseGate c (if mode = 1 then 1 else 0) false = none →
    exec (.bar mode) s = .next (((c.all.foldl (waitsAtBar iss (mode == 1))
      ({ s with issue := none }.updTeam t.id fun t =>
        if mode = 1 then { t with arrC := t.arrC ++ c.all.filter (!t.arrC.contains ·) }
        else { t with arrT := t.arrT ++ c.all.filter (!t.arrT.contains ·) })).settleBarT
          iss.team).settleBarC iss.team |>.noteMixed iss.team)) ∧
  (∀ (count : BitVec 6) (mask : BitVec 3) (stride : BitVec 2) (s : State) (iss : Issue) (t : Team) (w l : Nat) (d a b : Bool),
    Acts s iss t w l → Form.clear { grp := .repeat_ } (fun _ => none) ⟨t, w, l, iss⟩ → iss.has2 = true →
    repFields (iss.raw2.toNat / 2 ^ 24) = some (d, a, b) →
    (mask.getLsbD 2 = true → d = true) → (mask.getLsbD 1 = true → a = true) → (mask.getLsbD 0 = true → b = true) →
    (t.thread w l).mustTrap = none →
    exec (.rep count mask stride) s = .next ((Ctx.all ⟨t, w, l, iss⟩).foldl (fun s m =>
      s.updThread iss.team m.1 m.2 fun th => { th with pos := { hdr := iss.hdr, word := iss.word + 1, rep := some 0 } })
        { s with issue := none })) ∧
  (∀ (a : BitVec 7) (lines : BitVec 10),
    let on (os : Issue → List Opnd) (g : Group) (form : BitVec 2) (iss : Issue) : Form :=
      { grp := g, wf := (Instr.lease form a lines).wf, os := os iss, pure := true }
    let src (iss : Issue) : Opnd := (iss.reg a.toNat).src (some [.n32])
    Proceeds (.lease 0 a lines) (on (fun _ => []) .lease 0) noValue (fun _ _ => True)
      (fun c s => s.updWarp c.t.id c.w fun wp => { wp with decl := lines.toNat }) ∧
    Proceeds (.lease 1 a lines) (on (fun iss => [src iss]) .lease 1)
      (fun iss c => if (c.rd (src iss)).toNat > 4194303 then some 0x04 else none) (fun _ _ => True)
      (fun c s => s.updWarp c.t.id c.w fun wp =>
        if c.rd (src c.iss) = 0 then { wp with boostLines := 0, boostExp := 0 }
        else { wp with boostLines := lines.toNat, boostExp := s.time + (c.rd (src c.iss)).toNat }) ∧
    Proceeds (.lease 2 a lines) (on (fun _ => []) .lease 2) noValue (fun _ _ => True)
      (fun c s => s.updWarp c.t.id c.w fun wp => { wp with boostLines := 0, boostExp := 0 }) ∧
    Proceeds (.lease 3 a lines) (on (fun iss => [(iss.reg a.toNat).dst]) .ctl 3) noValue (fun _ _ => True)
      (fun c s => s.updWarp c.t.id c.w fun wp => wp.setGroup c.l (c.iss.reg a.toNat).dst
        [(BitVec.ofNat 32 (wp.boostLive s.time * 2 ^ 12 + wp.effLease c.t.prog s.time), .n32)])) ∧
  (∀ a : BitVec 7,
    let src (iss : Issue) : Opnd := ((iss.reg a.toNat).grp 2 2).src (some [.addr, .n32])
    Proceeds (.waitt a) (ctlForm fun iss => [src iss]) noValue (fun s c => c.pair (src c.iss) ≤ s.time) (fun _ s => s) ∧
    Goes (.waitt a) (ctlForm fun iss => [src iss]) noValue (fun s c => s.time < c.pair (src c.iss))
      (fun c s => c.all.foldl (fun s m => s.holdLane c.iss.team (!c.iss.together) (.time (c.pair (src c.iss))) m) s)) ∧
  (∀ delay : BitVec 23,
    Proceeds (.waittD delay) (ctlForm fun _ => []) noValue (fun _ _ => delay = 0) (fun _ s => s) ∧
    Goes (.waittD delay) (ctlForm fun _ => []) noValue (fun _ _ => delay ≠ 0)
      (fun c s => c.all.foldl (fun s' m => s'.holdLane c.iss.team (!c.iss.together) (.time (s.time + delay.toNat)) m) s)) ∧
  ∀ (p : BitVec 3) (neg brk : BitVec 1) (code : BitVec 16),
    (∀ (s : State) (iss : Issue) (t : Team) (w l : Nat), Acts s iss t w l →
      (ctlForm (fun iss => [iss.cond p]) iss).clear (fun _ => none) ⟨t, w, l, iss⟩ →
      Ctx.taken ⟨t, w, l, iss⟩ p neg = true →
      exec (.trap p neg brk code) s =
        .next (trapAll ⟨t, w, l, iss⟩ (if brk = 1 then 0x15 else 0x14) { s with issue := none })) ∧
    Proceeds (.trap p neg brk code) (ctlForm fun iss => [iss.cond p]) noValue (fun _ c => c.taken p neg = false)
      (fun _ s => s)

/-- exec answers a next state in which the warp and the thread of the issue are as `post` says, and no byte of memory has
changed. -/
def Sys2Proof.Machine.Acted (i : Instr) (s : State) (iss : Issue) (w l : Nat) (post : Warp → Thread → Prop) : Prop :=
  ∃ s' t', exec i s = .next s' ∧ s'.team? iss.team = some t' ∧ s'.mem = s.mem ∧ post (t'.warp w) (t'.thread w l)

/-- R67, R99, R107, R132 to R136: where the threads of control words go and what these words leave: the meeting register, the
declared lease and the boost, the time a thread waits for, the first repetition of the word under REP; a thread that goes on
stands at its next word; one that exits is live no longer. -/
def Obligations.ControlWordsMoveTheirThreads : Prop :=
  ThreadsGoOnWordByWord ∧ ExitedThreadsAreLiveNoLonger ∧
  ∀ (s : State) (iss : Issue) (t : Team) (w l : Nat), Acts s iss t w l → w < t.warps.length → l < (t.warp w).threads.length →
    let c : Ctx := ⟨t, w, l, iss⟩
    (∀ m ∈ c.all, (t.thread m.1 m.2).mustTrap = none) →
    let src (a : BitVec 7) : Opnd := (iss.reg a.toNat).src (some [.n32])
    let time (a : BitVec 7) : Opnd := ((iss.reg a.toNat).grp 2 2).src (some [.addr, .n32])
    let lease (form : BitVec 2) (a : BitVec 7) (lines : BitVec 10) (os : List Opnd) : Form :=
      { grp := .lease, wf := (Instr.lease form a lines).wf, os := os, pure := true }
    (∀ (d : BitVec 7) (off : BitVec 17),
      let x : Int := (iss.hdr : Int) - t.prog.hdr + 4 * off.toInt
      0 ≤ x → x < 2 ^ 32 → Form.clear { grp := .meet, os := [(iss.reg d.toNat).dst] } (fun _ => none) c →
      Acted (.meet d off) s iss w l fun _ th => th.mr = BitVec.ofInt 32 x) ∧
    (∀ a : BitVec 7, Form.clear { grp := .meet, os := [src a] } (fun c => mrCheck (c.rd (src a))) c →
      Acted (.meetr a) s iss w l fun _ th => th.mr = c.rd (src a)) ∧
    (∀ (a : BitVec 7) (lines : BitVec 10),
      (Form.clear (lease 0 a lines []) (fun _ => none) c →
        Acted (.lease 0 a lines) s iss w l fun wp _ => wp.decl = lines.toNat) ∧
      (Form.clear (lease 1 a lines [src a]) (fun c => if (c.rd (src a)).toNat > 4194303 then some 0x04 else none) c →
        Acted (.lease 1 a lines) s iss w l fun wp _ => wp.boostLines = (if c.rd (src a) = 0 then 0 else lines.toNat) ∧
          wp.boostExp = if c.rd (src a) = 0 then 0 else s.time + (c.rd (src a)).toNat) ∧
      (Form.clear (lease 2 a lines []) (fun _ => none) c →
        Acted (.lease 2 a lines) s iss w l fun wp _ => wp.boostLines = 0 ∧ wp.boostExp = 0)) ∧
    (∀ a : BitVec 7, (ctlForm (fun _ => [time a]) iss).clear (fun _ => none) c →
      (c.pair (time a) ≤ s.time → Acted (.waitt a) s iss w l fun _ th => th.data = (t.thread w l).data) ∧
      (s.time < c.pair (time a) → Acted (.waitt a) s iss w l fun _ th =>
        th.wait = .time (c.pair (time a)) ∧ th.pos = (t.thread w l).pos ∧ th.data = (t.thread w l).data)) ∧
    (∀ delay : BitVec 23, (ctlForm (fun _ => []) iss).clear (fun _ => none) c → delay ≠ 0 →
      Acted (.waittD delay) s iss w l fun _ th =>
        th.wait = .time (s.time + delay.toNat) ∧ th.pos = (t.thread w l).pos ∧ th.data = (t.thread w l).data) ∧
    ∀ (count : BitVec 6) (mask : BitVec 3) (stride : BitVec 2) (d a b : Bool), iss.has2 = true →
      Form.clear { grp := .repeat_ } (fun _ => none) c → repFields (iss.raw2.toNat / 2 ^ 24) = some (d, a, b) →
      (mask.getLsbD 2 = true → d = true) → (mask.getLsbD 1 = true → a = true) → (mask.getLsbD 0 = true → b = true) →
      Acted (.rep count mask stride) s iss w l fun _ th =>
        th.pos = { hdr := iss.hdr, word := iss.word + 1, rep := some 0 } ∧ th.data = (t.thread w l).data

/-- What a trap makes of a region: absorbing ends, an open region lapses (R377). -/
def Sys2Proof.Machine.Region.afterTrap : Machine.Region → Machine.Region
  | .absorbing => .idle
  | .opened => .lapsed
  | r => r

/-- R377, R379: a thread that takes a trap outside a handler writes the save registers, stands at the handler's header in
handler mode and keeps its other registers; its region and its warp's end or lapse, and no write of sr.tret counts any more; in a
handler, or without one, its team is killed. -/
def Obligations.TrapsEnterTheHandler : Prop :=
  ∀ (s : State) (t : Team) (w l : Nat) (ti : TrapInfo), s.team? t.id = some t → (t.thread w l).exited = false →
    ti.cause ≠ 0x11 → ti.cause ≠ 0x18 → ti.cause < 256 → ti.word < 16 → (∀ i, ti.rep = some i → i < 64) →
    ((t.thread w l).handler = false → t.prog.handler ≠ 0 →
      ∃ t', (s.takeTrap t.id w l ti).team? t.id = some t' ∧
        let th := t.thread w l
        let th' := t'.thread w l
        th'.handler = true ∧ th'.pos = { hdr := t.prog.hdr + t.prog.handler } ∧ th'.wait = .none ∧
        th'.tret = BitVec.ofNat 64 ti.hdr ∧ th'.tinfo0.toNat = ti.rep.getD 0 * 2 ^ 12 + ti.word * 2 ^ 8 + ti.cause ∧
        th'.tinfo1 = (if ti.word = 0 ∧ ti.cause ≠ 0x0D then 0 else ti.raw) ∧ th'.tinfo2 = ti.mask ∧ th'.tinfo3 = ti.data ∧
        th'.v = th.v ∧ th'.p = th.p ∧ th'.mr = th.mr ∧ th'.fpst = th.fpst ∧ th'.ist = th.ist ∧ th'.rsd = th.rsd ∧
        th'.tretWritten = false ∧ th'.ab.region = th.ab.region.afterTrap ∧
        (t'.warp w).ab.region = (t.warp w).ab.region.afterTrap ∧
        (s.takeTrap t.id w l ti).mem = s.mem) ∧
    ((t.thread w l).handler = true ∨ t.prog.handler = 0 →
      ∃ t', (s.takeTrap t.id w l ti).team? t.id = some t' ∧ t'.killed = true ∧ t'.failed = true ∧ t'.live = [])

/-- R108, R382 to R384: an unassigned opcode traps with cause 0x01 in every thread; RTT ends handler mode and resumes at
the trapping word, at the header that sr.tret names when it was written, or past the trapping word with its result
substituted. -/
def Obligations.IllegalOpcodesTrapAndRttResumes : Prop :=
  (∀ (s : State) (iss : Issue) (t : Team), s.issue = some iss → s.team? iss.team = some t →
    exec .illegalOpcode s = .next (iss.deliverTraps (((iss.actors t).flatMap (iss.lanes t)).map fun m => (m, 0x01, (0 : Word)))
      { s with issue := none })) ∧
  (let fm (_ : Issue) : Form := { grp := .ctl, last := true }
   Goes (.rtt 0) fm noValue (fun _ c => ∀ m ∈ c.all, (c.t.thread m.1 m.2).handler = true)
     (fun c s => c.all.foldl (fun s m => s.resumeAt c.t.id m.1 m.2 (rttPos (c.t.thread m.1 m.2))) s) ∧
   ∀ (form : BitVec 2) (hdr raw : Word) (r : Option Word), form = 1 ∨ form = 2 →
     Goes (.rtt form) fm noValue
       (fun s c => c.iss.cls ≠ 0 ∧ c.th.handler = true ∧ c.th.tretWritten = false ∧ c.th.tinfo0.toNat / 2 ^ 8 % 16 ≠ 0 ∧
         (s.reread c.iss c.t c.th.tret.toNat (c.th.tinfo0.toNat / 2 ^ 8 % 16) c.th.trapRep).2 = .ok hdr raw r)
       (fun c s => (s.reread c.iss c.t c.th.tret.toNat (c.th.tinfo0.toNat / 2 ^ 8 % 16) c.th.trapRep).1.skipTrapped
         c.t.id c.w c.l (form == 2) c.t hdr raw r) ∧
     Goes (.rtt form) fm noValue
       (fun _ c => c.iss.cls ≠ 0 ∧ c.th.handler = true ∧ (c.th.tretWritten = true ∨ c.th.tinfo0.toNat / 2 ^ 8 % 16 = 0))
       (fun c s => s.resumeAt c.t.id c.w c.l { hdr := c.th.tret.toNat })) ∧
  ∀ (s : State) (t : Team) (w l : Nat) (pos : Pos), s.team? t.id = some t → (t.thread w l).exited = false →
    ∃ t', (s.resumeAt t.id w l pos).team? t.id = some t' ∧ (t'.thread w l).handler = false ∧ (t'.thread w l).pos = pos ∧
      (t'.thread w l).wait = .none

namespace Sys2Proof.Machine

/-! ### Special registers and team control -/

/-- SPRW's form for a read, and for a write of a register held per thread or core, or per warp (R90, R94). -/
def sprwForm (wr : Bool) (reg : BitVec 7) (id : BitVec 8) (iss : Issue) : Form :=
  { grp := if wr && srPerWarp id.toNat then .lease else .ctl, wf := (Instr.sprw (if wr then 1 else 0) reg id).wf
    past := !srAssigned id.toNat, priv := id.toNat ≥ 0x80
    os := [if wr then (iss.reg reg.toNat).src none else (iss.reg reg.toNat).dst], pure := true }

/-- The special registers a thread's own state holds, as R91 to R93 lay them out. -/
def threadSr (th : Thread) : List (Nat × Word) := [
  (0x10, th.mr), (0x18, BitVec.ofNat 32 th.fpst.toNat), (0x19, BitVec.ofNat 32 th.fpctl.toNat),
  (0x1A, BitVec.ofNat 32 th.ist.toNat), (0x1B, if th.perm then 1 else 0), (0x1C, BitVec.ofNat 32 th.mxst.toNat),
  (0x20, th.tinfo0), (0x21, th.tinfo1), (0x22, th.tinfo2), (0x23, th.tinfo3), (0x26, th.tsub), (0x34, th.sidel),
  (0x35, BitVec.ofNat 32 th.sidex.toNat), (0x3A, BitVec.ofNat 32 th.swapt.toNat)]

/-- The writable bits of the registers that a thread holds. -/
def threadMask : List (Nat × Word) := [
  (0x18, 0x1F), (0x19, 0xFF), (0x1A, 7), (0x1B, 1), (0x1C, 0x1F), (0x26, 0xFFFFFFFF), (0x34, 0x807FFFFF),
  (0x35, 0xFFFF), (0x3A, 0xFFFFFF)]

/-- TCTL's operands: seven registers read, the eighth written (R393). -/
def tctlSrc (a : BitVec 9) : Opnd := uniOpnd a.toNat 7 8
def tctlWord (a : BitVec 9) (c : Ctx) (k : Nat) : Nat := (c.rd (tctlSrc a) k).toNat
def tctlForm (form : BitVec 2) (a : BitVec 9) (_ : Issue) : Form :=
  { grp := .tctl, wf := (Instr.tctl form a).wf, priv := true, coll := true
    os := [tctlSrc a, { file := .uni, n := a.toNat + 7, wr := true }] }

end Sys2Proof.Machine

/-- R90 to R94, R385: SPRW reads a special register into its register, tagged N32, and writes one from it; SPRW's write that
arrives at gating is the agent's PGATE arrival (R409). A pop of the store-fault queue, which writes the scratchpad, waits as a
scratchpad store of the thread does (R276, R449), and takes the oldest record. -/
def Obligations.SprwReadsAndWrites : Prop :=
  ∀ (reg : BitVec 7) (id : BitVec 8),
    Effects (.sprw 0 reg id) (sprwForm false reg id) noValue (fun _ _ => True)
      (fun c s => (s.readSr c id.toNat).1.updWarp c.t.id c.w fun wp =>
        wp.setCell c.l (c.iss.reg reg.toNat).file (c.iss.reg reg.toNat).n (s.readSr c id.toNat).2 .n32) ∧
    Effects (.sprw 1 reg id) (sprwForm true reg id)
      (fun iss c => srBad c id.toNat (c.rd ((iss.reg reg.toNat).src none)).toNat)
      (fun s c => isOffWrite id.toNat (c.rd ((c.iss.reg reg.toNat).src none)) = false ∧
        (id = 0x28 → s.loadsSettled c.t.id c.w c.own = true ∧ s.acquiring c.t.id c.w c.own = false))
      (fun c s => s.writeSr c id.toNat (c.rd ((c.iss.reg reg.toNat).src none))) ∧
    Goes (.sprw 1 reg id) (sprwForm true reg id)
      (fun iss c => srBad c id.toNat (c.rd ((iss.reg reg.toNat).src none)).toNat)
      (fun _ c => isOffWrite id.toNat (c.rd ((c.iss.reg reg.toNat).src none)) = true)
      (fun c s => s.offWrite c (c.rd ((c.iss.reg reg.toNat).src none))) ∧
    ∀ (s : State) (c : Ctx) (r : SfRecord) (rs : List SfRecord), s.team? c.t.id = some c.t → c.t.sfq = r :: rs →
      ∀ d : Nat, d < 2 ^ 18 → ∃ t, (s.popSf c.t.id d).team? c.t.id = some t ∧ t.sfq = rs ∧
        t.owed = (if r.delivered then c.t.owed else c.t.owed ++ [r]) ∧
        t.scratch = Memory.writeBytes c.t.scratch d (c.t.mask d (r.bytes c.t.index))

/-- R90 to R93: each register that a thread holds reads as its field, and what SPRW writes to it reads back, but for the
bits that are not writable; the registers of the thread's place and of global time read as they stand. That every cluster reads
the one count of time, without the skew that R6 allows, is the model's choice (log 69, DESIGN CHOICE). -/
def Sys2Proof.Machine.SpecialRegistersReadTheirState : Prop :=
  ∀ (s : State) (c : Ctx),
    (∀ x ∈ threadSr c.th, s.readSr c x.1 = (s, x.2)) ∧
    (∀ x ∈ threadMask, ∀ v : Word, (x.1, v &&& x.2) ∈ threadSr (c.th.setSr x.1 v)) ∧
    (s.readSr c 0x01).2 = BitVec.ofNat 32 c.w ∧ (s.readSr c 0x02).2 = BitVec.ofNat 32 c.t.index ∧
    (s.readSr c 0x04).2 = BitVec.ofNat 32 c.iss.co ∧ (s.readSr c 0x05).2 = BitVec.ofNat 32 c.iss.cl ∧
    (s.readSr c 0x12).2 = BitVec.ofNat 32 c.th.rsd ∧ (s.readSr c 0x08).2 = BitVec.ofNat 32 s.time ∧
    (s.readSr c 0x09).2 = c.th.latch ∧ (s.readSr c 0x29).2 = BitVec.ofNat 32 c.t.sfq.length

/-- R92: reading the low half of a pair latches its high half in the thread, outside class 0, and a read of the high half
gives it. -/
def Sys2Proof.Machine.PairReadsLatchTheHighHalf : Prop :=
  ∀ (s : State) (c : Ctx) (id : Nat), srLow id = true → c.iss.cls ≠ 0 → s.team? c.t.id = some c.t → c.th.exited = false →
    ∃ t, (s.readSr c id).1.team? c.t.id = some t ∧ (s.readSr c id).2 = BitVec.ofNat 32 (s.srPair c id) ∧
      (((s.readSr c id).1).readSr { c with t := t } (id + 1)).2 = BitVec.ofNat 32 (s.srPair c id / 2 ^ 32)

/-- R393, R394: TCTL carries its form out on the team its registers name and writes the status: 5 for a reserved bit, 1 or
2 where the form cannot act on the team, 3 for a full save region, 4 for a full wake-watch table, 0 where it has; the status of an
evict is written when its save is complete. That place answers 1 when its registers name no claimed team is the model's choice
(log 8, DESIGN CHOICE). -/
def Obligations.TctlActsOnTheNamedTeam : Prop :=
  ∀ (form : BitVec 2) (a : BitVec 9),
    let ws (c : Ctx) : List Nat := (List.range 7).map (tctlWord a c)
    let status (n : Nat) (c : Ctx) (s : State) : State :=
      s.updWarp c.t.id c.w fun wp => wp.setUni (a.toNat + 7) (BitVec.ofNat 32 n)
    let team (c : Ctx) (s : State) : Option Team :=
      s.tctlTeam (tctlWord a c 0 + 2 ^ 32 * tctlWord a c 1) (tctlWord a c 2) (tctlWord a c 3 % 256)
    EffectsOnce (.tctl form a) (tctlForm form a) noValue (fun _ c => tctlReserved form.toNat (ws c) = true) (status 5) ∧
    let acts (c : Ctx) (s : State) : State × Nat :=
      s.tctl form.toNat (bitAt (tctlWord a c 3) 8) (team c s) c.iss.cl c.iss.co
    let mayAct (_ : State) (c : Ctx) : Prop := tctlReserved form.toNat (ws c) = false ∧ c.th.sent = false
    let saving (c : Ctx) (s s' : State) : Bool := (form == 1) && ((team c s).bind fun t => s'.team? t.id).any (·.saving.isSome)
    EffectsOnce (.tctl form a) (tctlForm form a) noValue
      (fun s c => mayAct s c ∧ ((acts c s).2 ≠ 0 ∨ saving c s (acts c s).1 = false))
      (fun c s => status (acts c s).2 c (acts c s).1) ∧
    EffectsOnce (.tctl form a) (tctlForm form a) noValue
      (fun s c => mayAct s c ∧ (acts c s).2 = 0 ∧ saving c s (acts c s).1 = true) (fun c s => (acts c s).1) ∧
    EffectsOnce (.tctl form a) (tctlForm form a) noValue
      (fun s c => tctlReserved form.toNat (ws c) = false ∧ c.th.sent = true ∧ saving c s s = false) (status 0) ∧
    ∀ (s : State) (swap : Bool) (cl co : Nat),
      s.tctl form.toNat swap none cl co = (s, if form = 0 then 1 else 2) ∧
      ∀ t : Team,
        (form = 2 → s.tctl form.toNat swap (some t) cl co = ((s.unlist t).killTeam t.id, 0)) ∧
        (form = 1 → t.place ≠ .resident cl co ∨ t.savable = false → s.tctl form.toNat swap (some t) cl co = (s, 2)) ∧
        (form = 1 → t.place = .resident cl co → t.savable = true → swap = false →
          s.tctl form.toNat swap (some t) cl co =
            ((s.saveUnit t fun _ => .saved).1, if (s.saveUnit t fun _ => .saved).2 then 0 else 3)) ∧
        (form = 1 → t.place = .resident cl co → t.savable = true → swap = true →
          s.tctl form.toNat swap (some t) cl co = ((s.swapOut t cl).1, (s.swapOut t cl).2.status) ∧
          (watchEntries ≤ (s.cluster cl).watch.length → s.swapOut t cl = (s, .tableFull)) ∧
          ((s.cluster cl).watch.length < watchEntries → (s.swapOut t cl).2 = .saved ∨ (s.swapOut t cl).2 = .saveFull)) ∧
        ((form = 0 ∧ t.isClaimed = true ∨ form = 3 ∧ t.isSaved = true ∧ t.killed = false) →
          (∀ x, roomFor (s.residents cl co) t.prog = some x →
            s.tctl form.toNat swap (some t) cl co = (((s.unlist t).settle t.id cl co x).rampStart cl, 0)) ∧
          (roomFor (s.residents cl co) t.prog = none → s.tctl form.toNat swap (some t) cl co = (s, 1)))

namespace Sys2Proof.Machine

/-! ### Commands and their queues -/

/-- The target's command is in flight: it has not completed and no fence holds it (R38). -/
def InFlight (s : State) (c : Command) : Prop :=
  s.command? s.target.id = some c ∧ c.finished = false ∧ s.fenced c = false

/-- Every earlier command of its queue has completed. -/
def noneEarlier (s : State) (c : Command) : Prop := s.earlierOpen c = false

/-- An agent's write of `bs` at a virtual address reaches plain memory (R41). -/
def agentPuts (s : State) (c : Command) (va : Addr) (x : Xlat) : Prop :=
  s.unitXlat c.ctx true .write va.toNat = .ok x ∧ x.imm = false ∧ x.doorbell = false

/-- The chip's timer lock has held for long enough, and what the agents have written for the queue's commands so far is
performed everywhere and 20 ns old (R40, R292, R294). -/
def agentReleased (s : State) (c : Command) : Prop :=
  s.timer.lossUntil ≤ s.time ∧ ∀ d ∈ s.commands, d.q = c.q → d.id ≤ c.id → d.mark = 0 ∨ d.mark + 20 ≤ s.time

/-- The command has completed; what it is has not changed. -/
def Ended (s' : State) (c : Command) : Prop :=
  ∃ c', s'.command? c.id = some c' ∧ c'.finished = true ∧ c'.acted = true ∧ c'.instr = c.instr ∧ c'.q = c.q ∧ c'.ctx = c.ctx

/-- A queue once QPROD is written: a value too far on, or behind, halts it with code 0x14 (R35). -/
def producedTo (v : Word) (q : Queue) : Queue :=
  if 2 ^ q.log < (v - q.cons).toNat ∨ 2 ^ 31 ≤ (v - q.prod).toNat then
    (if q.halt then q else { q with halt := true, err := 0x14 })
  else { q with prod := v }

/-- Memory after `n` bytes of `v` are stored at `k`: the bytes there, and every other byte as before. -/
def Stored (s s' : State) (k n v : Nat) : Prop :=
  (∀ i < n, Memory.read s'.mem (k + i) = BitVec.ofNat 8 (v / 256 ^ i)) ∧
  ∀ a, a < k ∨ k + n ≤ a → Memory.read s'.mem a = Memory.read s.mem a

end Sys2Proof.Machine

/-- R9, R31, R36: a launch command has acted once its root launches are there, one for each node in order, with the domain of
the command, and nothing else of the launches changes. -/
def Sys2Proof.Machine.LaunchCommandsMakeTheirRoots : Prop :=
  ∀ (s : State) (c : Command) (vas : List Nat), s.command? c.id = some c →
    (s.makeRoots c vas).command? c.id =
      some { c with roots := vas, acted := true, launches := c.launches + vas.length } ∧
    (s.makeRoots c vas).mem = s.mem ∧
    ∃ new : List Launch, (s.makeRoots c vas).launches = s.launches ++ new ∧ new.map (·.node.va) = vas ∧
      new.map (·.id) = (List.range vas.length).map (s.nextId + ·) ∧
      ∀ l ∈ new, l.cmd = c.id ∧ l.q = c.q ∧ l.ctx = c.ctx ∧ l.cause = .command ∧ l.dom = c.dom ∧ l.share = c.share ∧
        l.key = c.key ∧ l.replayable = true

/-- R35, R39: a claimed command is the newest, carries its queue, its place in the ring and its context, and its step comes
next; CLAIM and CONS of its queue move on by one, and a WAIT holds the queue. -/
def Sys2Proof.Machine.ClaimedCommandsJoinTheirQueue : Prop :=
  ∀ (s : State) (n : Nat) (q : Queue) (i : Instr),
    let s' := s.newCommand n q i
    s'.agenda = .event i { id := s.nextId } :: s.agenda ∧ s'.mem = s.mem ∧
    (∃ d : Command, s'.commands = s.commands ++ [d] ∧ d.id = s.nextId ∧ d.q = n ∧ d.idx = q.claim.toNat ∧ d.ctx = q.ctx ∧
      d.instr = i ∧ d.acted = false ∧ d.finished = false) ∧
    ∃ held, s'.queues = updAt s.queues n (fun q => { q with claim := q.claim + 1, cons := q.cons + 1, waiting := held }) ∧
      (held.isSome = true ↔ ∃ h va threshold, i = .wait h va threshold)

/-- R56: PARTITION writes the context's entry, and with EXCL takes its clusters out of every other context's mask; no other
context's entry changes. -/
def Sys2Proof.Machine.PartitionsWriteTheContext : Prop :=
  ∀ (s : State) (ctx mask : Nat) (excl : Bool) (slice root pool pages : Nat),
    let s' := s.partition ctx mask excl slice root pool pages
    let x := s'.context ctx
    x.mask = mask ∧ x.excl = excl ∧ x.slice = slice ∧ x.root = root ∧ x.pool = pool ∧ x.pages = pages ∧
    x.dom = (s.context ctx).dom ∧ x.key = (s.context ctx).key ∧ x.share = (s.context ctx).share ∧
    ∀ n, n ≠ ctx → (s'.context n).mask = (if excl then (s.context n).mask - ((s.context n).mask &&& mask) else (s.context n).mask) ∧
      (s'.context n).root = (s.context n).root ∧ (s'.context n).pool = (s.context n).pool ∧
      (s'.context n).pages = (s.context n).pages ∧ (s'.context n).slice = (s.context n).slice

/-- R36 to R41, R55, R56: the commands. A launch command creates its root launches in order and takes its graph on; SIGNAL and
TIMESTAMP store their eight bytes and complete; WAIT completes once the value has reached its threshold, and below it holds its
queue; SET_DOMAIN and PARTITION write the context. -/
def Obligations.CommandsHaveTheirEffect : Prop :=
  ∀ (s : State) (c : Command) (h : CmdHead),
    (∀ (roots recVA work : Addr) (count bytes : BitVec 64) (s1 : State) (vas : List Nat), InFlight s c → c.acted = false →
      s.agentWords (agentOf c) c.ctx (count.toNat % 65) roots.toNat = (s1, some vas) →
      exec (.launchGraph h roots count recVA work bytes) s = .next ((s1.makeRoots c vas).driveGraph c.id)) ∧
    (∀ (node recVA work : Addr) (bytes : BitVec 64), InFlight s c → c.acted = false →
      exec (.launchNode h node recVA work bytes) s = .next ((s.makeRoots c [node.toNat]).driveGraph c.id)) ∧
    LaunchCommandsMakeTheirRoots ∧
    (∀ (va : Addr) (value : BitVec 64) (x : Xlat), InFlight s c → noneEarlier s c → agentReleased s c →
      agentPuts s c va x → s.MemOk →
      ∃ s', exec (.signal h va value) s = .next s' ∧ Ended s' c ∧ Stored s s' x.key 8 value.toNat) ∧
    (∀ (va : Addr) (threshold : BitVec 64) (x : Xlat), InFlight s c → s.unitXlat c.ctx true .read va.toNat = .ok x →
      s.xlatBad x 8 = false → threshold.toNat ≤ leNat (s.homeBytes x 8) →
      exec (.wait h va threshold) s = .next ((s.updQueue c.q fun q => { q with waiting := none }).finishCommand c)) ∧
    (∀ (va : Addr) (threshold : BitVec 64) (x : Xlat), InFlight s c → s.unitXlat c.ctx true .read va.toNat = .ok x →
      s.xlatBad x 8 = false → leNat (s.homeBytes x 8) < threshold.toNat →
      exec (.wait h va threshold) s =
        .next (s.updQueue c.q fun q => { q with waiting := some (va.toNat, threshold.toNat, c.id, s.time) })) ∧
    (∀ (va : Addr) (x : Xlat), InFlight s c → (h.after = true → noneEarlier s c) → agentPuts s c va x → s.MemOk →
      ∃ s', exec (.timestamp h va) s = .next s' ∧ Ended s' c ∧ Stored s s' x.key 8 s.time) ∧
    (∀ (dom : BitVec 12) (share : Bool) (key : BitVec 128), InFlight s c →
      exec (.setDomain h dom share key) s =
        .next ((s.updContext c.ctx fun x => { x with dom := dom.toNat, share := share, key := key }).finishCommand c)) ∧
    PartitionsWriteTheContext ∧
    ∀ (ctx mask : BitVec 8) (excl : Bool) (slice : BitVec 7) (root : BitVec 64) (pool : Addr) (pages : BitVec 64),
      InFlight s c →
      exec (.partition h ctx mask excl slice root pool pages) s =
        .next ((s.partition ctx.toNat mask.toNat excl slice.toNat root.toNat pool.toNat pages.toNat).finishCommand c)

/-- An agent of the target's core may claim the next command of the target's queue `q`, whose entry is read to `got`; a queue
whose context no cluster serves claims nothing once one of its launches needs placement (R40, R43, R55). -/
def Sys2Proof.Machine.Claims (s : State) (q : Queue) (got : Trans) : Prop :=
  s.agentLive s.target.cl s.target.co = true ∧ s.target.id < 64 ∧ s.queues.getD s.target.id {} = q ∧ q.en = true ∧
  q.halt = false ∧ q.waiting = none ∧ 0 < (q.prod - q.claim).toNat ∧ (q.prod - q.claim).toNat ≤ 2 ^ q.log ∧
  s.claimEnds q.ctx = false ∧
  s.unitXlat q.ctx true .read ((q.base.toNat + 64 * (q.claim.toNat % 2 ^ q.log)) % 2 ^ 64) = got

/-- The target's queue halts with a code of R39. -/
def Sys2Proof.Machine.haltTarget (s : State) (code : Nat) : State :=
  { s with queues := updAt s.queues s.target.id fun q => if q.halt then q else { q with halt := true, err := code } }

/-- The command of a ring entry, or the code of its error. -/
def Sys2Proof.Machine.entryCommand (s : State) (q : Queue) (bs : List Byte) : Except (BitVec 8) Instr :=
  decodeCommand (BitVec.ofNat 6 s.target.id) q.priv ((List.range 8).map fun k => BitVec.ofNat 64 (w64 bs (8 * k)))

/-- The address fields of a command with the alignments of R39. -/
def Sys2Proof.Machine.cmdAddresses : Instr → List (Addr × Nat)
  | .launchGraph _ roots _ recVA work _ => [(roots, 8), (recVA, 64), (work, 1)]
  | .launchNode _ node recVA work _ => [(node, 256), (recVA, 64), (work, 1)]
  | .signal _ va _ | .wait _ va _ | .timestamp _ va => [(va, 8)]
  | .partition _ _ _ _ _ root pool _ => [(pool, 65536), (0, if root.toNat < 2 ^ 52 ∧ root.toNat % 256 = 0 then 1 else 0)]
  | _ => []

/-- The counts and lengths of a command are those of R39. -/
def Sys2Proof.Machine.cmdCounts : Instr → Prop
  | .launchGraph _ _ count _ work bytes => 1 ≤ count.toNat ∧ count.toNat ≤ 64 ∧ 65536 ≤ bytes.toNat ∧ work.toNat % 4096 = 0
  | .launchNode _ _ _ work bytes => 65536 ≤ bytes.toNat ∧ work.toNat % 4096 = 0
  | .partition _ _ _ _ slice _ _ _ => 1 ≤ slice.toNat ∧ slice.toNat ≤ 100
  | _ => True

/-- R39: the code of a ring entry in error: 0x10 for an operation that is not in the table or a reserved bit, 0x11 for a
SET_DOMAIN or PARTITION on a queue without QPRIV, 0x12 for an address, 0x13 for a count; any other entry is its command. -/
def Sys2Proof.Machine.EntriesInErrorHaveTheirCode : Prop :=
  ∀ (s : State) (q : Queue) (bs : List Byte),
    let ws : List (BitVec 64) := (List.range 8).map fun k => BitVec.ofNat 64 (w64 bs (8 * k))
    (commandOf (BitVec.ofNat 6 s.target.id) ws = none → entryCommand s q bs = .error 0x10) ∧
    ∀ i, commandOf (BitVec.ofNat 6 s.target.id) ws = some i →
      let privileged : Prop := (∃ h d sh k, i = .setDomain h d sh k) ∨ ∃ h c m e sl r p n, i = .partition h c m e sl r p n
      let placed : Prop := ∀ x ∈ cmdAddresses i, canonical x.1.toNat = true ∧ 0 < x.2 ∧ x.1.toNat % x.2 = 0
      (privileged ∧ q.priv = false → entryCommand s q bs = .error 0x11) ∧
      (¬ (privileged ∧ q.priv = false) → ¬ placed → entryCommand s q bs = .error 0x12) ∧
      (¬ (privileged ∧ q.priv = false) → placed → ¬ cmdCounts i → entryCommand s q bs = .error 0x13) ∧
      (¬ (privileged ∧ q.priv = false) → placed → cmdCounts i → entryCommand s q bs = .ok i)

/-- R34, R35, R39, R40, R43, R55: a live agent claims the next command of a queue; a command in error, or one that cannot be
read, halts the queue with its code and changes nothing else; a queue that is halted, disabled, empty, held by a WAIT, or whose
context no cluster serves while a launch of it needs placement, claims nothing. A doorbell write moves QPROD or halts the queue,
HALT_CLEAR clears the halt, a register write is made in 32-bit halves (R460), and a WAIT is read again. That the claimed command's
step comes next is the model's agenda (log 2, DESIGN CHOICE). -/
def Obligations.QueuesTakeTheirEvents : Prop :=
  ∀ s : State,
    (∀ (q : Queue) (bs : List Byte) (i : Instr) (x : Xlat), Claims s q (.ok x) → s.xlatBad x 64 = false →
      s.homeBytes x 64 = bs → entryCommand s q bs = .ok i →
      exec .commandClaim s = .next (s.newCommand s.target.id q i)) ∧
    (∀ (q : Queue) (bs : List Byte) (e : BitVec 8) (x : Xlat), Claims s q (.ok x) → s.xlatBad x 64 = false →
      s.homeBytes x 64 = bs → entryCommand s q bs = .error e →
      exec .commandClaim s = .next (haltTarget s e.toNat)) ∧
    (∀ q : Queue, Claims s q .prot → exec .commandClaim s = .next (haltTarget s 0x16)) ∧
    (∀ q : Queue, s.queues.getD s.target.id {} = q →
      q.en = false ∨ q.halt = true ∨ q.waiting.isSome = true ∨ q.prod = q.claim ∨ s.claimEnds q.ctx = true →
      exec .commandClaim s = .next s) ∧
    ClaimedCommandsJoinTheirQueue ∧ EntriesInErrorHaveTheirCode ∧
    (s.start.safe = false → s.target.addr = 0 → s.target.size = 4 ∨ s.target.size = 8 → s.target.id < 64 →
      ∀ v : Word, s.target.value = v.toNat →
      exec .doorbellWrite s = .next { s with queues := updAt s.queues s.target.id (producedTo v) }) ∧
    (s.start.safe = false → exec .haltClear s =
      .next { s with queues := updAt s.queues s.target.id fun q => { q with halt := false, err := 0 } }) ∧
    (∀ n < 64, s.start.safe = false → s.target.size = 4 → s.target.value < 2 ^ 32 →
      (s.target.addr = 0x10000 + 64 * n + 0x10 → exec .registerWrite s =
        .next { s with queues := updAt s.queues n (producedTo (BitVec.ofNat 32 s.target.value)) }) ∧
      (s.target.addr = 0x10000 + 64 * n + 0x18 → s.target.value = 2 ^ 31 → exec .registerWrite s =
        .next { s with queues := updAt s.queues n fun q => { q with halt := false, err := 0 } })) ∧
    (s.target.size = 4 → s.target.addr % 4 = 0 →
      exec .registerWrite s = .next (s.write32 s.target.addr (s.target.value % 2 ^ 32))) ∧
    (s.target.size = 8 → s.target.addr % 8 = 0 →
      exec .registerWrite s = .next ((s.write32 s.target.addr (s.target.value % 2 ^ 32)).write32 (s.target.addr + 4)
        (s.target.value / 2 ^ 32 % 2 ^ 32))) ∧
    ∀ (va threshold cmd now : Nat) (c : Command) (x : Xlat),
      (s.queues.getD s.target.id {}).waiting = some (va, threshold, cmd, now) → s.command? cmd = some c →
      c.finished = false → s.fenced c = false → s.unitXlat c.ctx true .read va = .ok x → s.xlatBad x 8 = false →
      exec .waitRecheck s = .next (if threshold ≤ leNat (s.homeBytes x 8) then
          (s.updQueue c.q fun q => { q with waiting := none }).finishCommand c
        else s.updQueue c.q fun q => { q with waiting := some (va, threshold, c.id, s.time) })

namespace Sys2Proof.Machine

/-! ### Steps of the device -/

/-- The step `i` leaves the state `eff s` whenever `due s` holds. -/
def Happens (i : Instr) (due : State → Prop) (eff : State → State) : Prop := ∀ s, due s → exec i s = .next (eff s)

/-- The step `i` leaves a state with `post` whenever `due s` holds. -/
def Leaves (i : Instr) (due : State → Prop) (post : State → State → Prop) : Prop :=
  ∀ s, due s → ∃ s', exec i s = .next s' ∧ post s s'

/-- The target's cluster and core. -/
def State.here (s : State) : Cluster := s.cluster s.target.cl
def State.thisCore (s : State) : Core := s.core s.target.cl s.target.co

/-- The target's cluster becomes `f` of what it was, and nothing else changes. -/
def State.hereTo (s : State) (f : Cluster → Cluster) : State :=
  { s with clusters := (s.clusters.zipIdx).map fun (c, n) => if n = s.target.cl then f c else c }

/-! ### Converters, gating and waking -/

/-- R404, R405, R412, R413: a write of RATIO, the end of its change, a write of STEP, the alarm's periods and the gating of an
idle vector pipe, each for one cluster. That the counters of stretched and halved cycles go down with the clock, and hold one more
than the periods to come, is the model's choice (log 56). -/
def ConvertersAndStepsMove : Prop :=
  Happens .convWrite (fun s => s.target.value % 4 < 3 ∧ s.here.change = none ∧ s.target.value % 4 ≠ s.here.r.ratio)
    (fun s => s.hereTo fun c => { c with change := some (s.target.value % 4, s.time + 2000) }) ∧
  Happens .convWrite (fun s => s.target.value % 4 = 3 ∨ s.here.change ≠ none ∨ s.target.value % 4 = s.here.r.ratio) id ∧
  (∀ r t, Happens .ratioChangeDone (fun s => s.here.change = some (r, t) ∧ t ≤ s.time)
    (fun s => s.hereTo fun c => { c with r := { c.r with ratio := r }, change := none })) ∧
  Happens .fstepWrite (fun s => s.gbudEn = false)
    (fun s => s.hereTo fun c => { c with r := { c.r with step := s.target.value % 8 } }) ∧
  Happens .fstepWrite (fun s => s.gbudEn = true) id ∧
  Happens .droopAlarm (fun s => (s.here.gate = .on ∨ s.here.gate = .quiescing) ∧ s.here.r.dthrEn = true ∧
    s.here.r.thr ≤ s.target.value ∧ s.here.change = none)
    (fun s => s.hereTo fun c =>
      { c with r := { c.r with acnt := min 65535 (c.r.acnt + 1) }, stretch := c.r.str + 1, halved := 0 }) ∧
  Happens .droopAlarm (fun s => (s.here.gate = .on ∨ s.here.gate = .quiescing) ∧ s.here.r.dthrEn = true ∧
    s.here.r.thr ≤ s.target.value ∧ s.here.change ≠ none)
    (fun s => s.hereTo fun c => { c with r := { c.r with acnt := min 65535 (c.r.acnt + 1) } }) ∧
  Happens .droopAlarm (fun s => s.target.value < s.here.r.thr ∨ s.here.r.dthrEn = false) id ∧
  Happens .droopStretchEnd (fun s => s.here.stretch = 1)
    (fun s => s.hereTo fun c => { c with stretch := 0, halved := if c.r.half = 0 then 0 else c.r.half + 1 }) ∧
  Happens .droopHalfEnd (fun s => s.here.halved = 1) (fun s => s.hereTo fun c => { c with halved := 0 }) ∧
  Happens .pipeClockGating (fun s => s.thisCore.lastIssue.getD s.target.quad 0 + 256 ≤ s.here.r.clk + 1)
    fun s => s.hereTo fun c => { c with cores := (c.cores.zipIdx).map fun (k, n) =>
      if n = s.target.co then { k with gated := setAt k.gated s.target.quad true } else k }

/-- R405, R413, R416: in a nanosecond a running clock counts the periods of its frequency; while an alarm stretches it every cycle
takes two periods, exactly STR cycles in all, and a clock that stands counts none. The cycles counted after an issue of the
vector pipes count as busy (log 56). -/
def ClocksCountTheirCycles : Prop :=
  ∀ c : Cluster,
    (c.clocked = false → c.tick = c) ∧
    (c.clocked = true → c.stretch ≤ 1 → c.frac < 100 → c.freq ≤ 290 →
      c.tick.r.clk = c.r.clk + (c.frac + c.freq) / 100 ∧ c.tick.frac = (c.frac + c.freq) % 100 ∧ c.tick.stretch = c.stretch) ∧
    (c.clocked = true → (c.frac + c.freq) / 200 + 1 < c.stretch → c.frac < 200 → c.freq ≤ 290 →
      c.tick.r.clk = c.r.clk + (c.frac + c.freq) / 200 ∧ c.tick.frac = (c.frac + c.freq) % 200 ∧
      c.tick.stretch = c.stretch - (c.frac + c.freq) / 200) ∧
    (c.clocked = true → c.tick.busyCycles = c.busyCycles + if c.issued then c.tick.r.clk - c.r.clk else 0) ∧
    (c.clocked = true → c.tick.issued = (c.issued && c.tick.r.clk == c.r.clk)) ∧ c.freq ≤ 290

/-- Every other agent of the target's cluster has arrived at gating. -/
def State.othersArrived (s : State) : Prop :=
  ∀ co ∈ s.liveCores s.target.cl, co = s.target.co ∨ co ∈ s.here.arrived

/-- R407 to R411, R422: an agent arrives at gating and the last arrival gates the cluster unless a condition of R409 holds; a
cancel or a wake request ends the request; a wake request for a domain that is off joins the arbiter's queue, which grants one
domain at a time and closes its chain in 8 us; a cluster is awake, and its agents run, 28 us after its grant (the model's choice
where R411 says at most: log 57). -/
def GatingAndWakingFollowTheirRequests : Prop :=
  let arrives (s : State) : Prop := s.agentLive s.target.cl s.target.co = true ∧ s.here.agentHolds s.target.co = false
  Leaves .pgateOff (fun s => arrives s ∧ ¬ s.othersArrived)
    (fun s s' => s'.here.gate = .quiescing ∧ (∀ co, co ∈ s'.here.arrived ↔ co = s.target.co ∨ co ∈ s.here.arrived) ∧
      s'.teams = s.teams ∧ s'.mem = s.mem) ∧
  Leaves .pgateOff (fun s => arrives s ∧ s.othersArrived ∧ s.refuses s.target.cl = true)
    (fun s s' => s'.here.gate = .on ∧ s'.here.refused = true ∧ s'.here.arrived = [] ∧ s'.mem = s.mem) ∧
  Leaves .pgateOff (fun s => arrives s ∧ s.othersArrived ∧ s.refuses s.target.cl = false)
    (fun s s' => s'.here.gate = .off ∧ s'.here.r = s.here.r ∧ s'.here.tlb = [] ∧ s'.here.cores = s.here.cores.map Core.retained ∧
      (∀ t ∈ s'.teams, t.priv = false ∨ ∀ co, t.place ≠ .resident s.target.cl co) ∧ s'.mem = s.mem) ∧
  Leaves .pgateCan (fun s => s.target.cl < s.clusters.length ∧ s.here.gate = .quiescing)
    (fun s s' => s'.here.gate = .on ∧ s'.here.refused = true ∧ s'.here.arrived = [] ∧ s'.mem = s.mem) ∧
  Happens .pgateCan (fun s => s.here.gate ≠ .quiescing) id ∧
  (let off (s : State) : Prop := s.target.id < s.clusters.length ∧ (s.cluster s.target.id).enabled = true ∧
      (s.cluster s.target.id).gate = .off
   Happens .pgateWake (fun s => off s ∧ Domain.cluster s.target.id ∉ s.inrush ∧ s.inrush.length < 16)
     (fun s => { s with inrush := s.inrush ++ [.cluster s.target.id] }) ∧
   Happens .pgateWake (fun s => off s ∧ Domain.cluster s.target.id ∈ s.inrush) id) ∧
  Happens .pgateWake (fun s => (s.cluster s.target.id).gate = .on ∨ (s.cluster s.target.id).gate = .waking) id ∧
  Happens .pgateWake (fun s => (s.cluster s.target.id).gate = .off ∧ 16 ≤ s.inrush.length) id ∧
  Leaves .pgateWake (fun s => s.target.id < s.clusters.length ∧ (s.cluster s.target.id).enabled = true ∧
      (s.cluster s.target.id).gate = .quiescing)
    (fun s s' => (s'.cluster s.target.id).gate = .on ∧ (s'.cluster s.target.id).refused = true ∧
      (s'.cluster s.target.id).arrived = [] ∧ s'.inrush = s.inrush ∧ s'.mem = s.mem) ∧
  (∀ c < 8, Happens .hostWake (fun s => s.target.value % 256 = 2 ^ c) fun s => s.postWake (.cluster c)) ∧
  (∀ rest, (∀ n, Happens .inrushGrant
      (fun s => s.inrush = .cluster n :: rest ∧ ∀ d t, s.closing = some (d, t) → t ≤ s.time)
      (fun s => { s with
        inrush := rest, closing := some (.cluster n, s.time + 8000)
        clusters := (s.clusters.zipIdx).map fun (c, k) =>
          if k = n then { c with gate := .waking, wakeAt := s.time + 28000 } else c })) ∧
    ∀ n, Happens .inrushGrant
      (fun s => s.inrush = .port n :: rest ∧ ∀ d t, s.closing = some (d, t) → t ≤ s.time)
      (fun s => State.reroute { s with
        inrush := rest, closing := some (.port n, s.time + 8000)
        ports := (s.ports.zipIdx).map fun (p, k) => if k = n then { p with powered := true } else p })) ∧
  (∀ d t, Happens .inrushGrant (fun s => s.closing = some (d, t) ∧ s.time < t) id) ∧
  Leaves .clusterWakeDone (fun s => s.target.cl < s.clusters.length ∧ s.here.gate = .waking ∧ s.here.wakeAt ≤ s.time)
    fun s s' => s'.here.gate = .on ∧ s'.here.r = { s.here.r with rampCur := s.here.r.rampInit } ∧ s'.teams = s.teams ∧
      s'.mem = s.mem ∧ ∀ co < s.here.cores.length, ((s'.core s.target.cl co).agent.isSome = true ↔
        (s.core s.target.cl co).exists_ = true ∧ s.start.step = 7)

/-! ### The governor, the timer and the start -/

/-- R415, R416: an epoch's end, once for each epoch of global time. A governor that is off moves no step. Above the budget it
slows each movable cluster whose power is at least the mean by one step; within the budget it slows the movable clusters with slack
by one step, and speeds others up by at most one, which must be busy for seven eighths of the epoch. Each epoch counts anew. -/
def GovernorMovesStepsByOne : Prop :=
  let power (s : State) (n : Nat) : Nat := ((s.target.meas[n]?).map (·.powerMilliwatt)).getD 0
  let total (s : State) : Nat := (s.onClusters.map (power s)).sum
  let step (s : State) (n : Nat) : Nat := (s.cluster n).r.step
  let slowed (s : State) (n : Nat) : Prop := if 1000 * s.gbudWatt < total s
    then total s ≤ power s n * s.onClusters.length else (s.cluster n).slack = true
  let due (s : State) : Prop := s.epoch < s.time / 50000
  Happens .governorEpoch (fun s => ¬ due s) id ∧
  Leaves .governorEpoch (fun s => s.gbudEn = false) (fun s s' => ∀ n, step s' n = step s n) ∧
  Leaves .governorEpoch (fun s => s.gbudEn = true)
    (fun s s' => ∀ n, n ∉ s.onClusters ∨ (s.cluster n).movable = false → step s' n = step s n) ∧
  Leaves .governorEpoch (fun s => due s ∧ s.gbudEn = true)
    (fun s s' => ∀ n ∈ s.onClusters, (s.cluster n).movable = true → slowed s n → step s n < 7 → step s' n = step s n + 1) ∧
  Leaves .governorEpoch (fun s => s.gbudEn = true)
    (fun s s' => ∀ n, ¬ slowed s n → step s' n = step s n ∨ (total s ≤ 1000 * s.gbudWatt ∧ step s' n + 1 = step s n ∧
      7 * (s.cluster n).cycles ≤ 8 * (s.cluster n).busyCycles)) ∧
  Leaves .governorEpoch due fun s s' => s'.clusters.length = s.clusters.length ∧ s'.mem = s.mem ∧
    s'.teams = s.teams ∧ s'.epoch = s.time / 50000 ∧ ∀ n < s.clusters.length, (s'.cluster n).credMark = (s'.cluster n).r.cred ∧
      (s'.cluster n).epochClk = (s'.cluster n).r.clk ∧ (s'.cluster n).busyCycles = 0

/-- The timer has left lock: copies of peers' lines are gone, and releases at system scope wait for 64,020 ns (R294). -/
def State.unlocked (s s' : State) : Prop :=
  s'.timer.lock = false ∧ s'.timer.lossUntil = s.time + 64020 ∧ s'.remote = s.remote.filter (fun x => x.key < 2 ^ 61) ∧
  (∀ cl co, (s'.core cl co).l1 = (s.core cl co).l1.filter fun x => x.key < 2 ^ 61) ∧ s'.mem = s.mem ∧ s'.time = s.time

/-- R417, R418, R294: writes of CORR and of SRC, the exchanges of the time source, and the loss of lock. That the correction equals
the measured offset under lock, and that SRC values 5 and 6 are stored, are the model's choices (log 55). -/
def TimerFollowsItsSource : Prop :=
  let fresh (s : State) : Prop := s.timer.src ≠ 7 ∧ s.timer.lastExchange + 125000 ≤ s.time
  let x (s : State) : Int := s.target.offset
  Happens .toffWrite (fun s => s.timer.lock = true) id ∧
  Happens .toffWrite (fun s => s.timer.lock = false) (fun s => { s with timer := { s.timer with
    corr := (BitVec.ofNat 32 s.target.value ++ s.timer.corrLow : BitVec 64).toInt } }) ∧
  (∀ (s : State) (v : Word), s.stageToff v =
    if s.timer.lock then s else { s with timer := { s.timer with corrLow := v } }) ∧
  Leaves .tsyncWrite (fun _ => True) (fun s s' => s'.timer.src = s.target.value / 2 ^ 28 % 8 ∧ s'.timer.lock = false ∧
    s'.timer.lastExchange = s.time ∧ s'.mem = s.mem ∧ (s.timer.lock = true → s.unlocked s')) ∧
  Happens .ptpExchange (fun s => s.timer.src = 7) id ∧
  Leaves .ptpExchange fresh (fun s s' => s'.timer.offs = max (-32768) (min 32767 (x s)) ∧ s'.timer.lastExchange = s'.time ∧
    s'.mem = s.mem) ∧
  Leaves .ptpExchange (fun s => fresh s ∧ s.timer.lock = true ∧ (x s).natAbs ≤ 10)
    (fun s s' => s'.timer.lock = true ∧ s'.timer.corr = x s ∧ s'.remote = s.remote) ∧
  Leaves .ptpExchange (fun s => fresh s ∧ s.timer.lock = true ∧ 10 < (x s).natAbs) State.unlocked ∧
  Leaves .ptpExchange (fun s => fresh s ∧ s.timer.lock = false ∧ 15 ≤ s.timer.goodRun ∧ (x s).natAbs ≤ 8)
    (fun s s' => s'.timer.lock = true ∧
      s'.time = (if s.timer.jumped then s.time else max s.time s.target.source) ∧
      s'.peers = s.peers.map fun p => { p with locked := p.routed }) ∧
  Leaves .ptpExchange (fun s => fresh s ∧ s.timer.lock = false ∧ (s.timer.goodRun < 15 ∨ 8 < (x s).natAbs))
    (fun s s' => s'.timer.lock = false ∧ s'.time = s.time ∧
      s'.timer.goodRun = if (x s).natAbs ≤ 8 then s.timer.goodRun + 1 else 0) ∧
  Leaves .ptpTimeout (fun s => s.timer.lock = true ∧ s.timer.lastExchange + 1000000 ≤ s.time) State.unlocked ∧
  Happens .ptpTimeout (fun s => s.timer.lock = false ∨ s.time < s.timer.lastExchange + 1000000) id

/-- Nothing runs and nothing is in flight, as after a start. -/
def State.blank (s : State) : Prop :=
  s.teams = [] ∧ s.launches = [] ∧ s.commands = [] ∧ s.loads = [] ∧ s.stores = [] ∧ s.contexts = [] ∧
  s.queues = List.replicate 64 {} ∧ s.oasis.entries = [] ∧ s.passes = [] ∧ s.faults = []

/-- R1, R400, R419, R422: a restart or a power-on that completes leaves a chip on which nothing runs, in the state after reset
but for the units that the configuration record or the fault log takes out of use; vector 66 is raised. A start that fails at step
1 enters safe mode, and one that fails at another step does when it is the third in a row. A cold restart and a power-on end safe
mode; a warm one does not. The model's choices: a start is one step, a failed one leaves every cluster off, a restart keeps module
memory but for the lines that the system cache had not written back, and a power-on clears it (logs 57, 61, 1 and 4). -/
def StartsLeaveABlankChip : Prop :=
  let starts (i : Instr) : Prop :=
    (∀ lanes, Leaves i (fun s => s.target.outcome = .complete lanes)
      (fun s s' => s'.blank ∧ s'.start.step = 7 ∧ 66 ∈ s'.msix ∧ s'.timer.lock = false ∧ s'.record = s.record ∧
        s'.clusters.length = s.clusters.length ∧
        ∀ n < s.clusters.length, (s'.cluster n).enabled = !s.record.clustersOff.contains n ∧
          (s'.cluster n).cores.length = (s.cluster n).cores.length ∧
          ∀ k < (s.cluster n).cores.length, ((s'.core n k).exists_ = true ↔ ∀ a b, HwUnit.core a b ∈ s.record.units ∨
            HwUnit.core a b ∈ s.health.disabled → ¬(a.toNat = n ∧ b.toNat = k)) ∧
            ((s'.core n k).agent.isSome = true ↔ (s'.core n k).exists_ = true))) ∧
    (∀ lanes, Leaves i (fun s => s.target.outcome = .complete lanes)
      (fun s s' => s'.epoch = s'.time / 50000 ∧ s'.ports.length = s.ports.length ∧
        ∀ k < s.ports.length, (s'.ports.getD k {}).lanes = laneWidth (lanes.getD k 0) ∧
          ((s'.ports.getD k {}).powered = false → Domain.port k ∈ s'.inrush))) ∧
    ∀ n : BitVec 3, n = 1 ∨ n = 2 ∨ n = 3 ∨ n = 6 → Leaves i (fun s => s.target.outcome = .failed n)
      fun s s' => s'.blank ∧ s'.start.step = n.toNat ∧ s'.start.fails = min 3 (s.start.fails + 1) ∧
        (∀ c ∈ s'.clusters, c.gate = .off) ∧ (n = 1 ∨ 2 ≤ s.start.fails → s'.start.safe = true) ∧
        (n ≠ 1 → s.start.fails < 2 → s'.start.safe = s.start.safe)
  starts .coldRestart ∧ starts .warmRestart ∧ starts .powerOn ∧
  (∀ lanes, Leaves .coldRestart (fun s => s.target.outcome = .complete lanes)
    fun s s' => s'.start.safe = false ∧ s'.start.fails = 0 ∧ s'.mem = s.killAll.memBelow) ∧
  (∀ lanes, Leaves .warmRestart (fun s => s.target.outcome = .complete lanes ∧ s.start.lastOk = true)
    fun s s' => s'.start.safe = s.start.safe ∧ s'.start.fails = s.start.fails ∧ s'.mem = s.killAll.memBelow) ∧
  ∀ lanes, Leaves .powerOn (fun s => s.target.outcome = .complete lanes)
    fun _ s' => s'.start.safe = false ∧ s'.time = 0 ∧ ∀ a < 2 ^ 60, Memory.read s'.mem a = 0

end Sys2Proof.Machine

namespace Sys2Proof.Machine

/-! ### Windows, health and the outside -/

/-- Memory after the bytes `bs` are stored at `k`: the bytes there, and every other byte as before. -/
def StoredBytes (s s' : State) (k : Nat) (bs : List Byte) : Prop :=
  (∀ i < bs.length, Memory.read s'.mem (k + i) = bs.getD i 0) ∧
  ∀ a, a < k ∨ k + bs.length ≤ a → Memory.read s'.mem a = Memory.read s.mem a

/-- The errors that a unit has counted, with the start of its window (R400). -/
def State.errors (s : State) (u : HwUnit) : Option (Nat × Nat) := (s.health.counts.find? fun x => x.1 == u).map (·.2)

/-- R213, R228, R362, R403: a pop takes the oldest entry of its log and leaves what it holds to be read; an invalidation takes
every entry of Oasis, or those of one domain; an entry of the want filter goes after its 1 ms. -/
def WindowsPopAndInvalidate : Prop :=
  (∀ r rest, Happens .pageRequestPop (fun s => s.start.safe = false ∧ s.requests = r :: rest)
    fun s => { s with requests := rest, ptime := r.time }) ∧
  Happens .pageRequestPop (fun s => s.start.safe = true ∨ s.requests = []) id ∧
  (∀ e rest, Happens .healthLogPop (fun s => s.start.safe = false ∧ s.health.log = e :: rest)
    fun s => { s with health := { s.health with log := rest, info := e.2 } }) ∧
  Happens .healthLogPop (fun s => s.start.safe = true ∨ s.health.log = []) id ∧
  Leaves .oasisInvalidateAll (fun s => s.start.safe = false) (fun s s' => s'.oasis.entries = [] ∧ s'.mem = s.mem ∧
    s'.oasis.evicts = s.oasis.evicts) ∧
  Leaves .oasisInvalidateDomain (fun s => s.start.safe = false ∧ s.target.value < 4096)
    (fun s s' => (∀ e, e ∈ s'.oasis.entries ↔ e ∈ s.oasis.entries ∧ e.dom ≠ s.target.value) ∧ s'.mem = s.mem) ∧
  Leaves .filterExpiry (fun s => s.target.cl < s.clusters.length ∧ s.target.co < s.here.cores.length)
    fun s s' => s'.thisCore = { s.thisCore with
      filter := s.thisCore.filter.filter fun (e : FiltEntry) => s.time < e.time + 1000000 } ∧ s'.mem = s.mem

/-- R400, R401, R458: a unit's correctable errors are counted in windows, a frame's for its 64 KiB, and reaching the threshold logs
the unit and takes it out of use; that a window begins with the unit's first error is the model's choice (log 53). A lane that
drops halves its port's width, and a chip that no route reaches any more leaves lock; that this chip's own timer does when every
port is down is the model's choice (log 54). Corruption strikes a granule, a scratchpad or an entry of Oasis and
changes no value. -/
def ErrorsAreCountedAndUnitsRetired : Prop :=
  let unit (s : State) : HwUnit := HwUnit.counted s.target.unit
  let fresh (s : State) : Prop := unit s ∉ s.health.disabled
  Leaves .correctableError
    (fun s => fresh s ∧ 1 < s.health.thresh ∧ ∀ n t, s.errors (unit s) = some (n, t) → t + s.health.window * 1000000 ≤ s.time)
    (fun s s' => s'.errors (unit s) = some (1, s.time) ∧ s'.health.disabled = s.health.disabled ∧
      s'.health.log = s.health.log ∧ s'.clusters = s.clusters) ∧
  (∀ n t, Leaves .correctableError
    (fun s => fresh s ∧ s.errors (unit s) = some (n, t) ∧ s.time < t + s.health.window * 1000000 ∧ n + 1 < s.health.thresh)
    (fun s s' => s'.errors (unit s) = some (n + 1, t) ∧ s'.health.disabled = s.health.disabled ∧
      s'.health.log = s.health.log ∧ s'.clusters = s.clusters)) ∧
  (∀ n t, Leaves .correctableError
    (fun s => fresh s ∧ s.errors (unit s) = some (n, t) ∧ s.time < t + s.health.window * 1000000 ∧
      s.health.thresh ≤ n + 1 ∧ s.health.log.length < 4096 ∧ ∀ cl co, unit s ≠ .core cl co)
    (fun s s' => s'.health.disabled = unit s :: s.health.disabled ∧ s'.health.log.length = s.health.log.length + 1 ∧
      s'.mem = s.mem)) ∧
  (∀ cl co n t, Happens .correctableError
    (fun s => fresh s ∧ s.target.unit = .core cl co ∧ s.errors (.core cl co) = some (n, t) ∧
      s.time < t + s.health.window * 1000000 ∧ s.health.thresh ≤ n + 1)
    (fun s => (State.logUnit { s with health := { s.health with
      counts := s.health.counts.filter fun x => x.1 != .core cl co } } (.core cl co)).disable (.core cl co))) ∧
  (∀ (p : BitVec 2) (l : BitVec 3), Leaves .linkLaneDrop
    (fun s => s.target.id = p.toNat ∧ s.target.value = l.toNat ∧ HwUnit.lane p l ∉ s.health.disabled ∧ p.toNat < s.ports.length)
    (fun s s' => HwUnit.lane p l ∈ s'.health.disabled ∧
      (s'.ports.getD p.toNat {}).lanes = (let n := (s.ports.getD p.toNat {}).lanes
        if 8 ≤ n then 4 else if 4 ≤ n then 2 else 0) ∧
      (∀ k, k ≠ p.toNat → s'.ports[k]? = s.ports[k]?) ∧
      ((s.ports.getD p.toNat {}).powered = false → s.inrush.length < 16 → Domain.port p.toNat ∈ s'.inrush) ∧
      s'.peers.map (·.chip) = s.peers.map (·.chip) ∧
      (∀ x ∈ s'.peers, (x.routed = true ↔ s'.reaches x = true) ∧ (x.routed = false → x.locked = false)) ∧
      (if ∀ x ∈ s'.ports, x.lanes = 0 then s'.timer.lock = false
       else s'.timer = { s.timer with lossUntil :=
         if (s.peers.any fun x => x.locked && !s'.reaches x) then max s.timer.lossUntil (s.time + 64020)
         else s.timer.lossUntil }) ∧
      s'.mem = s.mem)) ∧
  (∀ pa, Leaves .softError (fun s => s.target.site = .granule pa ∧ pa < s.moduleBytes)
    (fun s s' => s'.mem = s.mem ∧ ∀ g, g ∈ s'.badGranules ↔ g = pa / 32 * 32 ∨ g ∈ s.badGranules)) ∧
  (∀ tm a t, Leaves .softError (fun s => s.target.site = .scratch tm a ∧ s.team? tm = some t ∧ a < t.prog.scratch)
    (fun s s' => s'.mem = s.mem ∧ ∃ t', s'.team? tm = some t' ∧ t'.scratch = t.scratch ∧ t'.warps = t.warps ∧
      ∀ g, g ∈ t'.scratchBad ↔ g = a / 32 * 32 ∨ g ∈ t.scratchBad)) ∧
  (∀ set way, Leaves .softError (fun s => s.target.site = .oasis set way)
    (fun s s' => s'.mem = s.mem ∧ ∀ e, e ∈ s'.oasis.entries ↔ e ∈ s.oasis.entries ∧ ¬ (e.set = set ∧ e.way = way))) ∧
  (∀ tm n t, Leaves .softError (fun s => s.target.site = .tile tm n ∧ s.team? tm = some t ∧ n < 32 ∧ n % 8 < t.prog.acc)
    (fun s s' => s'.mem = s.mem ∧ ∃ t', s'.team? tm = some t' ∧ t' = t.updTile n fun x => { x with bad := true })) ∧
  (∀ tm n t, Leaves .softError (fun s => s.target.site = .plane tm n ∧ s.team? tm = some t ∧ n < 16 ∧ n % 4 < t.prog.planes)
    (fun s s' => s'.mem = s.mem ∧ ∃ t', s'.team? tm = some t' ∧ t' = t.updPlane n fun x => { x with bad := true })) ∧
  Happens .softError (fun _ => True) fun s => s.strike s.target.site

/-- R205, R273, R294, R400 (log 54 for the lease class, which the peer's access names): a write of the host or of a peer stores its bytes in module memory and touches no other byte, and
clears the errors of the granules it covers; a read of a locked peer grants a lease and raises its line's mark; a peer whose
lock is lost loses its line copies here, and releases at system scope wait. -/
def HostAndPeersReachMemory : Prop :=
  let writes (i : Instr) (due : State → Prop) : Prop :=
    Leaves i (fun s => due s ∧ s.target.addr + s.target.data.length ≤ s.moduleBytes ∧ s.MemOk)
      fun s s' => StoredBytes s s' s.target.addr s.target.data ∧ s'.teams = s.teams ∧ s'.timer = s.timer ∧
        ∀ g, g ∈ s'.badGranules ↔ g ∈ s.badGranules ∧ ¬ (s.target.addr ≤ g ∧ g + 32 ≤ s.target.addr + s.target.data.length)
  let routed (s : State) : Prop := ∃ p ∈ s.peers, p.chip = s.target.id ∧ p.routed = true
  writes .hostWindowWrite (fun s => s.start.safe = false) ∧
  Happens .hostWindowWrite (fun s => s.start.safe = true) id ∧
  writes .peerAccess (fun s => s.target.isRead = false ∧ s.start.safe = false ∧ routed s) ∧
  Happens .peerAccess (fun s => s.start.safe = true ∨ ¬ routed s) id ∧
  Leaves .peerAccess
    (fun s => s.target.isRead = true ∧ s.start.safe = false ∧ routed s ∧ s.timer.lock = true ∧ s.target.addr < s.moduleBytes ∧
      ∃ p ∈ s.peers, p.chip = s.target.id ∧ p.locked = true)
    (fun s s' => s'.watermark s.target.addr = max (s.time + leaseNs (s.target.value % 4)) (s.watermark s.target.addr) ∧
      (∀ k, k / 128 ≠ s.target.addr / 128 → s'.watermark k = s.watermark k) ∧ s'.mem = s.mem) ∧
  Leaves .peerLockLossNotice (fun s => ∃ p ∈ s.peers, p.chip = s.target.id ∧ p.locked = true)
    (fun s s' =>
      (∀ x ∈ s'.remote, x.key < 2 ^ 61 + s.target.id * 2 ^ 53 ∨ 2 ^ 61 + (s.target.id + 1) * 2 ^ 53 ≤ x.key) ∧
      (∀ p ∈ s'.peers, p.chip = s.target.id → p.locked = false) ∧
      s'.timer.lossUntil = max s.timer.lossUntil (s.time + 64020) ∧ s'.timer.lock = s.timer.lock ∧ s'.mem = s.mem) ∧
  Happens .peerLockLossNotice (fun s => ∀ p ∈ s.peers, p.chip = s.target.id → p.locked = false) id

end Sys2Proof.Machine

namespace Sys2Proof.Machine

/-! ### Threads that go on or trap -/

/-- The target's thread. -/
def State.me (s : State) : Thread := s.thread s.target.team s.target.warp s.target.lane

/-- R121, R135, R201, R278, R383: a meeting group that has waited its timeout goes on past the header; a wait for global
time ends with its word done; a release marks its threads; a thread that found no miss-status entry issues its word again; a
write of sr.tret sets one half. -/
def ParkedThreadsGoOn : Prop :=
  Leaves .meetingTimeout (fun s => (s.team? s.target.team).isSome)
    (fun s s' => s'.mem = s.mem ∧ ∀ l,
      let w := s.warp s.target.team s.target.warp
      let th := w.thread l
      s'.thread s.target.team s.target.warp l =
        if th.exited = false ∧ th.atMeeting = true ∧ w.groupDue (s.clkOf s.target.team) th.mr = true
        then { th with wait := .none, waitSince := none } else th) ∧
  (∀ d, Happens .waittDeadline (fun s => s.me.wait = .time d ∧ d ≤ s.time)
    fun s => s.advance s.target.team s.target.warp s.target.lane 1) ∧
  (∀ d, Leaves .waittDeadline (fun s => s.me.wait = .horizon d ∧ d ≤ s.time)
    fun s s' => s'.me = { s.me with wait := .none } ∧ s'.mem = s.mem) ∧
  (∀ d, Happens .waittDeadline (fun s => (s.me.wait = .time d ∨ s.me.wait = .horizon d) ∧ s.time < d) id) ∧
  (∀ scope, Leaves .releaseComplete
    (fun s => s.me.wait = .release scope false ∧ s.target.lane < 32 ∧
      s.relReady s.target.team s.target.warp s.target.lane scope = true)
    (fun s s' => s'.me = { s.me with wait := .none, waitSince := none, relDone := true } ∧ s'.mem = s.mem)) ∧
  (∀ scope, Leaves .releaseComplete
    (fun s => s.me.wait = .release scope true ∧ s.relReady s.target.team s.target.warp 32 scope = true)
    (fun s s' => s'.mem = s.mem ∧ ∀ l ∈ (s.warp s.target.team s.target.warp).live,
      s'.thread s.target.team s.target.warp l =
        { s.thread s.target.team s.target.warp l with wait := .none, waitSince := none, relDone := true })) ∧
  (∀ scope, Happens .releaseComplete
    (fun s => s.me.wait = .release scope false ∧ s.relReady s.target.team s.target.warp s.target.lane scope = false) id) ∧
  Leaves .mshrReplay (fun s => s.me.wait = .mshr)
    (fun s s' => s'.me = { s.me with wait := .none, waitSince := none } ∧ s'.mem = s.mem) ∧
  (∀ x : Word, Leaves .tretWrite
    (fun s => s.me.exited = false ∧ s.target.value = x.toNat ∧ (s.target.id = 1 ∨ x.toNat % 4 = 0))
    fun s s' => s'.me = { s.me with
      tret := if s.target.id = 1 then x ++ s.me.tret.extractLsb' 0 32 else s.me.tret.extractLsb' 32 32 ++ x
      tretWritten := true } ∧ s'.mem = s.mem)

/-- The thread has entered its handler with a cause. -/
def Trapped (s : State) (tm w l cause : Nat) : Prop :=
  (s.thread tm w l).handler = true ∧ (s.thread tm w l).tinfo0.toNat % 256 = cause

/-- A team with a handler none of whose threads runs it. -/
def Team.calm (t : Team) : Prop := t.prog.handler ≠ 0 ∧ ∀ m ∈ t.live, (t.thread m.1 m.2).handler = false

/-- R126, R135, R220, R282, R378, R399: after the timeout, every thread of a mismatched warp, and every thread at BAR.T among
threads at BAR.C, takes cause 0x13; a store-fault record is delivered at a header as cause 0x0D with its data, and is not
delivered again; a pop moves the oldest record to the scratchpad; a broken pair aborts its launch with cause 0x11. The model's choices:
a member that traps leaves the arrivals at BAR.T (log 26), a record popped before its delivery is still owed (log 20), and the abort
is the next turn (log 2). -/
def ThreadsTakeWhatIsOwed : Prop :=
  (∀ t x, Leaves .collectiveMismatchTimeout
    (fun s => s.team? s.target.team = some t ∧ t.at?.isSome ∧ t.calm ∧ (t.warp s.target.warp).mismatchSince = some x ∧
      x + (t.warp s.target.warp).mto ≤ s.clkOf s.target.team ∧ (t.warp s.target.warp).mismatched = true ∧
      (t.warp s.target.warp).meetingDue (s.clkOf s.target.team) = false)
    (fun s s' => s'.mem = s.mem ∧ ∀ l ∈ (t.warp s.target.warp).live, Trapped s' s.target.team s.target.warp l 0x13)) ∧
  (∀ t x, Leaves .barMixedTimeout
    (fun s => (s.noteMixed s.target.team).team? s.target.team = some t ∧ t.at?.isSome ∧ t.calm ∧ t.mixedSince = some x)
    (fun s s' => s'.mem = s.mem ∧ ∀ m ∈ t.live, x + (t.warp m.1).mto ≤ s.clkOf s.target.team →
      if (t.thread m.1 m.2).wait = .barrier false
      then Trapped s' s.target.team m.1 m.2 0x13 ∧ ∀ t', s'.team? s.target.team = some t' → m ∉ t'.arrT
      else (s'.thread s.target.team m.1 m.2).handler = false)) ∧
  (∀ t r, Leaves .storeFaultDelivery
    (fun s => s.team? s.target.team = some t ∧ t.at?.isSome ∧ t.started = true ∧ t.calm ∧ s.me.exited = false ∧
      s.me.atHeader = true ∧ (∀ q ∈ t.owed, q.delivered = false) ∧
      (t.owed ++ t.sfq).find? (fun q => !q.delivered && q.warp == s.target.warp && q.lane == s.target.lane) = some r)
    (fun s s' => Trapped s' s.target.team s.target.warp s.target.lane 0x0D ∧ s'.me.tinfo1 = r.raw ∧
      s'.me.tinfo3 = BitVec.ofNat 32 r.data ∧ s'.me.tret = BitVec.ofNat 64 s.me.pos.hdr ∧ s'.mem = s.mem ∧
      ∃ t', s'.team? s.target.team = some t' ∧
        (t'.owed ++ t'.sfq).countP (fun q => !q.delivered) + 1 = (t.owed ++ t.sfq).countP fun q => !q.delivered)) ∧
  (∀ t r rest, Leaves .storeFaultPop
    (fun s => s.team? s.target.team = some t ∧ t.sfq = r :: rest ∧ s.target.value < 2 ^ 18 ∧ s.target.value % 16 = 0 ∧
      s.target.value + 32 ≤ t.prog.scratch ∧ s.MemOk)
    (fun s s' => s'.mem = s.mem ∧ ∃ t', s'.team? s.target.team = some t' ∧ t'.sfq = rest ∧ t'.warps = t.warps ∧
      t'.readScratch s.target.value 32 = r.bytes t.index ∧
      ∀ a, a < s.target.value ∨ s.target.value + 32 ≤ a → t'.readScratch a 1 = t.readScratch a 1)) ∧
  (∀ (s : State) (tm w l since : Nat) (x : List Nat),
    let th := s.thread tm w l
    let p := s.thread tm w (l ^^^ 1)
    th.wait = .pair since x → th.exited = false → p.exited = false → p.pos = th.pos →
      (∀ z y, p.wait = .pair z y → y = x) → s.pairBroken tm w l = false) ∧
  (∀ t, Happens .shadowMismatch (fun s => s.team? s.target.team = some t ∧
    (s.isProtected t = false ∨ t.killed = true ∨ s.pairBroken s.target.team s.target.warp s.target.lane = false)) id) ∧
  ∀ t, Happens .shadowMismatch
    (fun s => s.team? s.target.team = some t ∧ s.isProtected t = true ∧ t.killed = false ∧
      s.pairBroken s.target.team s.target.warp s.target.lane = true)
    fun s => { s with agenda := .event .launchAbort { id := t.launch, value := 0x11 } :: s.agenda }

end Sys2Proof.Machine

namespace Sys2Proof.Machine

/-! ### Placing, turns and activation -/

/-- Teams have identities of their own. -/
def State.distinct (s : State) : Prop := (s.teams.map (·.id)).Nodup

/-- R60: what a core gives one more team: a free slot in the right quadrant for each warp, register blocks, accumulator tiles,
planes and queues within the core's, and a run of the scratchpad of its own. -/
def RoomIsWithinTheCore : Prop :=
  ∀ (ts : List Team) (p : Prog) (a : Assign), roomFor ts p = some a →
    (a.slots.length = p.warpCount ∧ a.slots.Nodup ∧ ∀ k < p.warpCount, ∀ x, a.slots[k]? = some x →
      x / 16 = k % 4 ∧ x < 63 ∧ ∀ t ∈ ts, x ∉ t.slots) ∧
    (∀ q < 4, (ts.map fun t => t.prog.inQuad q * (t.prog.vregs / 8)).sum + p.inQuad q * (p.vregs / 8) ≤ 64) ∧
    (ts.map fun t => t.prog.acc).sum + p.acc ≤ 8 ∧ (ts.map fun t => t.prog.planes).sum + p.planes ≤ 4 ∧
    (ts.map fun t => t.prog.queues).sum + p.queues ≤ 16 ∧
    (p.scratch ≠ 0 → a.run % 4096 = 0 ∧ a.run + p.runLen ≤ 262144 ∧
      ∀ t ∈ ts, t.prog.scratch ≠ 0 → a.run + p.runLen ≤ t.run ∨ t.run + t.prog.runLen ≤ a.run)

/-- R61, R62: a claimed team that a core in service for its context has room for stands there with its slots and its run. -/
def ClaimedTeamsArePlaced : Prop :=
  ∀ (s : State) (tm cl co : Nat) (t : Team) (a : Assign) (c0 k0 : Nat), s.distinct → s.team? tm = some t →
    t.place = .claimed c0 k0 → s.coreOn cl co = true → s.serves t.ctx cl = true →
    roomFor (s.residents cl co) t.prog = some a →
    ∃ s' t', s.tryCore tm cl co = some s' ∧ s'.team? tm = some t' ∧ t'.place = .resident cl co ∧ t'.slots = a.slots ∧
      t'.run = a.run ∧ t'.warps.length = t.warps.length ∧ s'.mem = s.mem

/-- The context whose turn a claim of the target's cluster finds, and the state once the turn has begun. -/
def State.inTurn (s : State) (s1 : State) (ctx : Nat) : Prop :=
  s.agentLive s.target.cl s.target.co = true ∧ s.coreOn s.target.cl s.target.co = true ∧
    s.takeTurn s.target.cl = (s1, some ctx)

/-- The hand that carries the target's team. -/
def State.carries (s : State) (k : Ticket) : Prop :=
  s.here.hands.find? (fun k => ((s.ticketTeam k).map (·.id)) == some s.target.team) = some k

/-- R61 to R65: an agent restores the saved teams of the context whose turn it is, and when none is left tries the placement
list and takes a ticket; a team handed round is tried at each core and then enters the list; held teams whose dependence is met enter it; a
cohort's ticket takes a reservation, which makes room after 100 us. -/
def AgentsPlaceTeams : Prop :=
  (∀ s1 ctx, Happens .teamTicketClaim (fun s => s.inTurn s1 ctx) fun s =>
    let s2 := s1.retryList s.target.cl [s.target.co]
    if s2.serves ctx s.target.cl = true ∧ s2.resumeHere s.target.cl ctx = []
    then s2.takeTicket s.target.cl s.target.co ctx else s2) ∧
  (∀ (s s1 : State) (cl ctx : Nat) (cores : List Nat), (s.cluster cl).reserved = false → s.takeTurn cl = (s1, some ctx) →
    (s1.cluster cl).reserved = false →
    let on := cores.filter (s1.agentLive cl ·)
    (∀ t ts, s1.resumeHere cl ctx = t :: ts →
      let s2 := (t :: ts).foldl (fun s t => s.tryResume cl on t) s1
      s2.resumeHere cl ctx ≠ [] → s.retryList cl cores = s2) ∧
    (s1.resumeHere cl ctx = [] →
      let r := placeTickets cl ctx on (s1.cluster cl).placing s1
      s.retryList cl cores = r.1.updCluster cl fun c => { c with placing := r.2 })) ∧
  (∀ (s s1 : State) (cl co : Nat) (cores : List Nat) (t : Team), s.resumable t = true → t.prog.cohort ≤ 1 →
    (s.cluster cl).reserved = false → s.tryCore t.id cl co = some s1 → s.tryResume cl (co :: cores) t = s1) ∧
  (∀ (s : State) (cl : Nat) (cores : List Nat) (t : Team), t.prog.cohort ≤ 1 → (s.cluster cl).reserved = true →
    s.tryResume cl cores t = s) ∧
  Happens .teamTicketClaim (fun s => s.agentLive s.target.cl s.target.co = false) id ∧
  (∀ k s1 s2 ctx, Happens .teamPass
    (fun s => s.carries k ∧ s.takeTurn s.target.cl = (s1, some ctx) ∧ (s.launch? k.launch).map (·.ctx) = some ctx ∧
      s.here.reserved = false ∧ s.agentLive s.target.cl k.co = true ∧ s.tryCore s.target.team s.target.cl k.co = some s2)
    fun s => s2.updCluster s.target.cl fun c => { c with hands := c.hands.filter (· != k) }) ∧
  (∀ k, Happens .teamPass
    (fun s => s.carries k ∧ s.tryCore s.target.team s.target.cl k.co = none ∧ k.tried + 1 < (s.liveCores s.target.cl).length)
    fun s => s.hereTo fun c => { c with hands := c.hands.map fun x =>
      if x = k then { x with co := s.ringNext s.target.cl k.co, tried := x.tried + 1 } else x }) ∧
  (∀ k, Happens .teamPass
    (fun s => s.carries k ∧ s.tryCore s.target.team s.target.cl k.co = none ∧ (s.liveCores s.target.cl).length ≤ k.tried + 1 ∧
      s.here.placing.length < placeList ∧ s.listWaits s.target.cl = false)
    fun s => s.hereTo fun c => { c with
      hands := c.hands.filter (· != k), placing := enterList { k with tried := 0 } c.placing }) ∧
  (∀ k l, Happens .dependenceRecheck
    (fun s => s.here.depend = [k] ∧ s.launch? k.launch = some l ∧ l.prog.cohort ≤ 1 ∧ s.depMet l k.first = true ∧
      s.here.placing.length < placeList)
    fun s =>
      let s2 := (s.noteConsumer l k.first).hereTo fun c => { c with
        depend := [], placing := enterList { k with requeued := true } c.placing }
      s2.retryList s.target.cl (s2.liveCores s.target.cl)) ∧
  (∀ k l, Happens .dependenceRecheck
    (fun s => s.here.depend = [k] ∧ s.launch? k.launch = some l ∧ l.prog.cohort ≤ 1 ∧ s.depMet l k.first = false)
    fun s => s.retryList s.target.cl (s.liveCores s.target.cl)) ∧
  (∀ k, Happens .cohortReserveRetry (fun s => s.here.cohorts = [k]) fun s => s.tryCohort s.target.cl k) ∧
  Happens .cohortMakeRoom (fun s => s.here.reserved = false ∨ s.time < s.here.resv.since + 100000) id ∧
  (∀ k s1 s2, Happens .cohortMakeRoom
    (fun s => s.here.reserved = true ∧ s.here.resv.since + 100000 ≤ s.time ∧ s.resvTicket s.target.cl = some k ∧
      s.takeTurn s.target.cl = (s1, some s.here.resv.ctx) ∧ s.makeRoom s.target.cl k (s.teams.length + 1) = (s2, true))
    fun _ => s2)

/-- R54, R56 to R58: at a window's end the ramp's limit moves by its formula; at a turn's end the context's teams are
pre-empted and the next context's turn begins, for its slice in milliseconds. -/
def TurnsAndRampsMoveOn : Prop :=
  Leaves .rampWindow (fun s => s.target.cl < s.clusters.length ∧ s.time / 1000 = s.here.window + 1 ∧ s.here.rampNext = none)
    (fun s s' => s'.here.window = s.time / 1000 ∧ s'.here.r.rampCur =
      (if s.here.r.rampCur ≤ s.here.starts then min s.here.r.rampCeil (s.here.r.rampCur + s.here.r.rampStep)
       else if s.here.starts = 0 ∧ s.anyTeam s.target.cl = false then s.here.r.rampInit else s.here.r.rampCur)) ∧
  Happens .rampWindow (fun s => s.time / 1000 ≤ s.here.window) id ∧
  (∀ c e, Happens .sliceEnd (fun s => s.here.turn = some (c, e) ∧ s.time < e ∧ c ∈ s.workers s.target.cl) id) ∧
  (∀ c e d, Happens .sliceEnd
    (fun s => s.here.turn = some (c, e) ∧ e ≤ s.time ∧
      nextCtx ((s.workers s.target.cl).filter (· != c)) c = some d ∧
      (((s.enforceMask s.target.cl).preempt s.target.cl (·.ctx == c)).cluster s.target.cl).resv.busy = false)
    fun s => ((((s.enforceMask s.target.cl).preempt s.target.cl (·.ctx == c)).beginTurn s.target.cl d).afterDeparture
      s.target.cl)) ∧
  ∀ (s : State) (cl d : Nat), cl < s.clusters.length →
    ((s.beginTurn cl d).cluster cl).turn = some (d, s.time + (s.context d).slice * 1000000)

/-- R69, R70, R72 to R75, R80: an activation step makes exactly the chosen warps active, whose leases fit the L1 beside its
reserve unless each is the first that runs of its team; a measurement window ends with a count within one eighth of the lines
seen; a boost ends; a due wake-watch entry is queued again. -/
def WarpsAreActivatedByLease : Prop :=
  Leaves .activationStep (fun s => s.target.cl < s.clusters.length ∧ s.target.co < s.here.cores.length ∧
      s.thisCore.lastStep + 64 ≤ s.here.r.clk)
    (fun s s' => ∀ t ∈ s'.teams, t.onCore s.target.cl s.target.co = true → ∀ w < t.warps.length,
      (t.warp w).active = (s'.activeSet s.target.cl s.target.co).contains (t.id, w)) ∧
  Happens .activationStep (fun s => s.here.r.clk < s.thisCore.lastStep + 64) id ∧
  (∀ (s : State) (cl co : Nat), s.distinct → (s.core cl co).lresOff = false →
    let act := s.activeSet cl co
    let lease (x : Nat × Nat) : Nat := ((s.team? x.1).map fun t => (t.warp x.2).effLease t.prog s.time).getD 0
    (act.map lease).sum ≤ 4096 - (s.core cl co).lresReserve ∨
      ∀ x ∈ act, ∀ w < x.2, (s.warp x.1 w).live = [] ∨ (s.warp x.1 w).waiting = true) ∧
  (∀ t cl co, Leaves .leaseWindowEnd
    (fun s => s.team? s.target.team = some t ∧ t.place = .resident cl co ∧ s.target.warp < t.warps.length ∧
      (t.warp s.target.warp).active = true ∧ (t.warp s.target.warp).winStart + 4096 ≤ (s.cluster cl).r.clk)
    (fun s s' =>
      let w := t.warp s.target.warp
      let n := w.sketch.length
      (∃ c, n - n / 8 ≤ c ∧ c ≤ n + n / 8 ∧ s'.warp s.target.team s.target.warp =
        { w with meas := min 4095 (c + w.winLost), sketch := [], winLost := 0, winStart := (s.cluster cl).r.clk }) ∧
      s'.mem = s.mem)) ∧
  Leaves .boostExpiry
    (fun s => (s.team? s.target.team).isSome ∧ (s.warp s.target.team s.target.warp).boostExp ≤ s.time)
    (fun s s' => s'.warp s.target.team s.target.warp = { s.warp s.target.team s.target.warp with boostLines := 0 } ∧
      s'.mem = s.mem) ∧
  (∀ e, Happens .wakeWatchTimeout (fun s => s.here.watch = [e] ∧ s.watchDue e = true) fun s => s.requeue s.target.cl e) ∧
  (∀ (s : State) (e : WakeEntry), s.watchDue e = true ↔ (∀ t, s.team? e.team = some t → t.saving = none) ∧
    ((e.fault = true ∧ s.watchPages e = 0) ∨ ∃ d, e.wake = some d ∧ d ≤ s.time)) ∧
  (∀ (s : State) (e u : WakeEntry) (tm : Nat), (e.team = tm ∨ tm ∈ e.cohort) → e.without s tm = some u → u.fault = e.fault ∧
    u.team ≠ tm ∧ ∀ x, x ∈ u.cohort ↔ x ≠ tm ∧ (x = e.team ∨ x ∈ e.cohort)) ∧
  ∀ e, Happens .wakeWatchTimeout (fun s => s.here.watch = [e] ∧ s.watchDue e = false) id

/-- R73, R116, R117: a regroup period keeps the bundles that stand, and fills a free slot with ready threads of one team at
one position, of the slot's quadrant, one for each lane; a warp that is not active gives only threads inside their clause. -/
def BundlesGatherReadyThreads : Prop :=
  Leaves .regroupPeriod (fun s => s.distinct) fun s s' =>
    (∀ (n : Nat) (b : Bundle), s.thisCore.bundles[n]? = some (some b) → s'.thisCore.bundles[n]? = some (some b)) ∧
    ∀ (n : Nat) (b : Bundle), s.thisCore.bundles[n]? = some none → s'.thisCore.bundles[n]? = some (some b) →
      (b.members.map (·.2)).Nodup ∧ ∃ pos, ∀ m ∈ b.members,
        (s'.thread b.team m.1 m.2).pos = pos ∧ (s'.thread b.team m.1 m.2).wait = .none ∧
        (s'.thread b.team m.1 m.2).exited = false ∧ m.1 % 4 = n / 2 ∧
        ((s'.warp b.team m.1).active = true ∨ pos.begun = true)

end Sys2Proof.Machine

namespace Sys2Proof.Machine

/-! ### The memory side -/

/-- The target names the load `o`, the store `o`. -/
def State.loadIs (s : State) (o : LoadOp) : Prop := s.load? s.target.id = some o
def State.storeIs (s : State) (o : StoreOp) : Prop := s.store? s.target.id = some o

/-- The load's destination still takes its data (R132). -/
def LoadOp.taken (o : LoadOp) (s : State) : Prop :=
  o.dropped = false ∧ o.dst.lane < 32 ∧ (s.thread o.dst.team o.dst.warp o.dst.lane).exited = false

/-- R86, R127, R132, R236, R279: a load's data are written to its registers, each full with its tag, and an acquire takes effect; a
dropped load writes nothing, and the slot of a warp whose threads have all exited is free (64 in the model) once no write-back of it
is left; a refill becomes the value of its return-stack entry. -/
def LoadsAreWrittenBack : Prop :=
  (∀ o ws pv, Leaves .loadWriteback
    (fun s => s.loadIs o ∧ o.refill = none ∧ o.st = .bound ws pv ∧ o.taken s)
    (fun s s' => s'.mem = s.mem ∧ (∀ x, x ∈ s'.loads ↔ x ∈ s.loads ∧ x.id ≠ o.id) ∧
      let th := s.thread o.dst.team o.dst.warp o.dst.lane
      let th' := s'.thread o.dst.team o.dst.warp o.dst.lane
      (∀ k < o.dst.cnt, ∀ r, th.v[o.dst.n + k]? = some r → ∃ r', th'.v[o.dst.n + k]? = some r' ∧ r'.full = true ∧
        ∀ w g, ws[k]? = some (w, g) → r'.val = w ∧ r'.tag = g) ∧
      (∀ n, n < o.dst.n ∨ o.dst.n + max o.dst.cnt ws.length ≤ n → th'.v[n]? = th.v[n]?) ∧
      th'.tacq = match o.acq with
        | some (_ + 1) => max th.tacq s.time
        | _ => th.tacq)) ∧
  (∀ o ws pv, Leaves .loadWriteback
    (fun s => s.loadIs o ∧ o.refill = none ∧ o.st = .bound ws pv ∧ o.dropped = true)
    (fun s s' => s' = State.releaseSlot { s with loads := s.loads.filter fun x => x.id != o.id } o.dst.team o.dst.warp)) ∧
  (∀ (s : State) (t : Team) (w : Nat), s.team? t.id = some t → w < t.slots.length →
    ((t.warp w).live = [] → s.writebackOut t.id w = false → ∃ t', (s.releaseSlot t.id w).team? t.id = some t' ∧
      t'.slots[w]? = some 64 ∧ (∀ k, k ≠ w → t'.slots[k]? = t.slots[k]?) ∧ t'.live = t.live ∧ t'.scratch = t.scratch) ∧
    ((t.warp w).live ≠ [] ∨ s.writebackOut t.id w = true → s.releaseSlot t.id w = s)) ∧
  ∀ o ws e, Leaves .refillLand
    (fun s => s.loadIs o ∧ o.refill = some e ∧ o.st = .bound ws none ∧ (∀ w ∈ ws, w.2 ≠ .poison) ∧
      (s.thread o.dst.team o.dst.warp o.dst.lane).exited = false)
    fun s s' => s'.mem = s.mem ∧ (∀ x, x ∈ s'.loads ↔ x ∈ s.loads ∧ x.id ≠ o.id) ∧
      (s'.thread o.dst.team o.dst.warp o.dst.lane).held =
        (s.thread o.dst.team o.dst.warp o.dst.lane).held.map fun h =>
          if h.e = e then { h with ready := true, val := leNat (ofWords (ws.map (·.1))) } else h

/-- A load in flight that waits for the miss `m` of a core. -/
def Miss.awaited (m : Miss) (s : State) (cl co : Nat) (o : LoadOp) : Prop :=
  o ∈ s.loads ∧ o.cl = cl ∧ o.co = co ∧ o.st = .missed ∧ sectorKey o.xl.key = m.key

/-- R201, R202, R272, R276, R277, R458: a fill of a line of this chip gives each load that waits for it, and that no earlier access
of its thread holds back, the bytes at the home seen through its core's path, or POISON when a granule it reads is in error there
and no store on the core's path replaces it. The miss ends once no load waits for it any more; that a load held back keeps the
entry is the model's choice (log 84). A line that may be cached enters the L1 with the time and the lease of the grant, which the
home's watermark covers. -/
def FillsAnswerTheLoads : Prop :=
  ∀ m : Miss, Leaves .fillReturn
    (fun s => s.target.cl < s.clusters.length ∧ s.target.co < s.here.cores.length ∧
      s.thisCore.misses.find? (fun x => x.key == s.target.addr) = some m ∧ m.home = .own)
    fun s s' =>
      let cl := s.target.cl
      let co := s.target.co
      let line := s.readPath cl co { home := .own, pa := m.key } 64
      let ways (k : Core) : List Nat :=
        ((k.l1.filter fun y => y.key ≠ m.key ∧ setOf y.key = setOf m.key).map fun y => y.key / 128).eraseDups
      s'.mem = s.mem ∧
      ((∀ o, ¬ m.awaited s' cl co o) → (s'.core cl co).misses = s.thisCore.misses.erase m) ∧
      ((∃ o, m.awaited s' cl co o) → (s'.core cl co).misses = s.thisCore.misses) ∧
      (∀ o, m.awaited s cl co o → s.mayBind o = true →
        o.bind ((line.drop (o.xl.key - m.key)).take o.bytes)
          ([m.key, m.key + 32].any fun g =>
            s.badGranules.contains g && !s.covered cl co g && overlap g 32 o.xl.key o.bytes) ∈ s'.loads) ∧
      (m.cls ≠ 2 → (ways s.thisCore).length < 16 → ∃ y ∈ (s'.core cl co).l1, y.key = m.key ∧ y.data = line ∧ y.grant = s.time ∧
        (m.ldk = false → y.expiry = some (s.time + leaseNs m.lclass) ∧ s.time + leaseNs m.lclass ≤ s'.watermark m.key))

/-- R211, R217 to R219, R459: a store whose turn has come is translated and goes on its way; one that meets a protection
outcome leaves a record in the store-fault queue, in its thread's issue order; one whose page is absent, or that follows a held
store of its thread to the page, is held, without an error, in the fault table or, when that is full, beside it. -/
def StoresAreTranslated : Prop :=
  let turn (s : State) (o : StoreOp) : Prop := s.storeIs o ∧ o.st = .issued ∧ s.storeTurn o = true
  let due (s : State) (o : StoreOp) : Prop := turn s o ∧ s.heldUnit o = none
  let outcome (s : State) (o : StoreOp) : State × Trans :=
    s.translate o.cl o.co o.ctx (((s.team? o.team).map (·.priv)).getD false) .write o.va
  let prot (s : State) (o : StoreOp) : Prop :=
    (outcome s o).2 = .prot ∨ ∃ x, (outcome s o).2 = .ok x ∧ x.imm = true ∧ x.doorbell = false
  let held (s s' : State) (o : StoreOp) (b n : Nat) : Prop :=
    s'.mem = s.mem ∧ s'.store? o.id = some { o with st := .held, wasHeld := true } ∧
      ∃ e ∈ s'.faults, e.ctx = o.ctx ∧ e.base = b ∧ e.size = n ∧ .store o.id ∈ e.waiters
  (∀ o x, Leaves .storeTranslated (fun s => due s o ∧ (outcome s o).2 = .ok x ∧ (x.imm = false ∨ x.doorbell = true))
    (fun s s' => s'.mem = s.mem ∧ s'.store? o.id = some { o with xl := x, st := .translated } ∧
      ∀ y ∈ s.stores, y.id ≠ o.id → y ∈ s'.stores)) ∧
  (∀ o t, Leaves .storeTranslated
    (fun s => due s o ∧ prot s o ∧ s.earlierStore o = false ∧ s.team? o.team = some t ∧ t.sfq.length < 16)
    (fun s s' => s'.mem = s.mem ∧ s'.store? o.id = none ∧ ∃ t', s'.team? o.team = some t' ∧ t'.sfq = t.sfq ++ [o.record] ∧
      t'.warps = t.warps)) ∧
  (∀ o, Leaves .storeTranslated (fun s => due s o ∧ prot s o ∧ s.earlierStore o = true)
    (fun s s' => s'.mem = s.mem ∧ s'.store? o.id = some { o with st := .blocked } ∧ s'.teams = s.teams)) ∧
  (∀ o b n w, Leaves .storeTranslated (fun s => due s o ∧ (outcome s o).2 = .absent b n w ∧ s.faultFull = false)
    (fun s s' => held s s' o b n)) ∧
  (∀ o b n w, Leaves .storeTranslated (fun s => turn s o ∧ s.heldUnit o = some (b, n, some w) ∧ s.faultFull = false)
    (fun s s' => held s s' o b n)) ∧
  (∀ o b n w, Leaves .storeTranslated
    (fun s => due s o ∧ (outcome s o).2 = .absent b n w ∧ s.faultFull = true ∧ s.faultOf o.ctx b n = none)
    (fun s s' => s'.mem = s.mem ∧ s'.store? o.id = some { o with st := .held, wasHeld := true } ∧
      (.store o.id, o.ctx, o.va) ∈ s'.unlisted)) ∧
  ∀ o, Happens .storeTranslated (fun s => s.storeIs o ∧ o.st = .issued ∧ s.storeTurn o = false) id

/-- The store `o` may be performed: it has been translated and nothing that must come before it is open (R234, R276). -/
def StoreOp.ready (o : StoreOp) (s : State) : Prop :=
  s.storeIs o ∧ o.st = .translated ∧ s.homeTurn o = true ∧ s.loadsBefore o = false ∧ s.MemOk

/-- The state that a write of a launch then changes, once the snapshot that is due has been taken (`SnapshotsTakeThePage`). -/
def State.base (s : State) (o : StoreOp) : State := s.beforeWrite o.launch o.va

/-- The page of an address lies in the launch's write set. -/
def Launch.inWset (l : Launch) (va : Nat) : Prop := ∃ r ∈ l.wset, r.1 ≤ bits va 16 41 ∧ bits va 16 41 < r.1 + r.2

/-- Each 4 KiB part of `parts` has been copied to its place in `pool`, where the two do not meet, and every byte outside those
places is as before. -/
def Copied (s s' : State) (pool parts : List (Nat × Nat)) : Prop :=
  (∀ a, (∀ p ∈ parts, ∀ q ∈ pool, q.1 = p.1 → a < q.2 ∨ q.2 + 4096 ≤ a) →
    Memory.read s'.mem a = Memory.read s.mem a) ∧
  ((pool.map (·.1)).Nodup → (pool.Pairwise fun a b => a.2 + 4096 ≤ b.2 ∨ b.2 + 4096 ≤ a.2) →
    (∀ p ∈ parts, ∀ q ∈ pool, p.2 + 4096 ≤ q.2 ∨ q.2 + 4096 ≤ p.2) →
    ∀ p ∈ parts, ∀ q ∈ pool, q.1 = p.1 → ∀ i < 4096, Memory.read s'.mem (q.2 + i) = Memory.read s.mem (p.2 + i))

/-- R30, R51 (log 43 for the order of the pool's pages and an absent one, DESIGN CHOICE): the first write of a launch to a page of its write set copies the page into the first free page of the launch's
pool, and a part that was absent then before it is first written: nothing else of memory changes, and no team, load, store, queue
or other launch. With no free page, and outside the write set, the launch is no longer replayable, and nothing else changes. -/
def SnapshotsTakeThePage : Prop :=
  ∀ (s : State) (id va : Nat) (l : Launch), s.launch? id = some l → s.MemOk →
    let page := bits va 16 41
    let s' := s.beforeWrite id va
    let parts := s.parts (s.context l.ctx).root (pageVA page)
    let stays (upd : Launch → Launch) : Prop := s'.launches = (s.updLaunch id upd).launches ∧ s'.teams = s.teams ∧
      s'.loads = s.loads ∧ s'.stores = s.stores ∧ s'.queues = s.queues ∧ s'.commands = s.commands ∧
      s'.clusters = s.clusters
    (l.inWset va → l.snaps.find? (·.page == page) = none → ∀ slot pool, s.poolPage l = some (slot, pool) →
      Copied s s' pool parts ∧ stays fun l => { l with
        snaps := l.snaps ++ [{ page := page, slot := slot, pool := pool, parts := parts }], poolTaken := l.poolTaken + 1 }) ∧
    (l.inWset va → ∀ n, l.snaps.find? (·.page == page) = some n → (n.parts.any (·.1 == bits va 12 4)) = false →
      Copied s s' n.pool (parts.filter (·.1 == bits va 12 4)) ∧ stays fun l => { l with
        snaps := l.snaps.map fun x =>
          if x.page == page then { x with parts := x.parts ++ parts.filter (·.1 == bits va 12 4) } else x }) ∧
    (l.inWset va → ∀ n, l.snaps.find? (·.page == page) = some n → (n.parts.any (·.1 == bits va 12 4)) = true → s' = s) ∧
    (l.inWset va → l.snaps.find? (·.page == page) = none → s.poolPage l = none →
      s' = s.updLaunch id fun l => { l with replayable := false }) ∧
    (¬ l.inWset va → s' = s.updLaunch id fun l => { l with replayable := false })

/-- R34, R51, R242 to R244, R273, R274: a store puts its bytes in memory at its home and changes no other byte, but in the
snapshot that is taken before; a store to a doorbell page sets QPROD, with R35's checks, when it has 32 or 64 bits at offset 0,
and else changes nothing; an atomic stores the new value of its sub-operation and gives the load the old one; CAS stores when the
old value equals the one compared; the write's completion time enters the thread's horizon. That a store wider than 64 bits to a
doorbell changes nothing is log 62 (DESIGN CHOICE), and that a CAS that fails makes the snapshot too is log 42. -/
def StoresArePerformed : Prop :=
  let gone (s s' : State) (o : StoreOp) : Prop := ∀ x, x ∈ s'.stores ↔ x ∈ s.stores ∧ x.id ≠ o.id
  let old (s : State) (o : StoreOp) : Nat := leNat (Memory.readBytes s.mem o.xl.key o.bytes)
  let alone (s : State) (o : StoreOp) : Prop := s.atomGroup o = [o] ∧ s.xlatBad o.xl o.bytes = false
  let late (s s' : State) (o : StoreOp) : Prop := o.lane < 32 →
    (s.thread o.team o.warp o.lane).exited = false →
    (s'.thread o.team o.warp o.lane).horizon = max (s.thread o.team o.warp o.lane).horizon (s.gwct o.xl)
  let answered (s s' : State) (o : StoreOp) (tag : Tag) : Prop := ∀ l ∈ s.loads, l.twin = some o.id →
    { l with st := .bound (oldWords o.bytes (old s o) tag) none } ∈ s'.loads
  let home (s : State) (o : StoreOp) : Prop := o.ready s ∧ o.xl.doorbell = false
  (∀ o data, Leaves .storePerformedAtHome (fun s => home s o ∧ o.op = .store data)
    (fun s s' => StoredBytes (s.base o) s' o.xl.key data ∧ gone s s' o ∧ late s s' o)) ∧
  (∀ o data, Leaves .storePerformedAtHome
    (fun s => o.ready s ∧ o.xl.doorbell = true ∧ o.op = .store data ∧ o.xl.pa % 4096 = 0 ∧ (o.bytes = 4 ∨ o.bytes = 8))
    (fun s s' => s'.mem = (s.base o).mem ∧ gone s s' o ∧
      s'.queues = updAt s.queues (doorbellQueue o.xl.pa) (·.doorbell (BitVec.ofNat 32 (leNat (data.take 4)))))) ∧
  (∀ o data, Leaves .storePerformedAtHome
    (fun s => o.ready s ∧ o.xl.doorbell = true ∧ o.op = .store data ∧ ¬ (o.xl.pa % 4096 = 0 ∧ (o.bytes = 4 ∨ o.bytes = 8)))
    (fun s s' => s'.mem = (s.base o).mem ∧ gone s s' o ∧ s'.queues = s.queues)) ∧
  (∀ o sub x ld, Leaves .storePerformedAtHome (fun s => home s o ∧ alone s o ∧ o.op = .atom sub x ld)
    (fun s s' => StoredBytes (s.base o) s' o.xl.key (leBytes (atomNew sub (old s o) x) o.bytes) ∧ gone s s' o ∧ late s s' o ∧
      answered s s' o (atomTags sub).2)) ∧
  (∀ o cmp v ld, Leaves .storePerformedAtHome (fun s => home s o ∧ alone s o ∧ o.op = .cas cmp v ld ∧ old s o = cmp)
    (fun s s' => StoredBytes (s.base o) s' o.xl.key (leBytes v o.bytes) ∧ gone s s' o ∧ late s s' o ∧ answered s s' o .raw)) ∧
  (∀ o cmp v ld, Leaves .storePerformedAtHome (fun s => home s o ∧ alone s o ∧ o.op = .cas cmp v ld ∧ old s o ≠ cmp)
    (fun s s' => s'.mem = (s.base o).mem ∧ gone s s' o ∧ answered s s' o .raw)) ∧
  SnapshotsTakeThePage ∧
  (∀ (s : State) (launch va : Nat), (∀ l, s.launch? launch = some l →
      (∀ r ∈ l.wset, ¬ (r.1 ≤ bits va 16 41 ∧ bits va 16 41 < r.1 + r.2)) ∨
        ∃ n ∈ l.snaps, n.page = bits va 16 41 ∧ ∀ k ∈ l.snaps, k.page = n.page → k = n ∧ (n.parts.any (·.1 == bits va 12 4)) = true) →
    (s.beforeWrite launch va).mem = s.mem) ∧
  ∀ o, Happens .storePerformedAtHome (fun s => s.storeIs o ∧ o.st ≠ .translated) id

/-- The walk of an entry's unit meets the same absent table entry. -/
def FaultEntry.stillAbsent (e : FaultEntry) (s : State) : Prop :=
  ∃ b n ls, walk s (s.context e.ctx).root e.va = (.absent b n e.watch, ls)

/-- R211, R459: an entry of the fault table whose watched line was stored to, or whose 50 us are up, is walked again: while
its page is absent it waits on, else it leaves the table and its waiters go on; an access without an entry looks again, and joins
or takes one when there is room (the model's choice, log 58). -/
def FaultsAreWalkedAgain : Prop :=
  let is (s : State) (e : FaultEntry) : Prop := s.faults.find? (fun e => e.id == s.target.id) = some e
  let due (s : State) (e : FaultEntry) : Prop := is s e ∧ (e.due = true ∨ e.lastWalk + 50000 ≤ s.time)
  (∀ e, Happens .faultRewalk (fun s => due s e ∧ e.stillAbsent s) fun s => { s with
    faults := s.faults.map fun f => if f.id = e.id then { f with lastWalk := s.time, due := false } else f }) ∧
  (∀ e, Happens .faultRewalk (fun s => due s e ∧ ¬ e.stillAbsent s) fun s =>
    (e.waiters.foldl State.releaseWaiter { s with faults := s.faults.filter fun f => f.id != e.id }).settleWatch) ∧
  (∀ e, Happens .faultRewalk (fun s => is s e ∧ e.due = false ∧ s.time < e.lastWalk + 50000) id) ∧
  (∀ w ctx va, Happens .waiterRetranslate
    (fun s => s.unlisted[s.target.id]? = some (w, ctx, va) ∧ ∀ b n x ls, walk s (s.context ctx).root va ≠ (.absent b n x, ls))
    fun s => (State.releaseWaiter { s with unlisted := s.unlisted.filter fun x => x.1 != w } w).settleWatch) ∧
  (∀ w ctx va b n x ls, Happens .waiterRetranslate
    (fun s => s.unlisted[s.target.id]? = some (w, ctx, va) ∧ walk s (s.context ctx).root va = (.absent b n x, ls) ∧
      (s.faultFull = false ∨ s.faultOf ctx b n ≠ none) ∧ s.waiterAcc w = none)
    fun s => State.releaseWaiter { s with unlisted := s.unlisted.filter fun x => x.1 != w } w) ∧
  (∀ w ctx va b n x ls acc, Happens .waiterRetranslate
    (fun s => s.unlisted[s.target.id]? = some (w, ctx, va) ∧ walk s (s.context ctx).root va = (.absent b n x, ls) ∧
      (s.faultFull = false ∨ s.faultOf ctx b n ≠ none) ∧ s.waiterAcc w = some acc)
    fun s => s.joinOrWait ctx va b n x acc w) ∧
  ∀ w ctx va b n x ls, Happens .waiterRetranslate
    (fun s => s.unlisted[s.target.id]? = some (w, ctx, va) ∧ walk s (s.context ctx).root va = (.absent b n x, ls) ∧
      s.faultFull = true ∧ s.faultOf ctx b n = none) id

/-- R258, R261 to R264, R268, R284, R285: the oldest copy of a channel lands its next granule once every warp has handed its
slice over; a per-thread copy lands its bytes in the scratchpad and nowhere else; a row arrives at its queue, or at the load of the
thread that has taken it; a barrier whose release is done changes phase and reloads its count, and then the updates that it held
take effect in their order. -/
def EnginesLandTheirData : Prop :=
  let team (s : State) (t : Team) (cl co : Nat) : Prop := s.team? t.id = some t ∧ t.place = .resident cl co
  (∀ t k rest cl co, Happens .granuleLand
    (fun s => team s t cl co ∧ s.target.team = t.id ∧ t.chans.getD s.target.id [] = k :: rest ∧ k.blocked = none ∧
      k.parked = false ∧ t.copyStarted k = true ∧ t.saving = none)
    fun s => s.landGranule t s.target.id k) ∧
  (∀ t k rest, Happens .granuleLand
    (fun s => s.team? t.id = some t ∧ s.target.team = t.id ∧ t.chans.getD s.target.id [] = k :: rest ∧ k.blocked = none ∧
      (k.parked = true ∨ t.copyStarted k = false ∨ t.engines = false)) id) ∧
  (∀ t k rest cl co x n s1 (xs : List Xlat),
    let h := Shape.ofWords x.shape
    let place (i : Nat × Nat × Nat) : Nat := h.addr i.1 i.2.1 i.2.2
    Leaves .granuleLand
    (fun s => team s t cl co ∧ s.target.team = t.id ∧ s.target.id < t.chans.length ∧ s.target.id < t.landed.length ∧
      t.chans.getD s.target.id [] = k :: rest ∧ k.blocked = none ∧ k.parked = false ∧ t.copyStarted k = true ∧ t.saving = none ∧
      k.kind = .cpt ∧ sliceOf k.slices k.next = some (x, n) ∧ x.barr = none ∧ s.MemOk ∧
      s.xlateAll cl co t.ctx t.priv .read ((h.granuleWords n).map x.va) = (s1, .ok xs) ∧
      ∀ y ∈ xs, s.pathBad cl co y 4 = false)
    fun s s' => s'.mem = s.mem ∧ ∃ t', s'.team? t.id = some t' ∧ t'.warps = t.warps ∧
      t'.landed = updAt t.landed s.target.id (· + 1) ∧
      (∀ a, (∀ i ∈ h.granuleWords n, a < place i ∨ place i + 4 ≤ a) → t'.readScratch a 1 = t.readScratch a 1) ∧
      (((h.granuleWords n).Pairwise fun i j => place i + 4 ≤ place j ∨ place j + 4 ≤ place i) →
        ∀ (j : Nat) (i : Nat × Nat × Nat) (y : Xlat), (h.granuleWords n)[j]? = some i → xs[j]? = some y →
          t'.readScratch (place i) 4 = s.readPath cl co y 4)) ∧
  (∀ o t cl co s1 x, Leaves .cpaEntryLand
    (fun s => s.cpas.find? (fun o => o.id == s.target.id) = some o ∧ o.parked = false ∧ o.team = t.id ∧ team s t cl co ∧ t.saving = none ∧
      s.xlateAll cl co t.ctx t.priv .read [o.va] = (s1, .ok [x]) ∧ s.pathBad cl co x o.bytes = false ∧ s.MemOk)
    (fun s s' => s'.mem = s.mem ∧ (∀ y, y ∈ s'.cpas ↔ y ∈ s.cpas ∧ y.id ≠ o.id) ∧ ∃ t', s'.team? t.id = some t' ∧
      t'.warps = t.warps ∧ t'.readScratch o.dst o.bytes = s.readPath cl co x o.bytes ∧
      ∀ a, a < o.dst ∨ o.dst + o.bytes ≤ a → t'.readScratch a 1 = t.readScratch a 1)) ∧
  (∀ t cl co s1 xs, Leaves .streamRowArrive
    (fun s =>
      let q := t.queues.getD s.target.id {}
      team s t cl co ∧ s.target.team = t.id ∧ s.target.id < t.queues.length ∧ q.isOpen = true ∧ q.parked = false ∧
      t.saving = none ∧ q.blocked = none ∧ q.queue.length < 16 ∧ q.fetched < q.total ∧ (∀ k ∈ t.taken, k.q ≠ s.target.id) ∧
      s.xlateAll cl co t.ctx t.priv .read
        ((List.range (q.roww + 1)).map fun k => (q.va q.fetched + 4 * k) % 2 ^ 64) = (s1, .ok xs))
    (fun s s' => s'.mem = s.mem ∧ ∃ t', s'.team? t.id = some t' ∧ t'.warps = t.warps ∧
      let q := t.queues.getD s.target.id {}
      t'.queues.getD s.target.id {} = { q with
        fetched := q.fetched + 1
        queue := q.queue ++ [{ idx := q.fetched, bad := xs.any fun x => s.pathBad cl co x 4
                               words := xs.map fun x => BitVec.ofNat 32 (leNat (s.readPath cl co x 4)) }] })) ∧
  (∀ t k cl co s1 xs, Leaves .streamRowArrive
    (fun s => team s t cl co ∧ s.target.team = t.id ∧ t.saving = none ∧ t.nextTaken s.target.id = some k ∧
      (∀ x ∈ t.taken, x.q = s.target.id → x.blocked = none) ∧ (t.queues.getD s.target.id {}).blocked = none ∧
      s.xlateAll cl co t.ctx t.priv .read ((List.range k.words).map fun i => (k.va + 4 * i) % 2 ^ 64) = (s1, .ok xs))
    (fun s s' => s'.mem = s.mem ∧
      (∀ o ∈ s.loads, o.id = k.load → { o with st := .bound (xs.map fun x => (BitVec.ofNat 32 (leNat (s.readPath cl co x 4)),
        if (xs.any fun x => s.pathBad cl co x 4) then .poison else .raw)) (some true) } ∈ s'.loads) ∧
      ∃ t', s'.team? t.id = some t' ∧ t'.taken = t.taken.filter (fun x => x.load != k.load) ∧ t'.warps = t.warps)) ∧
  (∀ t h, Leaves .tbPhaseChange
    (fun s => s.team? s.target.team = some t ∧ t.tbHolds.find? (fun h => h.addr == s.target.addr) = some h ∧
      h.until_ ≤ s.time ∧ s.MemOk)
    fun s s' =>
      let b := s.tbar s.target.team s.target.addr
      ∃ s1 : State, s1.tbar s.target.team s.target.addr =
          { b with phase := (b.phase + 1) % 16, parr := b.reload, ptime := s.time % 2 ^ 32 } ∧
        s1.tbHeld s.target.team s.target.addr = false ∧ s1.mem = s.mem ∧ s1.tbUntil s.target.team s.target.addr = s.time ∧
        s' = h.held.foldl (fun s u => s.tbApply s.target.team s.target.addr u) s1) ∧
  ∀ h, Happens .tbPhaseChange
    (fun s => ((s.team? s.target.team).bind fun t => t.tbHolds.find? fun x => x.addr == s.target.addr) = some h ∧
      s.time < h.until_) id

end Sys2Proof.Machine

namespace Sys2Proof.Machine

/-! ### Ends, gatherers and the steps of a tile -/

/-- R9, R46, R49, R390, R391, R395: an open batch fires when its time is up; a team whose drain is done completes and gives
back what it held; a machine check kills every team of its launch; a killed team's threads have exited, and its stores that were
not translated are gone, those that no page held among them (the model's choice, log 20). -/
def TeamsAndLaunchesEnd : Prop :=
  (∀ g d, Happens .gatherTimeout
    (fun s => s.gathers.find? (fun g => g.id == s.target.id) = some g ∧ g.deadline = some d ∧ d ≤ s.time ∧ g.join = false)
    fun s => (s.fireBatch g).driveGraph g.cmd) ∧
  (∀ g d, Happens .gatherTimeout
    (fun s => s.gathers.find? (fun g => g.id == s.target.id) = some g ∧ g.deadline = some d ∧ s.time < d) id) ∧
  (∀ t, Happens .teamDrainDone
    (fun s => s.team? s.target.team = some t ∧ t.place ≠ .gone ∧ s.drained t = true) fun s => s.completeTeam t) ∧
  (∀ t, Happens .teamDrainDone (fun s => s.team? s.target.team = some t ∧ s.drained t = false) id) ∧
  (∀ l, Happens .launchAbort (fun s => s.launch? s.target.id = some l ∧ l.phase = .running) fun s =>
    let s1 := s.updLaunch l.id fun l => { l with phase := .aborting s.target.value, doneTeams := [] }
    (((s.teams.filter fun t => t.launch == l.id && t.place != .gone).foldl (fun s t => s.killTeam t.id) s1).driveGraph l.cmd)) ∧
  (∀ l, Happens .launchAbort (fun s => s.launch? s.target.id = some l ∧ l.phase ≠ .running) id) ∧
  (∀ (s : State) (t : Team), s.team? t.id = some t →
    ∃ t', (s.freeTeam t).team? t.id = some t' ∧ t'.place = .gone ∧ t'.slots = [] ∧ t'.warps = [] ∧ t'.scratch = [] ∧
      t'.tiles = [] ∧ t'.planes = [] ∧ (∀ o ∈ (s.freeTeam t).cpas, o.team ≠ t.id) ∧
      (∀ o ∈ (s.freeTeam t).loads, o.dst.team ≠ t.id) ∧ (s.freeTeam t).mem = s.mem) ∧
  ∀ (s : State) (t : Team), s.team? t.id = some t →
    ∃ t', (s.killTeam t.id).team? t.id = some t' ∧ t'.killed = true ∧ t'.failed = true ∧ t'.draining = true ∧ t'.live = [] ∧
      t'.sfq = [] ∧ (∀ o, o ∈ (s.killTeam t.id).stores ↔ o ∈ s.stores ∧ (o.team = t.id → o.st = .translated)) ∧
      (s.killTeam t.id).mem = s.mem

/-- Tile `k` of the pass `p`, the target's, in a state whose passes have been brought up to date. -/
def State.tileIs (s : State) (p : Pass) (t : RTile) : Prop :=
  s.pass? s.target.id = some p ∧ p.tile s.target.value = t

/-- R331, R332, R335, R337 to R340, R352 (R328 for what an absent page of the work region holds up), R341, R342, R375: a tile
starts in its cluster in ascending order and is skipped when its signature matches, else it takes a free slot, cleared; it is diced
once; its grids are sampled in order; it completes after its last sample write; it is resolved once its program allows, or is
abandoned for an error in its slot (how it completes and resolves then is log 51); a query runs on and carries its commands out. -/
def TilesRunTheirSteps : Prop :=
  (∀ p s1, Happens .tileStart
    (fun s => s.pumpPass s.target.id = s1 ∧ s1.pass? s.target.id = some p ∧ p.parked = false ∧ p.ready = true ∧
      p.finished = false ∧ p.err = 0 ∧ p.binned = true ∧ s.target.value < p.tiles.length)
    fun s => (s1.startTile p s.target.value).endPass s.target.id) ∧
  (∀ p, Happens .tileStart (fun s => s.pumpPass s.target.id = s ∧ s.pass? s.target.id = some p ∧
      (p.parked = true ∨ p.ready = false ∨ p.finished = true ∨ p.err ≠ 0)) id) ∧
  (∀ (s s1 : State) (p : Pass) (k cl cost : Nat), s.tileOwner p k = some cl → (p.tile k).phase = .idle →
    s.serving cl = some p.id → (∀ u ∈ p.tiles, u.k < k → u.phase = .idle → s.tileOwner p u.k ≠ some cl) →
    (s.skipCost p (p.tile k) = (s1, some (some cost)) → s.startTile p k = s1.skipTile p (p.tile k) cl cost) ∧
    (s.skipCost p (p.tile k) = (s1, some none) → s.startTile p k = s1.openTile p k cl)) ∧
  (∀ (s : State) (p : Pass) (cl n : Nat), s.freeTileSlot p cl = some n → n < 16 ∧ n ∉ s.slotsHeld cl ∧
    (n + 1) * p.slotBytes ≤ 2 ^ 21) ∧
  (∀ p t s1 gs, Happens .diceTile
    (fun s => s.tileIs p t ∧ p.parked = false ∧ t.cl ∉ p.parkedCl ∧ t.bad = [] ∧ t.phase = .started ∧
      s.diceList p s.target.value t.patches = (s1, some gs))
    fun s => (s1.updTile s.target.id s.target.value fun t => { t with phase := .diced, grids := gs }).sendGrids
      s.target.id s.target.value gs) ∧
  (∀ p t s1, Happens .diceTile
    (fun s => s.tileIs p t ∧ p.parked = false ∧ t.cl ∉ p.parkedCl ∧ t.bad = [] ∧ t.phase = .started ∧
      s.diceList p s.target.value t.patches = (s1, none))
    fun s => s1.parkDicing s.target.id t.cl) ∧
  (∀ p t, Happens .diceTile (fun s => s.tileIs p t ∧ p.parked = false ∧ t.cl ∉ p.parkedCl ∧ t.bad = [] ∧ t.phase = .diced)
    fun s => s.sendGrids s.target.id s.target.value (t.grids.filter (!·.fired))) ∧
  (∀ p t, Happens .diceTile (fun s => s.tileIs p t ∧ (p.parked = true ∨ t.cl ∈ p.parkedCl ∨ t.bad ≠ [])) id) ∧
  (∀ p t, Happens .diceTile (fun s => s.tileIs p t ∧ (t.phase = .complete ∨ t.phase = .done ∨ t.phase = .skipped)) id) ∧
  (∀ p t, Happens .gridSample (fun s => s.tileIs p t ∧ t.phase = .diced ∧ t.bad = [])
    fun s => s.sampleNext s.target.id s.target.value) ∧
  (∀ p t, Happens .gridSample (fun s => s.tileIs p t ∧ (t.phase ≠ .diced ∨ t.bad ≠ [])) id) ∧
  (∀ p t, Happens .tileComplete (fun s => s.tileIs p t ∧ t.samplesDone = true ∧ s.tileProgDone t = true)
    fun s => s.updTile s.target.id s.target.value fun t => { t with phase := .complete }) ∧
  (∀ p t u, Happens .tileComplete
    (fun s => s.tileIs p t ∧ t.samplesDone = true ∧ s.tileProgDone t = false ∧ s.tileTeam t = some u ∧ u.at?.isSome ∧
      u.killed = false ∧ u.draining = false)
    fun s => (s.tbUpdate u.id 0x20 (-1) 0).updTile s.target.id s.target.value fun t => { t with phase := .complete }) ∧
  (∀ p t u, Happens .tileComplete
    (fun s => s.tileIs p t ∧ t.samplesDone = true ∧ s.tileProgDone t = false ∧ s.tileTeam t = some u ∧ u.at?.isSome ∧
      (u.killed = true ∨ u.draining = true))
    fun s => s.updTile s.target.id s.target.value fun t => { t with phase := .complete }) ∧
  (∀ p t u, Happens .tileComplete
    (fun s => s.tileIs p t ∧ t.samplesDone = true ∧ s.tileProgDone t = false ∧ s.tileTeam t = some u ∧ u.at? = none) id) ∧
  (∀ p t, Happens .tileComplete (fun s => s.tileIs p t ∧ t.samplesDone = false) id) ∧
  (∀ p t, Happens .tileResolve (fun s => s.tileIs p t ∧ t.phase = .complete ∧ (t.bad ≠ [] ∨ s.mayResolve t = true))
    fun s => s.resolveTile s.target.id s.target.value !t.bad.isEmpty) ∧
  (∀ p t, Happens .tileResolve (fun s => s.tileIs p t ∧ (t.phase ≠ .complete ∨ (t.bad = [] ∧ s.mayResolve t = false)))
    fun s => (s.freeTile s.target.id s.target.value).endPass s.target.id) ∧
  let stopped (s : State) : Bool := (s.query? s.target.cl s.target.id).any fun q => (s.team? q.team).any (·.saving.isSome)
  (Happens .rayTraverseEvent (fun s => stopped s = true)
    fun s => s.performCmds s.target.cl s.target.id (s.cmdsOf s.target.cl s.target.id)) ∧
  ∀ s1, Happens .rayTraverseEvent (fun s => stopped s = false ∧ s.raySteps s.target.cl s.target.id rayChunk = s1)
    fun s => s1.performCmds s.target.cl s.target.id (s1.cmdsOf s.target.cl s.target.id)

end Sys2Proof.Machine

namespace Sys2Proof.Machine

/-! ### A step, its word and its checks -/

/-- The state in which a bundle has its turn: threads that look again at what no event ends go on. -/
def State.slotTurn (s : State) (b : Bundle) (t : Team) : State := s.again t.id b.members

/-- The word of `iss` has been taken up by a bundle of the team `t` in a slot, and is about to run: the vector pipe of the slot's
quadrant has issued (R412). -/
def State.taken (s : State) (iss : Issue) (cl co slot : Nat) (t : Team) : State :=
  ({ s with issue := some iss } : State).notePipe cl co (slot / 2) t.priv

/-- The clause has not begun at the position. -/
def Pos.first (p : Pos) : Bool := p.word == 1 && p.rep.isNone

/-- The threads that issue the word at a position, and the state: in class 0 and at a collective header every live thread of the
warp, once all stand there; inside a collective clause all that are in it; else the bundle. -/
def State.issuers (s : State) (cl co slot : Nat) (b : Bundle) (t : Team) (pos : Pos) (h : Word) : State × List (Nat × Nat) :=
  let s := s.setBundle cl co slot (some b)
  if hdrClass h = 0 ∨ (hdrCl h = true ∧ pos.first = true) then s.gather cl co slot t pos b b.members
  else if hdrCl h = true then s.regather cl co slot t pos b b.members
  else (s, b.members)

/-- A bundle slot whose threads, of the team `t0`, stand at one word of a clause whose header is `h`, and go on with it: `t` is
the team in its turn, and `s1` is the state in which the word is fetched for the threads `ms`. -/
structure AtWord (s : State) (cl co slot : Nat) (b : Bundle) (t0 t : Team) (pos : Pos) (h : Word) (ms : List (Nat × Nat))
    (s1 : State) : Prop where
  holds : (s.core cl co).bundles.getD slot none = some b
  header : b.header = some h
  team : s.team? b.team = some t0
  some : b.members ≠ []
  ready : ∀ m ∈ b.members, (t0.thread m.1 m.2).exited = false ∧ (t0.thread m.1 m.2).pos = pos ∧
    ((t0.thread m.1 m.2).wait = .none ∨ (t0.thread m.1 m.2).wait = .stream ∨
      (b.together = true ∧ (t0.thread m.1 m.2).wait.polled = true))
  now : ((s.slotTurn b t0).team? t0.id).getD t0 = t
  sound : hdrCause h = none
  threads : ((s.slotTurn b t0).issuers cl co slot b t pos h).2 = ms
  go : ms ≠ []
  begins : pos.first = true → (∀ m ∈ b.members, t.pendingRecord m = false) ∧ (hdrClass h ≠ 0 → t.openWarps ms = []) ∧
    ((s.slotTurn b t0).issuers cl co slot b t pos h).1.fetchClause cl co t pos.hdr 1 (hdrN h) = (s1, none) ∧
    ∀ m ∈ ms, s1.hdrWait t.id h m.1 m.2 = none
  goes : pos.first = false → ((s.slotTurn b t0).issuers cl co slot b t pos h).1 = s1

/-- The word's issue before its word is known. -/
def issueOf (cl co : Nat) (ms : List (Nat × Nat)) (t : Team) (pos : Pos) (h : Word) : Issue :=
  { team := t.id, members := ms, cl := cl, co := co, hdr := pos.hdr, header := h, word := pos.word, rep := pos.rep }

/-- The issue of a word that the REP word `r` before it repeats, at repetition `i` (R107). -/
def Issue.under (iss : Issue) (i : Nat) (r : Word) : Issue :=
  let m := bits r.toNat 15 3
  let st := bits r.toNat 13 2
  { iss with cnt := some (bits r.toNat 18 6), stepD := stepOf m st 2 i, stepA := stepOf m st 1 i, stepB := stepOf m st 0 i }

end Sys2Proof.Machine

/-- R98, R99, R103, R107, R114, R116, R119 (with log 2 for the agenda): a step at an event is exec of the event with its
target; a step at a bundle slot fetches the word at the position of its threads, little-endian through the core's path, with
the word after it where the instruction takes two and the REP word before it where one applies, decodes it and is exec of that
instruction in the state that holds the issue. At a header the whole clause can be fetched, and no wait holds. The issue of a word
of a class other than 0 wakes its quadrant's vector pipe, and a user's counts for the governor (R412, R416; the count is log 56).
That a fetch takes the version that the core's path now holds is the model's choice (log 71, DESIGN CHOICE). -/
def Obligations.StepRunsTheFetchedWord : Prop :=
  (∀ (s : State) (i : Instr) (tg : Target) (rest : List Turn), s.agenda = .event i tg :: rest →
    step s = exec i { s with agenda := rest, target := tg }) ∧
  (∀ (s : State) (n : Nat) (rest : List Turn), s.agenda = .tick n :: rest → step s = .next (State.tick n { s with agenda := rest })) ∧
  (∀ (s : State) (iss : Issue) (cl co slot : Nat) (t : Team),
    let s' := s.taken iss cl co slot t
    (iss.cls = 0 → s' = { s with issue := some iss }) ∧
    (iss.cls ≠ 0 → cl < s.clusters.length → co < (s.cluster cl).cores.length → slot / 2 < (s.core cl co).gated.length →
      slot / 2 < (s.core cl co).lastIssue.length → s'.issue = some iss ∧ (s'.core cl co).gated[slot / 2]? = some false ∧
      (s'.core cl co).lastIssue[slot / 2]? = some ((s.cluster cl).r.clk + 1) ∧
      (s'.cluster cl).issued = ((s.cluster cl).issued || !t.priv) ∧ s'.teams = s.teams ∧ s'.mem = s.mem)) ∧
  (∀ (s : State) (cl co : Nat) (t : Team) (va : Nat) (s1 : State) (x : Xlat), fetchable t.prog.hdr va = true →
    s.translate cl co t.ctx t.priv .exec va = (s1, .ok x) → s1.pathBad cl co x 4 = false →
    ∀ w : Word, s1.readPath cl co x 4 = wordBytes w → s.fetch cl co t va = (s1, .word w)) ∧
  ∀ (s : State) (cl co slot : Nat) (rest : List Turn) (b : Bundle) (t0 t : Team) (pos : Pos) (h : Word) (ms : List (Nat × Nat))
      (s1 s2 : State) (w : Word),
    s.agenda = .issue cl co slot :: rest → AtWord { s with agenda := rest } cl co slot b t0 t pos h ms s1 →
    let iss := issueOf cl co ms t pos h
    let at_ (k : Nat) : Nat := (pos.hdr + 4 * k) % 2 ^ 64
    (iss.noteClause t s1).fetch cl co t (at_ pos.word) = (s2, .word w) →
    (∀ i : Instr, wantsNext w = false → pos.rep = none → decodeWord w none = .ok i →
      step s = exec i (s2.taken { iss with raw := w } cl co slot t0)) ∧
    (∀ (i : Instr) (s3 : State) (w2 : Word), wantsNext w = true → pos.word < hdrN h → pos.rep = none →
      s2.fetch cl co t (at_ (pos.word + 1)) = (s3, .word w2) → decodeWord w (some w2) = .ok i →
      step s = exec i (s3.taken { iss with raw := w, raw2 := w2, has2 := true } cl co slot t0)) ∧
    (∀ (i : Instr) (n : Nat) (s3 : State) (r : Word), wantsNext w = false → pos.rep = some n →
      s2.fetch cl co t (at_ (pos.word - 1)) = (s3, .word r) → decodeWord w none = .ok i →
      step s = exec i (s3.taken (Issue.under { iss with raw := w } n r) cl co slot t0)) ∧
    ∀ (i : Instr) (n : Nat) (s3 s4 : State) (w2 r : Word), wantsNext w = true → pos.word < hdrN h → pos.rep = some n →
      s2.fetch cl co t (at_ (pos.word + 1)) = (s3, .word w2) → s3.fetch cl co t (at_ (pos.word - 1)) = (s4, .word r) →
      decodeWord w (some w2) = .ok i →
      step s = exec i (s4.taken (Issue.under { iss with raw := w, raw2 := w2, has2 := true } n r) cl co slot t0)

/-- No rule of the manual stops the chip (08_memory_paths, 14_interrupted: what goes wrong is a trap, a machine check or a
kill): whatever the state, a step answers a next state. -/
def Obligations.EveryStepAnswers : Prop := ∀ s : State, ∃ s', step s = .next s'

/-- R102, R377: a word whose checks give a cause in the thread where it acts traps there with that cause, at its place in the
clause; it writes no register or predicate, starts no access and stores nothing. R86: a word with an empty destination, or an
empty source that blocks, waits with nothing done. The causes come in the order 0x01, 0x16, 0x02, 0x03, 0x04. -/
def Obligations.WordsTrapOrWaitWhole : Prop :=
  (∀ (fm : Form) (value : Ctx → Option Nat) (act : State → Ctx → State × LaneRes) (s : State) (iss : Issue) (t : Team) (w l k : Nat),
    s.team? iss.team = some t → iss.actors t = [(w, l)] → iss.cls ≠ 0 → (t.thread w l).exited = false →
    (t.thread w l).handler = false → t.prog.handler ≠ 0 → s.isProtected t = false → iss.word < 16 → (∀ i, iss.rep = some i → i < 64) →
    (fm.precheck iss t = some k ∨
      fm.precheck iss t = none ∧ Ctx.checks ⟨t, w, l, iss⟩ fm.os (value ⟨t, w, l, iss⟩) fm.pure = some (.trap k)) →
    k ≠ 0x11 → k ≠ 0x18 → k < 256 →
    let s' := fm.perform iss value act s
    let th := t.thread w l
    let th' := s'.thread iss.team w l
    th'.handler = true ∧ th'.tinfo0.toNat % 256 = k ∧ th'.tinfo0.toNat / 256 % 16 = iss.word ∧ th'.tret = BitVec.ofNat 64 iss.hdr ∧
      th'.v = th.v ∧ th'.p = th.p ∧ th'.fpst = th.fpst ∧ th'.ist = th.ist ∧
      s'.mem = s.mem ∧ s'.loads = s.loads ∧ s'.stores = s.stores) ∧
  (∀ (fm : Form) (value : Ctx → Option Nat) (act : State → Ctx → State × LaneRes) (s : State) (iss : Issue) (t : Team) (w l : Nat),
    s.team? iss.team = some t → iss.actors t = [(w, l)] → (t.thread w l).exited = false → fm.precheck iss t = none →
    Ctx.checks ⟨t, w, l, iss⟩ fm.os (value ⟨t, w, l, iss⟩) fm.pure = some .hold →
    (fm.perform iss value act s).data = s.data ∧ ((fm.perform iss value act s).thread iss.team w l).pos = (t.thread w l).pos) ∧
  (∀ (c : Ctx) (os : List Opnd) (value : Option Nat) (pure : Bool) (o : Opnd), o ∈ os → (∀ p ∈ os, c.outOfRange p = false) →
    value ≠ some 0x03 → o.wr = true ∨ (o.rd = true ∧ o.pol = false) → c.anyEmpty o = true → c.checks os value pure = some .hold) ∧
  (∀ (c : Ctx) (os : List Opnd) (pure : Bool) (o : Opnd), o ∈ os → (∀ p ∈ os, c.outOfRange p = false) → c.blocked os = false →
    o.rd = true → o.pol = true → c.anyEmpty o = true → c.checks os none pure = some (.trap 0x06)) ∧
  ∀ (fm : Form) (iss : Issue) (t : Team),
    (fm.grp.needsMemo = true → t.prog.memo = false → fm.precheck iss t = some 0x01) ∧
    ((fm.grp.needsMemo = false ∨ t.prog.memo = true) → fm.priv = true → t.priv = false → fm.precheck iss t = some 0x16) ∧
    (fm.precheck iss t ≠ some 0x01 → fm.precheck iss t ≠ some 0x16 → fm.grp.accepts iss.cls = false →
      fm.precheck iss t = some 0x02) ∧
    (fm.precheck iss t = some 0x03 → fm.wf = false) ∧ (fm.precheck iss t = none → fm.wf = true ∧ fm.past = false)

namespace Sys2Proof

/-- The header fields of a command (R38). -/
def Instr.head? : Instr → Option CmdHead
  | .launchGraph h _ _ _ _ _ | .launchNode h _ _ _ _ | .signal h _ _ | .wait h _ _ | .timestamp h _ | .setDomain h _ _ _
  | .partition h _ _ _ _ _ _ _ => some h
  | _ => none

end Sys2Proof

/-! ### Encodings -/

/-- R38, R104, R106 and the encodings of the instructions: each word or pair of words that encodes an instruction is decoded
to it, and a word that is decoded is the encoding of what it is decoded to: no bit is dropped. A well-formed command is read
back from its eight words. -/
def Obligations.EncodingsRoundTrip : Prop :=
  (∀ (i : Instr) (w : Word), encode i = some [w] → ∀ w2?, decodeWord w w2? = .ok i) ∧
  (∀ (i : Instr) (w w2 : Word), encode i = some [w, w2] → decodeWord w (some w2) = .ok i) ∧
  (∀ (i : Instr) (ws : List Word), encode i = some ws → ws.length = 1 ∨ ws.length = 2) ∧
  (∀ (w w2 : Word) (i : Instr), decodeWord w (some w2) = .ok i → i ≠ .illegalOpcode →
    encode i = some [w] ∨ encode i = some [w, w2]) ∧
  ∀ (i : Instr) (h : CmdHead) (ws : List (BitVec 64)), i.head? = some h → encodeCommand i = some ws →
    commandErr true i = none → (h.after = true → ∃ va, i = .timestamp h va) → decodeCommand h.q true ws = .ok i

/-- R99, R104 to R107: the words of the worked clause of R107, of CVT in R181 and of SCAN in R191, and one word of a store,
decode to the instructions that they stand for. -/
def Obligations.DecodingReadsTheWorkedWords : Prop :=
  decodeWord 0x00080818 none = .ok (.iadd ⟨4, 2, 3, 0, 0, 0⟩) ∧
  decodeWord 0x000C101D none = .ok (.iadd ⟨6, 4, 3, 1, 0, 1⟩) ∧
  decodeWord 0xF90F0000 none = .ok (.rep 3 6 0) ∧
  decodeWord 0x40104140 none = .ok (.fadd ⟨8, 16, 40, 0, 0, 0⟩) ∧
  decodeWord 0x600A0850 none = .ok (.cvt ⟨5, 2, 1, 1, 0, 0⟩) ∧
  decodeWord 0x870C1000 none = .ok (.scan ⟨6, 4, 0⟩) ∧
  decodeWord 0xA1080500 (some 0x00001000) = .ok (.stg ⟨4, 1, 2, 0, 0, 0, 16, 0, 0, 0⟩) ∧
  decodeWord 0xA1080500 none = .error (.secondWordMissing 0xA1)

/-! ### Reset, memory and time -/

/-- R405, R417, R418, R419, R422: after a start that succeeds every cluster is on at ratio 4:1, step 0; nothing runs; the
timer has no source and no lock; the queues are not enabled. (That the chip has eight clusters of sixteen cores, a count of 0
and 256 GiB is the model's choice, log 4.) -/
def Obligations.ResetIsAnIdleChip : Prop :=
  let s := State.reset
  (∀ c ∈ s.clusters, c.gate = .on ∧ c.r.ratio = 1 ∧ c.r.step = 0 ∧ c.cores.length = 16) ∧ s.clusters.length = 8 ∧
  s.blank ∧ (∀ q ∈ s.queues, q.en = false ∧ q.halt = false) ∧ s.queues.length = 64 ∧ s.start.step = 7 ∧ s.start.safe = false ∧
  s.start.fails = 0 ∧ s.timer.lock = false ∧ s.timer.src = 7 ∧ s.timer.corr = 0 ∧ s.inrush = [] ∧ s.mem = [] ∧ s.MemOk

/-- Memory keeps its canonical form (log 1): every step from a state whose memories have it leads to one whose memories
have it. -/
def Obligations.MemoryStaysCanonical : Prop := ∀ s s' : State, s.MemOk → step s = .next s' → s'.MemOk

/-- R417: the count of global time never decreases but at a power-on, which starts a new one. -/
def Obligations.TimeNeverDecreases : Prop :=
  ∀ s s' : State, (∀ tg rest, s.agenda ≠ .event .powerOn tg :: rest) → step s = .next s' → s.time ≤ s'.time

/-- R419, R422: in safe mode no write of the host's register window but one of the start and power window does anything, and no
queue takes a doorbell; a WAKE write acts as at any other time. That a round of such a chip is one tick is the model's agenda
(log 2, DESIGN CHOICE). -/
def Sys2Proof.Machine.SafeModeAdmitsOnlyTheStartWindow : Prop :=
  (∀ (s : State) (off v : Nat), s.start.safe = true → off ≠ 0x50000 → off ≠ 0x50008 → s.write32 off v = s) ∧
  (∀ (s : State) (v : Nat), s.write32 0x50008 v = s.hostWake v) ∧
  (∀ s : State, s.start.step ≠ 7 → s.round = s.timerTurns ++ [.tick 1]) ∧
  (∀ s : State, s.start.step ≠ 7 → s.blank → s.inrush = [] → s.timer.lock = false → s.time / 50000 ≤ s.epoch →
    (∀ c ∈ s.clusters, c.gate = .off ∧ c.change = none ∧ c.stretch = 0 ∧ c.halved = 0 ∧ c.turn = none ∧ c.watch = [] ∧
      c.resv.busy = false ∧ c.cohorts = [] ∧ c.depend = [] ∧ c.hands = []) → s.round = [.tick 1]) ∧
  (∀ s : State, s.start.safe = true → exec .doorbellWrite s = .next s ∧ exec .haltClear s = .next s) ∧
  ∀ s : State, s.start.safe = true → exec .pageRequestPop s = .next s ∧ exec .healthLogPop s = .next s ∧
    exec .hostWindowWrite s = .next s ∧ exec .peerAccess s = .next s ∧ exec .oasisInvalidateAll s = .next s ∧
    exec .oasisInvalidateDomain s = .next s

/-- R234, R235, R458 (the laws of memory): a read after a write of the same place gives what was written, and no other byte
changes; bytes are little-endian; writing keeps the canonical form, and equal memories of that form are equal data. -/
def Obligations.MemoryReadsWhatWasWritten : Prop :=
  (∀ (m : List Host.Cell) (a : Nat) (bs : List Byte), Memory.wf m = true →
    Memory.wf (Memory.writeBytes m a bs) = true ∧ Memory.readBytes (Memory.writeBytes m a bs) a bs.length = bs ∧
    ∀ x, x < a ∨ a + bs.length ≤ x → Memory.read (Memory.writeBytes m a bs) x = Memory.read m x) ∧
  (∀ m m' : List Host.Cell, Memory.wf m = true → Memory.wf m' = true → (∀ a, Memory.read m a = Memory.read m' a) → m = m') ∧
  (∀ (x n : Nat), (leBytes x n).length = n ∧ leNat (leBytes x n) = x % 256 ^ n ∧
    ∀ k < n, (leBytes x n).getD k 0 = BitVec.ofNat 8 (x / 256 ^ k)) ∧
  ∀ bs : List Byte, leBytes (leNat bs) bs.length = bs

/-! ### Rules stated whole -/

/-- R87: p7 and sp7 read as true, and a write to them changes nothing; the other predicates are false at thread start; a
7-bit predicate field above 7 gives cause 0x03 (VOTE, BALLOT and PLOG have such fields). -/
def Obligations.PredicateSevenReadsTrue : Prop :=
  (∀ c : Ctx, (c.cell .pred 7).val = 1 ∧ (c.cell .pred 7).full = true ∧ (c.cell .upred 7).val = 1 ∧ (c.cell .upred 7).full = true) ∧
  (∀ (wp : Warp) (l : Nat) (v : Word) (g : Tag), wp.setCell l .pred 7 v g = wp ∧ wp.setCell l .upred 7 v g = wp) ∧
  (∀ (p : Prog) (tls : BitVec 64), (newThread p tls).p = List.replicate 7 {} ∧ ({} : PReg).val = false ∧ ({} : PReg).full = true) ∧
  (∀ (l : Launch) (j w : Nat), (newWarp l j w).sp = List.replicate 7 {}) ∧
  (∀ f : A3, 8 ≤ f.a.toNat → (Instr.ballot f).wf = false) ∧
  (∀ f : P3, 8 ≤ f.a.toNat → (Instr.vote f).wf = false) ∧
  (∀ f : P3, 8 ≤ f.a.toNat ∨ 8 ≤ f.b.toNat → (Instr.plog f).wf = false) ∧
  ∀ (fm : Form) (iss : Issue) (t : Team), fm.wf = false → fm.precheck iss t = some 0x01 ∨ fm.precheck iss t = some 0x16 ∨
    fm.precheck iss t = some 0x02 ∨ fm.precheck iss t = some 0x03

/-- R379: a trap of any cause but 0x11 and 0x18 in handler mode kills the team, which has failed. A machine check aborts the
launch (R395), in a handler or not; that the abort is the next turn is the model's agenda (log 2, DESIGN CHOICE). -/
def Obligations.DoubleTrapsKillTheTeam : Prop :=
  ∀ (s : State) (t : Team) (w l : Nat) (ti : TrapInfo), s.team? t.id = some t → (t.thread w l).exited = false →
    (ti.cause ≠ 0x11 → ti.cause ≠ 0x18 → (t.thread w l).handler = true →
      ∃ t', (s.takeTrap t.id w l ti).team? t.id = some t' ∧ t'.killed = true ∧ t'.failed = true ∧ t'.draining = true ∧ t'.live = []) ∧
    (ti.cause = 0x11 ∨ ti.cause = 0x18 →
      s.takeTrap t.id w l ti = { s with agenda := .event .launchAbort { id := t.launch, value := ti.cause } :: s.agenda })

/-- R439: a box touches a tile when the four inequalities hold (in units of 2^-149, in which every F32 value is whole), and the
tiles that a box touches are those. -/
def Obligations.BoxesTouchByFourInequalities : Prop :=
  (∀ (xmin xmax ymin ymax : Int) (x y t : Nat), touches [xmin, xmax, ymin, ymax] x y t t = true ↔
    xmin < (x + t : Nat) * (2 : Int) ^ 149 ∧ x * (2 : Int) ^ 149 < xmax ∧ ymin < (y + t : Nat) * (2 : Int) ^ 149 ∧
      y * (2 : Int) ^ 149 < ymax) ∧
  ∀ (p : Pass) (b : Box) (k : Nat), k ∈ p.touched b ↔ k < p.tileCount ∧
    touches b (k % p.cols * p.edge) (k / p.cols * p.edge) p.edge p.edge = true

/-! ### Statements of several parts -/

/-- R169 to R178: bitwise words and shifts, unary words, IMAD and BFI, the immediate forms, the compares and the address words. -/
def Obligations.OtherIntegerWordsWriteTheirResult : Prop :=
  BitwiseWordsAndShiftsActBitByBit ∧ UnaryIntegerWordsWriteTheirResult ∧ ImadAndBfiReadTheirDestination ∧ ImmediateWordsWriteTheirResult ∧ IntegerComparesWriteTheCondition ∧ AddressWordsComputeModulo64Bits

/-- R142 (with R144 for the integer flags of the words named): a flag that a word raises and whose trap is enabled: the F32 arithmetic
words, the packed words, compares, conversions, packing, quantising, Welford words, reductions and scans. -/
def Obligations.EnabledFlagsTrap : Prop :=
  FloatTrapsWhenEnabled ∧ OtherFlagsTrapWhenEnabled ∧ ReductionsTrapThreadByThread

/-- R174 to R179: the packed words, and the words that act on the bits of a float. -/
def Obligations.PackedAndBitWords : Prop :=
  PackedWordsActOnEachElement ∧ FloatBitAndClassWords

/-- R139, R141: what is rounded is the exact sum, product or quotient. -/
def Obligations.SumsProductsAndQuotientsAreExactThenRounded : Prop :=
  ExactSumsAndProducts ∧ QuotientsAreCorrectlyRounded

/-- R150 to R158, R182 to R185: packing, scale slots and quantising. -/
def Obligations.PackingQuantisingAndScaleWords : Prop :=
  PackAndUnpkMoveOneElement ∧ ScaleSlotWordsKeepTheSlot ∧ QuantisingWordsRunTheirAlgorithm

/-- R160 to R162, R186, R192 to R194: Welford triples, predicates, tags and moves. -/
def Obligations.StatisticsPredicateAndTagWords : Prop :=
  WelfordWordsUpdateTriples ∧ PredicateTagAndMoveWords

/-- R188 to R190: votes, masks and shuffles over a tile. -/
def Obligations.VotesAndShufflesCoverTheTile : Prop :=
  VotesAndMasksCoverTheTile ∧ ShufflesReadTheNamedLane

/-- R195, R236, R238 to R240: loads and stores of scratchpads and of the tile buffer, and what a store leaves alone. -/
def Obligations.ScratchpadAccessesKeepTheirBytes : Prop :=
  LocalLoadsReadTheirBytes ∧ LocalStoresWriteTheirBytes ∧ ScratchStoresFrame

/-- R242 to R246: atomics and CAS. -/
def Obligations.AtomicsComputeTheirSubOperation : Prop :=
  AtomicsActOnTheirAddress ∧ AtomicSubOperationsCompute

/-- R222 to R228, R248 to R253: LDL, the samplers, residency and feedback. -/
def Obligations.TextureWordsReadWhatIsResident : Prop :=
  LdlReadsTheFinestResidentLevel ∧ ServingFallsBackToAResidentLevel ∧ SamplersReadTheirFootprint ∧ ResidencyAndFeedbackWords

/-- R255 to R270: copies and streams. -/
def Obligations.CopyAndStreamWordsTakeEffect : Prop :=
  CopiesTakeTheSliceOfTheirWarp ∧ ThreadCopiesJoinTheirBatch ∧ StreamWordsFeedTheirQueue

/-- R283 to R290: the words and the updates of transaction barriers, and the wait for a phase. -/
def Obligations.BarrierWordsCount : Prop :=
  BarrierWordsCountTheirArrivals ∧ BarrierUpdatesAddAndClamp ∧ BarrierUpdatesTakeTheirOrder ∧ BarrierWaitsEndWithThePhase

/-- R299 to R319: what the words of the matrix engine put into its queue. -/
def Obligations.MatrixWordsQueueTheirWork : Prop :=
  AccumulationsEnterTheQueue ∧ MatrixWordsEnterTheQueue ∧ ProtectedPairsShareTheirRow

/-- R344 to R348, R354 to R369: signatures, regions and the memo table. -/
def Obligations.AbsorptionWordsFollowTheRegion : Prop :=
  SignatureWordsDriveTheRegion ∧ MemoWordsUseTheTable ∧ InsertedEntriesAreFound ∧ QuantisationIsIdempotent

/-- R137, R138, R370 to R375: ray queries and emitted records. -/
def Obligations.QueriesAndRecordsReachTheirUnit : Prop :=
  RayWordsCommandTheirQuery ∧ StartedQueriesAnswerToTheirHandle ∧ EmittedRecordsReachTheirTarget

/-- R127 to R131: transfers, calls and returns. -/
def Obligations.TransfersGoAndReturn : Prop :=
  TransfersGoWhereTheyName ∧ CallsPushBeforeTheyLook ∧ ReturnsUndoCalls

/-- R90 to R94: what the special registers read, and the latch of pairs. -/
def Obligations.SpecialRegistersReadAndLatch : Prop :=
  SpecialRegistersReadTheirState ∧ PairReadsLatchTheHighHalf

/-- R404 to R416: converters, frequency steps, droop, gating, waking and the governor. -/
def Obligations.PowerIsMovedByItsSteps : Prop :=
  ConvertersAndStepsMove ∧ ClocksCountTheirCycles ∧ GatingAndWakingFollowTheirRequests ∧ GovernorMovesStepsByOne

/-- R417, R418, R294: the timer. -/
def Obligations.TimerFollowsItsSourceAndLock : Prop :=
  TimerFollowsItsSource

/-- R419, R422: starts and safe mode. -/
def Obligations.RestartsLeaveABlankChip : Prop :=
  StartsLeaveABlankChip ∧ SafeModeAdmitsOnlyTheStartWindow

/-- R149, R181: CVT. -/
def Obligations.ConversionsRoundAndClip : Prop :=
  CvtWritesTheConvertedValue ∧ ConversionToIntegersRoundsAndClips

/-- R205, R213, R273, R294, R362, R400, R401, R403, R458: the host's windows, errors, the host and the peers. -/
def Obligations.WindowsErrorsAndOutsidersAct : Prop :=
  WindowsPopAndInvalidate ∧ ErrorsAreCountedAndUnitsRetired ∧ HostAndPeersReachMemory

/-- R121, R126, R135, R201, R220, R278, R282, R378, R383, R399: what ends a thread's wait and what it is owed, and the accesses of a
protected pair, each of which waits for its partner's. -/
def Obligations.WaitingThreadsGoOnOrTrap : Prop :=
  ParkedThreadsGoOn ∧ ThreadsTakeWhatIsOwed ∧ ProtectedAccessesGoInPairs

/-- R60 to R62: placing. -/
def Obligations.TeamsArePlacedWithinTheCore : Prop :=
  RoomIsWithinTheCore ∧ ClaimedTeamsArePlaced

/-- R54, R56 to R58, R61 to R65: tickets, lists, reservations, turns and ramps. -/
def Obligations.AgentsAndTurnsServeTheContexts : Prop :=
  AgentsPlaceTeams ∧ TurnsAndRampsMoveOn

/-- R69 to R75, R80, R116 to R118: activation, measurement, bundles, and what a word does in the threads of its bundle. -/
def Obligations.ActiveWarpsFormBundles : Prop :=
  WarpsAreActivatedByLease ∧ BundlesGatherReadyThreads ∧ BundlesActThreadByThread ∧ BundlesWriteThreadByThread

/-- R86, R127, R201, R236, R277, R279, R458: loads. -/
def Obligations.LoadsAndFillsLand : Prop :=
  LoadsAreWrittenBack ∧ FillsAnswerTheLoads

/-- R211, R217 to R219, R242 to R244, R273, R274: stores, atomics and CAS. -/
def Obligations.StoresReachTheirHomes : Prop :=
  StoresAreTranslated ∧ StoresArePerformed

/-- R211, R258 to R268, R284, R285, R459: the fault table and the engines. -/
def Obligations.EnginesAndFaultsGoOn : Prop :=
  FaultsAreWalkedAgain ∧ EnginesLandTheirData

/-- R9, R46, R49, R331 to R340, R352, R390, R391, R395: the ends of teams and launches, and the steps of tiles. -/
def Obligations.TeamsLaunchesAndTilesEnd : Prop :=
  TeamsAndLaunchesEnd ∧ TilesRunTheirSteps
end

