-- ==== Sys2Proof/Laws/State.lean ====
section
/-! SUPPORT. What each update of the state leaves: one lemma for each field, so that no proof unfolds a record update. -/

namespace Sys2Proof.Machine

/-! ### updTeam -/

@[simp] theorem State.updTeam_timer (s : State) (id : Nat) (f : Team → Team) : (s.updTeam id f).timer = s.timer := rfl
@[simp] theorem State.updTeam_start (s : State) (id : Nat) (f : Team → Team) : (s.updTeam id f).start = s.start := rfl
@[simp] theorem State.updTeam_record (s : State) (id : Nat) (f : Team → Team) : (s.updTeam id f).record = s.record := rfl
@[simp] theorem State.updTeam_gbudEn (s : State) (id : Nat) (f : Team → Team) : (s.updTeam id f).gbudEn = s.gbudEn := rfl
@[simp] theorem State.updTeam_gbudWatt (s : State) (id : Nat) (f : Team → Team) : (s.updTeam id f).gbudWatt = s.gbudWatt := rfl
@[simp] theorem State.updTeam_inrush (s : State) (id : Nat) (f : Team → Team) : (s.updTeam id f).inrush = s.inrush := rfl
@[simp] theorem State.updTeam_closing (s : State) (id : Nat) (f : Team → Team) : (s.updTeam id f).closing = s.closing := rfl
@[simp] theorem State.updTeam_ports (s : State) (id : Nat) (f : Team → Team) : (s.updTeam id f).ports = s.ports := rfl
@[simp] theorem State.updTeam_peers (s : State) (id : Nat) (f : Team → Team) : (s.updTeam id f).peers = s.peers := rfl
@[simp] theorem State.updTeam_health (s : State) (id : Nat) (f : Team → Team) : (s.updTeam id f).health = s.health := rfl
@[simp] theorem State.updTeam_requests (s : State) (id : Nat) (f : Team → Team) : (s.updTeam id f).requests = s.requests := rfl
@[simp] theorem State.updTeam_ptime (s : State) (id : Nat) (f : Team → Team) : (s.updTeam id f).ptime = s.ptime := rfl
@[simp] theorem State.updTeam_faults (s : State) (id : Nat) (f : Team → Team) : (s.updTeam id f).faults = s.faults := rfl
@[simp] theorem State.updTeam_unlisted (s : State) (id : Nat) (f : Team → Team) : (s.updTeam id f).unlisted = s.unlisted := rfl
@[simp] theorem State.updTeam_oasis (s : State) (id : Nat) (f : Team → Team) : (s.updTeam id f).oasis = s.oasis := rfl
@[simp] theorem State.updTeam_queues (s : State) (id : Nat) (f : Team → Team) : (s.updTeam id f).queues = s.queues := rfl
@[simp] theorem State.updTeam_contexts (s : State) (id : Nat) (f : Team → Team) : (s.updTeam id f).contexts = s.contexts := rfl
@[simp] theorem State.updTeam_commands (s : State) (id : Nat) (f : Team → Team) : (s.updTeam id f).commands = s.commands := rfl
@[simp] theorem State.updTeam_launches (s : State) (id : Nat) (f : Team → Team) : (s.updTeam id f).launches = s.launches := rfl
@[simp] theorem State.updTeam_gathers (s : State) (id : Nat) (f : Team → Team) : (s.updTeam id f).gathers = s.gathers := rfl
@[simp] theorem State.updTeam_clusters (s : State) (id : Nat) (f : Team → Team) : (s.updTeam id f).clusters = s.clusters := rfl
@[simp] theorem State.updTeam_mem (s : State) (id : Nat) (f : Team → Team) : (s.updTeam id f).mem = s.mem := rfl
@[simp] theorem State.updTeam_badGranules (s : State) (id : Nat) (f : Team → Team) : (s.updTeam id f).badGranules = s.badGranules := rfl
@[simp] theorem State.updTeam_watermarks (s : State) (id : Nat) (f : Team → Team) : (s.updTeam id f).watermarks = s.watermarks := rfl
@[simp] theorem State.updTeam_remote (s : State) (id : Nat) (f : Team → Team) : (s.updTeam id f).remote = s.remote := rfl
@[simp] theorem State.updTeam_loads (s : State) (id : Nat) (f : Team → Team) : (s.updTeam id f).loads = s.loads := rfl
@[simp] theorem State.updTeam_stores (s : State) (id : Nat) (f : Team → Team) : (s.updTeam id f).stores = s.stores := rfl
@[simp] theorem State.updTeam_cpas (s : State) (id : Nat) (f : Team → Team) : (s.updTeam id f).cpas = s.cpas := rfl
@[simp] theorem State.updTeam_batches (s : State) (id : Nat) (f : Team → Team) : (s.updTeam id f).batches = s.batches := rfl
@[simp] theorem State.updTeam_passes (s : State) (id : Nat) (f : Team → Team) : (s.updTeam id f).passes = s.passes := rfl
@[simp] theorem State.updTeam_msix (s : State) (id : Nat) (f : Team → Team) : (s.updTeam id f).msix = s.msix := rfl
@[simp] theorem State.updTeam_nextId (s : State) (id : Nat) (f : Team → Team) : (s.updTeam id f).nextId = s.nextId := rfl
@[simp] theorem State.updTeam_free (s : State) (id : Nat) (f : Team → Team) : (s.updTeam id f).free = s.free := rfl
@[simp] theorem State.updTeam_agenda (s : State) (id : Nat) (f : Team → Team) : (s.updTeam id f).agenda = s.agenda := rfl
@[simp] theorem State.updTeam_epoch (s : State) (id : Nat) (f : Team → Team) : (s.updTeam id f).epoch = s.epoch := rfl
@[simp] theorem State.updTeam_sysCache (s : State) (id : Nat) (f : Team → Team) : (s.updTeam id f).sysCache = s.sysCache := rfl
@[simp] theorem State.updTeam_target (s : State) (id : Nat) (f : Team → Team) : (s.updTeam id f).target = s.target := rfl
@[simp] theorem State.updTeam_issue (s : State) (id : Nat) (f : Team → Team) : (s.updTeam id f).issue = s.issue := rfl

/-! ### updWarp -/

@[simp] theorem State.updWarp_timer (s : State) (tm w : Nat) (f : Warp → Warp) : (s.updWarp tm w f).timer = s.timer := rfl
@[simp] theorem State.updWarp_start (s : State) (tm w : Nat) (f : Warp → Warp) : (s.updWarp tm w f).start = s.start := rfl
@[simp] theorem State.updWarp_record (s : State) (tm w : Nat) (f : Warp → Warp) : (s.updWarp tm w f).record = s.record := rfl
@[simp] theorem State.updWarp_gbudEn (s : State) (tm w : Nat) (f : Warp → Warp) : (s.updWarp tm w f).gbudEn = s.gbudEn := rfl
@[simp] theorem State.updWarp_gbudWatt (s : State) (tm w : Nat) (f : Warp → Warp) : (s.updWarp tm w f).gbudWatt = s.gbudWatt := rfl
@[simp] theorem State.updWarp_inrush (s : State) (tm w : Nat) (f : Warp → Warp) : (s.updWarp tm w f).inrush = s.inrush := rfl
@[simp] theorem State.updWarp_closing (s : State) (tm w : Nat) (f : Warp → Warp) : (s.updWarp tm w f).closing = s.closing := rfl
@[simp] theorem State.updWarp_ports (s : State) (tm w : Nat) (f : Warp → Warp) : (s.updWarp tm w f).ports = s.ports := rfl
@[simp] theorem State.updWarp_peers (s : State) (tm w : Nat) (f : Warp → Warp) : (s.updWarp tm w f).peers = s.peers := rfl
@[simp] theorem State.updWarp_health (s : State) (tm w : Nat) (f : Warp → Warp) : (s.updWarp tm w f).health = s.health := rfl
@[simp] theorem State.updWarp_requests (s : State) (tm w : Nat) (f : Warp → Warp) : (s.updWarp tm w f).requests = s.requests := rfl
@[simp] theorem State.updWarp_ptime (s : State) (tm w : Nat) (f : Warp → Warp) : (s.updWarp tm w f).ptime = s.ptime := rfl
@[simp] theorem State.updWarp_faults (s : State) (tm w : Nat) (f : Warp → Warp) : (s.updWarp tm w f).faults = s.faults := rfl
@[simp] theorem State.updWarp_unlisted (s : State) (tm w : Nat) (f : Warp → Warp) : (s.updWarp tm w f).unlisted = s.unlisted := rfl
@[simp] theorem State.updWarp_oasis (s : State) (tm w : Nat) (f : Warp → Warp) : (s.updWarp tm w f).oasis = s.oasis := rfl
@[simp] theorem State.updWarp_queues (s : State) (tm w : Nat) (f : Warp → Warp) : (s.updWarp tm w f).queues = s.queues := rfl
@[simp] theorem State.updWarp_contexts (s : State) (tm w : Nat) (f : Warp → Warp) : (s.updWarp tm w f).contexts = s.contexts := rfl
@[simp] theorem State.updWarp_commands (s : State) (tm w : Nat) (f : Warp → Warp) : (s.updWarp tm w f).commands = s.commands := rfl
@[simp] theorem State.updWarp_launches (s : State) (tm w : Nat) (f : Warp → Warp) : (s.updWarp tm w f).launches = s.launches := rfl
@[simp] theorem State.updWarp_gathers (s : State) (tm w : Nat) (f : Warp → Warp) : (s.updWarp tm w f).gathers = s.gathers := rfl
@[simp] theorem State.updWarp_clusters (s : State) (tm w : Nat) (f : Warp → Warp) : (s.updWarp tm w f).clusters = s.clusters := rfl
@[simp] theorem State.updWarp_mem (s : State) (tm w : Nat) (f : Warp → Warp) : (s.updWarp tm w f).mem = s.mem := rfl
@[simp] theorem State.updWarp_badGranules (s : State) (tm w : Nat) (f : Warp → Warp) : (s.updWarp tm w f).badGranules = s.badGranules := rfl
@[simp] theorem State.updWarp_watermarks (s : State) (tm w : Nat) (f : Warp → Warp) : (s.updWarp tm w f).watermarks = s.watermarks := rfl
@[simp] theorem State.updWarp_remote (s : State) (tm w : Nat) (f : Warp → Warp) : (s.updWarp tm w f).remote = s.remote := rfl
@[simp] theorem State.updWarp_loads (s : State) (tm w : Nat) (f : Warp → Warp) : (s.updWarp tm w f).loads = s.loads := rfl
@[simp] theorem State.updWarp_stores (s : State) (tm w : Nat) (f : Warp → Warp) : (s.updWarp tm w f).stores = s.stores := rfl
@[simp] theorem State.updWarp_cpas (s : State) (tm w : Nat) (f : Warp → Warp) : (s.updWarp tm w f).cpas = s.cpas := rfl
@[simp] theorem State.updWarp_batches (s : State) (tm w : Nat) (f : Warp → Warp) : (s.updWarp tm w f).batches = s.batches := rfl
@[simp] theorem State.updWarp_passes (s : State) (tm w : Nat) (f : Warp → Warp) : (s.updWarp tm w f).passes = s.passes := rfl
@[simp] theorem State.updWarp_msix (s : State) (tm w : Nat) (f : Warp → Warp) : (s.updWarp tm w f).msix = s.msix := rfl
@[simp] theorem State.updWarp_nextId (s : State) (tm w : Nat) (f : Warp → Warp) : (s.updWarp tm w f).nextId = s.nextId := rfl
@[simp] theorem State.updWarp_free (s : State) (tm w : Nat) (f : Warp → Warp) : (s.updWarp tm w f).free = s.free := rfl
@[simp] theorem State.updWarp_agenda (s : State) (tm w : Nat) (f : Warp → Warp) : (s.updWarp tm w f).agenda = s.agenda := rfl
@[simp] theorem State.updWarp_epoch (s : State) (tm w : Nat) (f : Warp → Warp) : (s.updWarp tm w f).epoch = s.epoch := rfl
@[simp] theorem State.updWarp_sysCache (s : State) (tm w : Nat) (f : Warp → Warp) : (s.updWarp tm w f).sysCache = s.sysCache := rfl
@[simp] theorem State.updWarp_target (s : State) (tm w : Nat) (f : Warp → Warp) : (s.updWarp tm w f).target = s.target := rfl
@[simp] theorem State.updWarp_issue (s : State) (tm w : Nat) (f : Warp → Warp) : (s.updWarp tm w f).issue = s.issue := rfl

/-! ### updThread -/

@[simp] theorem State.updThread_timer (s : State) (tm w l : Nat) (f : Thread → Thread) : (s.updThread tm w l f).timer = s.timer := rfl
@[simp] theorem State.updThread_start (s : State) (tm w l : Nat) (f : Thread → Thread) : (s.updThread tm w l f).start = s.start := rfl
@[simp] theorem State.updThread_record (s : State) (tm w l : Nat) (f : Thread → Thread) : (s.updThread tm w l f).record = s.record := rfl
@[simp] theorem State.updThread_gbudEn (s : State) (tm w l : Nat) (f : Thread → Thread) : (s.updThread tm w l f).gbudEn = s.gbudEn := rfl
@[simp] theorem State.updThread_gbudWatt (s : State) (tm w l : Nat) (f : Thread → Thread) : (s.updThread tm w l f).gbudWatt = s.gbudWatt := rfl
@[simp] theorem State.updThread_inrush (s : State) (tm w l : Nat) (f : Thread → Thread) : (s.updThread tm w l f).inrush = s.inrush := rfl
@[simp] theorem State.updThread_closing (s : State) (tm w l : Nat) (f : Thread → Thread) : (s.updThread tm w l f).closing = s.closing := rfl
@[simp] theorem State.updThread_ports (s : State) (tm w l : Nat) (f : Thread → Thread) : (s.updThread tm w l f).ports = s.ports := rfl
@[simp] theorem State.updThread_peers (s : State) (tm w l : Nat) (f : Thread → Thread) : (s.updThread tm w l f).peers = s.peers := rfl
@[simp] theorem State.updThread_health (s : State) (tm w l : Nat) (f : Thread → Thread) : (s.updThread tm w l f).health = s.health := rfl
@[simp] theorem State.updThread_requests (s : State) (tm w l : Nat) (f : Thread → Thread) : (s.updThread tm w l f).requests = s.requests := rfl
@[simp] theorem State.updThread_ptime (s : State) (tm w l : Nat) (f : Thread → Thread) : (s.updThread tm w l f).ptime = s.ptime := rfl
@[simp] theorem State.updThread_faults (s : State) (tm w l : Nat) (f : Thread → Thread) : (s.updThread tm w l f).faults = s.faults := rfl
@[simp] theorem State.updThread_unlisted (s : State) (tm w l : Nat) (f : Thread → Thread) : (s.updThread tm w l f).unlisted = s.unlisted := rfl
@[simp] theorem State.updThread_oasis (s : State) (tm w l : Nat) (f : Thread → Thread) : (s.updThread tm w l f).oasis = s.oasis := rfl
@[simp] theorem State.updThread_queues (s : State) (tm w l : Nat) (f : Thread → Thread) : (s.updThread tm w l f).queues = s.queues := rfl
@[simp] theorem State.updThread_contexts (s : State) (tm w l : Nat) (f : Thread → Thread) : (s.updThread tm w l f).contexts = s.contexts := rfl
@[simp] theorem State.updThread_commands (s : State) (tm w l : Nat) (f : Thread → Thread) : (s.updThread tm w l f).commands = s.commands := rfl
@[simp] theorem State.updThread_launches (s : State) (tm w l : Nat) (f : Thread → Thread) : (s.updThread tm w l f).launches = s.launches := rfl
@[simp] theorem State.updThread_gathers (s : State) (tm w l : Nat) (f : Thread → Thread) : (s.updThread tm w l f).gathers = s.gathers := rfl
@[simp] theorem State.updThread_clusters (s : State) (tm w l : Nat) (f : Thread → Thread) : (s.updThread tm w l f).clusters = s.clusters := rfl
@[simp] theorem State.updThread_mem (s : State) (tm w l : Nat) (f : Thread → Thread) : (s.updThread tm w l f).mem = s.mem := rfl
@[simp] theorem State.updThread_badGranules (s : State) (tm w l : Nat) (f : Thread → Thread) : (s.updThread tm w l f).badGranules = s.badGranules := rfl
@[simp] theorem State.updThread_watermarks (s : State) (tm w l : Nat) (f : Thread → Thread) : (s.updThread tm w l f).watermarks = s.watermarks := rfl
@[simp] theorem State.updThread_remote (s : State) (tm w l : Nat) (f : Thread → Thread) : (s.updThread tm w l f).remote = s.remote := rfl
@[simp] theorem State.updThread_loads (s : State) (tm w l : Nat) (f : Thread → Thread) : (s.updThread tm w l f).loads = s.loads := rfl
@[simp] theorem State.updThread_stores (s : State) (tm w l : Nat) (f : Thread → Thread) : (s.updThread tm w l f).stores = s.stores := rfl
@[simp] theorem State.updThread_cpas (s : State) (tm w l : Nat) (f : Thread → Thread) : (s.updThread tm w l f).cpas = s.cpas := rfl
@[simp] theorem State.updThread_batches (s : State) (tm w l : Nat) (f : Thread → Thread) : (s.updThread tm w l f).batches = s.batches := rfl
@[simp] theorem State.updThread_passes (s : State) (tm w l : Nat) (f : Thread → Thread) : (s.updThread tm w l f).passes = s.passes := rfl
@[simp] theorem State.updThread_msix (s : State) (tm w l : Nat) (f : Thread → Thread) : (s.updThread tm w l f).msix = s.msix := rfl
@[simp] theorem State.updThread_nextId (s : State) (tm w l : Nat) (f : Thread → Thread) : (s.updThread tm w l f).nextId = s.nextId := rfl
@[simp] theorem State.updThread_free (s : State) (tm w l : Nat) (f : Thread → Thread) : (s.updThread tm w l f).free = s.free := rfl
@[simp] theorem State.updThread_agenda (s : State) (tm w l : Nat) (f : Thread → Thread) : (s.updThread tm w l f).agenda = s.agenda := rfl
@[simp] theorem State.updThread_epoch (s : State) (tm w l : Nat) (f : Thread → Thread) : (s.updThread tm w l f).epoch = s.epoch := rfl
@[simp] theorem State.updThread_sysCache (s : State) (tm w l : Nat) (f : Thread → Thread) : (s.updThread tm w l f).sysCache = s.sysCache := rfl
@[simp] theorem State.updThread_target (s : State) (tm w l : Nat) (f : Thread → Thread) : (s.updThread tm w l f).target = s.target := rfl
@[simp] theorem State.updThread_issue (s : State) (tm w l : Nat) (f : Thread → Thread) : (s.updThread tm w l f).issue = s.issue := rfl

/-! ### updLaunch -/

@[simp] theorem State.updLaunch_timer (s : State) (id : Nat) (f : Launch → Launch) : (s.updLaunch id f).timer = s.timer := rfl
@[simp] theorem State.updLaunch_start (s : State) (id : Nat) (f : Launch → Launch) : (s.updLaunch id f).start = s.start := rfl
@[simp] theorem State.updLaunch_record (s : State) (id : Nat) (f : Launch → Launch) : (s.updLaunch id f).record = s.record := rfl
@[simp] theorem State.updLaunch_gbudEn (s : State) (id : Nat) (f : Launch → Launch) : (s.updLaunch id f).gbudEn = s.gbudEn := rfl
@[simp] theorem State.updLaunch_gbudWatt (s : State) (id : Nat) (f : Launch → Launch) : (s.updLaunch id f).gbudWatt = s.gbudWatt := rfl
@[simp] theorem State.updLaunch_inrush (s : State) (id : Nat) (f : Launch → Launch) : (s.updLaunch id f).inrush = s.inrush := rfl
@[simp] theorem State.updLaunch_closing (s : State) (id : Nat) (f : Launch → Launch) : (s.updLaunch id f).closing = s.closing := rfl
@[simp] theorem State.updLaunch_ports (s : State) (id : Nat) (f : Launch → Launch) : (s.updLaunch id f).ports = s.ports := rfl
@[simp] theorem State.updLaunch_peers (s : State) (id : Nat) (f : Launch → Launch) : (s.updLaunch id f).peers = s.peers := rfl
@[simp] theorem State.updLaunch_health (s : State) (id : Nat) (f : Launch → Launch) : (s.updLaunch id f).health = s.health := rfl
@[simp] theorem State.updLaunch_requests (s : State) (id : Nat) (f : Launch → Launch) : (s.updLaunch id f).requests = s.requests := rfl
@[simp] theorem State.updLaunch_ptime (s : State) (id : Nat) (f : Launch → Launch) : (s.updLaunch id f).ptime = s.ptime := rfl
@[simp] theorem State.updLaunch_faults (s : State) (id : Nat) (f : Launch → Launch) : (s.updLaunch id f).faults = s.faults := rfl
@[simp] theorem State.updLaunch_unlisted (s : State) (id : Nat) (f : Launch → Launch) : (s.updLaunch id f).unlisted = s.unlisted := rfl
@[simp] theorem State.updLaunch_oasis (s : State) (id : Nat) (f : Launch → Launch) : (s.updLaunch id f).oasis = s.oasis := rfl
@[simp] theorem State.updLaunch_queues (s : State) (id : Nat) (f : Launch → Launch) : (s.updLaunch id f).queues = s.queues := rfl
@[simp] theorem State.updLaunch_contexts (s : State) (id : Nat) (f : Launch → Launch) : (s.updLaunch id f).contexts = s.contexts := rfl
@[simp] theorem State.updLaunch_commands (s : State) (id : Nat) (f : Launch → Launch) : (s.updLaunch id f).commands = s.commands := rfl
@[simp] theorem State.updLaunch_gathers (s : State) (id : Nat) (f : Launch → Launch) : (s.updLaunch id f).gathers = s.gathers := rfl
@[simp] theorem State.updLaunch_clusters (s : State) (id : Nat) (f : Launch → Launch) : (s.updLaunch id f).clusters = s.clusters := rfl
@[simp] theorem State.updLaunch_teams (s : State) (id : Nat) (f : Launch → Launch) : (s.updLaunch id f).teams = s.teams := rfl
@[simp] theorem State.updLaunch_mem (s : State) (id : Nat) (f : Launch → Launch) : (s.updLaunch id f).mem = s.mem := rfl
@[simp] theorem State.updLaunch_badGranules (s : State) (id : Nat) (f : Launch → Launch) : (s.updLaunch id f).badGranules = s.badGranules := rfl
@[simp] theorem State.updLaunch_watermarks (s : State) (id : Nat) (f : Launch → Launch) : (s.updLaunch id f).watermarks = s.watermarks := rfl
@[simp] theorem State.updLaunch_remote (s : State) (id : Nat) (f : Launch → Launch) : (s.updLaunch id f).remote = s.remote := rfl
@[simp] theorem State.updLaunch_loads (s : State) (id : Nat) (f : Launch → Launch) : (s.updLaunch id f).loads = s.loads := rfl
@[simp] theorem State.updLaunch_stores (s : State) (id : Nat) (f : Launch → Launch) : (s.updLaunch id f).stores = s.stores := rfl
@[simp] theorem State.updLaunch_cpas (s : State) (id : Nat) (f : Launch → Launch) : (s.updLaunch id f).cpas = s.cpas := rfl
@[simp] theorem State.updLaunch_batches (s : State) (id : Nat) (f : Launch → Launch) : (s.updLaunch id f).batches = s.batches := rfl
@[simp] theorem State.updLaunch_passes (s : State) (id : Nat) (f : Launch → Launch) : (s.updLaunch id f).passes = s.passes := rfl
@[simp] theorem State.updLaunch_msix (s : State) (id : Nat) (f : Launch → Launch) : (s.updLaunch id f).msix = s.msix := rfl
@[simp] theorem State.updLaunch_nextId (s : State) (id : Nat) (f : Launch → Launch) : (s.updLaunch id f).nextId = s.nextId := rfl
@[simp] theorem State.updLaunch_free (s : State) (id : Nat) (f : Launch → Launch) : (s.updLaunch id f).free = s.free := rfl
@[simp] theorem State.updLaunch_agenda (s : State) (id : Nat) (f : Launch → Launch) : (s.updLaunch id f).agenda = s.agenda := rfl
@[simp] theorem State.updLaunch_epoch (s : State) (id : Nat) (f : Launch → Launch) : (s.updLaunch id f).epoch = s.epoch := rfl
@[simp] theorem State.updLaunch_sysCache (s : State) (id : Nat) (f : Launch → Launch) : (s.updLaunch id f).sysCache = s.sysCache := rfl
@[simp] theorem State.updLaunch_target (s : State) (id : Nat) (f : Launch → Launch) : (s.updLaunch id f).target = s.target := rfl
@[simp] theorem State.updLaunch_issue (s : State) (id : Nat) (f : Launch → Launch) : (s.updLaunch id f).issue = s.issue := rfl

/-! ### updCommand -/

@[simp] theorem State.updCommand_timer (s : State) (id : Nat) (f : Command → Command) : (s.updCommand id f).timer = s.timer := rfl
@[simp] theorem State.updCommand_start (s : State) (id : Nat) (f : Command → Command) : (s.updCommand id f).start = s.start := rfl
@[simp] theorem State.updCommand_record (s : State) (id : Nat) (f : Command → Command) : (s.updCommand id f).record = s.record := rfl
@[simp] theorem State.updCommand_gbudEn (s : State) (id : Nat) (f : Command → Command) : (s.updCommand id f).gbudEn = s.gbudEn := rfl
@[simp] theorem State.updCommand_gbudWatt (s : State) (id : Nat) (f : Command → Command) : (s.updCommand id f).gbudWatt = s.gbudWatt := rfl
@[simp] theorem State.updCommand_inrush (s : State) (id : Nat) (f : Command → Command) : (s.updCommand id f).inrush = s.inrush := rfl
@[simp] theorem State.updCommand_closing (s : State) (id : Nat) (f : Command → Command) : (s.updCommand id f).closing = s.closing := rfl
@[simp] theorem State.updCommand_ports (s : State) (id : Nat) (f : Command → Command) : (s.updCommand id f).ports = s.ports := rfl
@[simp] theorem State.updCommand_peers (s : State) (id : Nat) (f : Command → Command) : (s.updCommand id f).peers = s.peers := rfl
@[simp] theorem State.updCommand_health (s : State) (id : Nat) (f : Command → Command) : (s.updCommand id f).health = s.health := rfl
@[simp] theorem State.updCommand_requests (s : State) (id : Nat) (f : Command → Command) : (s.updCommand id f).requests = s.requests := rfl
@[simp] theorem State.updCommand_ptime (s : State) (id : Nat) (f : Command → Command) : (s.updCommand id f).ptime = s.ptime := rfl
@[simp] theorem State.updCommand_faults (s : State) (id : Nat) (f : Command → Command) : (s.updCommand id f).faults = s.faults := rfl
@[simp] theorem State.updCommand_unlisted (s : State) (id : Nat) (f : Command → Command) : (s.updCommand id f).unlisted = s.unlisted := rfl
@[simp] theorem State.updCommand_oasis (s : State) (id : Nat) (f : Command → Command) : (s.updCommand id f).oasis = s.oasis := rfl
@[simp] theorem State.updCommand_queues (s : State) (id : Nat) (f : Command → Command) : (s.updCommand id f).queues = s.queues := rfl
@[simp] theorem State.updCommand_contexts (s : State) (id : Nat) (f : Command → Command) : (s.updCommand id f).contexts = s.contexts := rfl
@[simp] theorem State.updCommand_launches (s : State) (id : Nat) (f : Command → Command) : (s.updCommand id f).launches = s.launches := rfl
@[simp] theorem State.updCommand_gathers (s : State) (id : Nat) (f : Command → Command) : (s.updCommand id f).gathers = s.gathers := rfl
@[simp] theorem State.updCommand_clusters (s : State) (id : Nat) (f : Command → Command) : (s.updCommand id f).clusters = s.clusters := rfl
@[simp] theorem State.updCommand_teams (s : State) (id : Nat) (f : Command → Command) : (s.updCommand id f).teams = s.teams := rfl
@[simp] theorem State.updCommand_mem (s : State) (id : Nat) (f : Command → Command) : (s.updCommand id f).mem = s.mem := rfl
@[simp] theorem State.updCommand_badGranules (s : State) (id : Nat) (f : Command → Command) : (s.updCommand id f).badGranules = s.badGranules := rfl
@[simp] theorem State.updCommand_watermarks (s : State) (id : Nat) (f : Command → Command) : (s.updCommand id f).watermarks = s.watermarks := rfl
@[simp] theorem State.updCommand_remote (s : State) (id : Nat) (f : Command → Command) : (s.updCommand id f).remote = s.remote := rfl
@[simp] theorem State.updCommand_loads (s : State) (id : Nat) (f : Command → Command) : (s.updCommand id f).loads = s.loads := rfl
@[simp] theorem State.updCommand_stores (s : State) (id : Nat) (f : Command → Command) : (s.updCommand id f).stores = s.stores := rfl
@[simp] theorem State.updCommand_cpas (s : State) (id : Nat) (f : Command → Command) : (s.updCommand id f).cpas = s.cpas := rfl
@[simp] theorem State.updCommand_batches (s : State) (id : Nat) (f : Command → Command) : (s.updCommand id f).batches = s.batches := rfl
@[simp] theorem State.updCommand_passes (s : State) (id : Nat) (f : Command → Command) : (s.updCommand id f).passes = s.passes := rfl
@[simp] theorem State.updCommand_msix (s : State) (id : Nat) (f : Command → Command) : (s.updCommand id f).msix = s.msix := rfl
@[simp] theorem State.updCommand_nextId (s : State) (id : Nat) (f : Command → Command) : (s.updCommand id f).nextId = s.nextId := rfl
@[simp] theorem State.updCommand_free (s : State) (id : Nat) (f : Command → Command) : (s.updCommand id f).free = s.free := rfl
@[simp] theorem State.updCommand_agenda (s : State) (id : Nat) (f : Command → Command) : (s.updCommand id f).agenda = s.agenda := rfl
@[simp] theorem State.updCommand_epoch (s : State) (id : Nat) (f : Command → Command) : (s.updCommand id f).epoch = s.epoch := rfl
@[simp] theorem State.updCommand_sysCache (s : State) (id : Nat) (f : Command → Command) : (s.updCommand id f).sysCache = s.sysCache := rfl
@[simp] theorem State.updCommand_target (s : State) (id : Nat) (f : Command → Command) : (s.updCommand id f).target = s.target := rfl
@[simp] theorem State.updCommand_issue (s : State) (id : Nat) (f : Command → Command) : (s.updCommand id f).issue = s.issue := rfl

/-! ### updCluster -/

@[simp] theorem State.updCluster_timer (s : State) (cl : Nat) (f : Cluster → Cluster) : (s.updCluster cl f).timer = s.timer := rfl
@[simp] theorem State.updCluster_start (s : State) (cl : Nat) (f : Cluster → Cluster) : (s.updCluster cl f).start = s.start := rfl
@[simp] theorem State.updCluster_record (s : State) (cl : Nat) (f : Cluster → Cluster) : (s.updCluster cl f).record = s.record := rfl
@[simp] theorem State.updCluster_gbudEn (s : State) (cl : Nat) (f : Cluster → Cluster) : (s.updCluster cl f).gbudEn = s.gbudEn := rfl
@[simp] theorem State.updCluster_gbudWatt (s : State) (cl : Nat) (f : Cluster → Cluster) : (s.updCluster cl f).gbudWatt = s.gbudWatt := rfl
@[simp] theorem State.updCluster_inrush (s : State) (cl : Nat) (f : Cluster → Cluster) : (s.updCluster cl f).inrush = s.inrush := rfl
@[simp] theorem State.updCluster_closing (s : State) (cl : Nat) (f : Cluster → Cluster) : (s.updCluster cl f).closing = s.closing := rfl
@[simp] theorem State.updCluster_ports (s : State) (cl : Nat) (f : Cluster → Cluster) : (s.updCluster cl f).ports = s.ports := rfl
@[simp] theorem State.updCluster_peers (s : State) (cl : Nat) (f : Cluster → Cluster) : (s.updCluster cl f).peers = s.peers := rfl
@[simp] theorem State.updCluster_health (s : State) (cl : Nat) (f : Cluster → Cluster) : (s.updCluster cl f).health = s.health := rfl
@[simp] theorem State.updCluster_requests (s : State) (cl : Nat) (f : Cluster → Cluster) : (s.updCluster cl f).requests = s.requests := rfl
@[simp] theorem State.updCluster_ptime (s : State) (cl : Nat) (f : Cluster → Cluster) : (s.updCluster cl f).ptime = s.ptime := rfl
@[simp] theorem State.updCluster_faults (s : State) (cl : Nat) (f : Cluster → Cluster) : (s.updCluster cl f).faults = s.faults := rfl
@[simp] theorem State.updCluster_unlisted (s : State) (cl : Nat) (f : Cluster → Cluster) : (s.updCluster cl f).unlisted = s.unlisted := rfl
@[simp] theorem State.updCluster_oasis (s : State) (cl : Nat) (f : Cluster → Cluster) : (s.updCluster cl f).oasis = s.oasis := rfl
@[simp] theorem State.updCluster_queues (s : State) (cl : Nat) (f : Cluster → Cluster) : (s.updCluster cl f).queues = s.queues := rfl
@[simp] theorem State.updCluster_contexts (s : State) (cl : Nat) (f : Cluster → Cluster) : (s.updCluster cl f).contexts = s.contexts := rfl
@[simp] theorem State.updCluster_commands (s : State) (cl : Nat) (f : Cluster → Cluster) : (s.updCluster cl f).commands = s.commands := rfl
@[simp] theorem State.updCluster_launches (s : State) (cl : Nat) (f : Cluster → Cluster) : (s.updCluster cl f).launches = s.launches := rfl
@[simp] theorem State.updCluster_gathers (s : State) (cl : Nat) (f : Cluster → Cluster) : (s.updCluster cl f).gathers = s.gathers := rfl
@[simp] theorem State.updCluster_teams (s : State) (cl : Nat) (f : Cluster → Cluster) : (s.updCluster cl f).teams = s.teams := rfl
@[simp] theorem State.updCluster_mem (s : State) (cl : Nat) (f : Cluster → Cluster) : (s.updCluster cl f).mem = s.mem := rfl
@[simp] theorem State.updCluster_badGranules (s : State) (cl : Nat) (f : Cluster → Cluster) : (s.updCluster cl f).badGranules = s.badGranules := rfl
@[simp] theorem State.updCluster_watermarks (s : State) (cl : Nat) (f : Cluster → Cluster) : (s.updCluster cl f).watermarks = s.watermarks := rfl
@[simp] theorem State.updCluster_remote (s : State) (cl : Nat) (f : Cluster → Cluster) : (s.updCluster cl f).remote = s.remote := rfl
@[simp] theorem State.updCluster_loads (s : State) (cl : Nat) (f : Cluster → Cluster) : (s.updCluster cl f).loads = s.loads := rfl
@[simp] theorem State.updCluster_stores (s : State) (cl : Nat) (f : Cluster → Cluster) : (s.updCluster cl f).stores = s.stores := rfl
@[simp] theorem State.updCluster_cpas (s : State) (cl : Nat) (f : Cluster → Cluster) : (s.updCluster cl f).cpas = s.cpas := rfl
@[simp] theorem State.updCluster_batches (s : State) (cl : Nat) (f : Cluster → Cluster) : (s.updCluster cl f).batches = s.batches := rfl
@[simp] theorem State.updCluster_passes (s : State) (cl : Nat) (f : Cluster → Cluster) : (s.updCluster cl f).passes = s.passes := rfl
@[simp] theorem State.updCluster_msix (s : State) (cl : Nat) (f : Cluster → Cluster) : (s.updCluster cl f).msix = s.msix := rfl
@[simp] theorem State.updCluster_nextId (s : State) (cl : Nat) (f : Cluster → Cluster) : (s.updCluster cl f).nextId = s.nextId := rfl
@[simp] theorem State.updCluster_free (s : State) (cl : Nat) (f : Cluster → Cluster) : (s.updCluster cl f).free = s.free := rfl
@[simp] theorem State.updCluster_agenda (s : State) (cl : Nat) (f : Cluster → Cluster) : (s.updCluster cl f).agenda = s.agenda := rfl
@[simp] theorem State.updCluster_epoch (s : State) (cl : Nat) (f : Cluster → Cluster) : (s.updCluster cl f).epoch = s.epoch := rfl
@[simp] theorem State.updCluster_sysCache (s : State) (cl : Nat) (f : Cluster → Cluster) : (s.updCluster cl f).sysCache = s.sysCache := rfl
@[simp] theorem State.updCluster_target (s : State) (cl : Nat) (f : Cluster → Cluster) : (s.updCluster cl f).target = s.target := rfl
@[simp] theorem State.updCluster_issue (s : State) (cl : Nat) (f : Cluster → Cluster) : (s.updCluster cl f).issue = s.issue := rfl

/-! ### updCore -/

@[simp] theorem State.updCore_timer (s : State) (cl co : Nat) (f : Core → Core) : (s.updCore cl co f).timer = s.timer := rfl
@[simp] theorem State.updCore_start (s : State) (cl co : Nat) (f : Core → Core) : (s.updCore cl co f).start = s.start := rfl
@[simp] theorem State.updCore_record (s : State) (cl co : Nat) (f : Core → Core) : (s.updCore cl co f).record = s.record := rfl
@[simp] theorem State.updCore_gbudEn (s : State) (cl co : Nat) (f : Core → Core) : (s.updCore cl co f).gbudEn = s.gbudEn := rfl
@[simp] theorem State.updCore_gbudWatt (s : State) (cl co : Nat) (f : Core → Core) : (s.updCore cl co f).gbudWatt = s.gbudWatt := rfl
@[simp] theorem State.updCore_inrush (s : State) (cl co : Nat) (f : Core → Core) : (s.updCore cl co f).inrush = s.inrush := rfl
@[simp] theorem State.updCore_closing (s : State) (cl co : Nat) (f : Core → Core) : (s.updCore cl co f).closing = s.closing := rfl
@[simp] theorem State.updCore_ports (s : State) (cl co : Nat) (f : Core → Core) : (s.updCore cl co f).ports = s.ports := rfl
@[simp] theorem State.updCore_peers (s : State) (cl co : Nat) (f : Core → Core) : (s.updCore cl co f).peers = s.peers := rfl
@[simp] theorem State.updCore_health (s : State) (cl co : Nat) (f : Core → Core) : (s.updCore cl co f).health = s.health := rfl
@[simp] theorem State.updCore_requests (s : State) (cl co : Nat) (f : Core → Core) : (s.updCore cl co f).requests = s.requests := rfl
@[simp] theorem State.updCore_ptime (s : State) (cl co : Nat) (f : Core → Core) : (s.updCore cl co f).ptime = s.ptime := rfl
@[simp] theorem State.updCore_faults (s : State) (cl co : Nat) (f : Core → Core) : (s.updCore cl co f).faults = s.faults := rfl
@[simp] theorem State.updCore_unlisted (s : State) (cl co : Nat) (f : Core → Core) : (s.updCore cl co f).unlisted = s.unlisted := rfl
@[simp] theorem State.updCore_oasis (s : State) (cl co : Nat) (f : Core → Core) : (s.updCore cl co f).oasis = s.oasis := rfl
@[simp] theorem State.updCore_queues (s : State) (cl co : Nat) (f : Core → Core) : (s.updCore cl co f).queues = s.queues := rfl
@[simp] theorem State.updCore_contexts (s : State) (cl co : Nat) (f : Core → Core) : (s.updCore cl co f).contexts = s.contexts := rfl
@[simp] theorem State.updCore_commands (s : State) (cl co : Nat) (f : Core → Core) : (s.updCore cl co f).commands = s.commands := rfl
@[simp] theorem State.updCore_launches (s : State) (cl co : Nat) (f : Core → Core) : (s.updCore cl co f).launches = s.launches := rfl
@[simp] theorem State.updCore_gathers (s : State) (cl co : Nat) (f : Core → Core) : (s.updCore cl co f).gathers = s.gathers := rfl
@[simp] theorem State.updCore_teams (s : State) (cl co : Nat) (f : Core → Core) : (s.updCore cl co f).teams = s.teams := rfl
@[simp] theorem State.updCore_mem (s : State) (cl co : Nat) (f : Core → Core) : (s.updCore cl co f).mem = s.mem := rfl
@[simp] theorem State.updCore_badGranules (s : State) (cl co : Nat) (f : Core → Core) : (s.updCore cl co f).badGranules = s.badGranules := rfl
@[simp] theorem State.updCore_watermarks (s : State) (cl co : Nat) (f : Core → Core) : (s.updCore cl co f).watermarks = s.watermarks := rfl
@[simp] theorem State.updCore_remote (s : State) (cl co : Nat) (f : Core → Core) : (s.updCore cl co f).remote = s.remote := rfl
@[simp] theorem State.updCore_loads (s : State) (cl co : Nat) (f : Core → Core) : (s.updCore cl co f).loads = s.loads := rfl
@[simp] theorem State.updCore_stores (s : State) (cl co : Nat) (f : Core → Core) : (s.updCore cl co f).stores = s.stores := rfl
@[simp] theorem State.updCore_cpas (s : State) (cl co : Nat) (f : Core → Core) : (s.updCore cl co f).cpas = s.cpas := rfl
@[simp] theorem State.updCore_batches (s : State) (cl co : Nat) (f : Core → Core) : (s.updCore cl co f).batches = s.batches := rfl
@[simp] theorem State.updCore_passes (s : State) (cl co : Nat) (f : Core → Core) : (s.updCore cl co f).passes = s.passes := rfl
@[simp] theorem State.updCore_msix (s : State) (cl co : Nat) (f : Core → Core) : (s.updCore cl co f).msix = s.msix := rfl
@[simp] theorem State.updCore_nextId (s : State) (cl co : Nat) (f : Core → Core) : (s.updCore cl co f).nextId = s.nextId := rfl
@[simp] theorem State.updCore_free (s : State) (cl co : Nat) (f : Core → Core) : (s.updCore cl co f).free = s.free := rfl
@[simp] theorem State.updCore_agenda (s : State) (cl co : Nat) (f : Core → Core) : (s.updCore cl co f).agenda = s.agenda := rfl
@[simp] theorem State.updCore_epoch (s : State) (cl co : Nat) (f : Core → Core) : (s.updCore cl co f).epoch = s.epoch := rfl
@[simp] theorem State.updCore_sysCache (s : State) (cl co : Nat) (f : Core → Core) : (s.updCore cl co f).sysCache = s.sysCache := rfl
@[simp] theorem State.updCore_target (s : State) (cl co : Nat) (f : Core → Core) : (s.updCore cl co f).target = s.target := rfl
@[simp] theorem State.updCore_issue (s : State) (cl co : Nat) (f : Core → Core) : (s.updCore cl co f).issue = s.issue := rfl

/-! ### updPass -/

@[simp] theorem State.updPass_timer (s : State) (id : Nat) (f : Pass → Pass) : (s.updPass id f).timer = s.timer := rfl
@[simp] theorem State.updPass_start (s : State) (id : Nat) (f : Pass → Pass) : (s.updPass id f).start = s.start := rfl
@[simp] theorem State.updPass_record (s : State) (id : Nat) (f : Pass → Pass) : (s.updPass id f).record = s.record := rfl
@[simp] theorem State.updPass_gbudEn (s : State) (id : Nat) (f : Pass → Pass) : (s.updPass id f).gbudEn = s.gbudEn := rfl
@[simp] theorem State.updPass_gbudWatt (s : State) (id : Nat) (f : Pass → Pass) : (s.updPass id f).gbudWatt = s.gbudWatt := rfl
@[simp] theorem State.updPass_inrush (s : State) (id : Nat) (f : Pass → Pass) : (s.updPass id f).inrush = s.inrush := rfl
@[simp] theorem State.updPass_closing (s : State) (id : Nat) (f : Pass → Pass) : (s.updPass id f).closing = s.closing := rfl
@[simp] theorem State.updPass_ports (s : State) (id : Nat) (f : Pass → Pass) : (s.updPass id f).ports = s.ports := rfl
@[simp] theorem State.updPass_peers (s : State) (id : Nat) (f : Pass → Pass) : (s.updPass id f).peers = s.peers := rfl
@[simp] theorem State.updPass_health (s : State) (id : Nat) (f : Pass → Pass) : (s.updPass id f).health = s.health := rfl
@[simp] theorem State.updPass_requests (s : State) (id : Nat) (f : Pass → Pass) : (s.updPass id f).requests = s.requests := rfl
@[simp] theorem State.updPass_ptime (s : State) (id : Nat) (f : Pass → Pass) : (s.updPass id f).ptime = s.ptime := rfl
@[simp] theorem State.updPass_faults (s : State) (id : Nat) (f : Pass → Pass) : (s.updPass id f).faults = s.faults := rfl
@[simp] theorem State.updPass_unlisted (s : State) (id : Nat) (f : Pass → Pass) : (s.updPass id f).unlisted = s.unlisted := rfl
@[simp] theorem State.updPass_oasis (s : State) (id : Nat) (f : Pass → Pass) : (s.updPass id f).oasis = s.oasis := rfl
@[simp] theorem State.updPass_queues (s : State) (id : Nat) (f : Pass → Pass) : (s.updPass id f).queues = s.queues := rfl
@[simp] theorem State.updPass_contexts (s : State) (id : Nat) (f : Pass → Pass) : (s.updPass id f).contexts = s.contexts := rfl
@[simp] theorem State.updPass_commands (s : State) (id : Nat) (f : Pass → Pass) : (s.updPass id f).commands = s.commands := rfl
@[simp] theorem State.updPass_launches (s : State) (id : Nat) (f : Pass → Pass) : (s.updPass id f).launches = s.launches := rfl
@[simp] theorem State.updPass_gathers (s : State) (id : Nat) (f : Pass → Pass) : (s.updPass id f).gathers = s.gathers := rfl
@[simp] theorem State.updPass_clusters (s : State) (id : Nat) (f : Pass → Pass) : (s.updPass id f).clusters = s.clusters := rfl
@[simp] theorem State.updPass_teams (s : State) (id : Nat) (f : Pass → Pass) : (s.updPass id f).teams = s.teams := rfl
@[simp] theorem State.updPass_mem (s : State) (id : Nat) (f : Pass → Pass) : (s.updPass id f).mem = s.mem := rfl
@[simp] theorem State.updPass_badGranules (s : State) (id : Nat) (f : Pass → Pass) : (s.updPass id f).badGranules = s.badGranules := rfl
@[simp] theorem State.updPass_watermarks (s : State) (id : Nat) (f : Pass → Pass) : (s.updPass id f).watermarks = s.watermarks := rfl
@[simp] theorem State.updPass_remote (s : State) (id : Nat) (f : Pass → Pass) : (s.updPass id f).remote = s.remote := rfl
@[simp] theorem State.updPass_loads (s : State) (id : Nat) (f : Pass → Pass) : (s.updPass id f).loads = s.loads := rfl
@[simp] theorem State.updPass_stores (s : State) (id : Nat) (f : Pass → Pass) : (s.updPass id f).stores = s.stores := rfl
@[simp] theorem State.updPass_cpas (s : State) (id : Nat) (f : Pass → Pass) : (s.updPass id f).cpas = s.cpas := rfl
@[simp] theorem State.updPass_batches (s : State) (id : Nat) (f : Pass → Pass) : (s.updPass id f).batches = s.batches := rfl
@[simp] theorem State.updPass_msix (s : State) (id : Nat) (f : Pass → Pass) : (s.updPass id f).msix = s.msix := rfl
@[simp] theorem State.updPass_nextId (s : State) (id : Nat) (f : Pass → Pass) : (s.updPass id f).nextId = s.nextId := rfl
@[simp] theorem State.updPass_free (s : State) (id : Nat) (f : Pass → Pass) : (s.updPass id f).free = s.free := rfl
@[simp] theorem State.updPass_agenda (s : State) (id : Nat) (f : Pass → Pass) : (s.updPass id f).agenda = s.agenda := rfl
@[simp] theorem State.updPass_epoch (s : State) (id : Nat) (f : Pass → Pass) : (s.updPass id f).epoch = s.epoch := rfl
@[simp] theorem State.updPass_sysCache (s : State) (id : Nat) (f : Pass → Pass) : (s.updPass id f).sysCache = s.sysCache := rfl
@[simp] theorem State.updPass_target (s : State) (id : Nat) (f : Pass → Pass) : (s.updPass id f).target = s.target := rfl
@[simp] theorem State.updPass_issue (s : State) (id : Nat) (f : Pass → Pass) : (s.updPass id f).issue = s.issue := rfl

end Sys2Proof.Machine
end

