-- ==== Sys2Proof/Laws/Data.lean ====
section
/-! SUPPORT. What moving, parking and bundling threads leave alone: the data of a state; and what a word does that acts in
one place. -/

namespace Sys2Proof.Machine

/-! ### Lists -/

theorem updAt_map_of {α β : Type} (g : α → β) (f : α → α) (h : ∀ x, g (f x) = g x) (l : List α) (i : Nat) :
    (updAt l i f).map g = l.map g := by
  induction l generalizing i with
  | nil => simp [updAt]
  | cons x l ih => cases i <;> simp [updAt, h, ih]

theorem foldl_of_step {α β γ : Type} (g : β → γ) (f : β → α → β) (h : ∀ b a, g (f b a) = g b) (l : List α) (b : β) :
    g (l.foldl f b) = g b := by
  induction l generalizing b with
  | nil => rfl
  | cons a l ih => simp [ih, h]

/-! ### Updates that keep the data -/

theorem State.updTeam_data (s : State) (id : Nat) (f : Team → Team) (h : ∀ t, (f t).data = t.data) :
    (s.updTeam id f).data = s.data := by
  simp only [State.updTeam, State.data, List.map_map]
  congr 1
  apply List.map_congr_left
  intro t _
  simp only [Function.comp_apply]
  split <;> simp [h]

theorem State.updWarp_data (s : State) (tm w : Nat) (f : Warp → Warp) (h : ∀ x, (f x).data = x.data) :
    (s.updWarp tm w f).data = s.data := by
  apply State.updTeam_data
  intro t
  simp only [Team.updWarp, Team.data, updAt_map_of Warp.data f h]

theorem Warp.updThread_data (x : Warp) (l : Nat) (f : Thread → Thread) (h : ∀ th, (f th).data = th.data) :
    (x.updThread l f).data = x.data := by
  simp only [Warp.updThread, Warp.data, updAt_map_of Thread.data f h]

theorem State.updThread_data (s : State) (tm w l : Nat) (f : Thread → Thread) (h : ∀ th, (f th).data = th.data) :
    (s.updThread tm w l f).data = s.data := by
  exact s.updWarp_data tm w _ fun x => x.updThread_data l f h

theorem State.updCore_data (s : State) (cl co : Nat) (f : Core → Core) (h : ∀ k, (f k).data = k.data) :
    (s.updCore cl co f).data = s.data := by
  simp only [State.updCore, State.updCluster, State.data]
  congr 1
  apply updAt_map_of
  intro c
  simp only [Cluster.data, updAt_map_of Core.data f h]

@[simp] theorem Thread.park_data (th : Thread) (now : Nat) (w : Wait) : (th.park now w).data = th.data := rfl
@[simp] theorem Thread.unpark_data (th : Thread) : th.unpark.data = th.data := rfl

@[simp] theorem State.unbundle_data (s : State) (tm w l : Nat) : (s.unbundle tm w l).data = s.data := by
  unfold State.unbundle
  split
  · rfl
  · exact s.updCore_data _ _ _ fun _ => rfl

@[simp] theorem State.dissolve_data (s : State) (tm : Nat) : (s.dissolve tm).data = s.data := by
  unfold State.dissolve
  split
  · rfl
  · exact s.updCore_data _ _ _ fun _ => rfl

@[simp] theorem Warp.settleMeetings_data (w : Warp) : w.settleMeetings.data = w.data := by
  simp only [Warp.settleMeetings, Warp.data, List.map_map]
  congr 1
  apply List.map_congr_left
  intro th _
  simp only [Function.comp_apply]
  split <;> rfl

@[simp] theorem Thread.arriveAt_data (th : Thread) (hdr : Nat) (prog : Prog) (clk now : Nat) :
    (th.arriveAt hdr prog clk now).data = th.data := by
  simp only [Thread.arriveAt]
  split <;> rfl

@[simp] theorem State.arrive_data (s : State) (tm w l hdr : Nat) : (s.arrive tm w l hdr).data = s.data := by
  unfold State.arrive
  split
  · rfl
  · simp only
    rw [State.updWarp_data, State.unbundle_data]
    intro x
    rw [Warp.settleMeetings_data]
    exact x.updThread_data l _ fun th => th.arriveAt_data _ _ _ _

@[simp] theorem State.advance_data (s : State) (tm w l len : Nat) (cnt : Option Nat) :
    (s.advance tm w l len cnt).data = s.data := by
  simp only [State.advance]
  split
  · exact s.updThread_data _ _ _ _ fun _ => rfl
  · simp

@[simp] theorem State.holdLane_data (s : State) (tm : Nat) (leave : Bool) (w : Wait) (m : Nat × Nat) :
    (s.holdLane tm leave w m).data = s.data := by
  unfold State.holdLane
  split
  · rw [State.unbundle_data]
    exact s.updThread_data _ _ _ _ fun _ => rfl
  · exact s.updThread_data _ _ _ _ fun _ => rfl

@[simp] theorem Issue.missedTrap_data (iss : Issue) (x : Nat × Nat) (s : State) :
    (iss.missedTrap x s).data = s.data := by
  unfold Issue.missedTrap
  split <;> rfl

@[simp] theorem Issue.holdMates_data (iss : Issue) (rs : List ((Nat × Nat) × LaneRes × Word)) (s : State) :
    (iss.holdMates rs s).data = s.data := by
  unfold Issue.holdMates
  simp only
  split
  · rfl
  · rw [foldl_of_step State.data, foldl_of_step State.data]
    · intro s m
      exact s.updThread_data _ _ _ _ fun _ => rfl
    · intro s x
      split <;> simp

/-! ### A word in one place -/

theorem Issue.finish_done_data (iss : Issue) (len : Nat) (m : Nat × Nat) (d : Word) (s : State) :
    (iss.finish len [(m, .done, d)] s).data = s.data := by
  unfold Issue.finish
  split
  · rfl
  · simp only [List.foldl_cons, List.foldl_nil, List.flatMap_cons, List.flatMap_nil, List.append_nil,
      Issue.deliverTraps, Issue.holdMates_data]
    apply foldl_of_step State.data
    intro s x
    split <;> simp

theorem Issue.finish_stay_data (iss : Issue) (len : Nat) (m : Nat × Nat) (w : Wait) (d : Word) (s : State) :
    (iss.finish len [(m, .stay w, d)] s).data = s.data := by
  unfold Issue.finish
  split
  · rfl
  · simp only [List.foldl_cons, List.foldl_nil, List.flatMap_cons, List.flatMap_nil, List.append_nil,
      Issue.deliverTraps, Issue.holdMates_data]
    exact foldl_of_step State.data _ (fun s x => s.holdLane_data _ _ _ _) _ _

theorem Issue.finish_moved_data (iss : Issue) (len : Nat) (m : Nat × Nat) (d : Word) (s : State) :
    (iss.finish len [(m, .moved, d)] s).data = s.data := by
  unfold Issue.finish
  split
  · rfl
  · simp only [List.foldl_cons, List.foldl_nil, List.flatMap_cons, List.flatMap_nil, List.append_nil,
      Issue.deliverTraps, Issue.holdMates_data]
    split <;> simp

/-- Everything a word does that acts in one place and passes its checks. -/
theorem Form.perform_clear {fm : Form} {iss : Issue} {value : Ctx → Option Nat}
    {act : State → Ctx → State × LaneRes} {s : State} {t : Team} {w l : Nat}
    (ha : Acts s iss t w l) (hc : fm.clear value ⟨t, w, l, iss⟩) :
    fm.perform iss value act { s with issue := none } =
      iss.finish fm.len
        [((w, l), (act { s with issue := none } ⟨t, w, l, iss⟩).2, (fm.data.map (Ctx.rd ⟨t, w, l, iss⟩)).getD 0)]
        (act { s with issue := none } ⟨t, w, l, iss⟩).1 := by
  obtain ⟨h1, h2⟩ := hc
  have ht : State.team? { s with issue := none } iss.team = some t := ha.team
  have ht' : ({ s with issue := none } : State).team? iss.team = some t := ha.team
  simp only at h1
  unfold Form.perform
  simp only [ht, h1, ha.actor]
  have e : (List.filter (fun m : Nat × Nat => Ctx.checks ⟨t, m.1, m.2, iss⟩ fm.os (value ⟨t, m.1, m.2, iss⟩) fm.pure
      == some Stop.hold) [(w, l)]) = [] := by simp [h2]
  simp only [e]
  simp [Form.lane, h2, ht']

/-- A word that is done has the effect of its action. -/
theorem Form.perform_done {fm : Form} {iss : Issue} {value : Ctx → Option Nat}
    {act : State → Ctx → State × LaneRes} {s : State} {t : Team} {w l : Nat} {s1 : State}
    (ha : Acts s iss t w l) (hc : fm.clear value ⟨t, w, l, iss⟩)
    (h : act { s with issue := none } ⟨t, w, l, iss⟩ = (s1, .done)) :
    (fm.perform iss value act { s with issue := none }).data = s1.data := by
  rw [Form.perform_clear ha hc, h, Issue.finish_done_data]

theorem withIssue_of {s : State} {iss : Issue} (h : s.issue = some iss) (k : Issue → State → State) :
    withIssue s k = .next (k iss { s with issue := none }) := by
  simp [withIssue, h]

/-- The effect of a register word that raises no trap. -/
theorem regWord_clear {fm : Issue → Form} {run : Issue → Ctx → Eff} {s : State} {iss : Issue} {t : Team} {w l : Nat}
    (ha : Acts s iss t w l) (hc : (fm iss).clear (fun _ => none) ⟨t, w, l, iss⟩)
    (hf : (run iss ⟨t, w, l, iss⟩).cause (t.thread w l) = none) :
    ∃ s', regWord fm run s = .next s' ∧
      s'.data = ((run iss ⟨t, w, l, iss⟩).apply iss (w, l) { s with issue := none }).data := by
  refine ⟨_, withIssue_of ha.issue _, ?_⟩
  apply Form.perform_done ha hc
  have hf' : (run iss ⟨t, w, l, iss⟩).cause (Ctx.th ⟨t, w, l, iss⟩) = none := hf
  simp [effAct, hf']

theorem Eff.cause_none_of_untrapped {e : Eff} {th : Thread} (ht : e.trap = none) (h : th.untrapped e.fl e.ist) :
    e.cause th = none := by
  obtain ⟨h1, h2⟩ := h
  unfold Eff.cause
  rw [ht]
  simp only [h1, ne_eq, not_true_eq_false, if_false]
  split
  · next h3 =>
    simp only [Bool.and_eq_true, decide_eq_true_eq] at h3
    exact absurd (h2 h3.1) h3.2
  · rfl

/-- A register word that writes one operand. -/
theorem regWord_writesOne {i : Instr} {fm : Issue → Form} {run : Issue → Ctx → Eff} {o : Issue → Opnd}
    {rule : Ctx → List (Word × Tag) → FpFlags → IntFlags → Prop}
    (hx : ∀ s, exec i s = regWord fm run s)
    (hr : ∀ iss c, ∃ ws fl ist, run iss c = { regs := [(o iss, ws)], fl := fl, ist := ist })
    (hq : ∀ iss c ws fl ist, c.iss = iss → (fm iss).clear (fun _ => none) c →
      run iss c = { regs := [(o iss, ws)], fl := fl, ist := ist } → rule c ws fl ist) :
    WritesOne i fm o rule := by
  intro s iss t w l ha hc
  obtain ⟨ws, fl, ist, he⟩ := hr iss ⟨t, w, l, iss⟩
  refine ⟨ws, fl, ist, hq _ _ _ _ _ rfl hc he, fun hu => ?_⟩
  have hcause : (run iss ⟨t, w, l, iss⟩).cause (t.thread w l) = none := by
    apply Eff.cause_none_of_untrapped <;> rw [he]
    exact hu
  obtain ⟨s', h1, h2⟩ := regWord_clear ha hc hcause
  exact ⟨s', by rw [hx, h1], by rw [h2, he]; rfl⟩

/-- A register word with a value check. -/
theorem effects_of_effAct {i : Instr} {fm : Issue → Form} {value : Issue → Ctx → Option Nat} {run : Issue → Ctx → Eff}
    {cond : State → Ctx → Prop} {eff : Ctx → State → State}
    (hx : ∀ s, exec i s = withIssue s fun iss => (fm iss).perform iss (value iss) (effAct iss (run iss)))
    (h1 : ∀ iss c s, c.iss = iss → cond s c → (run iss c).cause c.th = none)
    (h2 : ∀ iss c s, c.iss = iss → (fm iss).clear (value iss) c → cond s c →
      ((run iss c).apply iss (c.w, c.l) s).data = (eff c s).data) :
    Effects i fm value cond eff := by
  intro s iss t w l ha hc hcond
  refine ⟨_, by rw [hx, withIssue_of ha.issue], ?_⟩
  rw [← h2 iss ⟨t, w, l, iss⟩ { s with issue := none } rfl hc hcond]
  apply Form.perform_done ha hc
  have := h1 iss ⟨t, w, l, iss⟩ { s with issue := none } rfl hcond
  simp [effAct, this]

/-- Any word whose action is done. -/
theorem effects_of_done {i : Instr} {fm : Issue → Form} {value : Issue → Ctx → Option Nat}
    {act : Issue → State → Ctx → State × LaneRes} {cond : State → Ctx → Prop} {eff : Ctx → State → State}
    (hx : ∀ s, exec i s = withIssue s fun iss => (fm iss).perform iss (value iss) (act iss))
    (h : ∀ iss c s, c.iss = iss → (fm iss).clear (value iss) c → cond s c →
      (act iss s c).2 = .done ∧ (act iss s c).1.data = (eff c s).data) :
    Effects i fm value cond eff := by
  intro s iss t w l ha hc hcond
  obtain ⟨h1, h2⟩ := h iss ⟨t, w, l, iss⟩ { s with issue := none } rfl hc hcond
  refine ⟨_, by rw [hx, withIssue_of ha.issue], ?_⟩
  rw [← h2]
  exact Form.perform_done ha hc (Prod.ext rfl h1)

/-! ### Words in several places -/

theorem Issue.finish_allDone_data (iss : Issue) (len : Nat) (rs : List ((Nat × Nat) × LaneRes × Word)) (s : State)
    (h : ∀ r ∈ rs, r.2.1 = .done) : (iss.finish len rs s).data = s.data := by
  unfold Issue.finish
  split
  · rfl
  · rename_i t ht
    clear ht
    simp only
    rw [List.flatMap_eq_nil_iff.mpr fun r hr => by simp [h r hr]]
    simp only [Issue.deliverTraps, List.foldl_nil, Issue.holdMates_data]
    induction rs generalizing s with
    | nil => rfl
    | cons r rs ih =>
      rw [List.foldl_cons, ih _ fun r' h' => h r' (List.mem_cons_of_mem _ h')]
      obtain ⟨m, x, d⟩ := r
      have hx : x = .done := h (m, x, d) List.mem_cons_self
      subst hx
      simp only
      apply foldl_of_step State.data
      intro s y
      split <;> simp

/-- Everything a word does that acts once for its warp. -/
theorem Form.performOnce_done {fm : Form} {iss : Issue} {value : Ctx → Option Nat}
    {act : State → Ctx → State × LaneRes} {s : State} {t : Team} {w l : Nat} {s1 : State}
    (ha : ActsOnce s iss t w l fm value)
    (h : act { s with issue := none } ⟨t, w, l, iss⟩ = (s1, .done)) :
    (fm.performOnce iss value act { s with issue := none }).data = s1.data := by
  have ht : State.team? { s with issue := none } iss.team = some t := ha.team
  unfold Form.performOnce
  simp only [ht, ha.pre]
  have e : (List.filterMap (fun m : Nat × Nat => Ctx.checks ⟨t, m.1, m.2, iss⟩ fm.os (value ⟨t, m.1, m.2, iss⟩) fm.pure)
      ((iss.actors t).flatMap (iss.lanes t))) = [] := List.filterMap_eq_nil_iff.mpr ha.ready
  simp only [e]
  have hf := ha.first
  generalize (iss.actors t).flatMap (iss.lanes t) = ms at hf ⊢
  cases ms with
  | nil => simp at hf
  | cons m ms =>
    simp only [List.head?_cons, Option.some.injEq] at hf
    subst hf
    simp only [List.contains_nil, Bool.false_eq_true, if_false, h]
    apply Issue.finish_allDone_data
    intro r hr
    split at hr
    · simp only [List.mem_singleton] at hr
      rw [hr]
    · simp only [List.mem_map] at hr
      obtain ⟨_, _, rfl⟩ := hr
      rfl

/-- A word that acts once for its warp and is done. -/
theorem effectsOnce_of_done {i : Instr} {fm : Issue → Form} {value : Issue → Ctx → Option Nat}
    {act : Issue → State → Ctx → State × LaneRes} {cond : State → Ctx → Prop} {eff : Ctx → State → State}
    (hx : ∀ s, exec i s = withIssue s fun iss => (fm iss).performOnce iss (value iss) (act iss))
    (h : ∀ iss c s, c.iss = iss → cond s c → act iss s c = (eff c s, .done)) :
    EffectsOnce i fm value cond eff := by
  intro s iss t w l ha hcond
  refine ⟨_, by rw [hx, withIssue_of ha.issue], ?_⟩
  exact Form.performOnce_done ha (h iss ⟨t, w, l, iss⟩ { s with issue := none } rfl hcond)

theorem filter_all {α : Type} (p : α → Bool) (l : List α) (h : ∀ x ∈ l, p x = true) : l.filter p = l :=
  List.filter_eq_self.mpr h

/-- A fold over a list that collects one finished result for each element. -/
theorem foldl_collect {α : Type} (f : State × List ((Nat × Nat) × LaneRes × Word) → α → State × List ((Nat × Nat) × LaneRes × Word))
    (g : State → α → State) (key : α → Nat × Nat) (l : List α)
    (h : ∀ s rs, ∀ a ∈ l, f (s, rs) a = (g s a, rs ++ [(key a, .done, 0)])) (s : State)
    (rs : List ((Nat × Nat) × LaneRes × Word)) :
    l.foldl f (s, rs) = (l.foldl g s, rs ++ l.map fun a => (key a, .done, 0)) := by
  induction l generalizing s rs with
  | nil => simp
  | cons a l ih =>
    rw [List.foldl_cons, h s rs a List.mem_cons_self, ih (fun s rs b hb => h s rs b (List.mem_cons_of_mem _ hb))]
    simp

/-- A cross-lane word whose tiles are complete has its effect in every thread. -/
theorem Form.performTiles_data {fm : Form} {iss : Issue} {value : Ctx → Option Nat} {run : XTile → Ctx → Eff} {s : State}
    {t : Team} (hg : Gathers s iss t fm value)
    (hc : ∀ m ∈ iss.actors t, (run (iss.tile s t m) ⟨t, m.1, m.2, iss⟩).cause (t.thread m.1 m.2) = none) :
    (fm.performTiles iss value run { s with issue := none }).data =
      ((iss.actors t).foldl (fun s' m => (run (iss.tile s t m) ⟨t, m.1, m.2, iss⟩).apply iss m
        (s'.rejoin iss m (iss.tile s t m))) { s with issue := none }).data := by
  have ht : State.team? { s with issue := none } iss.team = some t := hg.team
  have hp : State.isProtected { s with issue := none } t = s.isProtected t := rfl
  unfold Form.performTiles
  simp only [ht, hg.pre, hp]
  have hready : (iss.actors t).filter (fun m => Ctx.checks ⟨t, m.1, m.2, iss⟩ fm.os (value ⟨t, m.1, m.2, iss⟩) fm.pure == none)
      = iss.actors t := filter_all _ _ fun m hm => by simp [hg.ready m hm]
  have hheld : (iss.actors t).filter
      (fun m => Ctx.checks ⟨t, m.1, m.2, iss⟩ fm.os (value ⟨t, m.1, m.2, iss⟩) fm.pure == some Stop.hold) = [] := by
    rw [List.filter_eq_nil_iff]
    intro m hm
    simp [hg.ready m hm]
  simp only [hready, hheld, List.isEmpty_nil, Bool.not_true, Bool.and_false, Bool.false_eq_true, if_false, List.foldl_nil]
  rw [foldl_collect _ (fun s' m => (run (iss.tile s t m) ⟨t, m.1, m.2, iss⟩).apply iss m
      (s'.rejoin iss m (iss.tile s t m))) id]
  · simp only
    rw [Issue.finish_allDone_data]
    intro r hr
    simp only [List.nil_append, List.mem_map] at hr
    obtain ⟨m, _, rfl⟩ := hr
    rfl
  · intro s' rs m hm
    have hw : (hdrCollective iss.header || ((iss.awaited t (s.isProtected t) m).contains m.2 &&
        (iss.awaited t (s.isProtected t) m).all fun l => (iss.actors t).contains (m.1, l))) = true := by
      rcases hg.whole m hm with h | h
      · simp [h]
      · simp only [Bool.or_eq_true, Bool.and_eq_true, List.all_eq_true, List.contains_iff_mem]
        exact .inr h
    have hcm : (run (iss.tile s t m) ⟨t, m.1, m.2, iss⟩).cause (Ctx.th ⟨t, m.1, m.2, iss⟩) = none := hc m hm
    simp only [hg.ready m hm, hw, if_true]
    simp only [Issue.tile] at hcm
    simp only [effAct, hcm, Issue.tile, State.rejoin, Issue.at_, id]

/-- A cross-lane word that writes one operand. -/
theorem crossWord_writes {i : Instr} {fm : Issue → Form} {value : Issue → Ctx → Option Nat}
    {run : Issue → XTile → Ctx → Eff} {o : Issue → Opnd} {rule : XTile → Ctx → XRes → Prop} (res : XTile → Ctx → XRes)
    (hx : ∀ s, exec i s = crossWord fm value run s)
    (hr : ∀ iss x c, c.iss = iss →
      run iss x c = { regs := [(o iss, (res x c).ws)], fl := (res x c).fl, ist := (res x c).ist })
    (hq : ∀ x c, rule x c (res x c)) : CrossWrites i fm value o rule := by
  intro s iss t hg
  refine ⟨fun m => res (iss.tile s t m) ⟨t, m.1, m.2, iss⟩, fun m _ => hq _ _, fun hu => ?_⟩
  refine ⟨_, by rw [hx]; exact withIssue_of hg.issue _, ?_⟩
  rw [Form.performTiles_data hg]
  · congr 2
    funext s' m
    rw [hr iss _ ⟨t, m.1, m.2, iss⟩ rfl]
    rfl
  · intro m hm
    rw [hr iss _ ⟨t, m.1, m.2, iss⟩ rfl]
    exact Eff.cause_none_of_untrapped rfl (hu m hm)

end Sys2Proof.Machine
end

