-- ==== Sys2Proof/Laws/Memory.lean ====
section
/-! SUPPORT. What reading, writing and restoring do to a memory: a byte is read back, no other byte changes, and the
canonical form stays (log 1). -/

namespace Sys2Proof.Machine

namespace Memory

/-! ### The canonical form -/

theorem wfFrom_mono {m : Memory} {lo lo' : Nat} (h : lo' ≤ lo) (hm : wfFrom lo m = true) : wfFrom lo' m = true := by
  cases m with
  | nil => rfl
  | cons c m =>
    simp only [wfFrom, Bool.and_eq_true, decide_eq_true_eq] at hm ⊢
    exact ⟨⟨Nat.le_trans h hm.1.1, hm.1.2⟩, hm.2⟩

theorem wfFrom_tail {a : Nat} {b : Byte} {m : Memory} {lo : Nat} (h : wfFrom lo ((a, b) :: m) = true) :
    lo ≤ a ∧ b ≠ 0 ∧ wfFrom (a + 1) m = true := by
  simp only [wfFrom, Bool.and_eq_true, decide_eq_true_eq, bne_iff_ne] at h
  exact ⟨h.1.1, h.1.2, h.2⟩

theorem wfFrom_cons {a : Nat} {b : Byte} {m : Memory} {lo : Nat} (h : lo ≤ a) (hb : b ≠ 0) (hm : wfFrom (a + 1) m = true) :
    wfFrom lo ((a, b) :: m) = true := by
  simp only [wfFrom, Bool.and_eq_true, decide_eq_true_eq, bne_iff_ne]
  exact ⟨⟨h, hb⟩, hm⟩

theorem wfFrom_write {m : Memory} {lo x : Nat} {v : Byte} (hx : lo ≤ x) (hm : wfFrom lo m = true) :
    wfFrom lo (write m x v) = true := by
  induction m generalizing lo with
  | nil =>
    by_cases hv : v = 0
    · simp only [write, if_pos hv]; rfl
    · simp only [write, if_neg hv]; exact wfFrom_cons hx hv rfl
  | cons c m ih =>
    obtain ⟨a, b⟩ := c
    obtain ⟨ha, hb, ht⟩ := wfFrom_tail hm
    unfold write
    split
    · split
      · exact hm
      · exact wfFrom_cons hx ‹_› (wfFrom_cons (by omega) hb ht)
    · split
      · split
        · exact wfFrom_mono (by omega) ht
        · exact wfFrom_cons ha ‹_› ht
      · exact wfFrom_cons ha hb (ih (by omega) ht)

/-- A write keeps the canonical form. -/
theorem wf_write {m : Memory} (x : Nat) (v : Byte) (hm : wf m = true) : wf (write m x v) = true :=
  wfFrom_write (Nat.zero_le _) hm

/-- A write of several bytes keeps the canonical form. -/
theorem wf_writeBytes (bs : List Byte) (x : Nat) {m : Memory} (hm : wf m = true) : wf (writeBytes m x bs) = true := by
  induction bs generalizing m x with
  | nil => exact hm
  | cons b bs ih => exact ih _ (wf_write x b hm)

theorem wfFrom_filter (p : Host.Cell → Bool) {m : Memory} {lo : Nat} (hm : wfFrom lo m = true) :
    wfFrom lo (m.filter p) = true := by
  induction m generalizing lo with
  | nil => exact hm
  | cons c m ih =>
    obtain ⟨a, b⟩ := c
    obtain ⟨ha, hb, ht⟩ := wfFrom_tail hm
    rw [List.filter_cons]
    split
    · exact wfFrom_cons ha hb (ih ht)
    · exact wfFrom_mono (by omega) (ih ht)

/-- Dropping cells keeps the canonical form. -/
theorem wf_filter (p : Host.Cell → Bool) {m : Memory} (hm : wf m = true) : wf (m.filter p) = true := wfFrom_filter p hm

/-- Writing a list of cells keeps the canonical form. -/
theorem wf_foldl_write {α : Type} (f : α → Nat) (g : α → Byte) (l : List α) {m : Memory} (hm : wf m = true) :
    wf (l.foldl (fun m x => write m (f x) (g x)) m) = true := by
  induction l generalizing m with
  | nil => exact hm
  | cons c l ih => exact ih (wf_write _ _ hm)

/-- Copying a part of a page, as a snapshot and its return do, keeps the canonical form. -/
theorem wf_copyPart (src dst : Nat) {m : Memory} (hm : wf m = true) : wf (copyPart m src dst) = true :=
  wf_foldl_write _ _ _ (wf_filter _ hm)

theorem wf_nil : wf [] = true := rfl

/-! ### Reading what was written -/

theorem read_below {m : Memory} {lo x : Nat} (hm : wfFrom lo m = true) (hx : x < lo) : read m x = 0 := by
  cases m with
  | nil => rfl
  | cons c m =>
    obtain ⟨a, b⟩ := c
    have := (wfFrom_tail hm).1
    simp only [read]
    rw [if_neg (by omega), if_pos (by omega)]

theorem read_write_from {m : Memory} {lo x y : Nat} {v : Byte} (hm : wfFrom lo m = true) :
    read (write m x v) y = if y = x then v else read m y := by
  induction m generalizing lo with
  | nil =>
    by_cases hv : v = 0
    · by_cases hy : y = x
      · simp only [write, read, if_pos hy, hv, if_true]
      · simp only [write, read, if_pos hv, if_neg hy]
    · by_cases hy : y = x
      · subst hy; simp only [write, read, if_neg hv, if_true]
      · have hy' : ¬x = y := fun h => hy h.symm
        simp only [write, read, if_neg hv, if_neg hy, if_neg hy', ite_self]
  | cons c m ih =>
    obtain ⟨a, b⟩ := c
    obtain ⟨_, hb, ht⟩ := wfFrom_tail hm
    unfold write
    split
    · rename_i hxa
      split
      · rename_i hv
        by_cases hy : y = x
        · rw [if_pos hy, hy, hv]; simp only [read]; rw [if_neg (by omega), if_pos hxa]
        · rw [if_neg hy]
      · by_cases hy : y = x
        · subst hy; simp [read]
        · rw [if_neg hy]
          have hy' : ¬x = y := fun h => hy h.symm
          simp only [read, if_neg hy']
          by_cases hlt : y < x
          · rw [if_pos hlt, if_neg (by omega), if_pos (by omega)]
          · rw [if_neg hlt]
    · rename_i hxa
      split
      · rename_i hxe
        subst hxe
        split
        · rename_i hv
          by_cases hy : y = x
          · rw [if_pos hy, hv, hy]; exact read_below ht (by omega)
          · rw [if_neg hy]
            have hy' : ¬x = y := fun h => hy h.symm
            simp only [read, if_neg hy']
            by_cases hlt : y < x
            · rw [if_pos hlt]; exact read_below ht (by omega)
            · rw [if_neg hlt]
        · by_cases hy : y = x
          · rw [if_pos hy, hy]; simp [read]
          · rw [if_neg hy]
            have hy' : ¬x = y := fun h => hy h.symm
            simp only [read, if_neg hy']
      · rename_i hne
        simp only [read]
        by_cases hya : a = y
        · rw [if_pos hya, if_pos hya, if_neg (by omega)]
        · rw [if_neg hya, if_neg hya]
          by_cases hlt : y < a
          · rw [if_pos hlt, if_pos hlt, if_neg (by omega)]
          · rw [if_neg hlt, if_neg hlt]; exact ih ht

/-- The byte written is read back, and every other byte reads as before. -/
theorem read_write {m : Memory} (hm : wf m = true) (x y : Nat) (v : Byte) :
    read (write m x v) y = if y = x then v else read m y := read_write_from hm

@[simp] theorem readBytes_length (m : Memory) (x n : Nat) : (readBytes m x n).length = n := by
  induction n generalizing x with
  | zero => rfl
  | succ n ih => simp [readBytes, ih]

end Memory

/-- What is left of module memory once the slices are zeroed keeps the canonical form (R419). -/
theorem wf_memBelow {s : State} (hm : Memory.wf s.mem = true) : Memory.wf s.memBelow = true := by
  unfold State.memBelow
  generalize s.sysCache = l
  generalize s.mem = m at hm
  induction l generalizing m with
  | nil => exact hm
  | cons x l ih =>
    simp only [List.foldl_cons]
    cases x.old with
    | none => exact ih _ hm
    | some bs => exact ih _ (Memory.wf_writeBytes _ _ hm)

/-- A write at a home changes its bytes in memory and no team, load or store. -/
@[simp] theorem State.writeHome_mem (s : State) (x : Xlat) (bs : List Byte) :
    (s.writeHome x bs).mem = Memory.writeBytes s.mem x.key bs := by
  unfold State.writeHome; split <;> rfl
@[simp] theorem State.writeHome_teams (s : State) (x : Xlat) (bs : List Byte) : (s.writeHome x bs).teams = s.teams := by
  unfold State.writeHome; split <;> rfl
@[simp] theorem State.writeHome_loads (s : State) (x : Xlat) (bs : List Byte) : (s.writeHome x bs).loads = s.loads := by
  unfold State.writeHome; split <;> rfl
@[simp] theorem State.writeHome_stores (s : State) (x : Xlat) (bs : List Byte) : (s.writeHome x bs).stores = s.stores := by
  unfold State.writeHome; split <;> rfl

/-- The memory after reset has the canonical form. -/
theorem reset_mem_wf : Memory.wf State.reset.mem = true := rfl

/-! ### Bytes and words -/

@[simp] theorem leBytes_length (x n : Nat) : (leBytes x n).length = n := by
  induction n generalizing x with
  | zero => rfl
  | succ n ih => simp [leBytes, ih]

theorem leNat_lt (bs : List Byte) : leNat bs < 256 ^ bs.length := by
  induction bs with
  | nil => decide
  | cons b bs ih =>
    have := b.isLt
    simp only [leNat, List.length_cons, Nat.pow_succ]
    omega

/-! ### Lists: sorting, setting and updating -/

theorem mem_insertBy {α : Type} {le : α → α → Bool} {x y : α} {l : List α} :
    y ∈ insertBy le x l ↔ y = x ∨ y ∈ l := by
  induction l with
  | nil => simp [insertBy]
  | cons z l ih =>
    unfold insertBy
    split
    · simp
    · simp only [List.mem_cons, ih, or_left_comm]

@[simp] theorem insertBy_length {α : Type} (le : α → α → Bool) (x : α) (l : List α) :
    (insertBy le x l).length = l.length + 1 := by
  induction l with
  | nil => rfl
  | cons z l ih =>
    unfold insertBy
    split
    · rfl
    · simp [ih]

@[simp] theorem mem_sortBy {α : Type} {le : α → α → Bool} {y : α} {l : List α} : y ∈ sortBy le l ↔ y ∈ l := by
  induction l with
  | nil => rfl
  | cons x l ih => simp [sortBy, mem_insertBy, ih]

@[simp] theorem sortBy_length {α : Type} (le : α → α → Bool) (l : List α) : (sortBy le l).length = l.length := by
  induction l with
  | nil => rfl
  | cons x l ih => simp [sortBy, ih]

@[simp] theorem setAt_length {α : Type} (l : List α) (i : Nat) (x : α) : (setAt l i x).length = l.length := by
  induction l generalizing i with
  | nil => rfl
  | cons h t ih => cases i <;> simp [setAt, ih]

@[simp] theorem updAt_length {α : Type} (l : List α) (i : Nat) (f : α → α) : (updAt l i f).length = l.length := by
  induction l generalizing i with
  | nil => rfl
  | cons h t ih => cases i <;> simp [updAt, ih]

theorem setAt_getD {α : Type} (l : List α) (i j : Nat) (x d : α) :
    (setAt l i x).getD j d = if i = j ∧ j < l.length then x else l.getD j d := by
  induction l generalizing i j with
  | nil => simp [setAt]
  | cons h t ih =>
    cases i with
    | zero => cases j <;> simp [setAt]
    | succ i =>
      cases j with
      | zero => simp [setAt]
      | succ j => simpa [setAt] using ih i j

theorem updAt_getD {α : Type} (l : List α) (i j : Nat) (f : α → α) (d : α) :
    (updAt l i f).getD j d = if i = j ∧ j < l.length then f (l.getD j d) else l.getD j d := by
  induction l generalizing i j with
  | nil => simp [updAt]
  | cons h t ih =>
    cases i with
    | zero => cases j <;> simp [updAt]
    | succ i =>
      cases j with
      | zero => simp [updAt]
      | succ j => simpa [updAt] using ih i j

end Sys2Proof.Machine
end

