-- ==== Sys2Proof/Tests/Slice0.lean ====
section
/-! SUPPORT. The model's own tests: the checks of WellFormed refuse what they should, words written out from the manual
decode, and every statement's hypotheses are met by a concrete state. A witness is a theorem about the hypotheses of one
clause, taken from the obligation itself: `MetBy h x` says that `x` meets the hypotheses of the clause that `h` picks. -/

open Sys2Proof Sys2Proof.Machine

set_option maxRecDepth 100000

namespace Sys2Proof.Tests

/-! ### A small state: one core, one team of one warp, one thread at a word of a clause -/

/-- A clause header of eight words (R95). -/
def hdr (cls : Nat) (coll : Bool := false) : Word :=
  BitVec.ofNat 32 (12 * 2 ^ 28 + 8 * 2 ^ 24 + cls * 2 ^ 21 + if coll then 2 ^ 14 else 0)

/-- Registers with the values `l`, the rest zero. -/
def regs (l : List Word) : List Reg := l.map (fun x => ({ val := x } : Reg)) ++ List.replicate (64 - l.length) ({} : Reg)

def thr : Thread := { pos := { hdr := 0x10080 }, v := List.replicate 64 {} }

def prog : Prog :=
  { hdr := 0x10000, handler := 0x200, sregs := 512, vregs := 64, scratch := 4096, slots := 16, queues := 8, planes := 4
    acc := 8, memo := true }

/-- A team of one thread with the registers `v`. -/
def team (th : Thread := thr) : Team :=
  { id := 1, launch := 2, priv := true, prog := prog, place := .resident 0 0, slots := [0]
    warps := [{ threads := [th], s := List.replicate 512 {} }] }

def iss (cls : Nat) (coll : Bool := false) : Issue :=
  { team := 1, members := [(0, 0)], hdr := 0x10080, header := hdr cls coll, word := 1 }

/-- Two pages are cached, an immutable one at 0x20000; the table's other entries up to 0x2000000 are absent. -/
def chip (t : Team) (i : Issue) : State :=
  { clusters := [{ cores := [{}], tlb := [probePage 0x1000,
      { probePage 0x1000 with va := 0x20000, xl := { pa := 0x20000, imm := true } }] }]
    contexts := [{ id := 0, root := 0x1000 }], mem := [(0x1000, 9), (0x1041, 2)], teams := [t], issue := some i, nextId := 10 }

/-- The state and the place of most witnesses: the word of a class that issues for thread 0. -/
def st (cls : Nat) : State := chip (team) (iss cls)

theorem acts (th : Thread) (i : Issue) (hm : i.members = [(0, 0)]) (hc : i.cls ≠ 0) (ht : i.team = 1)
    (he : th.exited = false) : Acts (chip (team th) i) i (team th) 0 0 := by
  refine ⟨rfl, ?_, ?_, he⟩
  · rw [ht]; rfl
  · rw [Issue.actors, if_neg hc, hm]
    have : ((team th).thread 0 0).exited = false := he
    simp [this]

/-- The state meets the hypotheses of the clause `h` picks. -/
def MetOne {P : Prop} {i : Instr} {fm : Issue → Form} {o : Issue → Opnd}
    {rule : Ctx → List (Word × Tag) → FpFlags → IntFlags → Prop}
    (_ : P → WritesOne i fm o rule) (s : State) (iss : Issue) (t : Team) : Prop :=
  Acts s iss t 0 0 ∧ (fm iss).clear (fun _ => none) ⟨t, 0, 0, iss⟩ ∧ ∀ fl ist, (t.thread 0 0).untrapped fl ist

def MetBy {P : Prop} {i : Instr} {fm : Issue → Form} {value : Issue → Ctx → Option Nat} {cond : State → Ctx → Prop}
    {eff : Ctx → State → State} (_ : P → Effects i fm value cond eff) (s : State) (iss : Issue) (t : Team) : Prop :=
  Acts s iss t 0 0 ∧ (fm iss).clear (value iss) ⟨t, 0, 0, iss⟩ ∧ cond { s with issue := none } ⟨t, 0, 0, iss⟩

theorem quiet : ∀ fl ist, ((team).thread 0 0).untrapped fl ist := fun fl ist =>
  ⟨by rw [show ((team).thread 0 0).fpTraps = 0 from rfl]; exact BitVec.and_zero, by
    rw [show ((team).thread 0 0).idte = false from rfl]; exact fun h => nomatch h⟩

theorem acts1 (cls : Nat) (h : (iss cls).cls ≠ 0) : Acts (st cls) (iss cls) (team) 0 0 := acts thr _ rfl h rfl rfl

def f3 : A3 := ⟨2, 0, 1, 0, 0, 0⟩
def fi : AI := ⟨2, 0, 5⟩


theorem met_integer_arithmetic : ∀ r (hr : r ∈ integerArithmetic),
    MetOne (fun h : Obligations.IntegerArithmeticIsExact => h r hr f3) (st 1) (iss 1) (team) :=
  fun r hr => ⟨acts1 1 (by decide), by revert r hr; unfold Form.clear; decide, quiet⟩

theorem met_division : ∀ r (hr : r ∈ integerDivision),
    MetOne (fun h : Obligations.DivisionGivesTheTabledResults => h.1 r hr f3) (st 1) (iss 1) (team) :=
  fun r hr => ⟨acts1 1 (by decide), by revert r hr; unfold Form.clear; decide, quiet⟩

theorem met_bitwise : ∀ r (hr : r ∈ integerBits),
    MetOne (fun h : Obligations.OtherIntegerWordsWriteTheirResult => h.1 r hr f3) (st 1) (iss 1) (team) :=
  fun r hr => ⟨acts1 1 (by decide), by revert r hr; unfold Form.clear; decide, quiet⟩

/-- A word of one source: its b field is zero. -/
def f1 : A3 := ⟨2, 0, 0, 0, 0, 0⟩
/-- The same of pairs. -/
def fp (two : Bool) : A3 := if two then f3 else f1

theorem met_unary : ∀ r (hr : r ∈ integerUnary),
    MetOne (fun h : Obligations.OtherIntegerWordsWriteTheirResult => h.2.1 r hr f1) (st 1) (iss 1) (team) :=
  fun r hr => ⟨acts1 1 (by decide), by revert r hr; unfold Form.clear; decide, quiet⟩

theorem met_imad : MetOne (fun h : Obligations.OtherIntegerWordsWriteTheirResult => h.2.2.1.1 f3) (st 1) (iss 1) (team) :=
  ⟨acts1 1 (by decide), by unfold Form.clear; decide, quiet⟩
theorem met_bfi : MetOne (fun h : Obligations.OtherIntegerWordsWriteTheirResult => h.2.2.1.2 f3) (st 1) (iss 1) (team) :=
  ⟨acts1 1 (by decide), by unfold Form.clear; decide, quiet⟩
theorem met_immediate : ∀ r (hr : r ∈ integerImmediate),
    MetOne (fun h : Obligations.OtherIntegerWordsWriteTheirResult => h.2.2.2.1.1 r hr fi) (st 1) (iss 1) (team) :=
  fun r hr => ⟨acts1 1 (by decide), by revert r hr; unfold Form.clear; decide, quiet⟩
theorem met_movi : MetOne (fun h : Obligations.OtherIntegerWordsWriteTheirResult => h.2.2.2.1.2.1 ⟨2, 5⟩) (st 1) (iss 1) (team) :=
  ⟨acts1 1 (by decide), by unfold Form.clear; decide, quiet⟩
theorem met_movh : MetOne (fun h : Obligations.OtherIntegerWordsWriteTheirResult => h.2.2.2.1.2.2 ⟨2, 5⟩) (st 1) (iss 1) (team) :=
  ⟨acts1 1 (by decide), by unfold Form.clear; decide, quiet⟩

def p3 (cond : BitVec 4) : P3 := ⟨2, cond, 0, 2, 0, 0, 0⟩

theorem met_compares :
    MetOne (fun h : Obligations.OtherIntegerWordsWriteTheirResult => h.2.2.2.2.1.1 (p3 2) (by decide)) (st 1) (iss 1) (team) ∧
    MetOne (fun h : Obligations.OtherIntegerWordsWriteTheirResult => h.2.2.2.2.1.2.1 (p3 2) (by decide)) (st 1) (iss 1) (team) ∧
    MetOne (fun h : Obligations.OtherIntegerWordsWriteTheirResult => h.2.2.2.2.1.2.2.1 ⟨2, 2, 0, 5⟩ (by decide))
      (st 1) (iss 1) (team) ∧
    MetOne (fun h : Obligations.OtherIntegerWordsWriteTheirResult => h.2.2.2.2.1.2.2.2 (p3 2) (by decide)) (st 1) (iss 1) (team) := by
  refine ⟨⟨acts1 1 (by decide), ?_, quiet⟩, ⟨acts1 1 (by decide), ?_, quiet⟩, ⟨acts1 1 (by decide), ?_, quiet⟩,
    ⟨acts1 1 (by decide), ?_, quiet⟩⟩ <;> unfold Form.clear <;> decide

/-- Pairs of registers: each field is even. -/
def f3e : A3 := ⟨2, 0, 4, 0, 0, 0⟩

theorem met_address :
    MetOne (fun h : Obligations.OtherIntegerWordsWriteTheirResult => h.2.2.2.2.2.1 _ (List.Mem.head _) f3e) (st 1) (iss 1) (team) ∧
    MetOne (fun h : Obligations.OtherIntegerWordsWriteTheirResult => h.2.2.2.2.2.2.1 _ (List.Mem.head _) fi)
      (st 1) (iss 1) (team) ∧
    MetOne (fun h : Obligations.OtherIntegerWordsWriteTheirResult => h.2.2.2.2.2.2.2.1 _ (List.Mem.head _) f1)
      (st 1) (iss 1) (team) ∧
    MetOne (fun h : Obligations.OtherIntegerWordsWriteTheirResult => h.2.2.2.2.2.2.2.2 f1) (st 1) (iss 1) (team) := by
  refine ⟨⟨acts1 1 (by decide), ?_, quiet⟩, ⟨acts1 1 (by decide), ?_, quiet⟩, ⟨acts1 1 (by decide), ?_, quiet⟩,
    ⟨acts1 1 (by decide), ?_, quiet⟩⟩ <;> unfold Form.clear <;> decide

theorem met_division_traps : ∀ r ∈ integerDivision,
    Acts (chip (team { thr with fpctl := 0x80 }) (iss 1)) (iss 1) (team { thr with fpctl := 0x80 }) 0 0 ∧
    (f3.form (iss 1) (r.op f3).wf true false r.ta r.tb none).clear (fun _ => none)
      ⟨team { thr with fpctl := 0x80 }, 0, 0, iss 1⟩ ∧
    ((team { thr with fpctl := 0x80 }).thread 0 0).idte = true ∧
    (flagDZI : IntFlags) &&& 3 ≠ 0 ∧ ∃ x ∈ [0xFFFFFFFF, 0], r.rule (Ctx.rd ⟨team { thr with fpctl := 0x80 }, 0, 0, iss 1⟩ (f3.srcA (iss 1) r.ta))
      (Ctx.rd ⟨team { thr with fpctl := 0x80 }, 0, 0, iss 1⟩ (f3.srcB (iss 1) r.tb)) x flagDZI := by
  intro r hr
  refine ⟨acts _ _ rfl (by decide) rfl rfl, ?_, rfl, by decide, ?_⟩
  · revert r hr; unfold Form.clear; decide
  · fin_cases hr
    · exact ⟨0xFFFFFFFF, by decide, fun _ => ⟨rfl, rfl⟩, fun h => absurd h (by decide), fun h => absurd rfl h⟩
    · exact ⟨0xFFFFFFFF, by decide, fun _ => ⟨rfl, rfl⟩, fun h => absurd rfl h⟩
    · exact ⟨0, by decide, fun _ => ⟨rfl, rfl⟩, fun h => absurd h (by decide), fun h => absurd rfl h⟩
    · exact ⟨0, by decide, fun _ => ⟨rfl, rfl⟩, fun h => absurd rfl h⟩

theorem met_float_words : ∀ r (hr : r ∈ fpWords),
    MetOne (fun h : Obligations.FloatWordsWriteTheDeliveredValue => h r hr (fp r.two)) (st 1) (iss 1) (team) :=
  fun r hr => ⟨acts1 1 (by decide), by revert r hr; unfold Form.clear; decide, quiet⟩
theorem met_packed : ∀ r (hr : r ∈ packedWords),
    MetOne (fun h : Obligations.PackedAndBitWords => h.1 r hr f3) (st 1) (iss 1) (team) :=
  fun r hr => ⟨acts1 1 (by decide), by revert r hr; unfold Form.clear; decide, quiet⟩
theorem met_float_bits :
    MetOne (fun h : Obligations.PackedAndBitWords => h.2.1 f1) (st 1) (iss 1) (team) ∧
    MetOne (fun h : Obligations.PackedAndBitWords => h.2.2.1 f1) (st 1) (iss 1) (team) ∧
    MetOne (fun h : Obligations.PackedAndBitWords => h.2.2.2.1 f1) (st 1) (iss 1) (team) ∧
    MetOne (fun h : Obligations.PackedAndBitWords => h.2.2.2.2.1 (p3 7)) (st 1) (iss 1) (team) ∧
    MetOne (fun h : Obligations.PackedAndBitWords => h.2.2.2.2.2.1 ⟨2, 0, 3⟩) (st 1) (iss 1) (team) ∧
    MetOne (fun h : Obligations.PackedAndBitWords => h.2.2.2.2.2.2 f3) (st 1) (iss 1) (team) := by
  refine ⟨⟨acts1 1 (by decide), ?_, quiet⟩, ⟨acts1 1 (by decide), ?_, quiet⟩, ⟨acts1 1 (by decide), ?_, quiet⟩,
    ⟨acts1 1 (by decide), ?_, quiet⟩, ⟨acts1 1 (by decide), ?_, quiet⟩, ⟨acts1 1 (by decide), ?_, quiet⟩⟩ <;>
    unfold Form.clear <;> decide
theorem met_rounding : fmtF32 ∈ [fmtF32, fmtF16, fmtB16] ∧ (3 : Nat) < 4 ∧ (0 : Nat) < 1 := by decide
theorem met_quotient : (3 : Nat) < 4 ∧ (0 : Nat) < 2 ^ 24 - 1 ∧ 2 ^ 24 - 1 < 2 ^ 24 ∧ (0 : Nat) < 1 ∧ 1 < 2 ^ 24 := by decide
/-- An exact zero sum: 1 - 1, and 0 + 0. -/
theorem met_zero_sum : addExact 2 (.fin false 1 0) (.fin true 1 0) = some (.fin true 0 0) ∧
    addExact 0 (.fin true 0 0) (.fin true 0 0) = some (.fin true 0 0) := by decide
theorem met_accumulation : (Num.fin false 3 (-2)).Finite ∧ (unpack fmtF32 0x40400000).Finite ∧
    (unpack fmtF32 0x7FC00000).isNan = true := ⟨⟨_, _, _, rfl⟩, ⟨_, _, _, rfl⟩, rfl⟩

def cv (tag : BitVec 4) (pos : BitVec 3) : CV := ⟨2, 0, tag, 0, 0, pos⟩

theorem met_cvt : MetOne (fun h : Obligations.ConversionsRoundAndClip => h.1 (cv 1 0)) (st 1) (iss 1) (team) :=
  ⟨acts1 1 (by decide), by unfold Form.clear; decide, quiet⟩
theorem met_to_integer : (0 : Nat) < 4 ∧ (-2 : Int) ^ 31 ≤ -128 ∧ (0 : Int) < 127 ∧ (127 : Int) < 2 ^ 32 ∧
    unpack fmtF32 0x3FC00000 = .fin false 0xC00000 (-23) := by decide

def cq (tag : BitVec 4) : CQ := ⟨8, 0, tag, 3, 0, 0⟩

theorem acts0 : Acts (st 0) (iss 0) (team) 0 0 := ⟨rfl, rfl, by decide, rfl⟩

theorem met_pack :
    MetBy (fun h : Obligations.PackingQuantisingAndScaleWords => h.1.1 (cv 8 1)) (st 1) (iss 1) (team) ∧
    MetBy (fun h : Obligations.PackingQuantisingAndScaleWords => h.1.2.2.2 (cv 9 3)) (st 1) (iss 1) (team) ∧
    (4 ≤ 8 ∧ 8 ≤ 9 ∧ 3 < packCount 8) :=
  ⟨⟨acts1 1 (by decide), by unfold Form.clear; decide, quiet _ _⟩, ⟨acts1 1 (by decide), by unfold Form.clear; decide, quiet _ _⟩,
    by decide⟩
theorem met_scale_slots :
    MetBy (fun h : Obligations.PackingQuantisingAndScaleWords => h.2.1.1 ⟨0, 8, 0, 3, 0, 0⟩) (st 0) (iss 0) (team) ∧
    (Acts (st 0) (iss 0) (team) 0 0 ∧ Form.clear { grp := .slot, wf := (Instr.srot ⟨0, 0, 8, 3, 0, 0⟩).wf } (slotValue 3 (iss 0)) ⟨team, 0, 0, iss 0⟩ ∧
      max (max 0 0) (max 0 0) ≤ 0x7F800000) ∧
    MetBy (fun h : Obligations.PackingQuantisingAndScaleWords => h.2.1.2.2.1 ⟨0, 8, 0, 3, 0, 0⟩) (st 1) (iss 1) (team) ∧
    MetBy (fun h : Obligations.PackingQuantisingAndScaleWords => h.2.1.2.2.2 ⟨8, 0, 0, 3, 0, 0⟩) (st 1) (iss 1) (team) := by
  refine ⟨⟨acts0, ?_, trivial⟩, ⟨acts0, ?_, by decide⟩, ⟨acts1 1 (by decide), ?_, trivial⟩, ⟨acts1 1 (by decide), ?_, trivial⟩⟩ <;>
    unfold Form.clear <;> decide
theorem met_quantise :
    MetBy (fun h : Obligations.PackingQuantisingAndScaleWords => h.2.2.1 (cq 8)) (st 1) (iss 1) (team) ∧
    MetBy (fun h : Obligations.PackingQuantisingAndScaleWords => h.2.2.2 (cq 8)) (st 1) (iss 1) (team) := by
  refine ⟨⟨acts1 1 (by decide), ?_, ?_⟩, ⟨acts1 1 (by decide), ?_, ?_⟩⟩
  · unfold Form.clear; decide
  · decide
  · unfold Form.clear; decide
  · decide

theorem met_welford :
    MetOne (fun h : Obligations.StatisticsPredicateAndTagWords => h.1.1 f1) (st 1) (iss 1) (team) ∧
    MetOne (fun h : Obligations.StatisticsPredicateAndTagWords => h.1.2.1 f1) (st 1) (iss 1) (team) ∧
    MetOne (fun h : Obligations.StatisticsPredicateAndTagWords => h.1.2.2.1 f1) (st 1) (iss 1) (team) ∧
    0 ≤ ({ n := 3 } : Triple).n.toInt ∧ ({ n := 3 } : Triple).n ≠ 0 := by
  refine ⟨⟨acts1 1 (by decide), ?_, quiet⟩, ⟨acts1 1 (by decide), ?_, quiet⟩, ⟨acts1 1 (by decide), ?_, quiet⟩, by decide, by decide⟩ <;>
    unfold Form.clear <;> decide
theorem met_predicate_words :
    MetOne (fun h : Obligations.StatisticsPredicateAndTagWords => h.2.1 fi) (st 1) (iss 1) (team) ∧
    MetOne (fun h : Obligations.StatisticsPredicateAndTagWords => h.2.2.1 f1) (st 1) (iss 1) (team) ∧
    MetOne (fun h : Obligations.StatisticsPredicateAndTagWords => h.2.2.2.1 ⟨2, 0, 1, 3⟩) (st 1) (iss 1) (team) ∧
    MetOne (fun h : Obligations.StatisticsPredicateAndTagWords => h.2.2.2.2.1 (p3 1)) (st 1) (iss 1) (team) ∧
    MetOne (fun h : Obligations.StatisticsPredicateAndTagWords => h.2.2.2.2.2.1 ⟨2, 0, 0, 0, 0, 0⟩) (st 1) (iss 1) (team) ∧
    MetOne (fun h : Obligations.StatisticsPredicateAndTagWords => h.2.2.2.2.2.2.1 ⟨0, 1, 0, 0, 0, 0⟩) (st 1) (iss 1) (team) ∧
    MetOne (fun h : Obligations.StatisticsPredicateAndTagWords => h.2.2.2.2.2.2.2.1 f1) (st 1) (iss 1) (team) ∧
    MetOne (fun h : Obligations.StatisticsPredicateAndTagWords => h.2.2.2.2.2.2.2.2 ⟨2, 0, 1, 0, 0, 1⟩) (st 1) (iss 1) (team) := by
  refine ⟨⟨acts1 1 (by decide), ?_, quiet⟩, ⟨acts1 1 (by decide), ?_, quiet⟩, ⟨acts1 1 (by decide), ?_, quiet⟩,
    ⟨acts1 1 (by decide), ?_, quiet⟩, ⟨acts1 1 (by decide), ?_, quiet⟩, ⟨acts1 1 (by decide), ?_, quiet⟩,
    ⟨acts1 1 (by decide), ?_, quiet⟩, ⟨acts1 1 (by decide), ?_, quiet⟩⟩ <;> unfold Form.clear <;> decide

/-! ### Enabled traps, and bundles of several threads -/

/-- A thread whose registers all hold `x`, its floating-point traps enabled; its warp's scale slots hold the exponent 200. -/
def trapTeam (x : Word) : Team :=
  let t := team { thr with fpctl := 0xFC, v := List.replicate 64 { val := x } }
  { t with warps := t.warps.map fun w => { w with slots := List.replicate 16 { s := 200 } } }

def MetTraps {P : Prop} {i : Instr} {fm : Issue → Form} {value : Issue → Ctx → Option Nat} {flags : Ctx → FpFlags}
    (_ : P → FlagTraps i fm value flags) (x : Word) : Prop :=
  Acts (chip (trapTeam x) (iss 1)) (iss 1) (trapTeam x) 0 0 ∧ (fm (iss 1)).clear (value (iss 1)) ⟨trapTeam x, 0, 0, iss 1⟩ ∧
    flags ⟨trapTeam x, 0, 0, iss 1⟩ &&& ((trapTeam x).thread 0 0).fpTraps ≠ 0

theorem trapActs (x : Word) : Acts (chip (trapTeam x) (iss 1)) (iss 1) (trapTeam x) 0 0 := ⟨rfl, rfl, rfl, rfl⟩

/-- A signalling NaN of the format of a packed word, in both halves. -/
def packedSnan (r : PackedWord) : Word := if r.tag = .f16x2 then 0x7C017C01 else 0x7F817F81

theorem met_float_traps : ∀ r (hr : r ∈ fpWords), MetTraps (fun h : Obligations.EnabledFlagsTrap => h.1 r hr (fp r.two)) 0x7F800001 :=
  fun r hr => ⟨trapActs _, by revert r hr; unfold Form.clear; decide, by revert r hr; decide⟩

theorem met_packed_traps : ∀ r (hr : r ∈ packedWords),
    MetTraps (fun h : Obligations.EnabledFlagsTrap => h.2.1.1 r hr f3) (packedSnan r) :=
  fun r hr => ⟨trapActs _, by revert r hr; unfold Form.clear; decide, by revert r hr; decide⟩

theorem met_other_traps :
    MetTraps (fun h : Obligations.EnabledFlagsTrap => h.2.1.2.1 (p3 7)) 0x7F800001 ∧
    MetTraps (fun h : Obligations.EnabledFlagsTrap => h.2.1.2.2.1 ⟨2, 0, 3⟩) 0x7F800001 ∧
    MetTraps (fun h : Obligations.EnabledFlagsTrap => h.2.1.2.2.2.1 f3) 0x7F800001 ∧
    MetTraps (fun h : Obligations.EnabledFlagsTrap => h.2.1.2.2.2.2.1 (cv 1 0)) 0x7F800001 ∧
    MetTraps (fun h : Obligations.EnabledFlagsTrap => h.2.1.2.2.2.2.2.1 (cv 4 1)) 0x7F800001 ∧
    MetTraps (fun h : Obligations.EnabledFlagsTrap => h.2.1.2.2.2.2.2.2.1 (cv 4 1)) 0x7C017C01 ∧
    MetTraps (fun h : Obligations.EnabledFlagsTrap => h.2.1.2.2.2.2.2.2.2.1 (cq 8)) 0x7F800000 ∧
    MetTraps (fun h : Obligations.EnabledFlagsTrap => h.2.1.2.2.2.2.2.2.2.2.1 (cq 8)) 0x01010101 ∧
    MetTraps (fun h : Obligations.EnabledFlagsTrap => h.2.1.2.2.2.2.2.2.2.2.2.1 f1) 0x7F800001 ∧
    MetTraps (fun h : Obligations.EnabledFlagsTrap => h.2.1.2.2.2.2.2.2.2.2.2.2.1 f1) 0x7F800001 ∧
    MetTraps (fun h : Obligations.EnabledFlagsTrap => h.2.1.2.2.2.2.2.2.2.2.2.2.2 f1) 0x7F800001 := by
  refine ⟨⟨trapActs _, ?_, ?_⟩, ⟨trapActs _, ?_, ?_⟩, ⟨trapActs _, ?_, ?_⟩, ⟨trapActs _, ?_, ?_⟩, ⟨trapActs _, ?_, ?_⟩,
    ⟨trapActs _, ?_, ?_⟩, ⟨trapActs _, ?_, ?_⟩, ⟨trapActs _, ?_, ?_⟩, ⟨trapActs _, ?_, ?_⟩, ⟨trapActs _, ?_, ?_⟩, ⟨trapActs _, ?_, ?_⟩⟩ <;>
    first | decide | (unfold Form.clear; decide)

/-- A bundle of two threads of one warp. -/
def twoTeam : Team := { team with warps := [{ threads := [thr, thr], s := List.replicate 512 {} }] }
def twoIss : Issue := { iss 1 with members := [(0, 0), (0, 1)] }

def MetBundle {P : Prop} {i : Instr} {fm : Issue → Form} {o : Issue → Opnd}
    {rule : Ctx → List (Word × Tag) → FpFlags → IntFlags → Prop} (_ : P → WritesEach i fm o rule) : Prop :=
  (chip twoTeam twoIss).issue = some twoIss ∧ (chip twoTeam twoIss).team? twoIss.team = some twoTeam ∧
    twoIss.actors twoTeam = [(0, 0), (0, 1)] ∧ (twoIss.actors twoTeam).Nodup ∧
    (∀ m ∈ twoIss.actors twoTeam, (fm twoIss).clear (fun _ => none) ⟨twoTeam, m.1, m.2, twoIss⟩) ∧
    ∀ m ∈ twoIss.actors twoTeam, (twoTeam.thread m.1 m.2).fpTraps = 0 ∧ (twoTeam.thread m.1 m.2).idte = false

theorem met_bundle_words :
    (∀ r (hr : r ∈ integerArithmetic ++ integerBits ++ integerDivision),
      MetBundle (fun h : Obligations.ActiveWarpsFormBundles => h.2.2.2.1 r hr f3)) ∧
    (∀ r (hr : r ∈ fpWords), MetBundle (fun h : Obligations.ActiveWarpsFormBundles => h.2.2.2.2.1 r hr (fp r.two))) ∧
    ∀ r (hr : r ∈ packedWords), MetBundle (fun h : Obligations.ActiveWarpsFormBundles => h.2.2.2.2.2 r hr f3) :=
  ⟨fun r hr => ⟨rfl, rfl, rfl, by decide, by revert r hr; unfold Form.clear; decide, by decide⟩,
    fun r hr => ⟨rfl, rfl, rfl, by decide, by revert r hr; unfold Form.clear; decide, by decide⟩,
    fun r hr => ⟨rfl, rfl, rfl, by decide, by revert r hr; unfold Form.clear; decide, by decide⟩⟩
/-- An action in both threads, each of which sets its meeting register. -/
theorem met_bundle_acts :
    let act (s : State) (c : Ctx) : State × LaneRes := (s.updThread c.t.id c.w c.l fun th => { th with mr := 7 }, .done)
    let s := chip twoTeam twoIss
    let fm : Form := { grp := .alu }
    s.team? twoIss.team = some twoTeam ∧ fm.precheck twoIss twoTeam = none ∧
      (∀ m ∈ twoIss.actors twoTeam, Ctx.checks ⟨twoTeam, m.1, m.2, twoIss⟩ fm.os none fm.pure = none) ∧
      ∃ s', Runs fm.inOrder act twoIss (twoIss.actors twoTeam) s s' :=
  ⟨rfl, by decide, by decide, _, _, _, _, rfl, rfl, (by simp), (by simp), _, _, _, rfl, rfl,
    (by simp), (by simp), rfl⟩

/-! ### Cross-lane words -/

def MetCross {P : Prop} {i : Instr} {fm : Issue → Form} {value : Issue → Ctx → Option Nat} {o : Issue → Opnd}
    {rule : XTile → Ctx → XRes → Prop} (_ : P → CrossWrites i fm value o rule) (s : State) (iss : Issue) (t : Team) : Prop :=
  Gathers s iss t (fm iss) (value iss) ∧ iss.actors t ≠ [] ∧ ∀ m ∈ iss.actors t, ∀ fl ist, (t.thread m.1 m.2).untrapped fl ist

theorem gathers (fm : Form) (value : Ctx → Option Nat) (hp : fm.precheck (iss 1) (team) = none)
    (hr : Ctx.checks ⟨team, 0, 0, iss 1⟩ fm.os (value ⟨team, 0, 0, iss 1⟩) fm.pure = none) :
    Gathers (st 1) (iss 1) (team) fm value ∧ (iss 1).actors (team) ≠ [] ∧
      ∀ m ∈ (iss 1).actors (team), ∀ fl ist, ((team).thread m.1 m.2).untrapped fl ist := by
  have ha : (iss 1).actors (team) = [(0, 0)] := rfl
  have h1 : ∀ m ∈ (iss 1).actors (team), m = (0, 0) := by rw [ha]; simp
  refine ⟨⟨rfl, rfl, hp, ?_, ?_⟩, by rw [ha]; simp, ?_⟩
  · intro m hm; rw [h1 m hm]; exact hr
  · intro m hm; rw [h1 m hm]; right; decide
  · intro m hm; rw [h1 m hm]; exact quiet

theorem met_votes :
    MetCross (fun h : Obligations.VotesAndShufflesCoverTheTile => h.1.1 ⟨2, 1, 0, 0, 0, 0, 0⟩) (st 1) (iss 1) (team) ∧
    MetCross (fun h : Obligations.VotesAndShufflesCoverTheTile => h.1.2.1 f1) (st 1) (iss 1) (team) ∧
    MetCross (fun h : Obligations.VotesAndShufflesCoverTheTile => h.1.2.2 f1) (st 1) (iss 1) (team) ∧
    MetCross (fun h : Obligations.VotesAndShufflesCoverTheTile => h.2.1 f3) (st 1) (iss 1) (team) ∧
    MetCross (fun h : Obligations.VotesAndShufflesCoverTheTile => h.2.2.1 fi) (st 1) (iss 1) (team) ∧
    MetCross (fun h : Obligations.VotesAndShufflesCoverTheTile => h.2.2.2.1 fi) (st 1) (iss 1) (team) ∧
    MetCross (fun h : Obligations.VotesAndShufflesCoverTheTile => h.2.2.2.2.1 fi) (st 1) (iss 1) (team) ∧
    MetCross (fun h : Obligations.VotesAndShufflesCoverTheTile => h.2.2.2.2.2 fi) (st 1) (iss 1) (team) := by
  refine ⟨gathers _ _ ?_ ?_, gathers _ _ ?_ ?_, gathers _ _ ?_ ?_, gathers _ _ ?_ ?_, gathers _ _ ?_ ?_, gathers _ _ ?_ ?_,
    gathers _ _ ?_ ?_, gathers _ _ ?_ ?_⟩ <;> decide
theorem met_reductions :
    MetCross (fun h : Obligations.ReductionsAndScansCombineTheTile => h.1 ⟨2, 0, 0⟩) (st 1) (iss 1) (team) ∧
    MetCross (fun h : Obligations.ReductionsAndScansCombineTheTile => h.2.1 ⟨2, 0, 32⟩) (st 1) (iss 1) (team) ∧
    MetCross (fun h : Obligations.ReductionsAndScansCombineTheTile => h.2.2 f1) (st 1) (iss 1) (team) := by
  refine ⟨gathers _ _ ?_ ?_, gathers _ _ ?_ ?_, gathers _ _ ?_ ?_⟩ <;> decide

/-- The gathered word of a thread whose traps are enabled, its registers signalling. -/
theorem met_reduction_traps :
    let t := trapTeam 0x7F800001
    let s := chip t (iss 1)
    Gathers s (iss 1) t (redForm (.red ⟨2, 0, 16⟩) ⟨2, 0, 16⟩ (iss 1)) (fun _ => none) ∧
    Gathers s (iss 1) t (redForm (.scan ⟨2, 0, 16⟩) ⟨2, 0, 16⟩ (iss 1)) (fun _ => none) ∧
    Gathers s (iss 1) t (wredForm f1 (iss 1)) (fun _ => none) ∧
    ∀ r : XRes, redRule ⟨2, 0, 16⟩ ((iss 1).tile s t (0, 0)) ⟨t, 0, 0, iss 1⟩ r → (t.thread 0 0).outcome r = .trap 0x07 := by
  refine ⟨⟨rfl, rfl, by decide, by decide, ?_⟩, ⟨rfl, rfl, by decide, by decide, ?_⟩, ⟨rfl, rfl, by decide, by decide, ?_⟩, ?_⟩
  · intro m hm; right; revert m hm; decide
  · intro m hm; right; revert m hm; decide
  · intro m hm; right; revert m hm; decide
  · rintro r ⟨-, h, -⟩
    have hfl : r.fl &&& ((trapTeam 0x7F800001).thread 0 0).fpTraps ≠ 0 := by rw [h]; decide
    simp only [Thread.outcome, if_pos hfl]

/-! ### Memory words -/

/-- Data in register 8, the address in registers 0 and 1 (zero) with an offset. -/
def m2 (offset : BitVec 24 := 0x10080) : M2 := ⟨8, 0, 2, 0, 0, 0, offset, 0, 0, 0⟩

/-- What the cached page gives. -/
def page : Xlat := { pa := 0x10080 }

theorem acts2 : Acts (st 2) (iss 2) (team) 0 0 := acts1 2 (by decide)

theorem met_global_loads :
    MetBy (fun h : Obligations.GlobalLoadsGoInFlight => h.1.1 (m2) page) (st 2) (iss 2) (team) ∧
    (m2 0x400000).fmode ≠ 1 ∧
    MetBy (fun h : Obligations.GlobalLoadsGoInFlight => h.1.2 { m2 0x400000 with fmode := 1 } rfl) (st 2) (iss 2) (team) ∧
    MetBy (fun h : Obligations.GlobalLoadsGoInFlight => h.2.1 (m2 0x20000) { pa := 0x20000, imm := true }) (st 2) (iss 2) (team) ∧
    MetBy (fun h : Obligations.GlobalLoadsGoInFlight => h.2.2 { m2 0x400000 with fmode := 1 } rfl) (st 2) (iss 2) (team) :=
  ⟨⟨acts2, by unfold Form.clear; decide, by decide, ⟨by decide, by decide⟩, by decide, (fun h => nomatch h), by decide⟩, by decide,
    ⟨acts2, by unfold Form.clear; decide, by decide, ⟨by decide, by decide⟩, 0, 0x2000000, 0x1050, by decide⟩,
    ⟨acts2, by unfold Form.clear; decide, by decide, ⟨by decide, by decide⟩, by decide, fun _ => ⟨rfl, rfl⟩, by decide⟩,
    ⟨acts2, by unfold Form.clear; decide, by decide, ⟨by decide, by decide⟩, 0, 0x2000000, 0x1050, by decide⟩⟩

theorem met_stg : MetBy (fun h : Obligations.GlobalStoresGoOnTheirWay => h (m2)) (st 2) (iss 2) (team) :=
  ⟨acts2, by unfold Form.clear; decide, by decide, ⟨by decide, by decide⟩, .inl (by decide)⟩

/-- A pass whose tile 0 the team works on. -/
def tpass : Pass := { id := 7, va := 0x10000, ctx := 0, cmd := 0, words := List.replicate 32 0, tiles := [{ k := 0, cl := 0 }] }
def tteam : Team := { team with tileSlot := some (7, 0) }
def tst : State := { chip tteam (iss 2) with passes := [tpass] }

theorem tacts : Acts tst (iss 2) tteam 0 0 := ⟨rfl, rfl, by decide, rfl⟩

theorem met_local_loads :
    MetBy (fun h : Obligations.ScratchpadAccessesKeepTheirBytes => h.1.1 (m2 0xFFC)) (st 2) (iss 2) (team) ∧
    MetBy (fun h : Obligations.ScratchpadAccessesKeepTheirBytes => h.1.2.1 (m2 0xFFC) (team)) (st 2) (iss 2) (team) ∧
    (Acts tst (iss 2) tteam 0 0 ∧
      (m2Form .mem (Instr.ldb (m2 0)).wf false [(m2 0).regA (iss 2), (m2 0).dst (iss 2)] none).clear
        (fun c => tileCheck tst c ((m2 0).addr32 c) (m2 0).bytes) ⟨tteam, 0, 0, iss 2⟩ ∧
      mayAccess (m2 0) tst ⟨tteam, 0, 0, iss 2⟩ ∧ Ctx.pass tst ⟨tteam, 0, 0, iss 2⟩ = some (tpass, 0)) :=
  ⟨⟨acts2, by unfold Form.clear; decide, by decide, by decide⟩, ⟨acts2, by unfold Form.clear; decide, ⟨by decide, by decide⟩, by decide⟩,
    tacts, by unfold Form.clear; decide, ⟨by decide, by decide⟩, by decide⟩

theorem met_local_stores :
    MetBy (fun h : Obligations.ScratchpadAccessesKeepTheirBytes => h.2.1.1 (m2 0xFFC)) (st 2) (iss 2) (team) ∧
    MetBy (fun h : Obligations.ScratchpadAccessesKeepTheirBytes => h.2.1.2.1 (m2 0xFFC) (team)) (st 2) (iss 2) (team) ∧
    MetBy (fun h : Obligations.ScratchpadAccessesKeepTheirBytes => h.2.1.2.2.1 (m2 0) []) (st 2) (iss 2) (team) ∧
    (Acts tst (iss 2) tteam 0 0 ∧
      (storeForm .mem (.stb (m2 0)) (m2 0) [(m2 0).regA (iss 2)] (iss 2)).clear
        (fun c => tileCheck tst c ((m2 0).addr32 c) (m2 0).bytes) ⟨tteam, 0, 0, iss 2⟩ ∧
      mayWrite (m2 0) tst ⟨tteam, 0, 0, iss 2⟩ ∧ unpaired tst ⟨tteam, 0, 0, iss 2⟩ ∧ tteam.tileSlot = some (7, 0)) ∧
    Memory.wf (team).scratch = true :=
  ⟨⟨acts2, by unfold Form.clear; decide, ⟨⟨by decide, by decide⟩, by decide⟩, .inl (by decide)⟩,
    ⟨acts2, by unfold Form.clear; decide, ⟨⟨by decide, by decide⟩, by decide⟩, .inl (by decide), by decide⟩,
    ⟨acts2, by unfold Form.clear; decide, ⟨⟨by decide, by decide⟩, by decide⟩, .inl (by decide), by decide⟩,
    ⟨tacts, by unfold Form.clear; decide, ⟨⟨by decide, by decide⟩, by decide⟩, .inl (by decide), rfl⟩, rfl⟩

theorem met_atomics :
    MetBy (fun h : Obligations.AtomicsComputeTheirSubOperation => h.1.1 (m2) page) (st 2) (iss 2) (team) ∧
    MetBy (fun h : Obligations.AtomicsComputeTheirSubOperation => h.1.2.1 (m2) page) (st 2) (iss 2) (team) ∧
    MetBy (fun h : Obligations.AtomicsComputeTheirSubOperation => h.1.2.2.1 (m2 0xFFC)) (st 2) (iss 2) (team) ∧
    MetBy (fun h : Obligations.AtomicsComputeTheirSubOperation => h.1.2.2.2 (m2 0xFFC)) (st 2) (iss 2) (team) :=
  ⟨⟨acts2, by unfold Form.clear; decide, by decide, ⟨⟨by decide, by decide⟩, .inl (by decide)⟩, ⟨rfl, by decide, rfl⟩, by decide⟩,
    ⟨acts2, by unfold Form.clear; decide, by decide, ⟨⟨by decide, by decide⟩, .inl (by decide)⟩, ⟨rfl, by decide, rfl⟩, by decide⟩,
    ⟨acts2, by unfold Form.clear; decide, ⟨⟨by decide, by decide⟩, by decide⟩, .inl (by decide), rfl⟩,
    ⟨acts2, by unfold Form.clear; decide, ⟨⟨by decide, by decide⟩, by decide⟩, .inl (by decide), rfl⟩⟩

/-- PREQ's and PFCH's fields. -/
def mq (offset : BitVec 24) (pp : BitVec 3) : M2 := ⟨0, 0, 0, 0, 0, pp, offset, 0, 0, 0⟩

theorem met_requests :
    MetBy (fun h : Obligations.RequestsFencesAndDrains => h.1 { mq 0x400000 2 with fmode := 1 }) (st 2) (iss 2) (team) ∧
    MetBy (fun h : Obligations.RequestsFencesAndDrains => h.2.1 { mq 0x400000 7 with fmode := 1 } 0 0x2000000 0x1050) (st 2) (iss 2) (team) ∧
    MetBy (fun h : Obligations.RequestsFencesAndDrains => h.2.2.1 (mq 0x400000 0)) (st 2) (iss 2) (team) ∧
    MetBy (fun h : Obligations.RequestsFencesAndDrains => h.2.2.2.1 (mq 0x10080 0) page) (st 2) (iss 2) (team) ∧
    MetBy (fun h : Obligations.RequestsFencesAndDrains => h.2.2.2.2.1) (st 2) (iss 2) (team) ∧
    MetBy (fun h : Obligations.RequestsFencesAndDrains => h.2.2.2.2.2.1 2) (st 2) (iss 2) (team) ∧
    MetBy (fun h : Obligations.RequestsFencesAndDrains => h.2.2.2.2.2.2.1 2) (st 2) (iss 2) (team) ∧
    MetBy (fun h : Obligations.RequestsFencesAndDrains => h.2.2.2.2.2.2.2 2) (st 2) (iss 2) (team) :=
  ⟨⟨acts2, by unfold Form.clear; decide, by decide⟩,
    ⟨acts2, by unfold Form.clear; decide, by decide, by decide, by decide, by decide, by decide⟩,
    ⟨acts2, by unfold Form.clear; decide, by decide, 0, 0x2000000, 0x1050, by decide⟩,
    ⟨acts2, by unfold Form.clear; decide, by decide, by decide⟩,
    ⟨acts2, by unfold Form.clear; decide, by decide⟩, ⟨acts2, by unfold Form.clear; decide, by decide⟩,
    ⟨acts2, by unfold Form.clear; decide, .inr (by decide)⟩, ⟨acts2, by unfold Form.clear; decide, .inr (by decide)⟩⟩

/-! ### Texture words -/

/-- The descriptor of a resource of four by four elements at 0x10100, its address in registers 4 and 5. -/
def lthr (at_ : Word := 0x10100) : Thread := { thr with v := regs [0, 0, 0, 0, at_, 0, 0, 0, 0, 0, 0, 0, 9] }
def lteam : Team := team (lthr)
def lst : State := { chip lteam (iss 2) with
  mem := [(0x1000, 9), (0x1041, 2), (0x10102, 1), (0x10108, 4), (0x1010A, 4), (0x1010C, 0x31), (0x10110, 0x40), (0x10112, 1), (0x10120, 1)] }
/-- The same with no descriptor: its page is absent. -/
def nteam : Team := team (lthr 0x400000)
def nst : State := chip nteam (iss 2)

def lctx : Ctx := ⟨lteam, 0, 0, iss 2⟩
def nctx : Ctx := ⟨nteam, 0, 0, iss 2⟩
def lres : Resource := { base := 0x10000, tail := 0, etag := .f32, levels := 1, height := 4, width := 4, map := 0x10040, ring := 0, nofilt := false,
                         log := true, resid := 0, lbias := 0, bil := false, amv := 0, amu := 0, border := 0 }

theorem lacts : Acts lst (iss 2) lteam 0 0 := ⟨rfl, rfl, by decide, rfl⟩
theorem nacts : Acts nst (iss 2) nteam 0 0 := ⟨rfl, rfl, by decide, rfl⟩

theorem lodMay_l : lodMay 4 { lst with issue := none } lctx := ⟨by decide, by decide⟩
theorem lodMay_n : lodMay 4 { nst with issue := none } nctx := ⟨by decide, by decide⟩
theorem unusable : lodUnusable 4 { nst with issue := none } nctx := by
  show (lodDesc 4 { nst with issue := none } nctx).2 = .missing; decide
theorem usable : (lodDesc 4 { lst with issue := none } lctx).2 = .ok lres := by decide

/-- What the sampler serves at the origin. -/
def lserved (bil : Bool) : Served :=
  { level := 0, tailu := true, none := false, stale := false, texels := List.replicate (if bil then 4 else 1) (0, false) }

theorem met_ldl :
    MetBy (fun h : Obligations.TextureWordsReadWhatIsResident => (h.1 16 4 6).1 fun _ _ => rfl) nst (iss 2) nteam ∧
    MetBy (fun h : Obligations.TextureWordsReadWhatIsResident => ((h.1 16 4 12).2 lres).1 fun _ _ => rfl) lst (iss 2) lteam ∧
    MetBy (fun h : Obligations.TextureWordsReadWhatIsResident => ((h.1 16 4 6).2 lres).2 (lserved false) 0x10 fun _ _ => rfl) lst (iss 2) lteam :=
  ⟨⟨nacts, by unfold Form.clear; decide, lodMay_n, unusable⟩, ⟨lacts, by unfold Form.clear; decide, lodMay_l, usable, by decide⟩,
    ⟨lacts, by unfold Form.clear; decide, lodMay_l, usable, by decide, by decide, by decide⟩⟩

theorem met_samplers :
    MetBy (fun h : Obligations.TextureWordsReadWhatIsResident => ((h.2.2.1 16 4 6).1 2 rfl).1 fun _ _ => rfl) nst (iss 2) nteam ∧
    MetBy (fun h : Obligations.TextureWordsReadWhatIsResident => ((h.2.2.1 16 4 6).1 2 rfl).2 lres (lserved true) 0x10 false fun _ _ => rfl)
      lst (iss 2) lteam ∧
    MetBy (fun h : Obligations.TextureWordsReadWhatIsResident => (h.2.2.1 16 4 6).2.1 fun _ _ => rfl) nst (iss 2) nteam ∧
    MetBy (fun h : Obligations.TextureWordsReadWhatIsResident => (h.2.2.1 16 4 6).2.2 lres (lserved true) 0x10 false rfl fun _ _ => rfl)
      lst (iss 2) lteam :=
  ⟨⟨nacts, by unfold Form.clear; decide, lodMay_n, unusable⟩, ⟨lacts, by unfold Form.clear; decide, lodMay_l, by decide⟩,
    ⟨nacts, by unfold Form.clear; decide, lodMay_n, unusable⟩, ⟨lacts, by unfold Form.clear; decide, lodMay_l, by decide⟩⟩

theorem met_residency :
    MetBy (fun h : Obligations.TextureWordsReadWhatIsResident => (h.2.2.2 16 4 6).1.1) nst (iss 2) nteam ∧
    MetBy (fun h : Obligations.TextureWordsReadWhatIsResident => ((h.2.2.2 16 4 12).1.2 lres).1) lst (iss 2) lteam ∧
    MetBy (fun h : Obligations.TextureWordsReadWhatIsResident => ((h.2.2.2 16 4 6).1.2 lres).2 0 false) lst (iss 2) lteam ∧
    MetBy (fun h : Obligations.TextureWordsReadWhatIsResident => (h.2.2.2 16 4 6).2.1) nst (iss 2) nteam ∧
    MetBy (fun h : Obligations.TextureWordsReadWhatIsResident => ((h.2.2.2 16 4 12).2.2 lres).1) lst (iss 2) lteam ∧
    MetBy (fun h : Obligations.TextureWordsReadWhatIsResident => ((h.2.2.2 16 4 6).2.2 lres).2) lst (iss 2) lteam :=
  ⟨⟨nacts, by unfold Form.clear; decide, lodMay_n, unusable⟩, ⟨lacts, by unfold Form.clear; decide, lodMay_l, usable, by decide⟩,
    ⟨lacts, by unfold Form.clear; decide, lodMay_l, usable, by decide, by decide, by decide⟩, ⟨nacts, by unfold Form.clear; decide, lodMay_n, unusable⟩,
    ⟨lacts, by unfold Form.clear; decide, lodMay_l, usable, by decide⟩, ⟨lacts, by unfold Form.clear; decide, lodMay_l, usable, by decide⟩⟩

/-- A resource whose texels' pages are absent, from level 0 up to its tail at level 1. -/
def far : Resource := { lres with base := 0x400000, tail := 1, levels := 2, ring := 0x10000 }
/-- The core's filter holds the want of page (0, 0) of level 0. -/
def filtered : State := lst.updCore 0 0 fun k => { k with filter := [{ resid := 0, lvl := 0, px := 0, py := 0, time := 0 }] }
/-- A ring of 16 entries at 0x10200 whose header is at 0x10000; PROD is as given. -/
def ringed (prod : List Host.Cell) : State := { lst with mem := prod ++ [(0x10010, 4), (0x10021, 2), (0x10022, 1)] }
def ringQ (s : State) (i : Nat) : Nat := leNat ((((s.ringRead lctx 0x10000).2.getD []).drop (8 * i)).take 8)
def origin (_ : Nat) : List (Option (Nat × Nat)) := [some (0, 0)]
/-- Where level 1, a tail of zeros, or level 0 serves; and a fallback that is logged or not. -/
theorem met_serving :
    (max 0 far.tail < 0 + 16 ∧ (State.serve lctx 0 far origin 16 0 false lst).2 =
      .ok { level := 1, tailu := true, none := true, stale := true, texels := [(0, false)] }) ∧
    (max 0 lres.tail < 0 + 16 ∧ (State.serve lctx 0 lres origin 16 0 false lst).2 =
      .ok { level := 0, tailu := true, none := false, stale := false, texels := [(0, false)] }) ∧
    (far.tail < 16 ∧ far.log = true ∧ (lst.lodServe lctx far 0 0 0 origin).2 =
      .ok ({ level := 1, tailu := true, none := true, stale := true, texels := [(0, false)] }, 0x1171)) ∧
    (lst.lodServe lctx lres 0 0 0 origin).2 =
      .ok ({ level := 0, tailu := true, none := false, stale := false, texels := [(0, false)] }, 0x10) := by decide
theorem met_wants :
    wantKnown filtered lctx far ⟨0, 0, 0⟩ ∧ (lst.core 0 0).filter = [] ∧ (lst.ringRead lctx 0x400000).2 = none ∧
    (let s := ringed [(0x10000, 16)]
     ringFormed (ringQ s) = true ∧ 2 ^ (ringQ s 2 % 2 ^ 5) ≤ (ringQ s 0 % 2 ^ 32 + 2 ^ 32 - ringQ s 1 % 2 ^ 32) % 2 ^ 32) ∧
    (let s := ringed []
     ringFormed (ringQ s) = true ∧ (ringQ s 0 % 2 ^ 32 + 2 ^ 32 - ringQ s 1 % 2 ^ 32) % 2 ^ 32 < 2 ^ (ringQ s 2 % 2 ^ 5) ∧
       (s.ringWrite lctx 0x10000 (leBytes 1 4)).2.isSome = true ∧
       (((s.ringWrite lctx 0x10000 (leBytes 1 4)).1.ringXlat lctx (ringQ s 4)).2).isSome = true) := by
  unfold wantKnown; decide

/-! ### Copies, streams and barriers -/

def MetOnce {P : Prop} {i : Instr} {fm : Issue → Form} {value : Issue → Ctx → Option Nat} {cond : State → Ctx → Prop}
    {eff : Ctx → State → State} (_ : P → EffectsOnce i fm value cond eff) (s : State) (iss : Issue) (t : Team) : Prop :=
  ActsOnce s iss t 0 0 (fm iss) (value iss) ∧ cond { s with issue := none } ⟨t, 0, 0, iss⟩

/-- A team whose uniform registers hold the values `l`, then zeros. -/
def uteam (l : List Word) (th : Thread := thr) : Team :=
  { team th with warps := [{ threads := [th], s := (l.map fun x => ({ val := x } : SReg)) ++ List.replicate (512 - l.length) ({} : SReg) }] }

/-- A shape of one element at offset 0 (R196), at s0 to s2. -/
def cteam : Team := uteam [0, 0, 0x100401]
def cst (t : Team := cteam) : State := chip t (iss 4 true)
def cf : CopyF := ⟨0, 8, 0, 0, 1, 0⟩
/-- A copy that another warp has begun. -/
def ck (kind : CopyKind) : Copy := { seq := 0, kind := kind, slices := [] }
def dteam (kind : CopyKind) : Team := { cteam with chans := [ck kind] :: List.replicate 7 [] }

theorem met_copies : ∀ kind ∈ [CopyKind.cpt, .cpto, .cpx, .cpm],
    MetOnce (fun h : Obligations.CopyAndStreamWordsTakeEffect => (h.1 cf kind).1) (cst) (iss 4 true) cteam ∧
    MetOnce (fun h : Obligations.CopyAndStreamWordsTakeEffect => (h.1 cf kind).2 (ck kind)) (cst (dteam kind)) (iss 4 true) (dteam kind) := by
  have m : ∀ kind, maskTeams (CopyF.extra cf kind ⟨cteam, 0, 0, iss 4 true⟩) = [] := by intro k; cases k <;> decide
  have m' : ∀ kind, maskTeams (CopyF.extra cf kind ⟨dteam kind, 0, 0, iss 4 true⟩) = [] := by intro k; cases k <;> decide
  intro kind hk
  refine ⟨⟨⟨rfl, rfl, by decide, ?_, ?_⟩, ⟨by decide, rfl, fun _ k h => ?_⟩, by decide, by decide⟩,
    ⟨⟨rfl, rfl, ?_, ?_, ?_⟩, ⟨?_, rfl, fun _ k h => ?_⟩, ?_, rfl⟩⟩
  · revert kind hk; decide
  · revert kind hk; decide
  · rw [m kind] at h; exact absurd h (by simp)
  · revert kind hk; decide
  · revert kind hk; decide
  · revert kind hk; decide
  · revert kind hk; decide
  · rw [m' kind] at h; exact absurd h (by simp)
  · revert kind hk; decide

theorem met_thread_copies :
    MetBy (fun h : Obligations.CopyAndStreamWordsTakeEffect => h.2.1.1 8 0 2) (st 4) (iss 4) (team) ∧
    MetBy (fun h : Obligations.CopyAndStreamWordsTakeEffect => h.2.1.2.1 8) (st 4) (iss 4) (team) ∧
    MetBy (fun h : Obligations.CopyAndStreamWordsTakeEffect => h.2.1.2.2.1 0) (st 4) (iss 4) (team) ∧
    MetBy (fun h : Obligations.CopyAndStreamWordsTakeEffect => h.2.1.2.2.2 8 7) (st 4) (iss 4) (team) := by
  refine ⟨⟨acts1 4 (by decide), ?_, by decide, by decide, by decide⟩, ⟨acts1 4 (by decide), ?_, by decide⟩, ⟨acts1 4 (by decide), ?_, by decide⟩,
    ⟨acts1 4 (by decide), ?_, trivial⟩⟩ <;> unfold Form.clear <;> decide

/-- The parameters of a stream of one level of three rows. -/
def steam : Team := uteam [0, 0, 3, 8]

theorem met_streams :
    MetOnce (fun h : Obligations.CopyAndStreamWordsTakeEffect => h.2.2.1 7 0 31 1) (cst steam) (iss 4 true) steam ∧
    ActsOnce (cst steam) (iss 4 true) steam 0 0 { grp := .copy, coll := true, os := queueO (cst steam) (iss 4 true) 7 } (fun _ => none) ∧
    ∀ t, (cst steam).team? 1 = some t → ∀ k ∈ t.taken, k.q = 7 → k.parked = false :=
  ⟨⟨⟨rfl, rfl, by decide, by decide, by decide⟩, by decide, rfl⟩, ⟨rfl, rfl, by decide, by decide, by decide⟩, by decide⟩

/-- A team whose queue 0 is `q`. -/
def qteam (q : Stream) : Team := { team with queues := q :: List.replicate 7 {} }

theorem met_popq :
    (Acts (chip (qteam {}) (iss 4)) (iss 4) (qteam {}) 0 0 ∧ (({} : Stream).isOpen = false) ∧
      Form.clear { grp := .copy, os := [(((iss 4).reg 8).grp 1 1).dst, ((iss 4).prd 2).dst] } (fun _ => none) ⟨qteam {}, 0, 0, iss 4⟩) ∧
    (let q : Stream := { isOpen := true, roww := 1, total := 1, fetched := 1, queue := [{ idx := 0, words := [1, 2] }] }
     Acts (chip (qteam q) (iss 4)) (iss 4) (qteam q) 0 0 ∧ q.next < q.total ∧
      Form.clear { grp := .copy, os := [(((iss 4).reg 8).grp 2 1).dst, ((iss 4).prd 2).dst] } (fun _ => none) ⟨qteam q, 0, 0, iss 4⟩) ∧
    (let q : Stream := { isOpen := true, roww := 1, total := 1 }
     Acts (chip (qteam q) (iss 4)) (iss 4) (qteam q) 0 0 ∧ q.next < q.total ∧ q.queue = [] ∧
      Form.clear { grp := .copy, os := [(((iss 4).reg 8).grp 2 1).dst, ((iss 4).prd 2).dst] } (fun _ => none) ⟨qteam q, 0, 0, iss 4⟩) := by
  refine ⟨⟨⟨rfl, rfl, by decide, rfl⟩, rfl, ?_⟩, ⟨⟨rfl, rfl, by decide, rfl⟩, by decide, ?_⟩, ⟨⟨rfl, rfl, by decide, rfl⟩, by decide, rfl, ?_⟩⟩ <;>
    unfold Form.clear <;> decide

theorem met_popq_groups :
    let q : Stream := { isOpen := true, roww := 3, total := 1, fetched := 1, queue := [{ idx := 0, words := [1, 2, 3, 4] }] }
    let dst := ((iss 4).reg 8).many 4
    Acts (chip (qteam q) (iss 4)) (iss 4) (qteam q) 0 0 ∧ q.next < q.total ∧ dst.align = 4 ∧
      Form.clear { grp := .copy, os := queueO (chip (qteam q) (iss 4)) (iss 4) 0 ++ [dst.dst, ((iss 4).prd 2).dst] } (fun _ => none)
        ⟨qteam q, 0, 0, iss 4⟩ := by
  refine ⟨⟨rfl, rfl, by decide, rfl⟩, by decide, rfl, ?_⟩
  unfold Form.clear; decide

/-- Register 1 holds a count, register 0 the address of a barrier. -/
def bthr : Thread := { thr with v := regs [0x20, 3] }
def bteam : Team := team bthr
def bst : State := chip bteam (iss 4 true)
theorem bacts : Acts bst (iss 4 true) bteam 0 0 := ⟨rfl, rfl, by decide, rfl⟩

/-- The same for a word that acts by thread or for its warp (`EffectsBy`). -/
def MetEach {P : Prop} {i : Instr} {fm : Issue → Form} {value : Issue → Ctx → Option Nat} {cond : State → Ctx → Prop}
    {eff : Ctx → State → State} (_ : P → EffectsBy (0#1 == 1) i fm value cond eff) (s : State) (iss : Issue) (t : Team) : Prop :=
  Acts s iss t 0 0 ∧ (fm iss).clear (value iss) ⟨t, 0, 0, iss⟩ ∧ cond { s with issue := none } ⟨t, 0, 0, iss⟩
def MetWhole {P : Prop} {i : Instr} {fm : Issue → Form} {value : Issue → Ctx → Option Nat} {cond : State → Ctx → Prop}
    {eff : Ctx → State → State} (_ : P → EffectsBy (1#1 == 1) i fm value cond eff) (s : State) (iss : Issue) (t : Team) : Prop :=
  ActsOnce s iss t 0 0 (fm iss) (value iss) ∧ cond { s with issue := none } ⟨t, 0, 0, iss⟩

theorem met_barrier_words :
    MetBy (fun h : Obligations.BarrierWordsCount => ((h.1 0 0 1 0x20).1 1).1) bst (iss 4 true) bteam ∧
    MetEach (fun h : Obligations.BarrierWordsCount => ((h.1 0 0 1 0x20).2.1 8 0).1) bst (iss 4 true) bteam ∧
    MetWhole (fun h : Obligations.BarrierWordsCount => ((h.1 0 1 1 0x20).2.1 8 1).1) bst (iss 4 true) bteam ∧
    MetEach (fun h : Obligations.BarrierWordsCount => ((h.1 0 0 1 0x20).2.2.1 1 0 1).1) bst (iss 4 true) bteam ∧
    MetWhole (fun h : Obligations.BarrierWordsCount => ((h.1 0 0 1 0x20).2.2.1 1 1 1).1) bst (iss 4 true) bteam ∧
    MetBy (fun h : Obligations.BarrierWordsCount => (h.1 0 0 1 0x20).2.2.2 1) bst (iss 4 true) bteam := by
  refine ⟨⟨bacts, ?_, ?_⟩, ⟨bacts, ?_, ?_⟩, ⟨⟨rfl, rfl, ?_, ?_, ?_⟩, ?_⟩, ⟨bacts, ?_, ?_⟩, ⟨⟨rfl, rfl, ?_, ?_, ?_⟩, ?_⟩, ⟨bacts, ?_, ?_⟩⟩
  · unfold Form.clear; decide
  · exact ⟨⟨by decide, by decide⟩, by decide, fun h => nomatch h⟩
  · unfold Form.clear; decide
  · exact ⟨⟨by decide, by decide⟩, by decide, by decide⟩
  · decide
  · decide
  · decide
  · exact ⟨⟨bteam, by decide, by decide, by decide⟩, by decide, by decide⟩
  · unfold Form.clear; decide
  · exact ⟨⟨by decide, by decide⟩, by decide, by decide⟩
  · decide
  · decide
  · decide
  · exact ⟨⟨by decide, by decide⟩, by decide, by decide⟩
  · unfold Form.clear; decide
  · exact ⟨⟨by decide, by decide⟩, by decide⟩

/-- The same while an engine release waits on the barrier. -/
def waitTeam : Team := { bteam with tbHolds := [{ addr := 0x20, until_ := 5 }] }
def waitSt : State := chip waitTeam (iss 4 true)
theorem waitActs : Acts waitSt (iss 4 true) waitTeam 0 0 := ⟨rfl, rfl, by decide, rfl⟩

theorem met_held_barriers :
    MetBy (fun h : Obligations.BarrierWordsCount => ((h.1 0 0 1 0x20).1 1).2) waitSt (iss 4 true) waitTeam ∧
    MetEach (fun h : Obligations.BarrierWordsCount => ((h.1 0 0 1 0x20).2.1 8 0).2) waitSt (iss 4 true) waitTeam ∧
    MetWhole (fun h : Obligations.BarrierWordsCount => ((h.1 0 0 1 0x20).2.2.1 1 1 1).2) waitSt (iss 4 true) waitTeam := by
  refine ⟨⟨waitActs, ?_, ⟨by decide, by decide⟩, by decide⟩, ⟨waitActs, ?_, ⟨by decide, by decide⟩, by decide, by decide⟩,
    ⟨⟨rfl, rfl, by decide, by decide, by decide⟩, ⟨by decide, by decide⟩, by decide, by decide⟩⟩ <;> unfold Form.clear <;> decide

theorem met_barrier_updates : (st 4).tbHeld 1 0x20 = false ∧ (15 : Nat) < 16 ∧ 2 ^ 20 - 1 < 2 ^ 20 ∧ 2 ^ 32 - 1 < 2 ^ 32 := by decide

theorem met_update_order :
    waitSt.tbHeld 1 0x20 = true ∧ (st 4).tbHeld 1 0x20 = false ∧ TbUpd.init 3 = .init 3 ∧
    (TbUpd.bump (-1) 2 none (some (7, true)) = .bump (-1) 2 none (some (7, true))) := by decide

/-! ### Matrix words -/

def MetMat {P : Prop} {i : Instr} {fm : State → Issue → Form} {value : Issue → Ctx → Option Nat}
    {cond : State → Issue → Team → List Ctx → Prop} {eff : Issue → List Ctx → State → State} (_ : P → EffectsMat i fm value cond eff)
    (s : State) (iss : Issue) (t : Team) : Prop :=
  ActsMat s iss t (fm { s with issue := none } iss) (value iss) ∧
    cond { s with issue := none } iss t ((iss.actors t).map fun m => ⟨t, m.1, m.2, iss⟩)

theorem met_accumulations :
    MetMat (fun h : Obligations.MatrixWordsQueueTheirWork => (h.1 3 1 0 0 0 0).1) (st 3) (iss 3) (team) ∧
    (let t : Team := { team with tiles := [(3, { paired := true })] }
     MetMat (fun h : Obligations.MatrixWordsQueueTheirWork => (h.1 3 1 0 0 0 0).2) (chip t (iss 3)) (iss 3) t) :=
  ⟨⟨⟨rfl, rfl, by decide, by decide, by decide⟩, by decide, by unfold matFree; decide, (fun h => nomatch h), (fun h => absurd h (by decide)), by decide, fun h => nomatch h⟩,
    ⟨rfl, rfl, by decide, by decide, by decide⟩, by decide, by unfold matFree; decide, (fun h => nomatch h), (fun h => absurd h (by decide)), by decide, fun h => nomatch h⟩

/-- The shape of a plane of I8x4 elements with one row of two words (tag 8). -/
def pteam : Team := uteam [8 * 2 ^ 22, 4, 8 + 2 ^ 10 + 2 ^ 20]

theorem met_mload :
    let c : Ctx := ⟨pteam, 0, 0, iss 3 true⟩
    let h := Shape.ofWords (c.words (uniOpnd 0 3 4))
    ActsOnce (chip pteam (iss 3 true)) (iss 3 true) pteam 0 0
      { matForm (Instr.mload 1 0 0 0 0).wf ((chip pteam (iss 3 true)).unowned (iss 3 true) fun p w => p.ownsPlane w 1) [uniOpnd 0 3 4] with
        coll := true } (mloadCheck 0 0 0) ∧
    (chip pteam (iss 3 true)).matRoom (iss 3 true) 0 false = true ∧
    (∀ k < min h.e1 64, ∀ i < h.e0, pteam.badScratch (h.addr i k 0) 4 = false) ∧ pteam.badScratch 0 0 = false :=
  ⟨⟨rfl, rfl, by decide, by decide, by decide⟩, by decide, by decide, by decide⟩

theorem met_mdrain :
    ActsMat (st 3) (iss 3) (team) (matForm true (tilePast 3 (iss 3) (st 3)) [(((iss 3).reg 8).grp 8 8).dst]) (fun _ => none) ∧
    (st 3).matRoom (iss 3) 0 false = true := ⟨⟨rfl, rfl, by decide, by decide, by decide⟩, by decide⟩

/-- A pair of which neither has left a row for the other. -/
theorem met_shared_rows :
    let c : Ctx := ⟨team, 0, 0, iss 3⟩
    c.t.mateRow 0 c = none ∧ c.t.mateRow 0 { c with l := c.l ^^^ 1 } = none := ⟨rfl, rfl⟩

theorem met_matrix_words :
    MetMat (fun h : Obligations.MatrixWordsQueueTheirWork => h.2.1.2.2.1 3 1 1) (st 3) (iss 3) (team) ∧
    MetMat (fun h : Obligations.MatrixWordsQueueTheirWork => h.2.1.2.2.2.1 0 3 2 0 false) (st 3) (iss 3) (team) ∧
    MetBy (fun h : Obligations.MatrixWordsQueueTheirWork => h.2.1.2.2.2.2.1 0 0) (st 3) (iss 3) (team) ∧
    MetMat (fun h : Obligations.MatrixWordsQueueTheirWork => h.2.1.2.2.2.2.2.1 3 0 1) (st 3) (iss 3) (team) ∧
    MetMat (fun h : Obligations.MatrixWordsQueueTheirWork => (h.2.1.2.2.2.2.2.2 3 0 0).1) (st 3) (iss 3) (team) ∧
    MetMat (fun h : Obligations.MatrixWordsQueueTheirWork => (h.2.1.2.2.2.2.2.2 2 0 1).2) (st 3) (iss 3) (team) :=
  ⟨⟨⟨rfl, rfl, by decide, by decide, by decide⟩, by unfold matFree; decide⟩,
    ⟨⟨rfl, rfl, by decide, by decide, by decide⟩, by unfold matFree; decide, by decide⟩, ⟨acts1 3 (by decide), by unfold Form.clear; decide, trivial⟩,
    ⟨⟨rfl, rfl, by decide, by decide, by decide⟩, by unfold matFree; decide⟩,
    ⟨⟨rfl, rfl, by decide, by decide, by decide⟩, by unfold matFree; decide⟩, ⟨rfl, rfl, by decide, by decide, by decide⟩, by unfold matFree; decide⟩

/-- A state whose quadrant 0 has `w` at the head of its queue. -/
def mop (w : MatWork) : MatOp := { id := 5, team := 1, members := [(0, 0)], work := w }
def mst (w : MatWork) : State :=
  { (chip (team) (iss 3)) with clusters := [{ cores := [{ matq := [[mop w], [], [], []] }] }] }

theorem met_matrix_queue : ∀ w ∈ [MatWork.mload 1 {} false, .mma 3 1 [] false false false, .mdrain 3 0 false .f32 [],
      .mzero 3 true [0], .mfill 3 0 true [(0, [])], .mzp 3 [(0, 1)], .msclRow 3 [(0, 1)], .msclCol 1 true [(0, 1)]],
    (mst w).matQueue 0 0 0 = [mop w] ∧ (mop w).shadow = false ∧ (mop w).both = false ∧ (mst w).team? 1 = some (team) ∧
      (mop w).work = w :=
  fun _ _ => ⟨rfl, rfl, rfl, rfl, rfl⟩
theorem met_matrix_sound : ((team).tile 3).bad = false ∧ ((team).plane 1).bad = false ∧ ({} : Plane).uncov.any id = false := by decide

/-! ### Signatures, the memo table, queries and records -/

/-- A thread in a region state. -/
def rteam (r : Region) : Team := team { thr with ab := { region := r, latched := 9 } }
def rst (r : Region) : State := { chip (rteam r) (iss 5) with
  launches := [{ id := 2, ctx := 0, cmd := 3, node := { va := 0, memo := true, tgts := { v := true, node := 0x10200 } :: List.replicate 7 {} } }]
  commands := [{ id := 3, q := 0, idx := 0, ctx := 0, instr := .pend, poolSize := 64 }]
  mem := [(0x1000, 9), (0x1041, 2), (0x10210, 4)] }
theorem racts (r : Region) : Acts (rst r) (iss 5) (rteam r) 0 0 := ⟨rfl, rfl, rfl, rfl⟩

theorem met_signatures :
    MetBy (fun h : Obligations.AbsorptionWordsFollowTheRegion => h.1.1 3 1) (rst .idle) (iss 5) (rteam .idle) ∧
    MetBy (fun h : Obligations.AbsorptionWordsFollowTheRegion => h.1.2.1 0 3 4 1 0) (rst .absorbing) (iss 5) (rteam .absorbing) ∧
    MetBy (fun h : Obligations.AbsorptionWordsFollowTheRegion => h.1.2.2.1 0 3 0) (rst .absorbing) (iss 5) (rteam .absorbing) ∧
    MetBy (fun h : Obligations.AbsorptionWordsFollowTheRegion => h.1.2.2.2.1 8) (rst .absorbing) (iss 5) (rteam .absorbing) ∧
    MetBy (fun h : Obligations.AbsorptionWordsFollowTheRegion => h.1.2.2.2.2) (rst .opened) (iss 5) (rteam .opened) := by
  refine ⟨⟨racts _, ?_, by decide⟩, ⟨racts _, ?_, rfl⟩, ⟨racts _, ?_, rfl⟩, ⟨racts _, ?_, rfl⟩, ⟨racts _, ?_, trivial⟩⟩ <;>
    unfold Form.clear <;> decide

/-- An entry of the key 0 with one word. -/
def oent : OasisEntry := { set := 0, way := 0, sig := 0, dom := 0, kind := 0, ptr := false, pay := [(7, .n32)], cost := 5, age := 0, check := 0 }
def ost : State := { rst .idle with oasis := { entries := [oent] } }
theorem oacts : Acts ost (iss 5) (rteam .idle) 0 0 := ⟨rfl, rfl, rfl, rfl⟩
def lf : MemolF := ⟨8, 0, 2, 0, 0, 0, 0, 0⟩
def sf : MemosF := ⟨8, 0, 0, 0, 0, 0, 0⟩

/-- Without the launch no memo use is on. -/
def xst : State := chip (rteam .idle) (iss 5)
theorem xacts : Acts xst (iss 5) (rteam .idle) 0 0 := ⟨rfl, rfl, rfl, rfl⟩

/-- A thread in an open region, its registers signed. -/
def gteam : Team := team { thr with ab := { region := .opened, latched := 9 }, v := List.replicate 64 { signed := true } }
def gst : State := { chip gteam (iss 5) with launches := (rst .idle).launches }
theorem gacts : Acts gst (iss 5) gteam 0 0 := ⟨rfl, rfl, rfl, rfl⟩

theorem met_memo :
    MetBy (fun h : Obligations.AbsorptionWordsFollowTheRegion => (h.2.1.1 lf).1 oent) ost (iss 5) (rteam .idle) ∧
    MetBy (fun h : Obligations.AbsorptionWordsFollowTheRegion => (h.2.1.1 lf).2.1) (rst .idle) (iss 5) (rteam .idle) ∧
    MetBy (fun h : Obligations.AbsorptionWordsFollowTheRegion => (h.2.1.1 lf).2.2) xst (iss 5) (rteam .idle) ∧
    MetBy (fun h : Obligations.AbsorptionWordsFollowTheRegion => (h.2.1.2.1 sf).1) gst (iss 5) gteam ∧
    MetBy (fun h : Obligations.AbsorptionWordsFollowTheRegion => (h.2.1.2.1 sf).2.1) (rst .idle) (iss 5) (rteam .idle) ∧
    MetBy (fun h : Obligations.AbsorptionWordsFollowTheRegion => (h.2.1.2.1 sf).2.2) (rst .lapsed) (iss 5) (rteam .lapsed) ∧
    MetBy (fun h : Obligations.AbsorptionWordsFollowTheRegion => h.2.1.2.2 0 0) (rst .idle) (iss 5) (rteam .idle) ∧
    (∃ w < 16, w ∉ ost.oasis.waysDown) := by
  refine ⟨⟨oacts, ?_, by decide, by decide, by decide⟩, ⟨racts _, ?_, by decide, by decide, by decide⟩, ⟨xacts, ?_, by decide, by decide⟩,
    ⟨gacts, ?_, .inr (by decide), .inl (by decide), by decide, by decide⟩,
    ⟨racts _, ?_, .inr (by decide), .inl (by decide), by decide, by decide⟩, ⟨racts _, ?_, by decide, by decide⟩, ⟨racts _, ?_, trivial⟩,
    0, by decide, by decide⟩ <;> unfold Form.clear <;> decide

/-- A query of team 1, named by the handle 0. -/
def qry : Query := { id := 4, slot := 0, gen := 0, team := 1, ctx := 0, header := 0, version := 0, orig := [0, 0, 0], dir := [0, 0, 0], tmin := 0, tmax := 0,
                     np := false, first := false }
def yst : State := { st 5 with clusters := [{ cores := [{}], queries := [qry] }] }
theorem yacts : Acts yst (iss 5) (team) 0 0 := ⟨rfl, rfl, rfl, rfl⟩

def MetRay {P : Prop} {i : Instr} {a : BitVec 7} {os : Issue → List Opnd} {eff : Ctx → Query → State → State}
    (_ : P → RaySends i a os eff) (s : State) (iss : Issue) (t : Team) (q : Query) : Prop :=
  Acts s iss t 0 0 ∧ (rayForm i (fun iss => rayA iss a :: os iss) iss).clear (handleCheck s iss (rayA iss a)) ⟨t, 0, 0, iss⟩ ∧
    s.named iss.cl t.id (Ctx.rd ⟨t, 0, 0, iss⟩ (rayA iss a)) = some q

theorem met_ray_words :
    MetBy (fun h : Obligations.QueriesAndRecordsReachTheirUnit => h.1.1 16 0 8 0 1) (st 5) (iss 5) (team) ∧
    MetRay (fun h : Obligations.QueriesAndRecordsReachTheirUnit => h.1.2.1 0) yst (iss 5) (team) qry ∧
    MetRay (fun h : Obligations.QueriesAndRecordsReachTheirUnit => h.1.2.2.1 1 0) yst (iss 5) (team) qry ∧
    MetRay (fun h : Obligations.QueriesAndRecordsReachTheirUnit => h.1.2.2.2 8 0 1) yst (iss 5) (team) qry := by
  refine ⟨⟨acts1 5 (by decide), ?_, by decide⟩, ⟨yacts, ?_, by decide⟩, ⟨yacts, ?_, by decide⟩, ⟨yacts, ?_, by decide⟩⟩ <;>
    unfold Form.clear <;> decide
theorem met_start_query : (List.replicate 8 (0 : Word)).length = 8 ∧ (iss 5).cl < yst.clusters.length ∧
    (yst.cluster 0).queries.length < 8192 ∧ ∀ q ∈ (yst.cluster 0).queries, q.slot < 8192 := by decide

def etgt : OutTgt := { v := true, node := 0x10200 }
def ecmd : Command := { id := 3, q := 0, idx := 0, ctx := 0, instr := .pend, poolSize := 64 }

def ef : EmitF := ⟨0, 0, 0, 8, 0⟩
def ectx : Ctx := ⟨rteam .idle, 0, 0, iss 5⟩
theorem met_emit :
    let s : State := { rst .idle with issue := none }
    let after := (s.translate 0 0 0 true .read etgt.node).1
    Acts (rst .idle) (iss 5) (rteam .idle) 0 0 ∧
    Form.clear { grp := .emit, wf := (Instr.emit ef).wf, len := 2, os := [ef.tagO (iss 5), ef.dataO (iss 5)] } (fun c => emitCheck ef s c) ectx ∧
    EmitTo ef s ectx etgt ecmd ∧ EmitTo ef after ectx etgt ecmd ∧ after.team? 1 = some (rteam .idle) ∧ ectx.inRegion = false ∧ ectx.ahead = [] ∧
    (s.translate 0 0 0 true .read etgt.node).2 = .ok { pa := 0x10200 } ∧ after.xlatBad { pa := 0x10210 } 32 = false ∧
    unpaired after ectx ∧ released after ectx ∧ after.poolUsed ecmd.id + roundUp (4 * ef.cnt) 16 ≤ ecmd.poolSize := by
  refine ⟨racts _, by unfold Form.clear; decide, ⟨_, rfl, by decide, by decide, by decide⟩, ⟨_, rfl, by decide, by decide, by decide⟩, by decide,
    by decide, by decide, by decide, by decide, .inl (by decide), .inr (by decide), by decide⟩

/-! ### Control -/

def MetGo {P : Prop} {i : Instr} {fm : Issue → Form} {value : Issue → Ctx → Option Nat} {cond : State → Ctx → Prop}
    {eff : Ctx → State → State} (_ : P → Goes i fm value cond eff) (s : State) (iss : Issue) (t : Team) : Prop :=
  Acts s iss t 0 0 ∧ (fm iss).clear (value iss) ⟨t, 0, 0, iss⟩ ∧ cond { s with issue := none } ⟨t, 0, 0, iss⟩ ∧
    ((eff ⟨t, 0, 0, iss⟩ { s with issue := none }).thread iss.team 0 0).mustTrap = none

/-- The state meets the hypotheses of a clause of `Proceeds`. -/
def MetOn {P : Prop} {i : Instr} {fm : Issue → Form} {value : Issue → Ctx → Option Nat} {cond : State → Ctx → Prop}
    {eff : Ctx → State → State} (_ : P → Proceeds i fm value cond eff) (s : State) (iss : Issue) (t : Team) : Prop :=
  Acts s iss t 0 0 ∧ (fm iss).clear (value iss) ⟨t, 0, 0, iss⟩ ∧ cond { s with issue := none } ⟨t, 0, 0, iss⟩ ∧
    ∀ m ∈ Ctx.all ⟨t, 0, 0, iss⟩, (t.thread m.1 m.2).mustTrap = none

/-- A thread that has called once; its registers 4 and 5 hold a header's address. -/
def cthr : Thread := { lthr with rsd := 1, held := [{ e := 0, val := 0x10100 }] }
/-- The word that ends its clause. -/
def ciss : Issue := { iss 6 with word := 8 }
def kteam : Team := team cthr
def kst : State := chip kteam ciss
theorem kacts : Acts kst ciss kteam 0 0 := ⟨rfl, rfl, rfl, rfl⟩

theorem met_transfers :
    MetGo (fun h : Obligations.TransfersGoAndReturn => ((h.1 7 0).1 4).1) kst ciss kteam ∧
    MetOn (fun h : Obligations.TransfersGoAndReturn => ((h.1 7 1).1 4).2.1) kst ciss kteam ∧
    MetGo (fun h : Obligations.TransfersGoAndReturn => ((h.1 7 0).1 4).2.2.1) kst ciss kteam ∧
    MetOn (fun h : Obligations.TransfersGoAndReturn => ((h.1 7 1).1 4).2.2.2) kst ciss kteam ∧
    MetGo (fun h : Obligations.TransfersGoAndReturn => ((h.1 7 0).2.1 4).1.1) kst ciss kteam ∧
    MetOn (fun h : Obligations.TransfersGoAndReturn => ((h.1 7 1).2.1 4).1.2) kst ciss kteam ∧
    MetGo (fun h : Obligations.TransfersGoAndReturn => ((h.1 7 0).2.1 4).2.1.1) kst ciss kteam ∧
    MetOn (fun h : Obligations.TransfersGoAndReturn => ((h.1 7 1).2.1 4).2.1.2) kst ciss kteam ∧
    MetGo (fun h : Obligations.TransfersGoAndReturn => (h.1 7 0).2.2.1) kst ciss kteam ∧
    MetOn (fun h : Obligations.TransfersGoAndReturn => (h.1 7 1).2.2.2) kst ciss kteam := by
  refine ⟨⟨kacts, ?_, by decide, by decide⟩, ⟨kacts, ?_, by decide, by decide⟩, ⟨kacts, ?_, ⟨by decide, by unfold mayCall; decide⟩, by decide⟩,
    ⟨kacts, ?_, by decide, by decide⟩, ⟨kacts, ?_, by decide, by decide⟩, ⟨kacts, ?_, by decide, by decide⟩,
    ⟨kacts, ?_, ⟨by decide, by unfold mayCall; decide⟩, by decide⟩, ⟨kacts, ?_, by decide, by decide⟩,
    ⟨kacts, ?_, ⟨by decide, by unfold mayReturn; decide⟩, by decide⟩, ⟨kacts, ?_, by decide, by decide⟩⟩ <;> unfold Form.clear <;> decide
/-- An untaken JMP or CALLR whose pair has another tag; a CALLR with a full return stack, and one whose spill lacks room. -/
theorem met_transfer_traps :
    (let t := team { thr with v := List.replicate 64 { tag := .f32 } }
     let c : Ctx := ⟨t, 0, 0, ciss⟩
     let fm := transferForm ciss 7 true [ciss.jumpA 4]
     Acts (chip t ciss) ciss t 0 0 ∧ fm.precheck ciss t = none ∧ c.taken 7 1 = false ∧ (∀ o ∈ fm.os, c.outOfRange o = false) ∧
       c.blocked fm.os = false ∧ c.badTag (ciss.jumpA 4) = true) ∧
    ∀ n ∈ [8, 65535],
     let t := team { thr with rsd := n }
     let c : Ctx := ⟨t, 0, 0, ciss⟩
     let fm := transferForm ciss 7 true [{ ciss.jumpA 4 with tags := none }]
     Acts (chip t ciss) ciss t 0 0 ∧ ciss.cls ≠ 0 ∧ fm.precheck ciss t = none ∧ (∀ o ∈ fm.os, c.outOfRange o = false) ∧
       c.blocked fm.os = false ∧ c.taken 7 0 = true ∧
       ((t.thread 0 0).rsd = 65535 ∨ (8 ≤ (t.thread 0 0).rsd ∧ t.prog.tls < 8 * ((t.thread 0 0).rsd - 7))) :=
  ⟨⟨⟨rfl, rfl, rfl, rfl⟩, by decide, by decide, by decide, by decide, by decide⟩, by
    intro n h
    refine ⟨⟨rfl, rfl, rfl, rfl⟩, by decide, ?_, ?_, ?_, ?_, ?_⟩ <;> revert n h <;> decide⟩
theorem met_return : kst.team? kteam.id = some kteam ∧ (kteam.thread 0 0).exited = false ∧ (kteam.thread 0 0).rsd < 8 := ⟨rfl, rfl, by decide⟩

theorem met_exit :
    MetGo (fun h : Obligations.ControlWordsHaveTheirEffect => (h.1 7 0 0).1 (by decide)) kst ciss kteam ∧
    MetGo (fun h : Obligations.ControlWordsHaveTheirEffect => (h.1 7 0 1).2.1 rfl) kst ciss kteam ∧
    MetOn (fun h : Obligations.ControlWordsHaveTheirEffect => (h.1 7 1 1).2.2.2) kst ciss kteam := by
  refine ⟨⟨kacts, ?_, ⟨by decide, .inl (by decide)⟩, by decide⟩, ⟨kacts, ?_, ⟨by decide, .inl (by decide)⟩, by decide⟩,
    ⟨kacts, ?_, ⟨by decide, .inl (by decide)⟩, by decide⟩⟩ <;> unfold Form.clear <;> decide
/-- EXIT by one thread of a pair of a protected launch, its partner still live. -/
def ppair : Team := { team with warps := [{ threads := [thr, thr], s := List.replicate 512 {} }] }
def ppst (t : Team) (i : Issue) : State := { chip t i with launches := [{ id := 2, ctx := 0, node := { prot := true } }] }
theorem met_protected_exit : ∀ mode ∈ [(0 : BitVec 2)],
    let i := ciss
    mode ≠ 1 ∧ Acts (ppst ppair i) i ppair 0 0 ∧ i.members = [(0, 0)] ∧ 0 < ppair.warps.length ∧ 0 < (ppair.warp 0).threads.length ∧
      (ppst ppair i).isProtected ppair = true ∧ i.cls ≠ 0 ∧ Ctx.taken ⟨ppair, 0, 0, i⟩ 7 0 = true ∧ (ppair.thread 0 0).mustTrap = none ∧
      (transferForm i 7 (Instr.exit 7 0 mode).wf []).clear (fun _ => none) ⟨ppair, 0, 0, i⟩ := by
  intro mode h
  refine ⟨?_, ⟨rfl, rfl, rfl, rfl⟩, rfl, by decide, by decide, by decide, by decide, by decide, rfl, ?_⟩
  · revert mode h; decide
  · revert mode h; unfold Form.clear; decide
theorem met_meet :
    MetOn (fun h : Obligations.ControlWordsHaveTheirEffect => h.2.1 8 4) (st 6) (iss 6) (team) ∧
    MetOn (fun h : Obligations.ControlWordsHaveTheirEffect => h.2.2.1 0) (st 6) (iss 6) (team) := by
  refine ⟨⟨acts1 6 (by decide), ?_, trivial, by decide⟩, ⟨acts1 6 (by decide), ?_, trivial, by decide⟩⟩ <;> unfold Form.clear <;> decide
theorem met_bar :
    let c : Ctx := ⟨team, 0, 0, iss 6⟩
    Acts (st 6) (iss 6) (team) 0 0 ∧ Form.clear { grp := .ctl } (fun _ => none) c ∧ (∃ m ∈ c.all, m ∉ (team).arrT) ∧ (∃ m ∈ c.all, m ∉ (team).arrC) ∧
      (st 6).releaseGate c 0 false = none ∧ (st 6).releaseGate c 1 false = none :=
  ⟨acts1 6 (by decide), by unfold Form.clear; decide, ⟨(0, 0), by decide, by decide⟩, ⟨(0, 0), by decide, by decide⟩, by decide, by decide⟩
/-- REP before an IADD that steps d, a and b. -/
def repIss : Issue := { iss 1 with has2 := true, raw2 := 0x00080818 }
theorem met_rep :
    Acts (chip (team) repIss) repIss (team) 0 0 ∧ Form.clear { grp := .repeat_ } (fun _ => none) ⟨team, 0, 0, repIss⟩ ∧
      repIss.has2 = true ∧ repFields (repIss.raw2.toNat / 2 ^ 24) = some (true, true, true) ∧ ((team).thread 0 0).mustTrap = none :=
  ⟨⟨rfl, rfl, rfl, rfl⟩, by unfold Form.clear; decide, rfl, by decide, rfl⟩
theorem met_lease :
    MetOn (fun h : Obligations.ControlWordsHaveTheirEffect => (h.2.2.2.2.2.1 0 12).1) (st 0) (iss 0) (team) ∧
    MetOn (fun h : Obligations.ControlWordsHaveTheirEffect => (h.2.2.2.2.2.1 0 12).2.1) (st 0) (iss 0) (team) ∧
    MetOn (fun h : Obligations.ControlWordsHaveTheirEffect => (h.2.2.2.2.2.1 0 0).2.2.1) (st 0) (iss 0) (team) ∧
    MetOn (fun h : Obligations.ControlWordsHaveTheirEffect => (h.2.2.2.2.2.1 8 0).2.2.2) (st 6) (iss 6) (team) := by
  refine ⟨⟨acts0, ?_, trivial, by decide⟩, ⟨acts0, ?_, trivial, by decide⟩, ⟨acts0, ?_, trivial, by decide⟩,
    ⟨acts1 6 (by decide), ?_, trivial, by decide⟩⟩ <;> unfold Form.clear <;> decide
/-- Register 0 holds a time that is yet to come. -/
def laterTeam : Team := team { thr with v := regs [50] }
theorem met_waitt :
    MetOn (fun h : Obligations.ControlWordsHaveTheirEffect => (h.2.2.2.2.2.2.1 0).1) (st 6) (iss 6) (team) ∧
    MetGo (fun h : Obligations.ControlWordsHaveTheirEffect => (h.2.2.2.2.2.2.1 0).2) (chip laterTeam (iss 6)) (iss 6) laterTeam ∧
    MetOn (fun h : Obligations.ControlWordsHaveTheirEffect => (h.2.2.2.2.2.2.2.1 0).1) (st 6) (iss 6) (team) ∧
    MetGo (fun h : Obligations.ControlWordsHaveTheirEffect => (h.2.2.2.2.2.2.2.1 100).2) (st 6) (iss 6) (team) ∧
    MetOn (fun h : Obligations.ControlWordsHaveTheirEffect => (h.2.2.2.2.2.2.2.2 7 1 0 5).2) (st 6) (iss 6) (team) ∧
    (Acts (st 6) (iss 6) (team) 0 0 ∧ (ctlForm (fun i => [i.cond 7]) (iss 6)).clear (fun _ => none) ⟨team, 0, 0, iss 6⟩ ∧
      Ctx.taken ⟨team, 0, 0, iss 6⟩ 7 0 = true) := by
  refine ⟨⟨acts1 6 (by decide), ?_, by decide, by decide⟩, ⟨⟨rfl, rfl, rfl, rfl⟩, ?_, by decide, by decide⟩,
    ⟨acts1 6 (by decide), ?_, rfl, by decide⟩, ⟨acts1 6 (by decide), ?_, by decide, by decide⟩,
    ⟨acts1 6 (by decide), ?_, by decide, by decide⟩, acts1 6 (by decide), ?_, by decide⟩ <;> unfold Form.clear <;> decide

/-- The hypotheses of ControlWordsMoveTheirThreads: the thread, each word's checks, the times at both sides of now, and a
meeting offset at each end of its range. -/
theorem met_control_threads :
    let c (t : Team) (i : Issue) : Ctx := ⟨t, 0, 0, i⟩
    (Acts (st 6) (iss 6) team 0 0 ∧ 0 < team.warps.length ∧ 0 < (team.warp 0).threads.length ∧
      ∀ m ∈ (c team (iss 6)).all, (team.thread m.1 m.2).mustTrap = none) ∧
    (Form.clear { grp := .meet, os := [((iss 6).reg 8).dst] } (fun _ => none) (c team (iss 6)) ∧
      (0 : Int) ≤ ((iss 6).hdr : Int) - team.prog.hdr + 4 * (-32) ∧
      ((iss 6).hdr : Int) - team.prog.hdr + 4 * 65535 < 2 ^ 32) ∧
    Form.clear { grp := .meet, os := [((iss 6).reg 0).src (some [.n32])] } (fun k => mrCheck (k.rd (((iss 6).reg 0).src (some [.n32]))))
      (c team (iss 6)) ∧
    Form.clear { grp := .lease, wf := (Instr.lease 1 0 12).wf, os := [((iss 0).reg 0).src (some [.n32])], pure := true }
      (fun k => if (k.rd (((iss 0).reg 0).src (some [.n32]))).toNat > 4194303 then some 0x04 else none) (c team (iss 0)) ∧
    ((ctlForm (fun i => [((i.reg 0).grp 2 2).src (some [.addr, .n32])]) (iss 6)).clear (fun _ => none) (c team (iss 6)) ∧
      (c team (iss 6)).pair ((((iss 6).reg 0).grp 2 2).src (some [.addr, .n32])) ≤ (st 6).time) ∧
    (Acts (chip laterTeam (iss 6)) (iss 6) laterTeam 0 0 ∧
      (chip laterTeam (iss 6)).time < (c laterTeam (iss 6)).pair ((((iss 6).reg 0).grp 2 2).src (some [.addr, .n32]))) ∧
    Form.clear { grp := .repeat_ } (fun _ => none) (c team repIss) := by
  refine ⟨⟨acts1 6 (by decide), by decide, by decide, by decide⟩, ⟨?_, by decide, by decide⟩, ?_, ?_, ⟨?_, by decide⟩,
    ⟨⟨rfl, rfl, rfl, rfl⟩, by decide⟩, ?_⟩ <;> unfold Form.clear <;> decide
/-- A thread inside a clause, at its last word, and under REP at both sides of the last repetition. -/
theorem met_goes_on :
    (st 6).team? team.id = some team ∧ (0 : Nat) < team.warps.length ∧ 0 < (team.warp 0).threads.length ∧
      thr.pos.word < thr.clauseN ∧
      ({ thr with clauseN := 1 } : Thread).clauseN ≤ ({ thr with clauseN := 1 } : Thread).pos.word ∧
      ({ thr with pos := { hdr := 0x10080, rep := some 0 } } : Thread).pos.rep = some 0 ∧ (0 : Nat) < 1 :=
  ⟨rfl, by decide, by decide, by decide, by decide, rfl, by decide⟩

/-- A trap report of a word under REP. -/
def tinf : TrapInfo := { cause := 0x07, word := 15, rep := some 63, hdr := 0x10080, raw := 5, mask := 1, data := 0 }
theorem met_traps : (st 1).team? (team).id = some (team) ∧ ((team).thread 0 0).exited = false ∧ tinf.cause ≠ 0x11 ∧ tinf.cause ≠ 0x18 ∧
    tinf.cause < 256 ∧ tinf.word < 16 ∧ (∀ i, tinf.rep = some i → i < 64) ∧ ((team).thread 0 0).handler = false ∧ (team).prog.handler ≠ 0 ∧
    ((team { thr with handler := true }).thread 0 0).handler = true :=
  ⟨rfl, rfl, by decide, by decide, by decide, by decide, (fun i h => by cases h; decide), rfl, by decide, rfl⟩
theorem met_double_trap :
    (chip (team { thr with handler := true }) (iss 1)).team? 1 = some (team { thr with handler := true }) ∧
    ((team { thr with handler := true }).thread 0 0).exited = false ∧ ((team { thr with handler := true }).thread 0 0).handler = true ∧
    tinf.cause ≠ 0x11 ∧ tinf.cause ≠ 0x18 ∧ ({ tinf with cause := 0x18 } : TrapInfo).cause = 0x18 := ⟨rfl, rfl, rfl, by decide, by decide, rfl⟩

/-- A thread in its handler that trapped at word 1 of the clause at 0x10080, and its memory. -/
def hteam (written : Bool) : Team := team { thr with handler := true, tret := 0x10080, tretWritten := written, tinfo0 := 0x104 }
def hst (written : Bool) : State := { chip (hteam written) ciss with mem := [(0x1000, 9), (0x1041, 2), (0x10083, 0xC1)] }
theorem hacts (w : Bool) : Acts (hst w) ciss (hteam w) 0 0 := ⟨rfl, rfl, rfl, rfl⟩

theorem met_rtt :
    MetGo (fun h : Obligations.IllegalOpcodesTrapAndRttResumes => h.2.1.1) (hst false) ciss (hteam false) ∧
    MetGo (fun h : Obligations.IllegalOpcodesTrapAndRttResumes => (h.2.1.2 1 0xC1000000 0 none (.inl rfl)).1) (hst false) ciss (hteam false) ∧
    MetGo (fun h : Obligations.IllegalOpcodesTrapAndRttResumes => (h.2.1.2 2 0 0 none (.inr rfl)).2) (hst true) ciss (hteam true) ∧
    (((iss 1).members ≠ []) ∧ (st 1).issue = some (iss 1) ∧ (st 1).team? (iss 1).team = some (team)) ∧
    (({ hdr := 0x10080, word := 2 } : Pos).word ≠ 1) := by
  refine ⟨⟨hacts _, ?_, by decide, by decide⟩, ⟨hacts _, ?_, by decide, by decide⟩, ⟨hacts _, ?_, by decide, by decide⟩,
    ⟨by decide, rfl, rfl⟩, by decide⟩ <;> unfold Form.clear <;> decide

/-- The barrier is in the phase that TBWAIT names. -/
def phaseTeam : Team := team { thr with v := regs [0x20, 0] }
theorem met_barrier_wait :
    MetGo (fun h : Obligations.BarrierWordsCount => h.2.2.2.1 0 1 0 1 0x20) (chip phaseTeam (iss 4 true)) (iss 4 true) phaseTeam ∧
    ((team { thr with wait := .tbarrier 1 0x20 3 true }).thread 0 0).wait = .tbarrier 1 0x20 3 true :=
  ⟨⟨⟨rfl, rfl, by decide, rfl⟩, by unfold Form.clear; decide, ⟨⟨rfl, by decide⟩, by decide⟩, by decide⟩, rfl⟩

/-! ### Special registers and TCTL -/

theorem met_sprw :
    MetBy (fun h : Obligations.SprwReadsAndWrites => (h 8 0x18).1) (st 6) (iss 6) (team) ∧
    MetBy (fun h : Obligations.SprwReadsAndWrites => (h 0 0x18).2.1) (st 6) (iss 6) (team) ∧
    (let t := team { thr with v := regs [2] }
     MetGo (fun h : Obligations.SprwReadsAndWrites => (h 0 0x86).2.2.1) (chip t (iss 6)) (iss 6) t) ∧
    MetBy (fun h : Obligations.SprwReadsAndWrites => (h 0 0x28).2.1) (st 6) (iss 6) (team) ∧
    (let t : Team := { team with sfq := [{ va := 0x400000, pc := 0x10080, width := 2, word := 3, warp := 0, lane := 0, data := 7, raw := 0xA1080500 }] }
     (chip t (iss 6)).team? t.id = some t ∧ (2 ^ 18 - 1 : Nat) < 2 ^ 18) := by
  refine ⟨⟨acts1 6 (by decide), ?_, trivial⟩, ⟨acts1 6 (by decide), ?_, by decide, fun h => nomatch h⟩, ⟨⟨rfl, rfl, rfl, rfl⟩, ?_, by decide, by decide⟩,
    ⟨acts1 6 (by decide), ?_, by decide, fun _ => by decide⟩, rfl, by decide⟩ <;>
    unfold Form.clear <;> decide
theorem met_latch : srLow 0x24 = true ∧ (iss 6).cls ≠ 0 ∧ (st 6).team? (team).id = some (team) ∧ ((team).thread 0 0).exited = false :=
  ⟨by decide, by decide, rfl, rfl⟩

/-- TCTL's registers: `x` holds the form's word 3. -/
def zteam (x : Word) : Team := uteam [0, 0, 0, x]
def zst (x : Word) : State := chip (zteam x) (iss 6 true)
/-- Teams that TCTL acts on. -/
def savedTeam : Team := { team with id := 9, place := .saved }

theorem met_tctl :
    MetOnce (fun h : Obligations.TctlActsOnTheNamedTeam => (h 0 0).1) (zst 0x80000000) (iss 6 true) (zteam 0x80000000) ∧
    MetOnce (fun h : Obligations.TctlActsOnTheNamedTeam => (h 0 0).2.1) (zst 0) (iss 6 true) (zteam 0) ∧
    ((team).killed = false ∧ (team).draining = false) ∧ savedTeam.place ≠ .resident 0 0 ∧
    (({ team with priv := false } : Team).place = .resident 0 0 ∧ ({ team with priv := false } : Team).savable = true) ∧ savedTeam.isSaved = true ∧ savedTeam.killed = false ∧
    (roomFor [] savedTeam.prog).isSome = true ∧ roomFor [team, team] savedTeam.prog = none :=
  ⟨⟨⟨rfl, rfl, by decide, by decide, by decide⟩, by decide⟩, ⟨⟨rfl, rfl, by decide, by decide, by decide⟩, by decide⟩,
    by decide, by decide, by decide, by decide, by decide, by decide, by decide⟩

/-- TCTL names a team of launch 12 on its core whose save waits for a horizon; the same once the evict is complete. -/
def victim : Team := { team { thr with horizon := 9 } with
  id := 9, launch := 12, priv := false, prog := { prog with acc := 1, planes := 1, queues := 1 } }
def evicts (sent : Bool) (ts : List Team) : State :=
  let t := uteam [0, 0, 0, 0] { thr with sent := sent }
  { zst 0 with teams := t :: ts, launches := [{ id := 12, ctx := 0, phase := .running, total := 4, next := 4, started := true }] }

theorem met_evict :
    MetOnce (fun h : Obligations.TctlActsOnTheNamedTeam => (h 1 0).2.2.1) (evicts false [victim]) (iss 6 true) (zteam 0) ∧
    MetOnce (fun h : Obligations.TctlActsOnTheNamedTeam => (h 1 0).2.2.2.1) (evicts true []) (iss 6 true)
      (uteam [0, 0, 0, 0] { thr with sent := true }) :=
  ⟨⟨⟨rfl, rfl, by decide, by decide, by decide⟩, by decide⟩, ⟨rfl, rfl, by decide, by decide, by decide⟩, by decide⟩

theorem met_tctl_named :
    ({ team with draining := true } : Team).draining = true ∧
    (let t : Team := { team with priv := false }
     t.place = .resident 0 0 ∧ t.savable = true ∧ ((chip t (iss 6)).cluster 0).watch.length < watchEntries ∧
       watchEntries ≤ (({ watch := List.replicate watchEntries ⟨7, [7], false, none⟩ } : Cluster).watch).length) ∧
    ({ team with place := .claimed 0 0 } : Team).isClaimed = true := by decide

/-! ### Commands and queues -/

/-- A chip on which nothing runs; the table maps the first 32 MiB to themselves. -/
def dchip : State :=
  { clusters := [{ cores := [{}, {}] }], contexts := [{ id := 0, root := 0x1000 }], mem := [(0x1000, 9), (0x1041, 2), (0x1050, 0x1F)], nextId := 10 }
def dx (pa : Nat) : Xlat := { pa := pa }
def dst_ : State := { dchip with commands := [ecmd], target := { id := 3 } }

theorem met_commands :
    InFlight dst_ ecmd ∧ ecmd.acted = false ∧ (dst_.agentWords (agentOf ecmd) 0 1 0x10300).2 = some [0] ∧
    noneEarlier dst_ ecmd ∧ dst_.timer.lossUntil ≤ dst_.time ∧ agentPuts dst_ ecmd 0x10400 (dx 0x10400) ∧ dst_.MemOk ∧
    dst_.unitXlat 0 true .read 0x10400 = .ok (dx 0x10400) ∧ dst_.xlatBad (dx 0x10400) 8 = false ∧ 0 ≤ leNat (dst_.homeBytes (dx 0x10400) 8) := by
  refine ⟨⟨rfl, rfl, by decide⟩, rfl, by decide, ?_, by decide, ⟨by decide, rfl, by decide⟩, ⟨by decide, fun t h => nomatch h⟩, by decide, by decide,
    by decide⟩
  unfold noneEarlier; decide

/-- A queue with one SIGNAL in it. -/
def que : Queue := { base := 0x10500, en := true, prod := 1 }
def qst : State := { dchip with queues := que :: List.replicate 63 {}, mem := [(0x1000, 9), (0x1041, 2), (0x1050, 0x1F), (0x10500, 3)] }

theorem met_claim :
    qst.agentLive qst.target.cl qst.target.co = true ∧ qst.target.id < 64 ∧ qst.queues.getD qst.target.id {} = que ∧ que.en = true ∧
    que.halt = false ∧ que.waiting = none ∧ 0 < (que.prod - que.claim).toNat ∧ (que.prod - que.claim).toNat ≤ 2 ^ que.log ∧
    qst.unitXlat que.ctx true .read ((que.base.toNat + 64 * (que.claim.toNat % 2 ^ que.log)) % 2 ^ 64) = .ok (dx 0x10500) ∧
    qst.xlatBad (dx 0x10500) 64 = false ∧
    decodeCommand 0 que.priv ((List.range 8).map fun k => BitVec.ofNat 64 (w64 (qst.homeBytes (dx 0x10500) 64) (8 * k))) =
      .ok (.signal ⟨0, false, false, false⟩ 0 0) := by decide
theorem met_doorbell :
    let s : State := { dchip with target := { addr := 0, size := 4, id := 63, value := 5 } }
    s.start.safe = false ∧ s.target.addr = 0 ∧ (s.target.size = 4 ∨ s.target.size = 8) ∧ s.target.id < 64 ∧ s.target.value = (5 : Word).toNat := by decide
theorem met_register_writes : (4 : Nat) = 4 ∧ 0x50004 % 4 = 0 ∧ (8 : Nat) = 8 ∧ 0x50008 % 8 = 0 := by decide
theorem met_recheck :
    let s : State := { dst_ with queues := { waiting := some (0x10400, 1, 3, 0) } :: List.replicate 63 {}, target := { id := 0 } }
    (s.queues.getD s.target.id {}).waiting = some (0x10400, 1, 3, 0) ∧ s.command? 3 = some ecmd ∧ ecmd.finished = false ∧ s.fenced ecmd = false ∧
      s.unitXlat ecmd.ctx true .read 0x10400 = .ok (dx 0x10400) ∧ s.xlatBad (dx 0x10400) 8 = false :=
  ⟨rfl, rfl, rfl, by decide, by decide, by decide⟩

theorem met_wait_below :
    let s : State := { dst_ with commands := [ecmd] }
    InFlight s ecmd ∧ s.unitXlat 0 true .read 0x10400 = .ok (dx 0x10400) ∧ s.xlatBad (dx 0x10400) 8 = false ∧
      leNat (s.homeBytes (dx 0x10400) 8) < (1 : BitVec 64).toNat := by
  unfold InFlight; decide

/-- The queue's one entry, in words of the ring: its first byte and its second quadword's first. -/
def ring2 (op : Byte) (more : List Host.Cell) (q : Queue := que) : State :=
  { qst with queues := q :: List.replicate 63 {}, mem := [(0x1000, 9), (0x1041, 2), (0x1050, 0x1F), (0x10500, op)] ++ more }
def entryOf (s : State) (q : Queue) : Except (BitVec 8) Instr := entryCommand s q (s.homeBytes (dx 0x10500) 64)
def wordsOf (s : State) : List (BitVec 64) := (List.range 8).map fun k => BitVec.ofNat 64 (w64 (s.homeBytes (dx 0x10500) 64) (8 * k))
theorem met_entries :
    Claims (ring2 3 []) que (.ok (dx 0x10500)) ∧ entryOf (ring2 3 []) que = .ok (.signal ⟨0, false, false, false⟩ 0 0) ∧
    Claims (ring2 0 []) que (.ok (dx 0x10500)) ∧ entryOf (ring2 0 []) que = .error 0x10 ∧ (ring2 0 []).xlatBad (dx 0x10500) 64 = false ∧
    commandOf 0 (wordsOf (ring2 0 [])) = none ∧
    commandOf 0 (wordsOf (ring2 6 [])) = some (.setDomain ⟨0, false, false, false⟩ 0 false 0) ∧ que.priv = false ∧
    commandOf 0 (wordsOf (ring2 3 [(0x10508, 1)])) = some (.signal ⟨0, false, false, false⟩ 1 0) ∧
    ¬ (∀ x ∈ cmdAddresses (.signal ⟨0, false, false, false⟩ 1 0), canonical x.1.toNat = true ∧ 0 < x.2 ∧ x.1.toNat % x.2 = 0) ∧
    (∀ x ∈ cmdAddresses (.launchNode ⟨0, false, false, false⟩ 256 0 0 0), canonical x.1.toNat = true ∧ 0 < x.2 ∧ x.1.toNat % x.2 = 0) ∧
    ¬ cmdCounts (.launchNode ⟨0, false, false, false⟩ 256 0 0 0) ∧ cmdCounts (.signal ⟨0, false, false, false⟩ 0 0) ∧
    commandOf 0 (wordsOf (ring2 2 [(0x10509, 1)])) = some (.launchNode ⟨0, false, false, false⟩ 256 0 0 0) := by
  unfold Claims cmdCounts; decide

/-! ### Steps of the device -/

def MetDue {P : Prop} {i : Instr} {due : State → Prop} {eff : State → State} (_ : P → Happens i due eff) (s : State) : Prop := due s
def MetWhen {P : Prop} {i : Instr} {due : State → Prop} {post : State → State → Prop} (_ : P → Leaves i due post) (s : State) : Prop := due s

/-- A chip of one cluster `c`, the step acting on it. -/
def pst (c : Cluster) (t : Target := {}) : State := { dchip with clusters := [c], target := t }

theorem met_converters :
    MetDue (fun h : ConvertersAndStepsMove => h.1) (pst {} { value := 2 }) ∧
    MetDue (fun h : ConvertersAndStepsMove => h.2.1) (pst {} { value := 1 }) ∧
    MetDue (fun h : ConvertersAndStepsMove => h.2.2.1 2 0) (pst { change := some (2, 0) }) ∧
    MetDue (fun h : ConvertersAndStepsMove => h.2.2.2.1) { pst {} { value := 7 } with gbudEn := false } ∧
    MetDue (fun h : ConvertersAndStepsMove => h.2.2.2.2.1) (pst {}) ∧
    MetDue (fun h : ConvertersAndStepsMove => h.2.2.2.2.2.1) (pst {} { value := 40 }) ∧
    MetDue (fun h : ConvertersAndStepsMove => h.2.2.2.2.2.2.1) (pst { change := some (2, 0) } { value := 40 }) ∧
    MetDue (fun h : ConvertersAndStepsMove => h.2.2.2.2.2.2.2.1) (pst {} { value := 39 }) ∧
    MetDue (fun h : ConvertersAndStepsMove => h.2.2.2.2.2.2.2.2.1) (pst { stretch := 1 }) ∧
    MetDue (fun h : ConvertersAndStepsMove => h.2.2.2.2.2.2.2.2.2.1) (pst { halved := 1 }) ∧
    MetDue (fun h : ConvertersAndStepsMove => h.2.2.2.2.2.2.2.2.2.2) (pst { r := { clk := 255 }, cores := [{}] }) := by
  unfold MetDue; decide

/-- A cluster of two cores; core 1 has arrived at gating when `both`. -/
def gcl (both : Bool) : Cluster := { cores := [{}, {}], arrived := if both then [1] else [], gate := if both then .quiescing else .on }

theorem met_gating :
    MetWhen (fun h : GatingAndWakingFollowTheirRequests => h.1) (pst (gcl false)) ∧
    MetWhen (fun h : GatingAndWakingFollowTheirRequests => h.2.1) { pst (gcl true) with teams := [{ team with priv := false }] } ∧
    MetWhen (fun h : GatingAndWakingFollowTheirRequests => h.2.2.1) (pst (gcl true)) ∧
    MetWhen (fun h : GatingAndWakingFollowTheirRequests => h.2.2.2.1) (pst (gcl true)) ∧
    MetDue (fun h : GatingAndWakingFollowTheirRequests => h.2.2.2.2.1) (pst (gcl false)) ∧
    MetDue (fun h : GatingAndWakingFollowTheirRequests => h.2.2.2.2.2.1.1) (pst { gate := .off }) ∧
    MetDue (fun h : GatingAndWakingFollowTheirRequests => h.2.2.2.2.2.1.2) { pst { gate := .off } with inrush := [.cluster 0] } ∧
    MetDue (fun h : GatingAndWakingFollowTheirRequests => h.2.2.2.2.2.2.1) (pst {}) ∧
    MetDue (fun h : GatingAndWakingFollowTheirRequests => h.2.2.2.2.2.2.2.1) { pst { gate := .off } with inrush := List.replicate 16 (.port 0) } ∧
    MetWhen (fun h : GatingAndWakingFollowTheirRequests => h.2.2.2.2.2.2.2.2.1) (pst (gcl true)) ∧
    MetDue (fun h : GatingAndWakingFollowTheirRequests => h.2.2.2.2.2.2.2.2.2.1 7 (by decide)) (pst {} { value := 128 }) ∧
    MetDue (fun h : GatingAndWakingFollowTheirRequests => (h.2.2.2.2.2.2.2.2.2.2.1 []).1 0) { pst { gate := .off } with inrush := [.cluster 0] } ∧
    MetDue (fun h : GatingAndWakingFollowTheirRequests => (h.2.2.2.2.2.2.2.2.2.2.1 []).2 3) { pst {} with inrush := [.port 3] } ∧
    MetDue (fun h : GatingAndWakingFollowTheirRequests => h.2.2.2.2.2.2.2.2.2.2.2.1 (.port 3) 1) { pst {} with closing := some (.port 3, 1) } ∧
    MetWhen (fun h : GatingAndWakingFollowTheirRequests => h.2.2.2.2.2.2.2.2.2.2.2.2) (pst { gate := .waking }) := by
  unfold MetDue MetWhen
  refine ⟨⟨by decide, by unfold State.othersArrived; decide⟩, ⟨by decide, by unfold State.othersArrived; decide, by decide⟩,
    ⟨by decide, by unfold State.othersArrived; decide, by decide⟩, by decide, by decide, by decide, by decide, by decide, by decide,
    by decide, by decide, ⟨rfl, fun d t h => nomatch h⟩, ⟨rfl, fun d t h => nomatch h⟩, ⟨rfl, by decide⟩, by decide⟩

/-- A clock that stands, one that runs, and one that an alarm stretches, at each edge of its rule. -/
theorem met_clocks :
    (({ gate := .off } : Cluster).clocked = false) ∧
    (let c : Cluster := { stretch := 1, frac := 99, issued := true }
     c.clocked = true ∧ c.stretch ≤ 1 ∧ c.frac < 100 ∧ c.freq ≤ 290) ∧
    (let c : Cluster := { stretch := 4, frac := 199 }
     c.clocked = true ∧ (c.frac + c.freq) / 200 + 1 < c.stretch ∧ c.frac < 200 ∧ c.freq ≤ 290) := by decide

/-- A cluster that the governor may slow: it has slack, and the others are within the budget. -/
def gov (slack : Bool) : State :=
  { pst { cores := [{}], epochClk := 0, r := { clk := 1000, step := 1, cred := if slack then 900 else 0 } } { meas := [⟨9⟩] } with
    timer := { time := 50000 } }
theorem met_governor :
    MetDue (fun h : GovernorMovesStepsByOne => h.1) { gov true with timer := { time := 49999 } } ∧
    MetWhen (fun h : GovernorMovesStepsByOne => h.2.1) { gov true with gbudEn := false } ∧
    MetWhen (fun h : GovernorMovesStepsByOne => h.2.2.1) (gov true) ∧ MetWhen (fun h : GovernorMovesStepsByOne => h.2.2.2.1) (gov true) ∧
    MetWhen (fun h : GovernorMovesStepsByOne => h.2.2.2.2.1) (gov false) ∧ MetWhen (fun h : GovernorMovesStepsByOne => h.2.2.2.2.2) (gov true) ∧
    (0 ∈ (gov true).onClusters ∧ ((gov true).cluster 0).movable = true ∧ ((gov true).cluster 0).slack = true ∧ ((gov true).cluster 0).r.step < 7) ∧
    (((pst { r := { ratio := 0 } }).cluster 0).movable = false ∨ 5 ∉ (gov true).onClusters) ∧ ((gov false).cluster 0).slack = false := by
  unfold MetWhen MetDue; decide

def tim (t : Timer) (g : Target := {}) : State := { dchip with timer := t, target := g }

theorem met_timer :
    MetDue (fun h : TimerFollowsItsSource => h.1) (tim { lock := true }) ∧ MetDue (fun h : TimerFollowsItsSource => h.2.1) (tim {}) ∧
    MetWhen (fun h : TimerFollowsItsSource => h.2.2.2.1) (tim { lock := true }) ∧ MetDue (fun h : TimerFollowsItsSource => h.2.2.2.2.1) (tim {}) ∧
    MetWhen (fun h : TimerFollowsItsSource => h.2.2.2.2.2.1) (tim { src := 0, time := 125000 }) ∧
    MetWhen (fun h : TimerFollowsItsSource => h.2.2.2.2.2.2.1) (tim { src := 0, time := 125000, lock := true } { offset := -10 }) ∧
    MetWhen (fun h : TimerFollowsItsSource => h.2.2.2.2.2.2.2.1) (tim { src := 0, time := 125000, lock := true } { offset := -11 }) ∧
    MetWhen (fun h : TimerFollowsItsSource => h.2.2.2.2.2.2.2.2.1) (tim { src := 0, time := 125000, goodRun := 15 } { offset := 8 }) ∧
    MetWhen (fun h : TimerFollowsItsSource => h.2.2.2.2.2.2.2.2.2.1) (tim { src := 0, time := 125000, goodRun := 15 } { offset := 9 }) ∧
    MetWhen (fun h : TimerFollowsItsSource => h.2.2.2.2.2.2.2.2.2.2.1) (tim { src := 0, time := 1000000, lock := true }) ∧
    MetDue (fun h : TimerFollowsItsSource => h.2.2.2.2.2.2.2.2.2.2.2) (tim { src := 0, time := 999999, lock := true }) := by
  unfold MetDue MetWhen; decide

theorem met_starts :
    MetWhen (fun h : StartsLeaveABlankChip => h.1.1 [8, 8, 4, 0]) (tim {} { outcome := .complete [8, 8, 4, 0] }) ∧
    MetWhen (fun h : StartsLeaveABlankChip => h.1.2.1 [8, 8, 4, 0]) (tim {} { outcome := .complete [8, 8, 4, 0] }) ∧
    MetWhen (fun h : StartsLeaveABlankChip => h.2.1.2.2 6 (by decide)) (tim {} { outcome := .failed 6 }) ∧
    MetWhen (fun h : StartsLeaveABlankChip => h.2.2.2.1 []) (tim {} { outcome := .complete [] }) ∧
    MetWhen (fun h : StartsLeaveABlankChip => h.2.2.2.2.1 []) (tim {} { outcome := .complete [] }) ∧
    MetWhen (fun h : StartsLeaveABlankChip => h.2.2.2.2.2 []) (tim {} { outcome := .complete [] }) := by
  unfold MetWhen; decide
/-- A chip in safe mode, all of it gated off. -/
def safeChip : State :=
  { clusters := [{ gate := .off, cores := [{}] }], timer := { time := 49999 }, start := { safe := true, step := 1 } }
theorem met_safe_mode :
    safeChip.start.safe = true ∧ safeChip.start.step ≠ 7 ∧ 0x50004 ≠ 0x50000 ∧ 0x50004 ≠ 0x50008 ∧ safeChip.blank ∧ safeChip.inrush = [] ∧
      safeChip.timer.lock = false ∧ safeChip.time / 50000 ≤ safeChip.epoch ∧
      ∀ c ∈ safeChip.clusters, c.gate = .off ∧ c.change = none ∧ c.stretch = 0 ∧ c.halved = 0 ∧ c.turn = none ∧ c.watch = [] ∧
        c.resv.busy = false ∧ c.cohorts = [] ∧ c.depend = [] ∧ c.hands = [] := by
  unfold State.blank; decide

def hlt (h : Health) (t : Target := {}) : State := { dchip with health := h, target := t }

theorem met_windows :
    MetDue (fun h : WindowsPopAndInvalidate => h.1 ⟨0, 1, 2, 3⟩ []) { dchip with requests := [⟨0, 1, 2, 3⟩] } ∧
    MetDue (fun h : WindowsPopAndInvalidate => h.2.1) dchip ∧ MetDue (fun h : WindowsPopAndInvalidate => h.2.2.1 (1, 2) []) (hlt { log := [(1, 2)] }) ∧
    MetDue (fun h : WindowsPopAndInvalidate => h.2.2.2.1) dchip ∧ MetWhen (fun h : WindowsPopAndInvalidate => h.2.2.2.2.1) dchip ∧
    MetWhen (fun h : WindowsPopAndInvalidate => h.2.2.2.2.2.1) (tim {} { value := 4095 }) ∧
    MetWhen (fun h : WindowsPopAndInvalidate => h.2.2.2.2.2.2) dchip := by
  unfold MetDue MetWhen; decide

theorem met_errors :
    MetWhen (fun h : ErrorsAreCountedAndUnitsRetired => h.1) (hlt {} { unit := .oasisWay 3 }) ∧
    MetWhen (fun h : ErrorsAreCountedAndUnitsRetired => h.2.1 1 0) (hlt { counts := [(.oasisWay 3, 1, 0)] } { unit := .oasisWay 3 }) ∧
    MetWhen (fun h : ErrorsAreCountedAndUnitsRetired => h.2.1 1 0) (hlt { counts := [(.frame 0x10000, 1, 0)] } { unit := .frame 0x1FFFF }) ∧
    MetWhen (fun h : ErrorsAreCountedAndUnitsRetired => h.2.2.1 15 0) (hlt { counts := [(.oasisWay 3, 15, 0)] } { unit := .oasisWay 3 }) ∧
    MetDue (fun h : ErrorsAreCountedAndUnitsRetired => h.2.2.2.1 0 1 15 0) (hlt { counts := [(.core 0 1, 15, 0)] } { unit := .core 0 1 }) ∧
    MetWhen (fun h : ErrorsAreCountedAndUnitsRetired => h.2.2.2.2.1 3 7) (tim {} { id := 3, value := 7 }) ∧
    MetWhen (fun h : ErrorsAreCountedAndUnitsRetired => h.2.2.2.2.2.1 0x2000) (tim {} { site := .granule 0x2000 }) ∧
    MetWhen (fun h : ErrorsAreCountedAndUnitsRetired => h.2.2.2.2.2.2.1 1 0xFFF (team)) { tim {} { site := .scratch 1 0xFFF } with teams := [team] } ∧
    MetWhen (fun h : ErrorsAreCountedAndUnitsRetired => h.2.2.2.2.2.2.2.1 5 2) (tim {} { site := .oasis 5 2 }) ∧
    MetWhen (fun h : ErrorsAreCountedAndUnitsRetired => h.2.2.2.2.2.2.2.2.1 1 31 (team)) { tim {} { site := .tile 1 31 } with teams := [team] } ∧
    MetWhen (fun h : ErrorsAreCountedAndUnitsRetired => h.2.2.2.2.2.2.2.2.2.1 1 15 (team)) { tim {} { site := .plane 1 15 } with teams := [team] } ∧
    MetDue (fun h : ErrorsAreCountedAndUnitsRetired => h.2.2.2.2.2.2.2.2.2.2) dchip := by
  unfold MetDue MetWhen
  refine ⟨⟨by decide, by decide, fun n t h => nomatch (show none = some (n, t) from h)⟩, by decide, by decide, ⟨by decide, by decide, by decide, by decide, by decide, fun cl co h => nomatch h⟩,
    by decide, by decide, by decide, ⟨rfl, rfl, by decide⟩, by decide, ⟨rfl, rfl, by decide, by decide⟩, ⟨rfl, rfl, by decide, by decide⟩, trivial⟩

def peer (lock : Bool) (t : Target) : State := { dchip with peers := [{ chip := 5, locked := lock }], timer := { lock := true }, target := t }

theorem met_outsiders :
    MetWhen (fun h : HostAndPeersReachMemory => h.1) (tim {} { addr := 0x2000, data := [1, 2] }) ∧
    MetDue (fun h : HostAndPeersReachMemory => h.2.1) safeChip ∧
    MetWhen (fun h : HostAndPeersReachMemory => h.2.2.1) (peer true { id := 5, addr := 0x2000, data := [1, 2] }) ∧
    MetDue (fun h : HostAndPeersReachMemory => h.2.2.2.1) (peer true { id := 6 }) ∧
    MetWhen (fun h : HostAndPeersReachMemory => h.2.2.2.2.1) (peer true { id := 5, isRead := true, addr := 0x2000 }) ∧
    MetWhen (fun h : HostAndPeersReachMemory => h.2.2.2.2.2.1) (peer true { id := 5 }) ∧
    MetDue (fun h : HostAndPeersReachMemory => h.2.2.2.2.2.2) (peer false { id := 5 }) := by
  unfold MetDue MetWhen State.MemOk
  refine ⟨⟨rfl, by decide, by decide, fun t h => nomatch h⟩, rfl, ⟨by decide, by decide, by decide, fun t h => nomatch h⟩, by decide, by decide,
    by decide, by decide⟩

/-! ### Threads that wait -/

/-- Team 1 with the thread `th` at the word of its clause; the step acts on it. -/
def wst (th : Thread) (t : Target := { team := 1 }) : State := { chip (team th) (iss 6) with issue := none, target := t }

theorem met_parked :
    MetWhen (fun h : ParkedThreadsGoOn => h.1) (wst { thr with wait := .meeting 0 }) ∧
    MetDue (fun h : ParkedThreadsGoOn => h.2.1 0) (wst { thr with wait := .time 0 }) ∧
    MetWhen (fun h : ParkedThreadsGoOn => h.2.2.1 0) (wst { thr with wait := .horizon 0 }) ∧
    MetDue (fun h : ParkedThreadsGoOn => h.2.2.2.1 1) (wst { thr with wait := .time 1 }) ∧
    MetWhen (fun h : ParkedThreadsGoOn => h.2.2.2.2.1 2) (wst { thr with wait := .release 2 false }) ∧
    MetWhen (fun h : ParkedThreadsGoOn => h.2.2.2.2.2.1 2) (wst { thr with wait := .release 2 true }) ∧
    MetDue (fun h : ParkedThreadsGoOn => h.2.2.2.2.2.2.1 2) (wst { thr with wait := .release 2 false, horizon := 9 }) ∧
    MetWhen (fun h : ParkedThreadsGoOn => h.2.2.2.2.2.2.2.1) (wst { thr with wait := .mshr }) ∧
    MetWhen (fun h : ParkedThreadsGoOn => h.2.2.2.2.2.2.2.2 8) (wst thr { team := 1, value := 8 }) := by
  unfold MetDue MetWhen; decide

/-- Two threads, at a collective point each, at different headers. -/
def mteam : Team := { team with warps := [{ threads := [{ thr with wait := .collective }, { thr with wait := .collective, pos := { hdr := 0x10100 } }]
                                            s := List.replicate 512 {}, mismatchSince := some 0, mto := 0 }] }
/-- One thread at BAR.T, one at BAR.C. -/
def xteam : Team := { team with warps := [{ threads := [{ thr with wait := .barrier false }, { thr with wait := .barrier true }]
                                            s := List.replicate 512 {}, mto := 0 }], mixedSince := some 0 }
def srec : SfRecord := { va := 0x400000, pc := 0x10080, width := 2, word := 3, warp := 0, lane := 0, data := 7, raw := 0xA1080500 }
def fteam : Team := { team { thr with wait := .meeting 0 } with sfq := [srec] }
def onlyTeam (t : Team) : State := { chip t (iss 6) with issue := none, target := { team := 1 } }

theorem met_owed :
    MetWhen (fun h : ThreadsTakeWhatIsOwed => h.1 mteam 0) (onlyTeam mteam) ∧ MetWhen (fun h : ThreadsTakeWhatIsOwed => h.2.1 xteam 0) (onlyTeam xteam) ∧
    MetWhen (fun h : ThreadsTakeWhatIsOwed => h.2.2.1 fteam srec) (onlyTeam fteam) ∧
    MetWhen (fun h : ThreadsTakeWhatIsOwed => h.2.2.2.1 fteam srec []) (onlyTeam fteam) := by
  unfold MetWhen Team.calm State.MemOk
  refine ⟨⟨rfl, by decide, by decide, rfl, by decide, by decide, by decide⟩, ⟨by decide, by decide, by decide, rfl⟩,
    ⟨rfl, by decide, rfl, by decide, rfl, by decide, by decide, by decide⟩, ⟨rfl, rfl, by decide, by decide, by decide, by decide, by decide⟩⟩
/-- A pair of a protected launch whose partner has exited. -/
def bteam2 : Team := { team with warps := [{ threads := [thr, { thr with exited := true }], s := List.replicate 512 {} }] }
theorem met_broken_pair : MetDue (fun h : ThreadsTakeWhatIsOwed => h.2.2.2.2.2.2 bteam2)
    { onlyTeam bteam2 with launches := [{ id := 2, ctx := 0, node := { prot := true } }] } := ⟨rfl, by decide, rfl, by decide⟩
/-- A pair of a protected launch that stands at one access, which one or both have issued. -/
def accPair (other : Wait) : Team :=
  { team with warps := [{ threads := [{ thr with wait := .pair 0 [4] }, { thr with wait := other }], s := List.replicate 512 {} }] }
theorem met_whole_pair : ∀ other ∈ [Wait.none, .pair 3 [4]],
    let s := onlyTeam (accPair other)
    (s.thread 1 0 0).wait = .pair 0 [4] ∧ (s.thread 1 0 0).exited = false ∧ (s.thread 1 0 1).exited = false ∧
      (s.thread 1 0 1).pos = (s.thread 1 0 0).pos ∧ (∀ z y, (s.thread 1 0 1).wait = .pair z y → y = [4]) := by
  intro other h
  have h : other = .none ∨ other = .pair 3 [4] := by simpa using h
  rcases h with rfl | rfl
  · exact ⟨rfl, rfl, rfl, rfl, fun z y h => nomatch h⟩
  · exact ⟨rfl, rfl, rfl, rfl, fun z y h => by cases h; rfl⟩
theorem met_no_mismatch : MetDue (fun h : ThreadsTakeWhatIsOwed => h.2.2.2.2.2.1 team) (onlyTeam team) := ⟨rfl, .inl (by decide)⟩

/-! The accesses of a protected pair: the first of the two, an access that differs, and the second of the two. -/

/-- A pair whose thread 0 issues an STG; its partner waits as named. -/
def accTeam (other : Wait) : Team :=
  { team with warps := [{ threads := [thr, { thr with wait := other }], s := List.replicate 512 {} }] }
def accCtx (other : Wait) : Ctx := ⟨accTeam other, 0, 0, iss 2⟩
def accOf (other : Wait) : List Nat := (m2).access (accCtx other) [(m2).addr64 (accCtx other)]
theorem met_pairs :
    let s (o : Wait) : State := ppst (accTeam o) (iss 2)
    (∀ o ∈ [Wait.none, .partner, .pair 0 [4], .pair 0 (accOf .none)], (s o).isProtected (accTeam o) = true ∧ (iss 2).cls ≠ 0 ∧
      Acts (s o) (iss 2) (accTeam o) 0 0 ∧
      (storeForm .mem0 (.stg (m2)) (m2) [(m2).pairA (iss 2)] (iss 2)).clear (fun c => alignCheck ((m2).addr64 c) (m2).bytes) (accCtx o) ∧
      canonical ((m2).addr64 (accCtx o)) = true ∧ mayAccess (m2) (s o) (accCtx o) ∧ ((accTeam o).thread 0 0).mustTrap = none ∧
      accOf o = accOf .none) ∧
    ((Wait.none ≠ .partner ∧ ∀ x a, Wait.none ≠ .pair x a) ∧ [4] ≠ accOf .none) ∧
    ∃ (go : State → Ctx → State × LaneRes) (s1 : State), go (s .partner) (accCtx .partner) = (s1, .done) ∧
      ∃ (stay : State → Ctx → State × LaneRes) (w : Wait), stay (s .partner) (accCtx .partner) = (s1, .stay w) := by
  refine ⟨?_, ⟨⟨by simp, by simp⟩, by decide⟩, fun s _ => (s, .done), _, rfl, fun s _ => (s, .stay .mshr), _, rfl⟩
  intro o h
  have h : o = .none ∨ o = .partner ∨ o = .pair 0 [4] ∨ o = .pair 0 (accOf .none) := by simpa using h
  rcases h with rfl | rfl | rfl | rfl <;>
    exact ⟨by decide, by decide, ⟨rfl, rfl, by decide, rfl⟩, by unfold Form.clear; decide, by decide, ⟨by decide, by decide⟩, rfl, by decide⟩

/-! ### Placing, turns and activation -/

/-- A program with room for others, a user team of launch 2, and the launch. -/
def sprog : Prog := { prog with acc := 1, planes := 1, queues := 1 }
def ut (p : Place) : Team := { team with priv := false, place := p, prog := sprog }
def ul : Launch := { id := 2, ctx := 0, phase := .running, total := 4, next := 4, prog := sprog }
def tk : Ticket := { launch := 2, first := 0 }
/-- A cluster of two cores in context 0's turn; the steps act on team 1. -/
def ast (ts : List Team) (c : Cluster := {}) (ls : List Launch := [ul]) : State :=
  { dchip with clusters := [{ c with cores := [{}, {}], turn := some (0, 1000) }], contexts := [{ id := 0, root := 0x1000, mask := 1 }]
               teams := ts, launches := ls, target := { team := 1 } }

theorem met_room : (roomFor [ut (.resident 0 0)] sprog).isSome = true ∧ (ast [ut (.claimed 0 0)]).distinct ∧
    (ast [ut (.claimed 0 0)]).team? 1 = some (ut (.claimed 0 0)) ∧ (ut (.claimed 0 0)).place = .claimed 0 0 ∧
    (ast [ut (.claimed 0 0)]).coreOn 0 1 = true ∧ (ast [ut (.claimed 0 0)]).serves 0 0 = true ∧
    (roomFor ((ast [ut (.claimed 0 0)]).residents 0 1) (ut (.claimed 0 0)).prog).isSome = true := by
  refine ⟨by decide, by unfold State.distinct; decide, rfl, rfl, by decide, by decide, by decide⟩

theorem some_getD {α : Type} {o : Option α} {d : α} (h : o.isSome = true) : o = some (o.getD d) := by cases o <;> simp_all

/-- A team that no core has room for, and one that is handed round. -/
def big : Team := { ut (.claimed 0 0) with prog := { prog with acc := 9 } }
def handed (t : Team) (tried : Nat) : State := ast [t] { hands := [{ tk with tried := tried }] }
/-- A reservation held for the ticket since time 0. -/
def rsv : Cluster := { cohorts := [tk], resv := { busy := true } }
def rlate : State := { ast [] rsv with timer := { time := 100000 } }

/-- A saved team that takes a whole core's accumulators, while a team stands on each core. -/
def wide : Team := { ut .saved with id := 5, prog := { sprog with acc := 8 } }
def crowd : State := ast [{ ut (.resident 0 0) with id := 3 }, { ut (.resident 0 1) with id := 4 }, wide]

theorem met_agents :
    MetDue (fun h : AgentsPlaceTeams => h.1 (ast [ut .saved]) 0) (ast [ut .saved]) ∧
    ((crowd.cluster 0).reserved = false ∧ crowd.takeTurn 0 = (crowd, some 0) ∧ crowd.resumeHere 0 0 = [wide] ∧
      (crowd.tryResume 0 [0, 1] wide).resumeHere 0 0 ≠ []) ∧
    (let s := ast [ut (.resident 0 0)]
     (s.cluster 0).reserved = false ∧ s.takeTurn 0 = (s, some 0) ∧ s.resumeHere 0 0 = []) ∧
    ((ast [ut .saved]).resumable (ut .saved) = true ∧ (ut .saved).prog.cohort ≤ 1 ∧ ((ast [ut .saved]).tryCore 1 0 0).isSome = true) ∧
    ((ast [ut .saved] rsv).cluster 0).reserved = true ∧
    MetDue (fun h : AgentsPlaceTeams => h.2.2.2.2.1) (pst { gate := .off, cores := [{}] }) ∧
    MetDue (fun h : AgentsPlaceTeams => h.2.2.2.2.2.1 tk (handed (ut (.claimed 0 0)) 0)
      (((handed (ut (.claimed 0 0)) 0).tryCore 1 0 0).getD dchip) 0) (handed (ut (.claimed 0 0)) 0) ∧
    MetDue (fun h : AgentsPlaceTeams => h.2.2.2.2.2.2.1 tk) (handed big 0) ∧
    MetDue (fun h : AgentsPlaceTeams => h.2.2.2.2.2.2.2.1 { tk with tried := 1 }) (handed big 1) ∧
    MetDue (fun h : AgentsPlaceTeams => h.2.2.2.2.2.2.2.2.1 tk ul) (ast [] { depend := [tk] }) ∧
    MetDue (fun h : AgentsPlaceTeams => h.2.2.2.2.2.2.2.2.2.1 tk { ul with producer := some 3, prodTeams := 1, node := { gamma := 1 } })
      (ast [] { depend := [tk] } [{ ul with producer := some 3, prodTeams := 1, node := { gamma := 1 } }, { ul with id := 3 }]) ∧
    MetDue (fun h : AgentsPlaceTeams => h.2.2.2.2.2.2.2.2.2.2.1 tk) (ast [] rsv) ∧
    MetDue (fun h : AgentsPlaceTeams => h.2.2.2.2.2.2.2.2.2.2.2.1) (ast [] rsv) ∧
    MetDue (fun h : AgentsPlaceTeams => h.2.2.2.2.2.2.2.2.2.2.2.2 tk rlate (rlate.makeRoom 0 tk 1).1) rlate := by
  unfold MetDue State.inTurn State.carries
  refine ⟨⟨by decide, rfl, by decide⟩, ⟨by decide, by decide, by decide, by decide⟩, ⟨by decide, by decide, by decide⟩,
    ⟨by decide, by decide, by decide⟩, by decide, by decide,
    ⟨by decide, rfl, by decide, by decide, by decide, some_getD (by decide)⟩, ⟨by decide, by decide, by decide⟩,
    ⟨by decide, by decide, by decide, by decide, by decide⟩, ⟨rfl, rfl, by decide, by decide, by decide⟩, ⟨rfl, rfl, by decide, by decide⟩, rfl,
    by decide, ⟨by decide, by decide, by decide, rfl, rfl⟩⟩

/-- Two contexts with teams on a cluster; the turn of context 0 is over at time 1000. -/
def slice (now : Nat) : State :=
  { ast [ut (.resident 0 0), { ut (.resident 0 1) with id := 3, ctx := 1 }] with
    timer := { time := now }, contexts := [{ id := 0, root := 0x1000, mask := 1 }, { id := 1, root := 0x1000, mask := 1 }] }

theorem met_turns :
    MetWhen (fun h : TurnsAndRampsMoveOn => h.1) { pst { window := 4 } with timer := { time := 5000 } } ∧
    MetDue (fun h : TurnsAndRampsMoveOn => h.2.1) (pst {}) ∧ MetDue (fun h : TurnsAndRampsMoveOn => h.2.2.1 0 1000) (slice 999) ∧
    MetDue (fun h : TurnsAndRampsMoveOn => h.2.2.2.1 0 1000 1) (slice 1000) ∧ 0 < (slice 0).clusters.length := by
  unfold MetDue MetWhen
  refine ⟨by decide, by decide, by decide, ⟨rfl, by decide, by decide, by decide⟩, by decide⟩

/-- A warp whose boost and whose measurement window are over. -/
def lwarp : Warp := { threads := [thr], s := List.replicate 512 {}, sketch := [1, 2, 3], boostLines := 5 }
def lte : Team := { ut (.resident 0 0) with warps := [lwarp] }
def act (t : Team) : State := { ast [t] with clusters := [{ cores := [{}], r := { clk := 4096 } }] }

theorem met_activation :
    MetWhen (fun h : WarpsAreActivatedByLease => h.1) (act lte) ∧ MetDue (fun h : WarpsAreActivatedByLease => h.2.1) (ast [lte]) ∧
    ((act lte).distinct ∧ ((act lte).core 0 0).lresOff = false) ∧ MetWhen (fun h : WarpsAreActivatedByLease => h.2.2.2.1 lte 0 0) (act lte) ∧
    MetWhen (fun h : WarpsAreActivatedByLease => h.2.2.2.2.1) (act lte) ∧
    MetDue (fun h : WarpsAreActivatedByLease => h.2.2.2.2.2.1 { team := 1, cohort := [], wake := some 0, fault := false })
      (ast [] { watch := [{ team := 1, cohort := [], wake := some 0, fault := false }] }) ∧
    (let e : WakeEntry := { team := 1, cohort := [1, 3], wake := none, fault := true }
     e.team = 1 ∧ 3 ∈ e.cohort ∧ (e.without (ast []) 1).isSome = true ∧ (e.without (ast []) 3).isSome = true) ∧
    MetDue (fun h : WarpsAreActivatedByLease => h.2.2.2.2.2.2.2.2 { team := 1, cohort := [], wake := some 9, fault := false })
      (ast [] { watch := [{ team := 1, cohort := [], wake := some 9, fault := false }] }) := by
  unfold MetDue MetWhen State.distinct
  refine ⟨by decide, by decide, by decide, ⟨rfl, by decide, by decide, rfl, by decide⟩, by decide, ⟨rfl, by decide⟩, by decide, ⟨rfl, by decide⟩⟩
/-- A regroup period fills the first slot of quadrant 0 with the ready thread. -/
theorem met_bundles : MetWhen (fun h : Obligations.ActiveWarpsFormBundles => h.2.1) (act lte) ∧ ((act lte).core 0 0).bundles[0]? = some none := by
  unfold MetWhen State.distinct; decide
theorem test_bundle_formed : (match exec .regroupPeriod (act lte) with
    | .next s => ((s.core 0 0).bundles.getD 0 none).map (·.members)
    | _ => none) = some [(0, 0)] := by decide

/-- A queue of a context that no cluster serves, a launch of which waits for a place. -/
def unserved : State := { qst with contexts := [{ id := 0, root := 0x1000, mask := 0 }], launches := [{ ul with next := 0 }] }

/-- The queue's ring stands on a page that may not be read, and a queue of a context that no cluster serves, a launch of which
waits for a place. -/
def barredQ : Queue := { que with base := 0x2000000 }
theorem met_claimless :
    Claims { ring2 3 [] barredQ with mem := [(0x1000, 9), (0x1041, 2), (0x1050, 0x1F), (0x1060, 3)] } barredQ .prot ∧
    unserved.queues.getD unserved.target.id {} = que ∧ unserved.claimEnds que.ctx = true ∧ que.halt = false ∧ que.en = true ∧
    ({} : Queue).en = false ∧ ({ que with halt := true } : Queue).halt = true ∧ ({ que with prod := 0 } : Queue).prod = que.claim ∧
    ({ que with waiting := some (0, 1, 3, 0) } : Queue).waiting.isSome = true := by
  unfold Claims; decide

/-! ### The memory side -/

/-- A load whose data are bound, a store on its way, and team 1 (its page directory as everywhere). -/
def ldop : LoadOp := { id := 5, dst := { team := 1, warp := 0, lane := 0, n := 8, cnt := 1 }, acq := some 2, st := .bound [(7, .raw)] none }
def mem_ (t : Target := { id := 5 }) : State := { chip (team) (iss 2) with issue := none, target := t }

theorem met_loads :
    MetWhen (fun h : LoadsAreWrittenBack => h.1 ldop [(7, .raw)] none) { mem_ with loads := [ldop] } ∧
    MetWhen (fun h : LoadsAreWrittenBack => h.2.1 { ldop with dropped := true } [(7, .raw)] none) { mem_ with loads := [{ ldop with dropped := true }] } ∧
    MetWhen (fun h : LoadsAreWrittenBack => h.2.2.2 { ldop with refill := some 3, dst := { ldop.dst with cnt := 2 }, st := .bound [(4, .raw), (0, .raw)] none } [(4, .raw), (0, .raw)] 3)
      { mem_ with loads := [{ ldop with refill := some 3, dst := { ldop.dst with cnt := 2 }, st := .bound [(4, .raw), (0, .raw)] none }] } := by
  unfold MetWhen
  exact ⟨⟨rfl, rfl, rfl, ⟨rfl, by decide, rfl⟩⟩, ⟨rfl, rfl, rfl, rfl⟩, ⟨rfl, rfl, rfl, by decide, rfl⟩⟩

/-- The warp `mem_` runs, alive and with all its threads exited. -/
theorem met_release : (mem_.team? 1).map (fun t => (t.id, decide (0 < t.slots.length), decide ((t.warp 0).live ≠ []))) = some (1, true, true) ∧
    (((mem_.updThread 1 0 0 fun h => { h with exited := true }).team? 1).map fun t => (decide (0 < t.slots.length), (t.warp 0).live)) = some (true, []) ∧
    mem_.writebackOut 1 0 = false ∧ State.writebackOut { mem_ with loads := [ldop] } 1 0 = true := by decide

def miss : Miss := { key := 0x10080, home := .own, lclass := 0, ldk := false, cls := 0, slot := 0 }
def fst_ : State := { mem_ { addr := 0x10080 } with clusters := [{ cores := [{ misses := [miss] }] }]
                                                    loads := [{ ldop with xl := page, st := .missed }] }
theorem met_fill : MetWhen (fun h : FillsAnswerTheLoads => h miss) fst_ ∧ miss.awaited fst_ 0 0 { ldop with xl := page, st := .missed } ∧
    fst_.mayBind { ldop with xl := page, st := .missed } = true := by
  unfold MetWhen Miss.awaited; decide

theorem met_cached_fill : miss.cls ≠ 2 ∧ ((fst_.core 0 0).l1.length < 16) ∧ miss.ldk = false ∧ 0 < fst_.clusters.length ∧
    (∀ o ∈ fst_.loads, miss.awaited fst_ 0 0 o) := by unfold Miss.awaited; decide

/-- A store of one byte at an address, not yet translated. -/
def sto (va : Nat) (x : Xlat := {}) (op : HomeOp := .store [1]) (n : Nat := 1) : StoreOp :=
  { id := 5, grp := 5, team := 1, warp := 0, lane := 0, ctx := 0, launch := 2, va := va, xl := x, bytes := n, op := op, cl := 0, co := 0
    pc := 0x10080, word := 1, raw := 0, width := 0 }

/-- A store of the thread is held on an absent page. -/
def heldSto : StoreOp := { sto 0x400000 with id := 4, st := .held }

theorem met_store_translation :
    MetWhen (fun h : StoresAreTranslated => h.1 (sto 0x10080) page) { mem_ with stores := [sto 0x10080] } ∧
    MetWhen (fun h : StoresAreTranslated => h.2.1 (sto 0x8000000) (team)) { mem_ with stores := [sto 0x8000000] } ∧
    MetWhen (fun h : StoresAreTranslated => h.2.2.1 (sto 0x8000000)) { mem_ with stores := [heldSto, sto 0x8000000] } ∧
    MetWhen (fun h : StoresAreTranslated => h.2.2.2.1 (sto 0x400000) 0 0x2000000 0x1050) { mem_ with stores := [sto 0x400000] } ∧
    MetWhen (fun h : StoresAreTranslated => h.2.2.2.2.1 (sto 0x400010) 0 0x2000000 0x1050) { mem_ with stores := [heldSto, sto 0x400010] } ∧
    MetWhen (fun h : StoresAreTranslated => h.2.2.2.2.2.1 (sto 0x400000) 0 0x2000000 0x1050)
      { mem_ with stores := [sto 0x400000], requests := List.replicate 4096 ⟨0, 0, 0, 0⟩ } ∧
    MetDue (fun h : StoresAreTranslated => h.2.2.2.2.2.2 (sto 0x10080)) { mem_ with stores := [{ sto 0x10080 with id := 4 }, sto 0x10080] } := by
  unfold MetWhen MetDue
  exact ⟨⟨⟨⟨rfl, rfl, by decide⟩, by decide⟩, by decide, .inl rfl⟩, ⟨⟨⟨rfl, rfl, by decide⟩, by decide⟩, .inl (by decide), by decide, rfl, by decide⟩,
    ⟨⟨⟨rfl, rfl, by decide⟩, by decide⟩, .inl (by decide), by decide⟩, ⟨⟨⟨rfl, rfl, by decide⟩, by decide⟩, by decide, by decide⟩,
    ⟨⟨rfl, rfl, by decide⟩, by decide, by decide⟩, ⟨⟨⟨rfl, rfl, by decide⟩, by decide⟩, by decide, by decide, by decide⟩, rfl, rfl, by decide⟩

def home (op : HomeOp) (n : Nat) : StoreOp := { sto 0x10080 page op n with st := .translated }
/-- A store to the doorbell page of queue 0, at an offset. -/
def ring (off n : Nat) : StoreOp := { home (.store (List.replicate n 0)) n with xl := { pa := Config.doorbellBase + off } }
theorem met_store_performed :
    MetWhen (fun h : StoresArePerformed => h.1 (home (.store [1]) 1) [1]) { mem_ with stores := [home (.store [1]) 1] } ∧
    MetWhen (fun h : StoresArePerformed => h.2.1 (ring 0 8) (List.replicate 8 0)) { mem_ with stores := [ring 0 8] } ∧
    MetWhen (fun h : StoresArePerformed => h.2.2.1 (ring 8 8) (List.replicate 8 0)) { mem_ with stores := [ring 8 8] } ∧
    MetWhen (fun h : StoresArePerformed => h.2.2.1 (ring 0 16) (List.replicate 16 0)) { mem_ with stores := [ring 0 16] } ∧
    MetWhen (fun h : StoresArePerformed => h.2.2.2.1 (home (.atom 0 3 6) 4) 0 3 6) { mem_ with stores := [home (.atom 0 3 6) 4] } ∧
    MetWhen (fun h : StoresArePerformed => h.2.2.2.2.1 (home (.cas 0 3 6) 4) 0 3 6) { mem_ with stores := [home (.cas 0 3 6) 4] } ∧
    MetWhen (fun h : StoresArePerformed => h.2.2.2.2.2.1 (home (.cas 1 3 6) 4) 1 3 6) { mem_ with stores := [home (.cas 1 3 6) 4] } ∧
    (∀ l, mem_.launch? 2 = some l → (∀ r ∈ l.wset, ¬ (r.1 ≤ bits 0x10080 16 41 ∧ bits 0x10080 16 41 < r.1 + r.2))) ∧
    MetDue (fun h : StoresArePerformed => h.2.2.2.2.2.2.2.2 (sto 0x10080)) { mem_ with stores := [sto 0x10080] } := by
  unfold MetWhen MetDue StoreOp.ready State.MemOk
  refine ⟨⟨⟨⟨rfl, rfl, by decide, by decide, by decide, by decide⟩, rfl⟩, rfl⟩, ⟨⟨rfl, rfl, by decide, by decide, by decide, by decide⟩, by decide, rfl, by decide, .inr rfl⟩,
    ⟨⟨rfl, rfl, by decide, by decide, by decide, by decide⟩, by decide, rfl, by decide⟩, ⟨⟨rfl, rfl, by decide, by decide, by decide, by decide⟩, by decide, rfl, by decide⟩,
    ⟨⟨⟨rfl, rfl, by decide, by decide, by decide, by decide⟩, rfl⟩, ⟨by decide, by decide⟩, rfl⟩,
    ⟨⟨⟨rfl, rfl, by decide, by decide, by decide, by decide⟩, rfl⟩, ⟨by decide, by decide⟩, rfl, by decide⟩,
    ⟨⟨⟨rfl, rfl, by decide, by decide, by decide, by decide⟩, rfl⟩, ⟨by decide, by decide⟩, rfl, by decide⟩,
    (fun l h => nomatch (show none = some l from h)), ⟨rfl, by decide⟩⟩

def wsl (snaps : List Snap) (pages : Nat := 1) : Launch := { ul with wset := [(1, 1)], pool := { root := 0x1000, va := 0x30000, pages := pages }, snaps := snaps }
def wss (l : Launch) : State := { dchip with launches := [l] }
/-- A page's snapshot that took its first part alone. -/
def oneSnap : Snap := { page := 1, slot := 0, pool := (List.range 16).map fun k => (k, 0x30000 + 4096 * k), parts := [(0, 0x10000)] }
theorem met_snapshots :
    (let s := wss (wsl [])
     s.launch? 2 = some (wsl []) ∧ s.MemOk ∧ (wsl []).inWset 0x10080 ∧ (wsl []).snaps.find? (·.page == bits 0x10080 16 41) = none ∧
     s.poolPage (wsl []) = some (0, oneSnap.pool) ∧ (oneSnap.pool.map (·.1)).Nodup ∧
     (oneSnap.pool.Pairwise fun a b => a.2 + 4096 ≤ b.2 ∨ b.2 + 4096 ≤ a.2) ∧
     ∀ p ∈ s.parts 0x1000 (pageVA 1), ∀ q ∈ oneSnap.pool, p.2 + 4096 ≤ q.2 ∨ q.2 + 4096 ≤ p.2) ∧
    ((wsl [oneSnap]).snaps.find? (·.page == bits 0x11080 16 41) = some oneSnap ∧ (oneSnap.parts.any (·.1 == bits 0x11080 12 4)) = false ∧
     (oneSnap.parts.any (·.1 == bits 0x10080 12 4)) = true) ∧
    (wss (wsl [] 0)).poolPage (wsl [] 0) = none ∧ ¬ (wsl []).inWset 0x20000 := by
  unfold State.MemOk Launch.inWset
  refine ⟨⟨rfl, ⟨by decide, fun t h => nomatch h⟩, by decide, rfl, by decide, by decide, by decide, by decide⟩, by decide, by decide, by decide⟩

/-- An entry of the fault table on the absent pages of the usual table. -/
def fe (due : Bool) : FaultEntry := { id := 5, ctx := 0, base := 0, size := 0x2000000, watch := 0x1050, va := 0x400000, lastWalk := 0, waiters := [], due := due }
def present : List Host.Cell := [(0x1000, 9), (0x1041, 2), (0x1050, 0x1F)]

theorem met_faults :
    MetDue (fun h : FaultsAreWalkedAgain => h.1 (fe true)) { mem_ with faults := [fe true] } ∧
    MetDue (fun h : FaultsAreWalkedAgain => h.2.1 (fe true)) { mem_ with faults := [fe true], mem := present } ∧
    MetDue (fun h : FaultsAreWalkedAgain => h.2.2.1 (fe false)) { mem_ with faults := [fe false] } ∧
    MetDue (fun h : FaultsAreWalkedAgain => h.2.2.2.1 (.refill 3) 0 0x400000) { mem_ { id := 0 } with unlisted := [(.refill 3, 0, 0x400000)], mem := present } ∧
    MetDue (fun h : FaultsAreWalkedAgain => h.2.2.2.2.1 (.agent 3) 0 0x400000 0 0x2000000 0x1050 (walk mem_ 0x1000 0x400000).2)
      { mem_ { id := 0 } with unlisted := [(.agent 3, 0, 0x400000)] } ∧
    MetDue (fun h : FaultsAreWalkedAgain => h.2.2.2.2.2.1 (.copy 1 0) 0 0x400000 0 0x2000000 0x1050 (walk mem_ 0x1000 0x400000).2 0)
      { mem_ { id := 0 } with unlisted := [(.copy 1 0, 0, 0x400000)] } ∧
    MetDue (fun h : FaultsAreWalkedAgain => h.2.2.2.2.2.2 (.refill 3) 0 0x400000 0 0x2000000 0x1050 (walk mem_ 0x1000 0x400000).2)
      { mem_ { id := 0 } with unlisted := [(.refill 3, 0, 0x400000)], requests := List.replicate 4096 ⟨0, 0, 0, 0⟩ } := by
  unfold MetDue FaultEntry.stillAbsent
  refine ⟨⟨⟨rfl, .inl rfl⟩, 0, 0x2000000, _, Prod.ext (by decide) rfl⟩, ⟨⟨rfl, .inl rfl⟩, fun ⟨b, n, ls, h⟩ => ?_⟩, ⟨rfl, rfl, by decide⟩, ⟨rfl, fun b n x ls h => ?_⟩,
    ⟨rfl, by decide, .inl (by decide), by decide⟩, ⟨rfl, by decide, .inl (by decide), by decide⟩, rfl, by decide, by decide, rfl⟩
  · exact nomatch ((show (walk _ _ _).1 = .ok { pa := 0 } 0 0x2000000 true by decide).symm.trans (congrArg Prod.fst h))
  · exact nomatch ((show (walk _ _ _).1 = .ok { pa := 0 } 0 0x2000000 true by decide).symm.trans (congrArg Prod.fst h))

/-! ### Engines, ends and tiles -/

def lteam2 (k : Copy) : Team := { team with chans := [k] :: List.replicate 7 [] }
def slc : Slice := { warp := 0, shape := [0, 0, 0x100401], glob := 0x10080, gs := [0, 0, 0], barr := none, xmask := 0, tacq := 0, pc := 0x10080, word := 1, raw := 0 }
def cop (handed : Bool) : Copy := { seq := 0, kind := .cpt, slices := if handed then [slc] else [] }
def eng (t : Team) (g : Target := { team := 1 }) : State := { chip t (iss 4) with issue := none, target := g }
def entry : CpaOp := { id := 5, team := 1, warp := 0, lane := 0, batch := 0, dst := 8, va := 0x10080, bytes := 4, tacq := 0, pc := 0x10080, word := 1, raw := 0 }
def stream : Stream := { isOpen := true, base := 0x10080, counts := [2], strides := [4], total := 2 }
def hteam2 : Team := { team with tbHolds := [{ addr := 0x20, until_ := 0, held := [.bump (-1) 2 none, .init 3] }] }
/-- A thread has taken row 1 of its stream, which has not arrived. -/
def tkteam : Team := { qteam { stream with fetched := 2 } with taken := [{ q := 0, strm := 0, idx := 1, va := 0x10084, words := 1, load := 9 }] }

theorem met_engines :
    MetDue (fun h : EnginesLandTheirData => h.1 (lteam2 (cop true)) (cop true) [] 0 0) (eng (lteam2 (cop true))) ∧
    MetDue (fun h : EnginesLandTheirData => h.2.1 (lteam2 (cop false)) (cop false) []) (eng (lteam2 (cop false))) ∧
    MetWhen (fun h : EnginesLandTheirData => h.2.2.1 (lteam2 (cop true)) (cop true) [] 0 0 slc 0
      ((eng (lteam2 (cop true))).xlateAll 0 0 0 true .read [0x10080]).1 [page]) (eng (lteam2 (cop true))) ∧
    MetWhen (fun h : EnginesLandTheirData => h.2.2.2.1 entry (team) 0 0 (({ eng (team) { id := 5 } with cpas := [entry] } : State).xlateAll 0 0 0 true .read [0x10080]).1 page) { eng (team) { id := 5 } with cpas := [entry] } ∧
    MetWhen (fun h : EnginesLandTheirData => h.2.2.2.2.1 (qteam stream) 0 0 ((eng (qteam stream)).xlateAll 0 0 0 true .read [0x10080]).1 [page]) (eng (qteam stream)) ∧
    MetWhen (fun h : EnginesLandTheirData => h.2.2.2.2.2.1 tkteam (tkteam.taken.headD ⟨0, 0, 0, 0, 0, 0, false, none, 0, 0, 0, 0⟩) 0 0
      ((eng tkteam).xlateAll 0 0 0 true .read [0x10084]).1 [{ pa := 0x10084 }]) (eng tkteam) ∧
    MetWhen (fun h : EnginesLandTheirData => h.2.2.2.2.2.2.1 hteam2 ⟨0x20, 0, [.bump (-1) 2 none, .init 3]⟩) (eng hteam2 { team := 1, addr := 0x20 }) ∧
    MetDue (fun h : EnginesLandTheirData => h.2.2.2.2.2.2.2 ⟨0x20, 9, []⟩)
      (eng { hteam2 with tbHolds := [⟨0x20, 9, []⟩] } { team := 1, addr := 0x20 }) := by
  unfold MetDue MetWhen State.MemOk
  refine ⟨⟨⟨rfl, rfl⟩, rfl, rfl, rfl, rfl, by decide, rfl⟩, ⟨rfl, rfl, rfl, rfl, .inr (.inl (by decide))⟩,
    ⟨⟨rfl, rfl⟩, rfl, by decide, by decide, rfl, rfl, rfl, by decide, rfl, rfl, by decide, rfl, ⟨by decide, by decide⟩, Prod.ext rfl (by decide), by decide⟩,
    ⟨rfl, rfl, rfl, ⟨rfl, rfl⟩, rfl, Prod.ext rfl (by decide), by decide, ⟨by decide, by decide⟩⟩,
    ⟨⟨rfl, rfl⟩, rfl, by decide, rfl, rfl, rfl, rfl, by decide, by decide, by decide, Prod.ext rfl (by decide)⟩,
    ⟨⟨rfl, rfl⟩, rfl, rfl, by decide, by decide, by decide, Prod.ext rfl (by decide)⟩,
    ⟨rfl, by decide, by decide, by decide, by decide⟩, by decide, by decide⟩

/-- An open batch of a port, due at time 0 or later; a team that has drained; a launch that runs. -/
def gth (d : Nat) : Gather := { id := 5, cmd := 3, node := 0x10200, port := 0, tag := none, join := false, recs := [], rsize := 4, deadline := some d }
def drained : Team := { team with draining := true, warps := [] }

theorem met_ends :
    MetDue (fun h : TeamsAndLaunchesEnd => h.1 (gth 0) 0) { eng (team) { id := 5 } with gathers := [gth 0] } ∧
    MetDue (fun h : TeamsAndLaunchesEnd => h.2.1 (gth 9) 9) { eng (team) { id := 5 } with gathers := [gth 9] } ∧
    MetDue (fun h : TeamsAndLaunchesEnd => h.2.2.1 drained) (eng drained) ∧ MetDue (fun h : TeamsAndLaunchesEnd => h.2.2.2.1 (team)) (eng (team)) ∧
    MetDue (fun h : TeamsAndLaunchesEnd => h.2.2.2.2.1 ul) { eng (team) { id := 2, value := 0x11 } with launches := [ul] } ∧
    MetDue (fun h : TeamsAndLaunchesEnd => h.2.2.2.2.2.1 { ul with phase := .done }) { eng (team) { id := 2 } with launches := [{ ul with phase := .done }] } ∧
    (eng (team)).team? (team).id = some (team) := by
  unfold MetDue
  refine ⟨⟨rfl, rfl, by decide, rfl⟩, ⟨rfl, rfl, by decide⟩, ⟨rfl, by decide, by decide⟩, ⟨rfl, by decide⟩, ⟨rfl, rfl⟩, ⟨rfl, by decide⟩, rfl⟩

/-- A pass of one tile of 8 by 8 pixels, whose signature buffer is at 0x12000; the pass's tile in a phase. -/
def rtile (ph : TilePhase) (bad : List Nat := []) : RTile := { k := 0, cl := 0, phase := ph, bad := bad }
def rpass (t : RTile) : Pass :=
  { id := 7, va := 0x10000, ctx := 0, cmd := 3, words := [0, 8 + 8 * 2 ^ 16 + 2 ^ 32, 0, 0, 0, 0, 0, 0, 0x12000] ++ List.replicate 23 0, ready := true, binned := true
    tiles := [t] }
def ren (t : RTile) (cells : List Host.Cell := []) : State :=
  { dchip with contexts := [{ id := 0, root := 0x1000, mask := 1 }], passes := [rpass t], target := { id := 7 }, mem := present ++ cells }

/-- The tile's one patch lies on a page that is absent. -/
def draw1 : Draw := { index := 0, cmd := 3, drawd := 0x10000, patches := 0x400000, first := 0, count := 1, tri := false, shade := 0 }
def ptile : RTile := { rtile .started with patches := [(0, 0)] }
def ppass : Pass := { rpass ptile with draws := [draw1] }
def pren : State := { ren ptile with passes := [ppass], mem := [(0x1000, 9), (0x1041, 2)] }
/-- The tile's program runs still. -/
def ltile : RTile := { rtile .diced with launch := some 2 }
def lrenOf (t : Team) : State := { ren ltile with launches := [ul], teams := [t] }
/-- The team of a query is being saved. -/
def sren : State := { yst with issue := none, teams := [{ team with saving := some .saved }] }

theorem met_tiles :
    MetDue (fun h : TilesRunTheirSteps => h.1 (rpass (rtile .idle)) (ren (rtile .idle))) (ren (rtile .idle)) ∧
    MetDue (fun h : TilesRunTheirSteps => h.2.1 { rpass (rtile .idle) with parked := true }) { ren (rtile .idle) with passes := [{ rpass (rtile .idle) with parked := true }] } ∧
    (ren (rtile .idle)).tileOwner (rpass (rtile .idle)) 0 = some 0 ∧ ((rpass (rtile .idle)).tile 0).phase = .idle ∧
    (ren (rtile .idle)).serving 0 = some 7 ∧ (∀ u ∈ (rpass (rtile .idle)).tiles, u.k < 0 → u.phase = .idle → (ren (rtile .idle)).tileOwner (rpass (rtile .idle)) u.k ≠ some 0) ∧
    ((ren (rtile .idle)).skipCost (rpass (rtile .idle)) (rtile .idle)).2 = some none ∧
    ((ren (rtile .idle) [(0x12000, 1), (0x12053, 0x80)]).skipCost (rpass (rtile .idle)) (rtile .idle)).2 = some (some 0) ∧
    (ren (rtile .idle)).freeTileSlot (rpass (rtile .idle)) 0 = some 0 ∧
    MetDue (fun h : TilesRunTheirSteps => h.2.2.2.2.1 (rpass (rtile .started)) (rtile .started) (ren (rtile .started)) []) (ren (rtile .started)) ∧
    MetDue (fun h : TilesRunTheirSteps => h.2.2.2.2.2.1 ppass ptile (pren.diceList ppass 0 [(0, 0)]).1) pren ∧
    MetDue (fun h : TilesRunTheirSteps => h.2.2.2.2.2.2.1 (rpass (rtile .diced)) (rtile .diced)) (ren (rtile .diced)) ∧
    MetDue (fun h : TilesRunTheirSteps => h.2.2.2.2.2.2.2.1 { rpass (rtile .started) with parkedCl := [0] } (rtile .started))
      { ren (rtile .started) with passes := [{ rpass (rtile .started) with parkedCl := [0] }] } ∧
    MetDue (fun h : TilesRunTheirSteps => h.2.2.2.2.2.2.2.2.1 (rpass (rtile .done)) (rtile .done)) (ren (rtile .done)) ∧
    MetDue (fun h : TilesRunTheirSteps => h.2.2.2.2.2.2.2.2.2.1 (rpass (rtile .diced)) (rtile .diced)) (ren (rtile .diced)) ∧
    MetDue (fun h : TilesRunTheirSteps => h.2.2.2.2.2.2.2.2.2.2.1 (rpass (rtile .started)) (rtile .started)) (ren (rtile .started)) ∧
    MetDue (fun h : TilesRunTheirSteps => h.2.2.2.2.2.2.2.2.2.2.2.1 (rpass (rtile .diced)) (rtile .diced)) (ren (rtile .diced)) ∧
    MetDue (fun h : TilesRunTheirSteps => h.2.2.2.2.2.2.2.2.2.2.2.2.1 (rpass ltile) ltile (team)) (lrenOf (team)) ∧
    MetDue (fun h : TilesRunTheirSteps => h.2.2.2.2.2.2.2.2.2.2.2.2.2.1 (rpass ltile) ltile { team with killed := true }) (lrenOf { team with killed := true }) ∧
    MetDue (fun h : TilesRunTheirSteps => h.2.2.2.2.2.2.2.2.2.2.2.2.2.2.1 (rpass ltile) ltile { team with place := .saved }) (lrenOf { team with place := .saved }) ∧
    MetDue (fun h : TilesRunTheirSteps => h.2.2.2.2.2.2.2.2.2.2.2.2.2.2.2.1 (rpass (rtile .started)) (rtile .started)) (ren (rtile .started)) ∧
    MetDue (fun h : TilesRunTheirSteps => h.2.2.2.2.2.2.2.2.2.2.2.2.2.2.2.2.1 (rpass (rtile .complete)) (rtile .complete)) (ren (rtile .complete)) ∧
    MetDue (fun h : TilesRunTheirSteps => h.2.2.2.2.2.2.2.2.2.2.2.2.2.2.2.2.2.1 (rpass (rtile .diced)) (rtile .diced)) (ren (rtile .diced)) ∧
    ((sren.query? 0 4).any fun q => (sren.team? q.team).any (·.saving.isSome)) = true ∧
    (((ren (rtile .idle)).query? 0 7).any fun q => ((ren (rtile .idle)).team? q.team).any (·.saving.isSome)) = false := by
  unfold MetDue State.tileIs
  refine ⟨⟨rfl, rfl, rfl, rfl, rfl, rfl, rfl, by decide⟩, ⟨rfl, rfl, .inl rfl⟩, by decide, by decide, by decide, by decide, by decide, by decide, by decide,
    ⟨⟨rfl, rfl⟩, rfl, by decide, rfl, rfl, rfl⟩, ⟨⟨rfl, rfl⟩, rfl, by decide, rfl, rfl, Prod.ext rfl (by decide)⟩, ⟨⟨rfl, rfl⟩, rfl, by decide, rfl, rfl⟩,
    ⟨⟨rfl, rfl⟩, .inr (.inl (by decide))⟩, ⟨⟨rfl, rfl⟩, by decide⟩, ⟨⟨rfl, rfl⟩, rfl, rfl⟩, ⟨⟨rfl, rfl⟩, by decide⟩, ⟨⟨rfl, rfl⟩, rfl, by decide⟩,
    ⟨⟨rfl, rfl⟩, rfl, by decide, by decide, by decide, rfl, rfl⟩, ⟨⟨rfl, rfl⟩, rfl, by decide, by decide, by decide, .inl rfl⟩,
    ⟨⟨rfl, rfl⟩, rfl, by decide, by decide, rfl⟩, ⟨⟨rfl, rfl⟩, by decide⟩, ⟨⟨rfl, rfl⟩, rfl, .inr (by decide)⟩, ⟨⟨rfl, rfl⟩, by decide⟩,
    by decide, by decide⟩

/-! ### Encodings, steps, memory and the last statements -/

/-- The states whose next step fetches IADD v4, v2, v3 and LDG v8, [v2] with its second word; the bundle has its header. -/
def ready (w : Nat) : State :=
  let s := State.reset.withFetchWord 64 w
  { s.setBundle 0 0 0 (some { team := State.reset.nextId, members := [(0, 0)], header := some (BitVec.ofNat 32 (probeHeader w (probeLen w))) }) with
    agenda := [.issue 0 0 0] }
def readyB (w : Nat) : Bundle :=
  { team := State.reset.nextId, members := [(0, 0)], header := some (BitVec.ofNat 32 (probeHeader w (probeLen w))) }
def readyT (w : Nat) : Team := (ready w).teams.headD (team)
def wd1 : Nat := 0x00080818
def wd2 : Nat := 0x1000A0080500
def readyH (w : Nat) : Word := BitVec.ofNat 32 (probeHeader w (probeLen w))
/-- The team in its turn, and the state in which the word is fetched. -/
def turned (w : Nat) : State := State.slotTurn { ready w with agenda := [] } (readyB w) (readyT w)
def readyN (w : Nat) : Team := ((turned w).team? (readyT w).id).getD (readyT w)
def begun (w : Nat) : State :=
  (State.fetchClause ((turned w).issuers 0 0 0 (readyB w) (readyN w) { hdr := 0x10080 } (readyH w)).1 0 0 (readyN w) 0x10080 1 (hdrN (readyH w))).1
def wordIss (w : Nat) : Issue := issueOf 0 0 [(0, 0)] (readyN w) { hdr := 0x10080 } (readyH w)
/-- The state in which the first word is fetched, and that in which the second is. -/
def atFirst (w : Nat) : State := (wordIss w).noteClause (readyN w) (begun w)
def atSecond (w : Nat) : State := ((atFirst w).fetch 0 0 (readyN w) 0x10084).1

theorem met_fetch : fetchable (readyN wd1).prog.hdr 0x10084 = true ∧
    ((atFirst wd1).translate 0 0 0 false .exec 0x10084).2 = .ok { pa := 0x10084 } ∧
    ((atFirst wd1).translate 0 0 0 false .exec 0x10084).1.pathBad 0 0 { pa := 0x10084 } 4 = false ∧
    ((atFirst wd1).translate 0 0 0 false .exec 0x10084).1.readPath 0 0 { pa := 0x10084 } 4 = wordBytes 0x00080818 := by
  decide

theorem met_step_event : ({ ready wd1 with agenda := [.event .sliceEnd { id := 1 }] } : State).agenda =
      .event .sliceEnd { id := 1 } :: ([] : List Turn) ∧
    ({ ready wd1 with agenda := [.tick 3] } : State).agenda = .tick 3 :: ([] : List Turn) := ⟨rfl, rfl⟩

theorem at_word (w : Nat) (hw : w = wd1 ∨ w = wd2) :
    AtWord { ready w with agenda := [] } 0 0 0 (readyB w) (readyT w) (readyN w) { hdr := 0x10080 } (readyH w) [(0, 0)] (begun w) := by
  rcases hw with rfl | rfl <;>
  exact ⟨by decide, rfl, by decide, by decide, by decide, rfl, by decide, by decide, by decide,
    fun _ => ⟨by decide, by decide, Prod.ext rfl (by decide), by decide⟩, fun h => absurd h (by decide)⟩

theorem met_step_word : (ready wd1).agenda = .issue 0 0 0 :: ([] : List Turn) ∧
    ((atFirst wd1).fetch 0 0 (readyN wd1) 0x10084).2 = .word 0x00080818 ∧ wantsNext 0x00080818 = false ∧
    decodeWord 0x00080818 none = .ok (.iadd ⟨4, 2, 3, 0, 0, 0⟩) ∧
    (ready wd2).agenda = .issue 0 0 0 :: ([] : List Turn) ∧
    ((atFirst wd2).fetch 0 0 (readyN wd2) 0x10084).2 = .word 0xA0080500 ∧ wantsNext 0xA0080500 = true ∧
    1 < hdrN (readyH wd2) ∧ ((atSecond wd2).fetch 0 0 (readyN wd2) 0x10088).2 = .word 0x1000 ∧
    decodeWord 0xA0080500 (some 0x1000) = .ok (.ldg ⟨4, 1, 2, 0, 0, 0, 16, 0, 0, 0⟩) := by decide

theorem met_taken : (iss 1).cls ≠ 0 ∧ (iss 0).cls = 0 ∧
    (let s := ready wd1
     0 < s.clusters.length ∧ 0 < (s.cluster 0).cores.length ∧ 7 / 2 < (s.core 0 0).gated.length ∧ 7 / 2 < (s.core 0 0).lastIssue.length) := by decide

/-- The clause REP, IADD at 0x10080; the thread stands at the IADD's third repetition. -/
def repPos : Pos := { hdr := 0x10080, word := 2, rep := some 2 }
def repTeam : Team := { readyT wd1 with warps := (readyT wd1).warps.map fun x => { x with threads := x.threads.map fun th => { th with pos := repPos } } }
def repReady : State :=
  { ready wd1 with teams := [repTeam], agenda := [], mem := Memory.writeBytes (ready wd1).mem 0x10084 (wordBytes 0xF90F0000 ++ wordBytes 0x00080818) }
def repH : Word := hdr 1 &&& 0xF0FFFFFF ||| 0x02000000
def repB : Bundle := { readyB wd1 with header := some repH }
def repSt : State := repReady.setBundle 0 0 0 (some repB)
def repTurned : State := repSt.slotTurn repB repTeam
def repN : Team := (repTurned.team? repTeam.id).getD repTeam
def repAt : State := (issueOf 0 0 [(0, 0)] repN repPos repH).noteClause repN (repTurned.issuers 0 0 0 repB repN repPos repH).1

theorem met_repeated_word :
    AtWord repSt 0 0 0 repB repTeam repN repPos repH [(0, 0)] (repTurned.issuers 0 0 0 repB repN repPos repH).1 ∧
    (repAt.fetch 0 0 repN 0x10088).2 = .word 0x00080818 ∧
    ((repAt.fetch 0 0 repN 0x10088).1.fetch 0 0 repN 0x10084).2 = .word 0xF90F0000 ∧
    decodeWord 0x00080818 none = .ok (.iadd ⟨4, 2, 3, 0, 0, 0⟩) :=
  ⟨⟨by decide, rfl, by decide, by decide, by decide, rfl, by decide, by decide, by decide, fun h => absurd h (by decide), fun _ => rfl⟩,
    by decide, by decide, by decide⟩

/-- Forms that stop: of the words of the cores, with the register operands `os`. -/
def stopForm (os : List Opnd) : Form := { grp := .alu, os := os }
def noEff (s : State) (_ : Ctx) : State × LaneRes := (s, .done)
/-- v0 is empty. -/
def holed : Team := team { thr with v := { full := false } :: List.replicate 63 {} }
/-- It has a handler: register 100 is beyond the count of 64, and a reserved field is set. -/
def handled : Team := { team with prog := { prog with handler := 0x200 } }

theorem met_word_traps : (chip handled (iss 1)).team? (iss 1).team = some handled ∧ (iss 1).actors handled = [(0, 0)] ∧ (iss 1).cls ≠ 0 ∧
    (handled.thread 0 0).exited = false ∧ (handled.thread 0 0).handler = false ∧ handled.prog.handler ≠ 0 ∧
    (chip handled (iss 1)).isProtected handled = false ∧ (iss 1).word < 16 ∧ (iss 1).rep = none ∧
    ({ stopForm [] with wf := false } : Form).precheck (iss 1) handled = some 0x03 ∧
    (stopForm [{ file := .vec, n := 100, rd := true }]).precheck (iss 1) handled = none ∧
    Ctx.checks ⟨handled, 0, 0, iss 1⟩ [{ file := .vec, n := 100, rd := true }] none false = some (.trap 0x04) := by decide

theorem met_word_waits :
    (stopForm [{ file := .vec, n := 0, wr := true }]).precheck (iss 1) holed = none ∧
    Ctx.checks ⟨holed, 0, 0, iss 1⟩ [{ file := .vec, n := 0, wr := true }] none false = some .hold ∧
    (Ctx.anyEmpty ⟨holed, 0, 0, iss 1⟩ { file := .vec, n := 0, wr := true } = true ∧
      Ctx.outOfRange ⟨holed, 0, 0, iss 1⟩ { file := .vec, n := 0, wr := true } = false) ∧
    Ctx.blocked ⟨holed, 0, 0, iss 1⟩ [{ file := .vec, n := 0, rd := true, pol := true }] = false ∧
    Ctx.anyEmpty ⟨holed, 0, 0, iss 1⟩ { file := .vec, n := 0, rd := true, pol := true } = true := by decide

theorem met_prechecks : (Group.needsMemo .memo = true ∧ ({ prog with memo := false } : Prog).memo = false) ∧
    (({ stopForm [] with priv := true } : Form).priv = true ∧ ({ team with priv := false } : Team).priv = false ∧
      (stopForm []).grp.needsMemo = false) ∧
    ((stopForm []).precheck (iss 0) (team) = none ∧ ({ stopForm [] with grp := .slot } : Form).precheck (iss 1) (team) = some 0x02) := by
  decide

theorem met_round_trip : encode (.iadd ⟨4, 2, 3, 0, 0, 0⟩) = some [0x00080818] ∧
    encode (.ldg ⟨4, 1, 2, 0, 0, 0, 16, 0, 0, 0⟩) = some [0xA0080500, 0x1000] ∧
    decodeWord 0x00080818 (some 0) = .ok (.iadd ⟨4, 2, 3, 0, 0, 0⟩) ∧ Instr.iadd ⟨4, 2, 3, 0, 0, 0⟩ ≠ .illegalOpcode ∧
    (Instr.signal ⟨3, false, true, false⟩ 0x1000 7).head? = some ⟨3, false, true, false⟩ ∧
    encodeCommand (.signal ⟨3, false, true, false⟩ 0x1000 7) = some [0x203, 0x1000, 7, 0, 0, 0, 0, 0] ∧
    commandErr true (.signal ⟨3, false, true, false⟩ 0x1000 7) = none := by decide

theorem met_step_keeps : State.MemOk (ready wd1) ∧ (∀ tg rest, (ready wd1).agenda ≠ .event .powerOn tg :: rest) ∧
    (match step (ready wd1) with | .next _ => true | _ => false) = true := by
  refine ⟨?_, fun _ _ h => ?_, ?_⟩
  · unfold State.MemOk; decide
  · cases h
  · decide

theorem met_memory : Memory.wf [(0x10, 3), (0x20, 1)] = true ∧ Memory.wf (Memory.writeBytes [(0x10, 3)] 0x0F [1, 0, 2]) = true ∧
    Memory.writeBytes [(0x10, 3)] 0x0F [1, 0, 2] = [(0x0F, 1), (0x11, 2)] ∧ Memory.readBytes [(0x0F, 1), (0x11, 2)] 0x0F 3 = [1, 0, 2] ∧
    leBytes 0x0102 4 = [2, 1, 0, 0] := by decide

theorem met_predicates : 8 ≤ (⟨0, 8, 0, 0, 0, 0⟩ : A3).a.toNat ∧ 8 ≤ (⟨0, 0, 8, 0, 0, 0, 0⟩ : P3).a.toNat ∧
    8 ≤ (⟨0, 0, 0, 8, 0, 0, 0⟩ : P3).b.toNat ∧ ({ stopForm [] with wf := false } : Form).wf = false := by decide

def ti (k : Nat) : TrapInfo := { cause := k, word := 1, rep := none, hdr := 0x10080, raw := 0, mask := 1 }

/-- A thread in its handler, and one that is not. -/
theorem met_double_traps : (chip (team { thr with handler := true }) (iss 1)).team? 1 = some (team { thr with handler := true }) ∧
    ((team { thr with handler := true }).thread 0 0).exited = false ∧ ((team { thr with handler := true }).thread 0 0).handler = true ∧
    (ti 3).cause ≠ 0x11 ∧ (ti 3).cause ≠ 0x18 ∧ (ti 0x11).cause = 0x11 ∧ (ti 0x18).cause = 0x18 := by decide

/-- The box whose right edge is the tile's left edge does not touch it; one unit more and it does. -/
theorem test_box_edges : touches [0, 8 * 2 ^ 149, 0, 1] 8 0 8 8 = false ∧ touches [0, 8 * 2 ^ 149 + 1, 0, 1] 8 0 8 8 = true := by decide

/-! ### Words written out field by field from the formats of R104, R109 and the entries of the own formats -/

def reads (w : Word) (i : Instr) : Bool := decodeWord w none == .ok i
def reads2 (w w2 : Word) (i : Instr) : Bool := decodeWord w (some w2) == .ok i

theorem test_decode_integer_and_address : reads 0x005B683D (.iadd ⟨45, 90, 7, 1, 0, 1⟩) &&
    reads 0x01698472 (.isub ⟨52, 97, 14, 0, 1, 0⟩) &&
    reads 0x0277A0AD (.iadds ⟨59, 104, 21, 1, 0, 1⟩) &&
    reads 0x0385BCE2 (.nadds ⟨66, 111, 28, 0, 1, 0⟩) &&
    reads 0x0493D91D (.isubs ⟨73, 118, 35, 1, 0, 1⟩) &&
    reads 0x05A1F552 (.nsubs ⟨80, 125, 42, 0, 1, 0⟩) &&
    reads 0x06AE118D (.imul ⟨87, 4, 49, 1, 0, 1⟩) &&
    reads 0x07BC2DC2 (.imulh ⟨94, 11, 56, 0, 1, 0⟩) &&
    reads 0x08CA49FD (.nmulh ⟨101, 18, 63, 1, 0, 1⟩) &&
    reads 0x09D86632 (.imad ⟨108, 25, 70, 0, 1, 0⟩) &&
    reads 0x0AE6826D (.idiv ⟨115, 32, 77, 1, 0, 1⟩) &&
    reads 0x0BF49EA2 (.ndiv ⟨122, 39, 84, 0, 1, 0⟩) &&
    reads 0x0C02BADD (.irem ⟨1, 46, 91, 1, 0, 1⟩) &&
    reads 0x0D10D712 (.nrem ⟨8, 53, 98, 0, 1, 0⟩) &&
    reads 0x0E1EF34D (.imin ⟨15, 60, 105, 1, 0, 1⟩) &&
    reads 0x0F2D0F82 (.imax ⟨22, 67, 112, 0, 1, 0⟩) &&
    reads 0x103B2BBD (.nmin ⟨29, 74, 119, 1, 0, 1⟩) &&
    reads 0x114947F2 (.nmax ⟨36, 81, 126, 0, 1, 0⟩) &&
    reads 0x12576000 (.iabs ⟨43, 88, 0, 0, 0, 0⟩) &&
    reads 0x13657C04 (.ineg ⟨50, 95, 0, 1, 0, 0⟩) &&
    reads 0x1473989D (.and ⟨57, 102, 19, 1, 0, 1⟩) &&
    reads 0x1581B4D2 (.or ⟨64, 109, 26, 0, 1, 0⟩) &&
    reads 0x168FD10D (.xor ⟨71, 116, 33, 1, 0, 1⟩) &&
    reads 0x179DED42 (.andn ⟨78, 123, 40, 0, 1, 0⟩) &&
    reads 0x18AA0800 (.not ⟨85, 2, 0, 0, 0, 0⟩) &&
    reads 0x19B825B2 (.shl ⟨92, 9, 54, 0, 1, 0⟩) &&
    reads 0x1AC641ED (.shr ⟨99, 16, 61, 1, 0, 1⟩) &&
    reads 0x1BD45E22 (.sar ⟨106, 23, 68, 0, 1, 0⟩) &&
    reads 0x1CE27A5D (.rol ⟨113, 30, 75, 1, 0, 1⟩) &&
    reads 0x1DF09404 (.popc ⟨120, 37, 0, 1, 0, 0⟩) &&
    reads 0x1EFEB000 (.clz ⟨127, 44, 0, 0, 0, 0⟩) &&
    reads 0x1F0CCC04 (.brev ⟨6, 51, 0, 1, 0, 0⟩) &&
    reads 0x201AEB3D (.bfxi ⟨13, 58, 103, 1, 0, 1⟩) &&
    reads 0x21290772 (.bfxn ⟨20, 65, 110, 0, 1, 0⟩) &&
    reads 0x223723AD (.bfi ⟨27, 72, 117, 1, 0, 1⟩) &&
    reads 0x23453D7C (.iaddi ⟨34, 79, 380⟩) &&
    reads 0x24535983 (.imuli ⟨41, 86, 387⟩) &&
    reads 0x2561758A (.andi ⟨48, 93, 394⟩) &&
    reads 0x266F9191 (.ori ⟨55, 100, 401⟩) &&
    reads 0x277DAD98 (.xori ⟨62, 107, 408⟩) &&
    reads 0x288BC81F (.shli ⟨69, 114, 31⟩) &&
    reads 0x2999E406 (.shri ⟨76, 121, 6⟩) &&
    reads 0x2AA6000D (.sari ⟨83, 0, 13⟩) &&
    reads 0x2BB40187 (.movi ⟨90, 391⟩) &&
    reads 0x2CC2018E (.movh ⟨97, 398⟩) &&
    reads 0x2D0B0B7D (.icmp ⟨0, 5, 66, 111, 1, 0, 1⟩) &&
    reads 0x2EF927B2 (.ncmp ⟨7, 12, 73, 118, 0, 1, 0⟩) &&
    reads 0x2FC741FD (.icmpi ⟨6, 3, 80, 509⟩) &&
    reads 0x30FAAABD (.aadd ⟨125, 42, 87, 1, 0, 1⟩) &&
    reads 0x3108C5DE (.aaddi ⟨4, 49, 478⟩) &&
    reads 0x3216E025 (.ashl ⟨11, 56, 37⟩) &&
    reads 0x3324FF62 (.asub ⟨18, 63, 108, 0, 1, 0⟩) &&
    reads 0x342DCD02 (.acmp ⟨1, 6, 115, 32, 0, 1, 0⟩) &&
    reads 0x35413404 (.amov ⟨32, 77, 0, 1, 0, 0⟩) &&
    reads 0x364F5000 (.aexti ⟨39, 84, 0, 0, 0, 0⟩) &&
    reads 0x375D6C04 (.aextn ⟨46, 91, 0, 1, 0, 0⟩) := by decide

theorem test_decode_float : reads 0x40DA6A3D (.fadd ⟨109, 26, 71, 1, 0, 1⟩) &&
    reads 0x41E88672 (.fsub ⟨116, 33, 78, 0, 1, 0⟩) &&
    reads 0x42F6A2AD (.fmul ⟨123, 40, 85, 1, 0, 1⟩) &&
    reads 0x4304BEE2 (.ffma ⟨2, 47, 92, 0, 1, 0⟩) &&
    reads 0x4412DB1D (.ffms ⟨9, 54, 99, 1, 0, 1⟩) &&
    reads 0x4520F752 (.fmin ⟨16, 61, 106, 0, 1, 0⟩) &&
    reads 0x462F138D (.fmax ⟨23, 68, 113, 1, 0, 1⟩) &&
    reads 0x473D2FC2 (.fdiv ⟨30, 75, 120, 0, 1, 0⟩) &&
    reads 0x484B4800 (.fsqrt ⟨37, 82, 0, 0, 0, 0⟩) &&
    reads 0x49596404 (.frcp ⟨44, 89, 0, 1, 0, 0⟩) &&
    reads 0x4A678000 (.frsq ⟨51, 96, 0, 0, 0, 0⟩) &&
    reads 0x4B759C04 (.fexp2 ⟨58, 103, 0, 1, 0, 0⟩) &&
    reads 0x4C83B800 (.flog2 ⟨65, 110, 0, 0, 0, 0⟩) &&
    reads 0x4D91D404 (.fsint ⟨72, 117, 0, 1, 0, 0⟩) &&
    reads 0x4E9FF000 (.fcost ⟨79, 124, 0, 0, 0, 0⟩) &&
    reads 0x4FAC0C04 (.ftanh ⟨86, 3, 0, 1, 0, 0⟩) &&
    reads 0x50BA2800 (.fabs ⟨93, 10, 0, 0, 0, 0⟩) &&
    reads 0x51C84404 (.fneg ⟨100, 17, 0, 1, 0, 0⟩) &&
    reads 0x52711792 (.fcmp ⟨3, 8, 69, 114, 0, 1, 0⟩) &&
    reads 0x53E47C04 (.fclass ⟨114, 31, 0, 1, 0, 0⟩) &&
    reads 0x54F29803 (.frnd ⟨121, 38, 3⟩) &&
    reads 0x5500B6D2 (.fldex ⟨0, 45, 90, 0, 1, 0⟩) &&
    reads 0x560ED000 (.fsat ⟨7, 52, 0, 0, 0, 0⟩) &&
    reads 0x571CEF42 (.famax ⟨14, 59, 104, 0, 1, 0⟩) &&
    reads 0x582B0B7D (.hadd2 ⟨21, 66, 111, 1, 0, 1⟩) &&
    reads 0x593927B2 (.hmul2 ⟨28, 73, 118, 0, 1, 0⟩) &&
    reads 0x5A4743ED (.hfma2 ⟨35, 80, 125, 1, 0, 1⟩) &&
    reads 0x5B555C22 (.hmin2 ⟨42, 87, 4, 0, 1, 0⟩) &&
    reads 0x5C63785D (.hmax2 ⟨49, 94, 11, 1, 0, 1⟩) &&
    reads 0x5D719492 (.badd2 ⟨56, 101, 18, 0, 1, 0⟩) &&
    reads 0x5E7FB0CD (.bmul2 ⟨63, 108, 25, 1, 0, 1⟩) &&
    reads 0x5F8DCD02 (.bfma2 ⟨70, 115, 32, 0, 1, 0⟩) := by decide

theorem test_decode_conversions : reads 0x609BE9C6 (.cvt ⟨77, 122, 7, 0, 0, 6⟩) &&
    reads 0x61A807AE (.cvtq ⟨84, 1, 14, 11, 1, 0⟩) &&
    reads 0x62B62148 (.deq ⟨91, 8, 5, 2, 0, 0⟩) &&
    reads 0x63C43F1B (.pack ⟨98, 15, 12, 1, 1, 3⟩) &&
    reads 0x64D258C0 (.unpk ⟨105, 22, 3, 0, 0, 0⟩) &&
    reads 0x65E0740A (.tags ⟨112, 29, 10⟩) &&
    reads 0x66EE9000 (.tagr ⟨119, 36, 0, 0, 0, 0⟩) &&
    reads 0x68001408 (.sset ⟨0, 5, 0, 2, 0, 0⟩) &&
    reads 0x69000324 (.srot ⟨0, 0, 12, 9, 0, 0⟩) &&
    reads 0x6A260000 (.sget ⟨19, 0, 0, 0, 0, 0⟩) &&
    reads 0x6B00681C (.smax ⟨0, 26, 0, 7, 0, 0⟩) &&
    reads 0x707BA800 (.welf ⟨61, 106, 0, 0, 0, 0⟩) &&
    reads 0x7189C404 (.wmrg ⟨68, 113, 0, 1, 0, 0⟩) &&
    reads 0x7297E12C (.wfin ⟨75, 120, 37, 1, 0, 0⟩) := by decide

theorem test_decode_lanes_and_predicates : reads 0x80B41C04 (.vote ⟨5, 10, 7, 0, 1, 0, 0⟩) &&
    reads 0x81698404 (.ballot ⟨52, 97, 0, 1, 0, 0⟩) &&
    reads 0x8277A0AD (.shfl ⟨59, 104, 21, 1, 0, 1⟩) &&
    reads 0x8385BC1C (.shflu ⟨66, 111, 28⟩) &&
    reads 0x8493D803 (.shfld ⟨73, 118, 3⟩) &&
    reads 0x85A1F40A (.shflx ⟨80, 125, 10⟩) &&
    reads 0x86AE100E (.red ⟨87, 4, 14⟩) &&
    reads 0x87BC2C2A (.scan ⟨94, 11, 42⟩) &&
    reads 0x88CA4800 (.matchLanes ⟨101, 18, 0, 0, 0, 0⟩) &&
    reads 0x89D86404 (.wred ⟨108, 25, 0, 1, 0, 0⟩) &&
    reads 0x8BF49C14 (.bcast ⟨122, 39, 20⟩) &&
    reads 0x903B2BBC (.sel ⟨29, 74, 119, 4⟩) &&
    reads 0x9183F95C (.plog ⟨4, 1, 126, 43, 1, 0, 0⟩) &&
    reads 0x92560000 (.pget ⟨43, 0, 0, 0, 0, 0⟩) &&
    reads 0x9300C800 (.pput ⟨0, 50, 0, 0, 0, 0⟩) &&
    reads 0x94739800 (.mov ⟨57, 102, 0, 0, 0, 0⟩) &&
    reads 0x968FD10D (.rdln ⟨71, 116, 33, 1, 0, 1⟩) := by decide

theorem test_decode_memory : reads 0xAF000000 (.drains) &&
    reads 0xB0FAAAB8 (.ldl 125 42 87) &&
    reads 0xB108C6F3 (.smpl 4 49 94 3) &&
    reads 0xB216E328 (.gath4 11 56 101) &&
    reads 0xB324FF60 (.resq 18 63 108) &&
    reads 0xB4006630 (.fbck 25 70) &&
    reads 0xB5100000 (.fence 0 1) := by decide

theorem test_decode_copies_and_barriers : reads 0xC412DB00 (.cpa 9 54 3) &&
    reads 0xC5200000 (.cseal 16) &&
    reads 0xC6000007 (.cwait 7) &&
    reads 0xC7007A5C (.tbinit 30 75 1) &&
    reads 0xC84B4802 (.tbarr 37 82 0 1) &&
    reads 0xC900B2CD (.tbexp 44 89 1 0 1) &&
    reads 0xCA00CF00 (.tbwait 51 96 0) &&
    reads 0xCB75C000 (.wptr 58 7) &&
    reads 0xCC3EED80 (.strm 1 494 27 0) &&
    reads 0xCD915000 (.popq 72 5 2) &&
    reads 0xCEE00000 (.sclos 7) := by decide

theorem test_decode_matrix : reads 0xD0D8DCC8 (.mload 13 1 55 100 0) &&
    reads 0xD120CCC0 (.mma 4 1 2 3 24 0) &&
    reads 0xD25C28FC (.mmar 11 8 1 2 31 1) &&
    reads 0xD3E5F000 (.mdrain 114 31 0) &&
    reads 0xD4CC0000 (.mzero 25 1 0) &&
    reads 0xD500D800 (.mfill 0 13 2 0) &&
    reads 0xD60F0000 (.mside 7 1) &&
    reads 0xD773B800 (.mzp 14 59 1) &&
    reads 0xD80B7C00 (.mscl 0 2 111 1) := by decide

theorem test_decode_memo_and_rays : reads 0xE0D80000 (.sigb 13 2) &&
    reads 0xE1A83900 (.siga 84 1 6 0 1) &&
    reads 0xE2B70000 (.sigx 91 8 0) &&
    reads 0xE3C40000 (.sige 98) &&
    reads 0xE6000000 (.pend) &&
    reads 0xE7D80000 (.memoi 1 11) &&
    reads 0xE80ACAFC (.rqi 5 50 95 1 0) &&
    reads 0xE9003000 (.rqp 12) &&
    reads 0xEA010000 (.rqc 0 64) &&
    reads 0xEB351C00 (.rqg 26 71 0) := by decide

theorem test_decode_control : reads 0xF0B00717 (.br 5 1 1815) &&
    reads 0xF183C000 (.jmp 4 0 30) &&
    reads 0xF2700725 (.call 3 1 1829) &&
    reads 0xF3458000 (.callr 2 0 44) &&
    reads 0xF4300000 (.ret 1 1) &&
    reads 0xF5C0070D (.meet 96 1805) &&
    reads 0xF6019C00 (.meetr 103) &&
    reads 0xF7800000 (.bar 1) &&
    reads 0xF8BC0000 (.exit 5 1 3) &&
    reads 0xF9F0C000 (.rep 60 1 2) &&
    reads 0xFAD8035D (.lease 3 48 861) &&
    reads 0xFB0A0000 (.waitt 10) &&
    reads 0xFB80070A (.waittD 1802) &&
    reads 0xFC300798 (.trap 1 1 0 1944) &&
    reads 0xFD000000 (.rtt 0) &&
    reads 0xFE4C7900 (.sprw 0 76 121) &&
    reads 0xFFAA6000 (.tctl 2 339) := by decide

theorem test_decode_two_words : reads2 0xA01AEB8E 0x00059B86 (.ldg ⟨13, 58, 7, 0, 1, 6, 1435, 8, 1, 2⟩) &&
    reads2 0xA1290765 0x0005A2F1 (.stg ⟨20, 65, 6, 3, 0, 5, 1442, 15, 0, 1⟩) &&
    reads2 0xA23722DC 0x0005A96C (.lds ⟨27, 72, 5, 2, 3, 4, 1449, 6, 3, 0⟩) &&
    reads2 0xA3453E33 0x0005B0DB (.sts ⟨34, 79, 4, 1, 2, 3, 1456, 13, 2, 3⟩) &&
    reads2 0xA453598A 0x0005B746 (.ldc ⟨41, 86, 3, 0, 1, 2, 1463, 4, 1, 2⟩) &&
    reads2 0xA5617561 0x0005BEB1 (.stc ⟨48, 93, 2, 3, 0, 1, 1470, 11, 0, 1⟩) &&
    reads2 0xA66F90D8 0x0005C52C (.stcm ⟨55, 100, 1, 2, 3, 0, 1477, 2, 3, 0⟩) &&
    reads2 0xA77DAC37 0x0005CC9B (.ldb ⟨62, 107, 0, 1, 2, 7, 1484, 9, 2, 3⟩) &&
    reads2 0xA88BCB8E 0x0005D306 (.stb ⟨69, 114, 7, 0, 1, 6, 1491, 0, 1, 2⟩) &&
    reads2 0xA999E765 0x0005DA71 (.atomg ⟨76, 121, 6, 3, 0, 5, 1498, 7, 0, 1⟩) &&
    reads2 0xAAA602DC 0x0005E1EC (.atoms ⟨83, 0, 5, 2, 3, 4, 1505, 14, 3, 0⟩) &&
    reads2 0xABB41E33 0x0005E85B (.casg ⟨90, 7, 4, 1, 2, 3, 1512, 5, 2, 3⟩) &&
    reads2 0xACC2398A 0x0005EFC6 (.cass ⟨97, 14, 3, 0, 1, 2, 1519, 12, 1, 2⟩) &&
    reads2 0xADD05561 0x0005F631 (.ldk ⟨104, 21, 2, 3, 0, 1, 1526, 3, 0, 1⟩) &&
    reads2 0xAEDE70D8 0x0005FDAC (.preq ⟨111, 28, 1, 2, 3, 0, 1533, 10, 3, 0⟩) &&
    reads2 0xB64F50D8 0x0006352C (.pfch ⟨39, 84, 1, 2, 3, 0, 1589, 2, 3, 0⟩) &&
    reads2 0xC0B6E6B8 0xFA09C000 (.cpt ⟨365, 410, 7, 500, 0, 78⟩) &&
    reads2 0xC1BA6870 0xFDCAA000 (.cpto ⟨372, 417, 6, 507, 1, 85⟩) &&
    reads2 0xC2BDEA28 0x010B8000 (.cpx ⟨379, 424, 5, 2, 0, 92⟩) &&
    reads2 0xC3C16BE0 0x04CC6000 (.cpm ⟨386, 431, 4, 9, 1, 99⟩) &&
    reads2 0xE4D25984 0x74800000 (.memol ⟨105, 22, 3, 0, 0, 1, 7, 36⟩) &&
    reads2 0xE5E07520 0x1FC00000 (.memos ⟨112, 29, 2, 0, 1, 1, 126⟩) &&
    reads2 0xEC6F6A00 0x00000015 (.emit ⟨0, 6, 123, 40, 21⟩) := by decide

/-! ### What WellFormed refuses, a term for each check -/

def refuses (l : List Instr) : Bool := l.all fun i => !i.wf

theorem test_wf_word_formats : refuses [.iabs ⟨1, 2, 3, 0, 0, 0⟩, .fsqrt ⟨1, 2, 0, 0, 1, 0⟩, .mov ⟨1, 2, 0, 0, 0, 1⟩, .wfin ⟨1, 2, 2, 0, 0, 0⟩,
    .ballot ⟨1, 8, 0, 0, 0, 0⟩, .pget ⟨1, 1, 0, 0, 0, 0⟩, .pput ⟨1, 1, 0, 0, 0, 0⟩, .rdln ⟨1, 1, 2, 0, 0, 0⟩, .shli ⟨1, 2, 32⟩, .ashl ⟨1, 2, 64⟩,
    .frnd ⟨1, 2, 4⟩, .tags ⟨1, 2, 16⟩, .red ⟨1, 2, 6⟩, .red ⟨1, 2, 32⟩, .red ⟨1, 2, 24⟩, .scan ⟨1, 2, 64⟩, .movh ⟨1, 65536⟩] = true := by decide

theorem test_wf_predicates : refuses [.icmp ⟨0, 6, 1, 2, 0, 0, 0⟩, .icmpi ⟨0, 13, 1, 2⟩, .vote ⟨0, 3, 1, 0, 0, 0, 0⟩, .vote ⟨0, 0, 8, 0, 0, 0, 0⟩,
    .plog ⟨0, 6, 1, 2, 0, 0, 0⟩, .plog ⟨0, 0, 8, 2, 0, 0, 0⟩, .plog ⟨0, 0, 1, 8, 0, 0, 0⟩, .plog ⟨0, 4, 1, 2, 0, 0, 0⟩] = true := by decide

theorem test_wf_conversions : refuses [.cvt ⟨1, 2, 0, 0, 0, 0⟩, .cvt ⟨1, 2, 3, 0, 0, 7⟩, .cvt ⟨1, 2, 1, 0, 1, 0⟩, .cvt ⟨1, 2, 2, 1, 0, 1⟩,
    .pack ⟨1, 2, 3, 0, 0, 0⟩, .pack ⟨1, 2, 6, 0, 1, 0⟩, .pack ⟨1, 2, 8, 1, 1, 0⟩, .unpk ⟨1, 2, 4, 1, 0, 0⟩, .unpk ⟨1, 2, 10, 0, 0, 0⟩,
    .cvtq ⟨1, 2, 5, 0, 0, 0⟩, .cvtq ⟨1, 2, 8, 0, 1, 0⟩, .deq ⟨1, 2, 6, 0, 0, 1⟩, .sset ⟨1, 2, 0, 0, 0, 0⟩, .srot ⟨0, 0, 5, 0, 0, 0⟩,
    .sget ⟨1, 1, 0, 0, 0, 0⟩, .smax ⟨1, 2, 0, 0, 0, 0⟩] = true := by decide

theorem test_wf_memory : refuses [.ldg ⟨8, 2, 6, 0, 0, 0, 0, 0, 0, 0⟩, .ldg ⟨8, 2, 2, 2, 0, 0, 0, 0, 0, 0⟩, .ldg ⟨8, 2, 2, 0, 0, 1, 0, 0, 0, 0⟩,
    .ldg ⟨8, 2, 2, 0, 0, 0, 0, 0, 2, 0⟩, .ldg ⟨8, 2, 0, 0, 0, 0, 0, 2, 0, 0⟩, .ldg ⟨8, 2, 2, 0, 0, 0, 0, 1, 0, 0⟩, .stg ⟨8, 2, 2, 1, 0, 0, 0, 0, 0, 0⟩,
    .lds ⟨8, 2, 2, 0, 1, 0, 0, 0, 0, 0⟩, .lds ⟨8, 2, 2, 0, 0, 0, 0, 0, 0, 1⟩, .ldc ⟨8, 2, 2, 0, 0, 0, 0, 0, 0, 2⟩, .ldb ⟨8, 2, 1, 0, 0, 0, 0, 0, 0, 0⟩,
    .atomg ⟨8, 2, 2, 0, 0, 0, 0, 15, 0, 0⟩, .atomg ⟨8, 2, 3, 0, 0, 0, 0, 0, 0, 0⟩, .atoms ⟨8, 2, 2, 0, 0, 0, 0, 14, 0, 0⟩,
    .casg ⟨8, 2, 4, 0, 0, 0, 0, 0, 0, 0⟩, .preq ⟨0, 2, 0, 0, 0, 0, 0, 0, 0, 0⟩, .preq ⟨1, 2, 0, 1, 0, 0, 0, 0, 0, 0⟩, .pfch ⟨0, 2, 1, 0, 0, 0, 0, 0, 0, 0⟩] =
    true := by decide

theorem test_wf_own_formats : refuses [.cpt ⟨0, 0, 0, 1, 1, 0⟩, .cpto ⟨0, 0, 0, 0, 0, 1⟩, .cpx ⟨0, 0, 0, 1, 1, 0⟩, .memol ⟨0, 0, 0, 1, 1, 0, 0, 0⟩,
    .memol ⟨0, 0, 0, 0, 0, 0, 0, 1⟩, .memos ⟨0, 0, 1, 1, 0, 0, 0⟩, .memos ⟨0, 0, 0, 0, 0, 0, 1⟩, .smpl 1 2 3 3, .fence 0 0, .cpa 1 2 3, .strm 0 0 0 0,
    .mma 0 0 0 6 0 0, .mma 0 0 0 2 0 1, .mmar 0 0 1 0 8 0, .mload 0 0 0 1 0, .mside 1 1, .mscl 0 0 0 1, .mscl 1 16 0 0, .siga 0 0 5 0 0, .siga 1 0 0 0 1,
    .sigx 0 1 1, .memoi 0 1, .exit 0 0 2, .lease 0 1 0, .lease 2 0 1, .lease 3 0 1, .rtt 3] = true := by decide

theorem test_wf_commands : refuses [.partition ⟨0, false, false, false⟩ 0 0 false 0 0 0 0, .partition ⟨0, false, false, false⟩ 0 0 false 101 0 0 0,
    .launchGraph ⟨0, false, false, false⟩ 0 0 0 0 0, .launchGraph ⟨0, false, false, false⟩ 0 65 0 0 0] = true := by decide

theorem test_reserved_bits_refused : decodeWord 0x00000000 none = .ok (.iadd ⟨0, 0, 0, 0, 0, 0⟩) ∧
    decodeWord 0xF9000001 none = .error (.reservedField 0xF9) ∧ decodeWord 0x38000000 none = .ok .illegalOpcode ∧
    decodeWord 0xC0000001 (some 0) = .error (.reservedField 0xC0) ∧ decodeWord 0xA0000000 none = .error (.secondWordMissing 0xA0) := by decide

/-! ### One step, on the state that holds one word -/

/-- What the thread holds after a step. -/
def after (s : State) (f : Thread → Nat) : Option Nat :=
  match step s with
  | .next s' => some (f ((s'.teams.headD (team)).thread 0 0))
  | _ => none
def thread0 (s : State) (f : Thread → Thread) : State :=
  { s with teams := s.teams.map fun t => { t with warps := t.warps.map fun w => { w with threads := w.threads.map f } } }
def vals (l : List Word) (th : Thread) : Thread := { th with v := l.map fun x => ({ val := x } : Reg) }
def word (w : Nat) (l : List Word) : State := thread0 (State.reset.withFetchWord 32 w) (vals (l ++ List.replicate 8 0))

/-- IADD v4, v2, v3 wraps (R169). -/
theorem test_step_iadd : after (word 0x00080818 [0, 0, 0xFFFFFFFF, 2]) (fun th => (th.v.getD 4 {}).val.toNat) = some 1 := by decide
/-- ISUB v4, v2, v3 borrows (R169). -/
theorem test_step_isub : after (word 0x01080818 [0, 0, 2, 3]) (fun th => (th.v.getD 4 {}).val.toNat) = some 0xFFFFFFFF := by decide
/-- FADD v4, v2, v3: 1.5 + 2.25 = 3.75 (R173). -/
theorem test_step_fadd : after (word 0x40080818 [0, 0, 0x3FC00000, 0x40100000]) (fun th => (th.v.getD 4 {}).val.toNat) = some 0x40700000 := by decide
/-- TRAP 0x12, the word that R381 gives, enters the handler with cause 0x14. -/
theorem test_step_trap : after (word 0xFCE00012 []) (fun th => th.tinfo0.toNat % 256) = some 0x14 := by decide
/-- An unassigned opcode is cause 0x01 (R108). -/
theorem test_step_illegal : after (word 0x38000000 []) (fun th => th.tinfo0.toNat % 256) = some 1 := by decide

end Sys2Proof.Tests
end

namespace Sys2Proof.Machine

/-! ### Lists and clusters -/

/-- Updating a list at an index is a map over the elements with their indices. -/
theorem zipIdx_map_ite {α : Type} (l : List α) (f : α → α) (i k : Nat) :
    (l.zipIdx k).map (fun (c, n) => if n = k + i then f c else c) = updAt l i f := by
  induction l generalizing i k with
  | nil => rfl
  | cons c l ih =>
    cases i with
    | zero =>
      have later : ∀ p ∈ l.zipIdx (k + 1), (if p.2 = k then f p.1 else p.1) = p.1 := fun p hp => by
        have := List.le_snd_of_mem_zipIdx hp
        rw [if_neg (by omega)]
      simp [updAt, List.map_congr_left later]
    | succ i => simpa [updAt, Nat.add_assoc, Nat.add_comm 1 i] using ih i (k + 1)

theorem updAt_updAt {α : Type} (l : List α) (i : Nat) (f g : α → α) :
    updAt (updAt l i f) i g = updAt l i fun x => g (f x) := by
  induction l generalizing i with
  | nil => rfl
  | cons c l ih => cases i <;> simp [updAt, ih]

theorem updAt_congr {α : Type} {l : List α} {i : Nat} {f g : α → α} (d : α) (h : f (l.getD i d) = g (l.getD i d)) :
    updAt l i f = updAt l i g := by
  induction l generalizing i with
  | nil => rfl
  | cons c l ih =>
    cases i with
    | zero => simpa [updAt] using h
    | succ i => simpa [updAt] using ih h

theorem State.hereTo_eq (s : State) (f : Cluster → Cluster) : s.hereTo f = s.updCluster s.target.cl f := by
  have := zipIdx_map_ite s.clusters f s.target.cl 0
  simp only [Nat.zero_add] at this
  simp only [State.hereTo, State.updCluster, this]

theorem State.updCluster_updCluster (s : State) (cl : Nat) (f g : Cluster → Cluster) :
    (s.updCluster cl f).updCluster cl g = s.updCluster cl fun c => g (f c) := by
  simp only [State.updCluster, updAt_updAt]

/-- Two updates of a cluster agree when they agree on what stands there. -/
theorem State.updCluster_congr {s : State} {cl : Nat} {f g : Cluster → Cluster} (h : f (s.cluster cl) = g (s.cluster cl)) :
    s.updCluster cl f = s.updCluster cl g := by
  simp only [State.updCluster, updAt_congr ({} : Cluster) h]

theorem State.cluster_updCluster {s : State} {cl : Nat} (h : cl < s.clusters.length) (f : Cluster → Cluster) :
    (s.updCluster cl f).cluster cl = f (s.cluster cl) := by
  simp only [State.cluster, State.updCluster, updAt_getD, h, and_self, if_true]

/-- What every update of a cluster keeps stays as it was. -/
theorem State.cluster_updCluster_of {α : Type} (g : Cluster → α) {f : Cluster → Cluster} (hf : ∀ c, g (f c) = g c)
    (s : State) (cl n : Nat) : g ((s.updCluster cl f).cluster n) = g (s.cluster n) := by
  simp only [State.cluster, State.updCluster, updAt_getD]
  split
  · exact hf _
  · rfl

end Sys2Proof.Machine

namespace Sys2Proof.Machine

/-! ### What placing, saving and memory leave alone -/

/-- The part of a state that commands, starts and the timer alone change: the timer, the target of the turn, and what the
contexts' entries say but for the pool pages in use, which snapshots take (R51). -/
structure Frame where
  timer : Timer
  target : Target
  entry : Nat → Context

def State.frame (s : State) : Frame := ⟨s.timer, s.target, fun n => { s.context n with used := 0 }⟩

/-- A fold keeps the frame when each step does. -/
theorem foldl_frame {α : Type} {f : State → α → State} (h : ∀ s a, (f s a).frame = s.frame) (l : List α) (s : State) :
    (l.foldl f s).frame = s.frame := foldl_of_step State.frame f h l s

theorem State.ite_frame {c : Prop} [Decidable c] {a b s : State} (ha : a.frame = s.frame) (hb : b.frame = s.frame) :
    (if c then a else b).frame = s.frame := by
  split
  · exact ha
  · exact hb

theorem State.getD_frame {o : Option State} {d s : State} (h : ∀ s', o = some s' → s'.frame = s.frame) (hd : d.frame = s.frame) :
    (o.getD d).frame = s.frame := by
  cases o with
  | none => exact hd
  | some s' => exact h s' rfl

theorem State.frame_of_fst {α : Type} {p : State × α} {s s1 : State} {x : α} (h : p = (s1, x)) (hp : p.1.frame = s.frame) :
    s1.frame = s.frame := by
  subst h
  exact hp

theorem State.context_id (s : State) (n : Nat) : (s.context n).id = n := by
  unfold State.context
  cases h : s.contexts.find? (·.id == n) with
  | none => rfl
  | some c => simpa using List.find?_some h

/-- The entry of `n` after an update of the entries that keeps their numbers. -/
theorem find?_map_entry (l : List Context) (n : Nat) {f : Context → Context} (hf : ∀ c, (f c).id = c.id) :
    (l.map f).find? (·.id == n) = (l.find? (·.id == n)).map f := by
  rw [List.find?_map]
  simp only [Function.comp_def, hf]

theorem State.context_updContext (s : State) (id n : Nat) (f : Context → Context) (hf : ∀ c, (f c).id = c.id) :
    (s.updContext id f).context n = if n = id then f (s.context n) else s.context n := by
  have id_of {c : Context} (h : s.contexts.find? (·.id == n) = some c) : c.id = n := by simpa using List.find?_some h
  unfold State.updContext
  split
  next known =>
    have hg (c : Context) : (if c.id == id then f c else c).id = c.id := by split <;> simp [hf]
    simp only [State.context, find?_map_entry _ n hg]
    cases h : s.contexts.find? (·.id == n) with
    | some c => simp [id_of h]
    | none =>
      have other : n ≠ id := by
        rintro rfl
        obtain ⟨c, hc, e⟩ := List.any_eq_true.1 known
        exact absurd e (List.find?_eq_none.1 h c hc)
      simp [other]
  next unknown =>
    simp only [State.context, List.find?_cons, hf]
    by_cases h : id = n
    · subst h
      have : s.contexts.find? (·.id == id) = none := by simpa using unknown
      simp [this]
    · have other : (id == n) = false := by simpa using h
      simp [other, Ne.symm h]

theorem State.updContext_frame (s : State) (id : Nat) (f : Context → Context) (hf : ∀ c, (f c).id = c.id)
    (h : ∀ c, { f c with used := 0 } = { c with used := 0 }) : (s.updContext id f).frame = s.frame := by
  have entry (n : Nat) : { (s.updContext id f).context n with used := 0 } = { s.context n with used := 0 } := by
    rw [State.context_updContext s id n f hf]
    split
    · exact h _
    · rfl
  have rest : (s.updContext id f).timer = s.timer ∧ (s.updContext id f).target = s.target := by
    unfold State.updContext
    split <;> exact ⟨rfl, rfl⟩
  simp only [State.frame, rest, entry]

/-! #### Single updates -/

theorem State.fresh_frame (s : State) : s.fresh.1.frame = s.frame := rfl
theorem State.withFree_frame (s : State) (n : Nat) : ({ s with free := n } : State).frame = s.frame := rfl
theorem State.withOps_frame (s : State) (ls : List LoadOp) (ss : List StoreOp) :
    ({ s with loads := ls, stores := ss } : State).frame = s.frame := rfl
theorem State.updTeam_frame (s : State) (id : Nat) (f : Team → Team) : (s.updTeam id f).frame = s.frame := rfl
theorem State.updThread_frame (s : State) (tm w l : Nat) (f : Thread → Thread) : (s.updThread tm w l f).frame = s.frame := rfl
theorem State.updCluster_frame (s : State) (cl : Nat) (f : Cluster → Cluster) : (s.updCluster cl f).frame = s.frame := rfl
theorem State.updCore_frame (s : State) (cl co : Nat) (f : Core → Core) : (s.updCore cl co f).frame = s.frame := rfl
theorem State.writeScratch_frame (s : State) (tm a : Nat) (bs : List Byte) : (s.writeScratch tm a bs).frame = s.frame := rfl

theorem State.dropCohort_frame (s : State) (k : Ticket) : (s.dropCohort k).frame = s.frame := rfl

/-! #### Threads and traps -/

theorem State.unbundle_frame (s : State) (tm w l : Nat) : (s.unbundle tm w l).frame = s.frame := by
  unfold State.unbundle
  split <;> rfl

theorem State.dissolve_frame (s : State) (tm : Nat) : (s.dissolve tm).frame = s.frame := by
  unfold State.dissolve
  split <;> rfl

theorem State.arrive_frame (s : State) (tm w l hdr : Nat) : (s.arrive tm w l hdr).frame = s.frame := by
  unfold State.arrive
  split
  · rfl
  · exact s.unbundle_frame tm w l

theorem State.advance_frame (s : State) (tm w l len : Nat) (cnt : Option Nat) :
    (s.advance tm w l len cnt).frame = s.frame := by
  simp only [State.advance]
  split
  · rfl
  · exact s.arrive_frame _ _ _ _

theorem State.releaseBarrier_frame (s : State) (tm : Nat) (cohort : Bool) : (s.releaseBarrier tm cohort).frame = s.frame := by
  unfold State.releaseBarrier
  split
  · rfl
  · refine foldl_frame (fun s m => ?_) _ s
    simp only
    split
    · exact State.advance_frame _ _ _ _ _ _
    · rfl

theorem State.settleBarC_frame (s : State) (tm : Nat) : (s.settleBarC tm).frame = s.frame := by
  unfold State.settleBarC
  split
  · rfl
  · simp only
    split
    · refine foldl_frame (fun s u => ?_) _ s
      exact s.releaseBarrier_frame u.id true
    · rfl

theorem State.dropVictims_frame (s : State) (t : Team) : (s.dropVictims t).frame = s.frame := by
  unfold State.dropVictims
  split <;> rfl

theorem State.killTeam_frame (s : State) (tm : Nat) : (s.killTeam tm).frame = s.frame := by
  unfold State.killTeam
  split
  · rfl
  · refine (foldl_frame (fun s (u : Team) => s.settleBarC_frame u.id) _ _).trans ?_
    exact (State.dropVictims_frame _ _).trans (s.dissolve_frame tm)

theorem State.takeTrap_frame (s : State) (tm w l : Nat) (ti : TrapInfo) : (s.takeTrap tm w l ti).frame = s.frame := by
  unfold State.takeTrap
  split
  · rfl
  · split
    · rfl
    · simp only
      split
      · exact State.killTeam_frame _ _
      · exact State.unbundle_frame _ _ _ _

theorem Issue.pairTrap_frame (iss : Issue) (traps : List ((Nat × Nat) × Nat × Word)) (m : Nat × Nat) (cause : Nat) (s : State) :
    (iss.pairTrap traps m cause s).frame = s.frame := by
  unfold Issue.pairTrap
  split
  · rfl
  · simp only
    split_ifs <;> rfl

theorem State.acquire_frame (s : State) (tm w l : Nat) : (s.acquire tm w l).frame = s.frame :=
  foldl_frame (fun s x => s.updThread_frame tm w x _) _ s

theorem State.releaseSlot_frame (s : State) (tm w : Nat) : (s.releaseSlot tm w).frame = s.frame := by
  unfold State.releaseSlot
  split
  · rfl
  · split
    · split <;> rfl
    · rfl

end Sys2Proof.Machine

namespace Sys2Proof.Machine

/-! #### Faults, translation and stores -/

theorem State.joinFault_frame (s : State) (ctx va base size watch acc : Nat) (ws : List Waiter) :
    (s.joinFault ctx va base size watch acc ws).1.frame = s.frame := by
  unfold State.joinFault
  split
  · rfl
  · split <;> rfl

theorem State.joinOrWait_frame (s : State) (ctx va base size watch acc : Nat) (w : Waiter) :
    (s.joinOrWait ctx va base size watch acc w).frame = s.frame := by
  unfold State.joinOrWait
  simp only
  split <;> exact s.joinFault_frame ctx va base size watch acc [w]

theorem State.translate_frame (s : State) (cl co ctx : Nat) (priv : Bool) (a : Acc) (va : Nat) :
    (s.translate cl co ctx priv a va).1.frame = s.frame := by
  unfold State.translate
  split
  · rfl
  · simp only
    split
    next e _ => split_ifs <;> rfl
    next =>
      split
      next x base size range ls _ =>
        have marks (ends : List (Nat × Nat)) : (ends.foldl (fun s y => s.raiseMark y.1 y.2) s).frame = s.frame :=
          foldl_frame (f := fun s y => s.raiseMark y.1 y.2) (fun _ _ => rfl) ends s
        split_ifs <;> exact marks _
      all_goals rfl

theorem State.appendRecord_frame (s : State) (tm : Nat) (r : SfRecord) : (s.appendRecord tm r).1.frame = s.frame := by
  unfold State.appendRecord
  split
  · rfl
  · split <;> rfl

theorem State.storeProtected_frame (s : State) (o : StoreOp) : (s.storeProtected o).frame = s.frame := by
  unfold State.storeProtected
  split
  · rfl
  · split
    next h => exact (frame_of_fst h (s.appendRecord_frame _ _) :)
    next h =>
      have kept := frame_of_fst h (s.appendRecord_frame _ _)
      split <;> exact kept

theorem State.holdStore_frame (s : State) (o : StoreOp) (b n w : Nat) : (s.holdStore o b n w).frame = s.frame :=
  s.joinOrWait_frame o.ctx o.va b n w 1 (.store o.id)

theorem State.translateStore_frame (s : State) (o : StoreOp) : (s.translateStore o).frame = s.frame := by
  unfold State.translateStore
  simp only
  split
  · exact s.holdStore_frame _ _ _ _
  · split
    next h => exact (State.holdStore_frame _ _ _ _ _).trans (frame_of_fst h (s.translate_frame ..))
    next h => exact (State.storeProtected_frame _ _).trans (frame_of_fst h (s.translate_frame ..))
    next h => exact (frame_of_fst h (s.translate_frame ..) :)
    next h =>
      have moved := frame_of_fst h (s.translate_frame ..)
      split
      · exact (State.storeProtected_frame _ _).trans moved
      · split <;> exact moved

theorem State.translateStep_frame (s : State) (o : StoreOp) : (s.translateStep o).frame = s.frame := by
  unfold State.translateStep
  split
  · split
    · exact s.translateStore_frame o
    · rfl
  · exact s.storeProtected_frame o
  · rfl

/-! #### Performing at home -/

theorem State.writeHome_frame (s : State) (x : Xlat) (bs : List Byte) : (s.writeHome x bs).frame = s.frame := by
  unfold State.writeHome
  simp only
  split <;> rfl

theorem State.noteGwct_frame (s : State) (tm w l g : Nat) : (s.noteGwct tm w l g).frame = s.frame :=
  foldl_frame (fun s x => s.updThread_frame tm w x _) _ s

theorem State.copyParts_frame (s : State) (pool parts : List (Nat × Nat)) : (s.copyParts pool parts).frame = s.frame := by
  refine foldl_frame (fun s p => ?_) _ s
  split <;> rfl

/-- A snapshot takes a page of its context's pool, and nothing else of the entry changes (R51). -/
theorem State.beforeWrite_frame (s : State) (launch va : Nat) : (s.beforeWrite launch va).frame = s.frame := by
  have taken (s : State) (ctx : Nat) : (s.updContext ctx fun c => { c with used := c.used + 1 }).frame = s.frame :=
    s.updContext_frame ctx _ (fun _ => rfl) fun _ => rfl
  unfold State.beforeWrite
  split
  · rfl
  · simp only
    split
    · split
      · split
        · rfl
        · exact s.copyParts_frame _ _
      · split
        · exact (taken _ _).trans (s.copyParts_frame _ _)
        · rfl
    · rfl

theorem State.performPlain_frame (s : State) (o : StoreOp) (data : List Byte) : (s.performPlain o data).frame = s.frame := by
  have before : ((s.dropStore o.id).beforeWrite o.launch o.va).frame = s.frame := State.beforeWrite_frame _ _ _
  unfold State.performPlain
  simp only
  split
  · split
    · exact (State.noteGwct_frame _ _ _ _ _).trans before
    · exact before
  · exact ((State.noteGwct_frame _ _ _ _ _).trans (State.writeHome_frame _ _ _)).trans before

theorem State.performAtom_frame (s : State) (o : StoreOp) : (s.performAtom o).frame = s.frame := by
  have before : ((s.dropStore o.id).beforeWrite o.launch o.va).frame = s.frame := State.beforeWrite_frame _ _ _
  unfold State.performAtom
  simp only
  split
  · rfl
  · split
    · exact before
    · exact ((State.noteGwct_frame _ _ _ _ _).trans (State.writeHome_frame _ _ _)).trans before

theorem State.homeStep_frame (s : State) (o : StoreOp) : (s.homeStep o).frame = s.frame := by
  unfold State.homeStep
  split
  · rfl
  · split
    · split
      · exact s.performPlain_frame _ _
      · rfl
    · simp only
      split
      · rfl
      · split
        · exact foldl_frame (fun s (x : StoreOp) => s.performAtom_frame x) _ s
        · rfl

/-! #### Loads -/

theorem State.grant_frame (s : State) (m : Miss) (cl co tacq : Nat) : (s.grant m cl co tacq).1.frame = s.frame := by
  unfold State.grant
  simp only
  split
  · rfl
  · split_ifs <;> rfl

theorem State.fill_frame (s : State) (cl co : Nat) (m : Miss) : (s.fill cl co m).frame = s.frame := by
  unfold State.fill
  simp only
  exact State.ite_frame (State.grant_frame s _ cl co _) (State.grant_frame s _ cl co _)

theorem State.noteMiss_frame (s : State) (tm w cl co slot key : Nat) : (s.noteMiss tm w cl co slot key).frame = s.frame := by
  unfold State.noteMiss
  split
  · rfl
  · simp only
    split <;> rfl

theorem State.takeMiss_frame (s : State) (tm w slot cl co cls : Nat) (ldk : Bool) (x : Xlat) :
    (s.takeMiss tm w slot cl co cls ldk x).1.frame = s.frame := by
  unfold State.takeMiss
  simp only
  split
  · rfl
  · split
    · rfl
    · exact State.noteMiss_frame _ _ _ _ _ _ _

theorem State.lookup_frame (s : State) (o : LoadOp) (slot : Nat) : (s.lookup o slot).1.frame = s.frame := by
  unfold State.lookup
  simp only
  split
  · rfl
  · split
    next h => exact frame_of_fst h (s.takeMiss_frame ..)
    next h => exact frame_of_fst h (s.takeMiss_frame ..)

theorem State.retryLoad_frame (s : State) (o : LoadOp) : (s.retryLoad o).frame = s.frame := by
  unfold State.retryLoad
  simp only
  split
  next h => exact (frame_of_fst h (s.lookup_frame ..) :)
  next h => exact frame_of_fst h (s.lookup_frame ..)

theorem State.startRefill_frame (s : State) (o : LoadOp) : (s.startRefill o).frame = s.frame := by
  unfold State.startRefill
  simp only
  split
  · rfl
  · split
    next h =>
      have moved := frame_of_fst h (s.translate_frame ..)
      split
      next h1 => exact (frame_of_fst h1 (State.joinFault_frame ..)).trans moved
      next h1 => exact (frame_of_fst h1 (State.joinFault_frame ..)).trans moved
    next h => exact (frame_of_fst h (s.translate_frame ..) :)
    next h => exact (frame_of_fst h (s.translate_frame ..) :)
    next h => exact (State.retryLoad_frame _ _).trans (frame_of_fst h (s.translate_frame ..) :)

theorem State.landRefill_frame (s : State) (o : LoadOp) (ws : List (Word × Tag)) : (s.landRefill o ws).frame = s.frame := by
  unfold State.landRefill
  simp only
  split <;> rfl

theorem State.landLoad_frame (s : State) (o : LoadOp) (ws : List (Word × Tag)) (pv : Option Bool) :
    (s.landLoad o ws pv).frame = s.frame := by
  unfold State.landLoad
  refine State.ite_frame (State.releaseSlot_frame _ _ _) ?_
  split
  · exact State.acquire_frame _ _ _ _
  · rfl

theorem State.loadStep_frame (s : State) (o : LoadOp) : (s.loadStep o).frame = s.frame := by
  unfold State.loadStep
  split
  · exact s.retryLoad_frame o
  · split
    · exact s.startRefill_frame o
    · rfl
  · split
    · exact s.landRefill_frame _ _
    · exact s.landLoad_frame _ _ _
  · rfl

/-! #### Matrix operations -/

theorem State.setMxAll_frame {α : Type} (tm : Nat) (m : α → Nat × Nat) (f : α → MxFlags) (l : List α) (s : State) :
    (l.foldl (fun s a => s.setMx tm (m a) (f a)) s).frame = s.frame :=
  foldl_frame (f := fun s a => s.setMx tm (m a) (f a)) (fun _ _ => rfl) l s

theorem State.execMma_frame (s : State) (t : Team) (tile plane : Nat) (rows : List ARow) (zp int red : Bool) :
    (s.execMma t tile plane rows zp int red).frame = s.frame := by
  unfold State.execMma
  simp only
  split
  · rfl
  · exact State.setMxAll_frame _ _ _ _ _

theorem State.refullLoad_frame (s : State) (id : Nat) : (s.refullLoad id).frame = s.frame := by
  unfold State.refullLoad
  split <;> rfl

theorem State.drainRow_frame (s : State) (op : MatOp) (t : Team) (cl co tile group : Nat) (pair : Bool) (tag : Tag)
    (bad : List (Nat × Nat)) (m : Nat × Nat) (load : Nat) :
    (s.drainRow op t cl co tile group pair tag bad m load).frame = s.frame := by
  unfold State.drainRow
  simp only
  split
  · split
    · exact s.refullLoad_frame load
    · exact ((State.takeTrap_frame _ _ _ _ _).trans (Issue.pairTrap_frame _ _ _ _ _)).trans (s.refullLoad_frame load)
  · split
    · exact State.advance_frame _ _ _ _ _ _
    · rfl

theorem State.runMat_frame (s : State) (cl co : Nat) (op : MatOp) (t : Team) : (s.runMat cl co op t).frame = s.frame := by
  unfold State.runMat
  cases op.work with
  | mload =>
    simp only
    split
    · exact State.setMxAll_frame _ id _ _ _
    · rfl
  | mma => exact s.execMma_frame _ _ _ _ _ _ _
  | mdrain =>
    simp only
    split
    · rfl
    · refine foldl_frame (fun s x => ?_) _ s
      exact s.drainRow_frame ..
  | _ => rfl

theorem State.matStep_frame (s : State) (cl co q : Nat) : (s.matStep cl co q).frame = s.frame := by
  unfold State.matStep
  split
  · rfl
  · simp only
    split
    · rfl
    · split
      · split <;> rfl
      · refine (State.runMat_frame _ _ _ _ _).trans ?_
        split <;> rfl

/-! #### Saving -/

theorem State.pumpOnce_frame (s : State) (tm cl co : Nat) : (s.pumpOnce tm cl co).frame = s.frame := by
  unfold State.pumpOnce
  simp only
  refine (foldl_frame (fun s o => ?_) _ _).trans ?_
  · split
    · exact State.loadStep_frame _ _
    · rfl
  have mat (s : State) : (if s.matWork tm cl co then [0, 1, 2, 3].foldl (fun s q => s.matStep cl co q) s else s).frame
      = s.frame := by
    split
    · exact foldl_frame (fun s q => s.matStep_frame cl co q) _ s
    · rfl
  refine (mat _).trans ((foldl_frame (fun s m => ?_) _ _).trans ((foldl_frame (fun s o => ?_) _ _).trans
    (foldl_frame (fun s o => ?_) _ _)))
  · split
    · exact State.fill_frame _ _ _ _
    · rfl
  · split
    · exact State.homeStep_frame _ _
    · rfl
  · split
    · exact State.translateStep_frame _ _
    · rfl

theorem State.pump_frame (s : State) (tm cl co n : Nat) : (s.pump tm cl co n).frame = s.frame := by
  induction n generalizing s with
  | zero => rfl
  | succ n ih => exact (ih _).trans (s.pumpOnce_frame tm cl co)

theorem State.saveOne_frame (s : State) (tm cl co : Nat) (dest : Place) : (s.saveOne tm cl co dest).frame = s.frame := by
  unfold State.saveOne
  split
  · rfl
  · refine State.ite_frame rfl ?_
    simp only [State.updTeam_frame, State.updCore_frame, State.updCluster_frame, State.fresh_frame, State.noteMissing]

theorem State.trySave_frame (s : State) (tm : Nat) : (s.trySave tm).frame = s.frame := by
  unfold State.trySave
  split
  · rfl
  · simp only
    have pumped (us : List Team) : (us.foldl (fun (s : State) (u : Team) => match u.at? with
        | some (cl, co) => s.pump u.id cl co (s.pumpRounds u.id cl co)
        | none => s) s).frame = s.frame := by
      refine foldl_frame (fun s u => ?_) _ _
      split
      · exact State.pump_frame _ _ _ _ _
      · rfl
    split
    · exact pumped _
    · refine (foldl_frame (fun s u => ?_) _ _).trans (pumped _)
      split
      · exact State.saveOne_frame _ _ _ _ _
      · rfl

theorem State.saveUnit_frame (s : State) (t : Team) (dest : Nat → Place) : (s.saveUnit t dest).1.frame = s.frame := by
  unfold State.saveUnit
  simp only
  split
  · rfl
  · refine (State.trySave_frame _ _).trans (foldl_frame (fun s u => ?_) _ _)
    split
    · exact s.dissolve_frame u.id
    · rfl

theorem State.preempt_frame (s : State) (cl : Nat) (out : Team → Bool) : (s.preempt cl out).frame = s.frame := by
  refine foldl_frame (fun s t => ?_) _ s
  split
  · split
    · exact State.saveUnit_frame _ _ _
    · rfl
  · rfl

theorem State.enforceMask_frame (s : State) (cl : Nat) : (s.enforceMask cl).frame = s.frame := s.preempt_frame cl _

/-! #### Placing -/

theorem State.beginTurn_frame (s : State) (cl ctx : Nat) : (s.beginTurn cl ctx).frame = s.frame := by
  refine foldl_frame (fun s co => ?_) _ _
  split <;> rfl

theorem State.takeTurn_frame (s : State) (cl : Nat) : (s.takeTurn cl).1.frame = s.frame := by
  unfold State.takeTurn
  simp only
  split
  · split
    · rfl
    · split
      · exact s.beginTurn_frame cl _
      · rfl
  · split
    · exact s.beginTurn_frame cl _
    · rfl

theorem State.placeTeam_frame (s : State) (tm cl co : Nat) (a : Assign) : (s.placeTeam tm cl co a).frame = s.frame := by
  unfold State.placeTeam
  split
  · rfl
  · simp only
    split <;> simp only [State.updTeam_frame, State.updCore_frame, State.writeScratch_frame, State.loadRoot,
      State.withFree_frame, State.fresh_frame]

theorem State.resumeTeam_frame (s : State) (tm cl co : Nat) (a : Assign) : (s.resumeTeam tm cl co a).frame = s.frame := by
  unfold State.resumeTeam
  split
  · rfl
  · simp only [State.updTeam_frame, State.withOps_frame, State.updCluster_frame, State.updCore_frame, State.loadRoot,
      State.fresh_frame]

theorem State.settle_frame (s : State) (tm cl co : Nat) (a : Assign) : (s.settle tm cl co a).frame = s.frame := by
  have resumed (t : Team) : (if t.savedBad then s.machineCheck t.launch 0x18 else s.resumeTeam tm cl co a).frame = s.frame :=
    State.ite_frame rfl (s.resumeTeam_frame tm cl co a)
  unfold State.settle
  split
  · split
    · exact resumed _
    · exact resumed _
    · exact s.placeTeam_frame tm cl co a
    · rfl
  · rfl

theorem startAll_frame (cl : Nat) (gs : List (List Team)) (s : State) : (startAll cl gs s).frame = s.frame := by
  have group (g : List Team) (s : State) : (g.foldl (fun s t => s.startTeam t.id cl) s).frame = s.frame :=
    foldl_frame (f := fun (s : State) (t : Team) => s.startTeam t.id cl) (fun _ _ => rfl) g s
  induction gs generalizing s with
  | nil => rfl
  | cons g gs ih =>
    exact State.ite_frame ((ih _).trans (group g s)) (State.ite_frame (group g s) rfl)

theorem State.rampStart_frame (s : State) (cl : Nat) : (s.rampStart cl).frame = s.frame := startAll_frame cl _ s

theorem State.tryCore_frame {s s' : State} {tm cl co : Nat} (h : s.tryCore tm cl co = some s') : s'.frame = s.frame := by
  unfold State.tryCore State.give at h
  split at h
  · simp at h
  · split at h
    · simp at h
    · simp only [Option.map_eq_some_iff] at h
      obtain ⟨a, -, rfl⟩ := h
      exact (State.rampStart_frame _ cl).trans (s.settle_frame _ cl co a)

theorem State.findCore_frame {s s' : State} {tm cl : Nat} {cores : List Nat}
    (h : (cores.findSome? fun co => s.tryCore tm cl co) = some s') : s'.frame = s.frame := by
  obtain ⟨co, -, placed⟩ := List.exists_of_findSome?_eq_some h
  exact tryCore_frame placed

theorem State.clearResvOf_frame (s : State) (cl : Nat) (k : Ticket) : (s.clearResvOf cl k).frame = s.frame := by
  unfold State.clearResvOf
  split
  · exact State.ite_frame rfl rfl
  · rfl

theorem State.placeCohort_frame {s s' : State} {cl : Nat} {k : Ticket} (h : s.placeCohort cl k = some s') :
    s'.frame = s.frame := by
  unfold State.placeCohort at h
  simp only at h
  split at h
  · obtain rfl := Option.some.inj h
    exact (State.clearResvOf_frame _ cl k).trans (s.dropCohort_frame k)
  · obtain ⟨plan, -, rfl⟩ := Option.map_eq_some_iff.1 h
    refine (State.rampStart_frame _ cl).trans ((State.clearResvOf_frame _ cl k).trans ((State.dropCohort_frame _ k).trans ?_))
    refine foldl_frame (fun s x => ?_) _ s
    exact s.settle_frame _ cl _ _

theorem State.tryResv_frame (s : State) (cl : Nat) : (s.tryResv cl).frame = s.frame := by
  unfold State.tryResv
  split
  · rfl
  · split
    · rfl
    · split
      next h =>
        have turn := frame_of_fst h (s.takeTurn_frame cl)
        exact State.ite_frame (State.getD_frame (fun _ placed => (placeCohort_frame placed).trans turn) turn) turn
      next h => exact frame_of_fst h (s.takeTurn_frame cl)

theorem State.tryCohort_frame (s : State) (cl : Nat) (k : Ticket) : (s.tryCohort cl k).frame = s.frame := by
  unfold State.tryCohort
  split
  · rfl
  · split
    · rfl
    · split
      next c _ =>
        refine State.ite_frame (State.getD_frame (fun _ placed => ?_) rfl) rfl
        exact (placeCohort_frame placed).trans (s.takeTurn_frame c)
      next =>
        simp only
        split
        · rfl
        · exact (State.tryResv_frame _ _).trans (s.takeTurn_frame _)

theorem State.tryResume_frame (s : State) (cl : Nat) (cores : List Nat) (t : Team) : (s.tryResume cl cores t).frame = s.frame := by
  unfold State.tryResume
  refine State.ite_frame rfl (State.ite_frame (State.ite_frame rfl (State.getD_frame (fun _ => findCore_frame) rfl)) ?_)
  split
  · rfl
  · exact State.tryCohort_frame _ cl _

theorem placeTickets_frame (cl ctx : Nat) (cores : List Nat) (ks : List Ticket) (s : State) :
    (placeTickets cl ctx cores ks s).1.frame = s.frame := by
  induction ks generalizing s with
  | nil => rfl
  | cons k ks ih =>
    unfold placeTickets
    simp only
    split
    · exact ih s
    · split
      · exact ih s
      · split
        next s1 h => exact (ih s1).trans (State.findCore_frame h)
        · exact ih s

theorem State.retryList_frame (s : State) (cl : Nat) (cores : List Nat) : (s.retryList cl cores).frame = s.frame := by
  unfold State.retryList
  split
  · rfl
  · split
    next s1 ctx h =>
      have turn := frame_of_fst h (s.takeTurn_frame cl)
      have resumed (on : List Nat) (ts : List Team) : (ts.foldl (fun s t => s.tryResume cl on t) s1).frame = s.frame :=
        (foldl_frame (fun s (t : Team) => s.tryResume_frame cl on t) ts s1).trans turn
      exact State.ite_frame (resumed _ _) ((placeTickets_frame cl ctx _ _ _).trans (resumed _ _))
    next h => exact frame_of_fst h (s.takeTurn_frame cl)

theorem State.afterDeparture_frame (s : State) (cl : Nat) : (s.afterDeparture cl).frame = s.frame :=
  ((State.rampStart_frame _ cl).trans (State.retryList_frame _ cl _)).trans (s.tryResv_frame cl)

end Sys2Proof.Machine

namespace Sys2Proof.Machine

/-! ### Agents place teams (R61 to R65) -/

theorem teamTicketClaim_inTurn (s1 : State) (ctx : Nat) :
    Happens .teamTicketClaim (fun s => s.inTurn s1 ctx) fun s =>
      let s2 := s1.retryList s.target.cl [s.target.co]
      if s2.serves ctx s.target.cl = true ∧ s2.resumeHere s.target.cl ctx = []
      then s2.takeTicket s.target.cl s.target.co ctx else s2 := by
  intro s ⟨live, on, turn⟩
  show execTeamTicketClaim s = _
  simp [execTeamTicketClaim, live, on, turn]

theorem teamTicketClaim_idle :
    Happens .teamTicketClaim (fun s => s.agentLive s.target.cl s.target.co = false) id := by
  intro s dead
  show execTeamTicketClaim s = _
  simp [execTeamTicketClaim, dead]

/-- With teams left in the resume list an agent gets no further than that list. -/
theorem State.retryList_of_saved {s s1 : State} {cl ctx : Nat} {cores : List Nat} (free : (s.cluster cl).reserved = false)
    (turn : s.takeTurn cl = (s1, some ctx)) :
    let s2 := (s1.resumeHere cl ctx).foldl (fun s t => s.tryResume cl (cores.filter (s1.agentLive cl ·)) t) s1
    s2.resumeHere cl ctx ≠ [] → s.retryList cl cores = s2 := by
  intro s2 left
  simp only [State.retryList, free, turn, Bool.false_eq_true, if_false]
  exact if_pos (by simp [s2, left])

theorem State.retryList_of_none_saved {s s1 : State} {cl ctx : Nat} {cores : List Nat}
    (free : (s.cluster cl).reserved = false) (turn : s.takeTurn cl = (s1, some ctx)) (free1 : (s1.cluster cl).reserved = false)
    (none : s1.resumeHere cl ctx = []) :
    let r := placeTickets cl ctx (cores.filter (s1.agentLive cl ·)) (s1.cluster cl).placing s1
    s.retryList cl cores = r.1.updCluster cl fun c => { c with placing := r.2 } := by
  simp [State.retryList, free, turn, free1, none]

theorem State.tryResume_fits {s s1 : State} {cl co : Nat} (cores : List Nat) {t : Team} (saved : s.resumable t = true)
    (single : t.prog.cohort ≤ 1) (free : (s.cluster cl).reserved = false) (fits : s.tryCore t.id cl co = some s1) :
    s.tryResume cl (co :: cores) t = s1 := by
  simp [State.tryResume, saved, single, free, fits]

theorem State.tryResume_reserved {s : State} {cl : Nat} (cores : List Nat) {t : Team} (single : t.prog.cohort ≤ 1)
    (held : (s.cluster cl).reserved = true) : s.tryResume cl cores t = s := by
  simp [State.tryResume, single, held]

theorem teamPass_placed (k : Ticket) (s1 s2 : State) (ctx : Nat) :
    Happens .teamPass
      (fun s => s.carries k ∧ s.takeTurn s.target.cl = (s1, some ctx) ∧ (s.launch? k.launch).map (·.ctx) = some ctx ∧
        s.here.reserved = false ∧ s.agentLive s.target.cl k.co = true ∧
        s.tryCore s.target.team s.target.cl k.co = some s2)
      fun s => s2.updCluster s.target.cl fun c => { c with hands := c.hands.filter (· != k) } := by
  intro s ⟨hand, turn, mine, free, live, fits⟩
  show execTeamPass s = _
  simp only [State.carries, State.here] at hand free
  simp [execTeamPass, hand, turn, mine, free, live, fits]

/-- The core that a handed team has reached has no room: whether or not its agent may place it now, it goes on. -/
theorem execTeamPass_refused {s : State} {k : Ticket} (hand : s.carries k)
    (full : s.tryCore s.target.team s.target.cl k.co = none) :
    execTeamPass s = .next (
      if (s.liveCores s.target.cl).length ≤ k.tried + 1 then
        if placeList ≤ s.here.placing.length ∨ s.listWaits s.target.cl = true then s
        else s.hereTo fun c => { c with
          hands := c.hands.filter (· != k), placing := enterList { k with tried := 0 } c.placing }
      else s.hereTo fun c => { c with hands := c.hands.map fun x =>
        if x = k then { x with co := s.ringNext s.target.cl k.co, tried := x.tried + 1 } else x }) := by
  simp only [State.carries, State.here] at hand
  simp [execTeamPass, hand, full, State.hereTo_eq, State.updCluster_updCluster, State.here]

theorem teamPass_onward (k : Ticket) :
    Happens .teamPass
      (fun s => s.carries k ∧ s.tryCore s.target.team s.target.cl k.co = none ∧
        k.tried + 1 < (s.liveCores s.target.cl).length)
      fun s => s.hereTo fun c => { c with hands := c.hands.map fun x =>
        if x = k then { x with co := s.ringNext s.target.cl k.co, tried := x.tried + 1 } else x } := by
  intro s ⟨hand, full, more⟩
  refine (execTeamPass_refused hand full).trans ?_
  rw [if_neg (by omega)]

theorem teamPass_listed (k : Ticket) :
    Happens .teamPass
      (fun s => s.carries k ∧ s.tryCore s.target.team s.target.cl k.co = none ∧
        (s.liveCores s.target.cl).length ≤ k.tried + 1 ∧ s.here.placing.length < placeList ∧
        s.listWaits s.target.cl = false)
      fun s => s.hereTo fun c => { c with
        hands := c.hands.filter (· != k), placing := enterList { k with tried := 0 } c.placing } := by
  intro s ⟨hand, full, last, room, nobody⟩
  refine (execTeamPass_refused hand full).trans ?_
  rw [if_pos last, if_neg (by simp [nobody, room])]

/-- Noting a consumer touches no cluster, and the target stays. -/
theorem State.noteConsumer_clusters (s : State) (l : Launch) (j : Nat) : (s.noteConsumer l j).clusters = s.clusters := by
  unfold State.noteConsumer
  split
  · rfl
  · split <;> rfl

theorem State.noteConsumer_target (s : State) (l : Launch) (j : Nat) : (s.noteConsumer l j).target = s.target := by
  unfold State.noteConsumer
  split
  · rfl
  · split <;> rfl

theorem dependenceRecheck_met (k : Ticket) (l : Launch) :
    Happens .dependenceRecheck
      (fun s => s.here.depend = [k] ∧ s.launch? k.launch = some l ∧ l.prog.cohort ≤ 1 ∧ s.depMet l k.first = true ∧
        s.here.placing.length < placeList)
      fun s =>
        let s2 := (s.noteConsumer l k.first).hereTo fun c => { c with
          depend := [], placing := enterList { k with requeued := true } c.placing }
        s2.retryList s.target.cl (s2.liveCores s.target.cl) := by
  intro s ⟨held, launch, single, met, room⟩
  show Host.Outcome.next (s.dependRecheck s.target.cl) = _
  simp only [State.here] at held room
  have one : max 1 l.prog.cohort = 1 := by omega
  have noted : (s.noteConsumer l k.first).cluster s.target.cl = s.cluster s.target.cl := by
    simp only [State.cluster, State.noteConsumer_clusters]
  have entered : (s.noteConsumer l k.first).updCluster s.target.cl (fun c => { c with
        depend := c.depend.filter fun (x : Ticket) => !(x.launch == k.launch && x.first == k.first)
        placing := enterList { k with requeued := true } c.placing })
      = (s.noteConsumer l k.first).hereTo fun c => { c with
          depend := [], placing := enterList { k with requeued := true } c.placing } := by
    rw [State.hereTo_eq, State.noteConsumer_target]
    exact State.updCluster_congr (by simp [noted, held])
  have first : (List.range 1).map (k.first + ·) = [k.first] := rfl
  simp only [State.dependRecheck, held, List.foldl_cons, List.foldl_nil, launch, one, first, List.all_cons, List.all_nil, met,
    Bool.and_true, Bool.not_true, Bool.false_eq_true, if_false, if_neg (Nat.not_lt.2 single), room, if_true, entered]

theorem dependenceRecheck_unmet (k : Ticket) (l : Launch) :
    Happens .dependenceRecheck
      (fun s => s.here.depend = [k] ∧ s.launch? k.launch = some l ∧ l.prog.cohort ≤ 1 ∧ s.depMet l k.first = false)
      fun s => s.retryList s.target.cl (s.liveCores s.target.cl) := by
  intro s ⟨held, launch, single, unmet⟩
  show Host.Outcome.next (s.dependRecheck s.target.cl) = _
  simp only [State.here] at held
  have one : max 1 l.prog.cohort = 1 := by omega
  simp only [State.dependRecheck, held, List.foldl_cons, List.foldl_nil, launch, one]
  simp [unmet]

theorem cohortReserveRetry_one (k : Ticket) :
    Happens .cohortReserveRetry (fun s => s.here.cohorts = [k]) fun s => s.tryCohort s.target.cl k := by
  intro s held
  show execCohortReserveRetry s = _
  simp only [State.here] at held
  simp only [execCohortReserveRetry, held, List.foldl_cons, List.foldl_nil]

theorem cohortMakeRoom_early :
    Happens .cohortMakeRoom (fun s => s.here.reserved = false ∨ s.time < s.here.resv.since + 100000) id := by
  intro s early
  show execCohortMakeRoom s = _
  simp only [State.here] at early
  simp only [execCohortMakeRoom]
  rw [if_pos (by simpa using early)]
  rfl

theorem cohortMakeRoom_due (k : Ticket) (s1 s2 : State) :
    Happens .cohortMakeRoom
      (fun s => s.here.reserved = true ∧ s.here.resv.since + 100000 ≤ s.time ∧ s.resvTicket s.target.cl = some k ∧
        s.takeTurn s.target.cl = (s1, some s.here.resv.ctx) ∧
        s.makeRoom s.target.cl k (s.teams.length + 1) = (s2, true))
      fun _ => s2 := by
  intro s ⟨held, late, ticket, turn, room⟩
  show execCohortMakeRoom s = _
  simp only [State.here] at held late turn
  simp [execCohortMakeRoom, held, late, ticket, turn, room]

/-- R61 to R65. -/
theorem agentsPlaceTeams : AgentsPlaceTeams := by
  refine ⟨teamTicketClaim_inTurn, fun s s1 cl ctx cores free turn free1 => ⟨?_, fun none => ?_⟩, ?_, ?_, teamTicketClaim_idle,
    teamPass_placed, teamPass_onward, teamPass_listed, dependenceRecheck_met, dependenceRecheck_unmet, cohortReserveRetry_one,
    cohortMakeRoom_early, cohortMakeRoom_due⟩
  · intro t ts saved
    exact saved ▸ State.retryList_of_saved free turn
  · exact State.retryList_of_none_saved free turn free1 none
  · exact fun s s1 cl co cores t saved single free fits => State.tryResume_fits cores saved single free fits
  · exact fun s cl cores t single held => State.tryResume_reserved cores single held

/-! ### Turns and ramps (R54, R57) -/

/-- What a cluster's windows show: starting teams leaves it as it is. -/
def Cluster.ramp (c : Cluster) : ClusterRegs × Nat := (c.r, c.window)

theorem State.startTeam_ramp (s : State) (tm cl n : Nat) : ((s.startTeam tm cl).cluster n).ramp = (s.cluster n).ramp := by
  exact State.cluster_updCluster_of Cluster.ramp (f := fun c => { c with starts := c.starts + 1 }) (fun _ => rfl) s cl n

theorem startAll_ramp (cl n : Nat) (gs : List (List Team)) (s : State) :
    ((startAll cl gs s).cluster n).ramp = (s.cluster n).ramp := by
  have group (g : List Team) (s : State) :
      ((g.foldl (fun s t => s.startTeam t.id cl) s).cluster n).ramp = (s.cluster n).ramp :=
    foldl_of_step (fun s : State => (s.cluster n).ramp) _ (fun s t => s.startTeam_ramp t.id cl n) g s
  induction gs generalizing s with
  | nil => rfl
  | cons g gs ih =>
    unfold startAll
    simp only
    split
    · rw [ih, group]
    · split
      · rw [State.cluster_updCluster_of Cluster.ramp, group]
        exact fun _ => rfl
      · rfl

theorem State.rampStart_ramp (s : State) (cl n : Nat) : ((s.rampStart cl).cluster n).ramp = (s.cluster n).ramp :=
  startAll_ramp cl n _ s

theorem State.rampStart_target (s : State) (cl : Nat) : (s.rampStart cl).target = s.target :=
  congrArg Frame.target (s.rampStart_frame cl)

/-- One boundary of the window, with no written value outstanding (R54). -/
theorem State.rampBoundary_rampCur {s : State} {cl : Nat} (h : cl < s.clusters.length)
    (unwritten : (s.cluster cl).rampNext = none) :
    ((s.rampBoundary cl).cluster cl).r.rampCur =
      let c := s.cluster cl
      if c.r.rampCur ≤ c.starts then min c.r.rampCeil (c.r.rampCur + c.r.rampStep)
      else if c.starts = 0 ∧ s.anyTeam cl = false then c.r.rampInit else c.r.rampCur := by
  simp [State.rampBoundary, State.cluster_updCluster h, unwritten]

theorem rampWindow_next : Leaves .rampWindow
    (fun s => s.target.cl < s.clusters.length ∧ s.time / 1000 = s.here.window + 1 ∧ s.here.rampNext = none)
    (fun s s' => s'.here.window = s.time / 1000 ∧ s'.here.r.rampCur =
      (if s.here.r.rampCur ≤ s.here.starts then min s.here.r.rampCeil (s.here.r.rampCur + s.here.r.rampStep)
       else if s.here.starts = 0 ∧ s.anyTeam s.target.cl = false then s.here.r.rampInit else s.here.r.rampCur)) := by
  intro s ⟨inside, due, unwritten⟩
  simp only [State.here] at due unwritten
  let s1 := (s.rampBoundary s.target.cl).updCluster s.target.cl fun c => { c with window := s.time / 1000 }
  have one : s.time / 1000 - (s.cluster s.target.cl).window = 1 := by omega
  have run : exec .rampWindow s = .next (s1.rampStart s.target.cl) := by
    show execRampWindow s = _
    simp only [execRampWindow, one]
    rfl
  have inside1 : s.target.cl < (s.rampBoundary s.target.cl).clusters.length := by
    simpa [State.rampBoundary, State.updCluster] using inside
  have target : s1.target = s.target := rfl
  have after : s1.cluster s.target.cl =
      { (s.rampBoundary s.target.cl).cluster s.target.cl with window := s.time / 1000 } := State.cluster_updCluster inside1 _
  have ramp := s1.rampStart_ramp s.target.cl s.target.cl
  simp only [Cluster.ramp, after, Prod.mk.injEq] at ramp
  obtain ⟨regs, window⟩ := ramp
  refine ⟨_, run, ?_, ?_⟩
  · rw [State.here, State.rampStart_target, target, window]
  · rw [State.here, State.rampStart_target, target, regs, State.rampBoundary_rampCur inside unwritten]
    rfl

theorem rampWindow_early : Happens .rampWindow (fun s => s.time / 1000 ≤ s.here.window) id := by
  intro s early
  show execRampWindow s = _
  simp only [State.here] at early
  have none : s.time / 1000 - (s.cluster s.target.cl).window = 0 := by omega
  simp only [execRampWindow, none, if_true]
  rfl

theorem sliceEnd_early (c e : Nat) :
    Happens .sliceEnd (fun s => s.here.turn = some (c, e) ∧ s.time < e ∧ c ∈ s.workers s.target.cl) id := by
  intro s ⟨turn, early, works⟩
  show execSliceEnd s = _
  simp only [State.here] at turn
  simp [execSliceEnd, turn, early, works]

theorem sliceEnd_next (c e d : Nat) : Happens .sliceEnd
    (fun s => s.here.turn = some (c, e) ∧ e ≤ s.time ∧
      nextCtx ((s.workers s.target.cl).filter (· != c)) c = some d ∧
      (((s.enforceMask s.target.cl).preempt s.target.cl (·.ctx == c)).cluster s.target.cl).resv.busy = false)
    fun s => ((((s.enforceMask s.target.cl).preempt s.target.cl (·.ctx == c)).beginTurn s.target.cl d).afterDeparture
      s.target.cl) := by
  intro s ⟨turn, past, next, free⟩
  show execSliceEnd s = _
  simp only [State.here] at turn
  simp [execSliceEnd, turn, Nat.not_lt.2 past, next, free]

theorem State.beginTurn_turn {s : State} {cl : Nat} (d : Nat) (h : cl < s.clusters.length) :
    ((s.beginTurn cl d).cluster cl).turn = some (d, s.time + (s.context d).slice * 1000000) := by
  have begun : ((s.updCluster cl fun c => { c with turn := some (d, s.time + (s.context d).slice * 1000000) }).cluster cl).turn
      = some (d, s.time + (s.context d).slice * 1000000) := by rw [State.cluster_updCluster h]
  refine Eq.trans (foldl_of_step (fun s : State => (s.cluster cl).turn) _ (fun s co => ?_) _ _) begun
  split
  · exact State.cluster_updCluster_of Cluster.turn (f := fun c => { c with cores := updAt c.cores co _ }) (fun _ => rfl) s cl cl
  · rfl

/-- R54, R56 to R58. -/
theorem turnsAndRampsMoveOn : TurnsAndRampsMoveOn :=
  ⟨rampWindow_next, rampWindow_early, sliceEnd_early, sliceEnd_next, fun _ _ d h => State.beginTurn_turn d h⟩

/-- Settles O54: the claims, passes and retries of agents, and the windows and turns, each run their own definition. -/
theorem agentsAndTurnsServeTheContexts : Obligations.AgentsAndTurnsServeTheContexts :=
  ⟨agentsPlaceTeams, turnsAndRampsMoveOn⟩

end Sys2Proof.Machine

namespace Sys2Proof.Machine

/-! #### Agents, units and passes -/

theorem State.updPass_frame (s : State) (id : Nat) (f : Pass → Pass) : (s.updPass id f).frame = s.frame := rfl
theorem State.updCommand_frame (s : State) (id : Nat) (f : Command → Command) : (s.updCommand id f).frame = s.frame := rfl

theorem State.unitRead_frame (s : State) (w : Waiter) (ctx : Nat) (priv : Bool) (va n : Nat) :
    (s.unitRead w ctx priv va n).1.frame = s.frame := by
  unfold State.unitRead
  split
  · rfl
  · exact s.joinOrWait_frame _ _ _ _ _ _ _
  · rfl

theorem State.markCommand_frame (s : State) (w : Waiter) (g : Nat) : (s.markCommand w g).frame = s.frame := by
  unfold State.markCommand
  split <;> rfl

theorem State.unitWrite_frame (s : State) (w : Waiter) (ctx : Nat) (priv : Bool) (va : Nat) (bs : List Byte) :
    (s.unitWrite w ctx priv va bs).1.frame = s.frame := by
  unfold State.unitWrite
  split
  · exact State.ite_frame rfl ((State.markCommand_frame _ _ _).trans (s.writeHome_frame _ _))
  · exact s.joinOrWait_frame _ _ _ _ _ _ _
  · rfl

theorem State.tileProgOk_frame (s : State) (p : Pass) : (s.tileProgOk p).1.frame = s.frame := by
  unfold State.tileProgOk
  split
  · rfl
  · split
    next h => exact frame_of_fst h (s.unitRead_frame ..)
    next h => exact frame_of_fst h (s.unitRead_frame ..)
    next h =>
      have read := frame_of_fst h (s.unitRead_frame ..)
      simp only
      split
      · exact read
      · split
        next h1 => exact (frame_of_fst h1 (State.unitRead_frame ..)).trans read
        next h1 => exact (frame_of_fst h1 (State.unitRead_frame ..)).trans read
        next h1 => exact (frame_of_fst h1 (State.unitRead_frame ..)).trans read

theorem State.writePass_frame (s : State) (id : Nat) : (s.writePass id).frame = s.frame := by
  unfold State.writePass
  split
  · rfl
  · refine State.ite_frame rfl (State.ite_frame ?_ (State.ite_frame rfl ?_))
    · split
      next h => exact frame_of_fst h (s.unitWrite_frame ..)
      next h => exact (frame_of_fst h (s.unitWrite_frame ..) :)
    · split
      next h => exact frame_of_fst h (s.unitWrite_frame ..)
      next h => exact (frame_of_fst h (s.unitWrite_frame ..) :)

theorem State.rejectPass_frame (s : State) (id err : Nat) : (s.rejectPass id err).frame = s.frame := by
  unfold State.rejectPass
  split
  · rfl
  · refine (State.writePass_frame _ _).trans ((State.updPass_frame _ _ _).trans (foldl_frame (fun s d => ?_) _ _))
    exact s.updCommand_frame _ _

theorem State.takeDraw_frame (s : State) (id cmd : Nat) (b : List Byte) : (s.takeDraw id cmd b).frame = s.frame := by
  unfold State.takeDraw
  split
  · rfl
  · exact State.ite_frame rfl (State.ite_frame (State.rejectPass_frame _ _ _) (State.ite_frame rfl rfl))

theorem State.settlePass_frame (s : State) (id : Nat) : (s.settlePass id).frame = s.frame := by
  unfold State.settlePass
  split
  · rfl
  · refine State.ite_frame rfl (State.ite_frame (s.writePass_frame id) (State.ite_frame rfl ?_))
    split
    next h => exact frame_of_fst h (s.tileProgOk_frame _)
    next h => exact (State.rejectPass_frame _ _ _).trans (frame_of_fst h (s.tileProgOk_frame _))
    next h => exact (frame_of_fst h (s.tileProgOk_frame _) :)

theorem State.openPass_frame (s : State) (ctx cmd va : Nat) (desc : List Byte) (waiting : List (Nat × List Byte)) :
    (s.openPass ctx cmd va desc waiting).1.frame = s.frame := by
  unfold State.openPass
  simp only
  split
  · rfl
  · exact State.rejectPass_frame _ _ _

theorem State.feed_frame (s : State) (id n : Nat) : (s.feed id n).frame = s.frame := by
  induction n generalizing s with
  | zero => rfl
  | succ n ih =>
    unfold State.feed
    split
    · rfl
    · split
      · rfl
      · exact State.ite_frame rfl ((ih _).trans ((State.settlePass_frame _ _).trans (State.takeDraw_frame _ _ _ _)))

theorem State.reopen_frame (s : State) (id : Nat) : (s.reopen id).frame = s.frame := by
  unfold State.reopen
  split
  · rfl
  · split
    · rfl
    · refine State.ite_frame rfl ?_
      split
      next h => exact frame_of_fst h (s.unitRead_frame ..)
      next h =>
        refine (State.updPass_frame _ _ _).trans ((foldl_frame (fun s x => ?_) _ _).trans (frame_of_fst h (s.unitRead_frame ..)))
        exact s.updCommand_frame _ _
      next h =>
        exact (State.feed_frame _ _ _).trans ((State.openPass_frame ..).trans (frame_of_fst h (s.unitRead_frame ..) :))

/-! #### Commands and firings -/

theorem State.finishCommand_frame (s : State) (c : Command) : (s.finishCommand c).frame = s.frame :=
  State.ite_frame rfl rfl

theorem State.closeCommand_frame (s : State) (id : Nat) : (s.closeCommand id).frame = s.frame := by
  unfold State.closeCommand
  split
  · rfl
  · refine State.ite_frame rfl ?_
    split
    next h => exact (State.finishCommand_frame _ _).trans (frame_of_fst h (s.unitWrite_frame ..))
    next h => exact frame_of_fst h (s.unitWrite_frame ..)

theorem State.fireBatch_frame (s : State) (g : Gather) : (s.fireBatch g).frame = s.frame := by
  unfold State.fireBatch State.fire
  simp only
  split
  · rfl
  · split <;> rfl

theorem State.settleGraph_frame (s : State) (id : Nat) : (s.settleGraph id).frame = s.frame := by
  unfold State.settleGraph
  split
  · rfl
  · have closed (q : Bool) (s : State) : (if q then s.closeCommand id else s).frame = s.frame :=
      State.ite_frame (s.closeCommand_frame id) rfl
    refine State.ite_frame (closed _ s) (State.ite_frame ((foldl_frame (fun s g => ?_) _ _).trans (closed _ s))
      ((State.updCommand_frame _ _ _).trans ((closed _ _).trans (closed _ s :))))
    exact s.fireBatch_frame g

theorem State.pumpPass_frame (s : State) (id : Nat) : (s.pumpPass id).frame = s.frame := by
  have settled : ((s.settlePass id).reopen id).frame = s.frame := (State.reopen_frame _ _).trans (s.settlePass_frame id)
  unfold State.pumpPass
  simp only
  split
  · refine State.ite_frame ((foldl_frame (fun s c => ?_) _ _).trans settled) settled
    exact s.settleGraph_frame c
  · exact settled

end Sys2Proof.Machine

namespace Sys2Proof.Machine

/-! ### The ends of teams (R390, R391) -/

theorem State.team?_id {s : State} {tm : Nat} {t : Team} (h : s.team? tm = some t) : t.id = tm := by
  simpa using List.find?_some h

theorem State.team?_updTeam (s : State) (id tm : Nat) (f : Team → Team) (hf : ∀ t, (f t).id = t.id) :
    (s.updTeam id f).team? tm = (s.team? tm).map fun t => if tm = id then f t else t := by
  have keep : ((·.id == tm) ∘ fun t : Team => if t.id == id then f t else t) = (·.id == tm) := by
    funext t
    simp only [Function.comp_apply]
    split <;> simp [hf]
  simp only [State.updTeam, State.team?, List.find?_map, keep]
  refine Option.map_congr fun t ht => ?_
  have : t.id = tm := s.team?_id ht
  simp [this]

theorem State.team?_updTeam_self {s : State} {tm : Nat} {t : Team} (h : s.team? tm = some t) (f : Team → Team)
    (hf : ∀ t, (f t).id = t.id) : (s.updTeam tm f).team? tm = some (f t) := by
  rw [State.team?_updTeam s tm tm f hf, h]
  simp

theorem State.team?_updTeam_of_ne (s : State) {id tm : Nat} (h : tm ≠ id) (f : Team → Team) (hf : ∀ t, (f t).id = t.id) :
    (s.updTeam id f).team? tm = s.team? tm := by
  rw [State.team?_updTeam s id tm f hf]
  simp [h]

theorem State.team?_of_teams {s s' : State} (h : s'.teams = s.teams) (tm : Nat) : s'.team? tm = s.team? tm := by
  simp only [State.team?, h]

@[simp] theorem State.unbundle_teams (s : State) (tm w l : Nat) : (s.unbundle tm w l).teams = s.teams := by
  unfold State.unbundle
  split <;> rfl

@[simp] theorem State.dissolve_teams (s : State) (tm : Nat) : (s.dissolve tm).teams = s.teams := by
  unfold State.dissolve
  split <;> rfl

@[simp] theorem State.dropVictims_teams (s : State) (t : Team) : (s.dropVictims t).teams = s.teams := by
  unfold State.dropVictims
  split <;> rfl

/-- Moving a thread leaves the other teams alone. -/
theorem State.advance_team?_of_ne (s : State) {tm id : Nat} (h : id ≠ tm) (w l len : Nat) (cnt : Option Nat) :
    (s.advance tm w l len cnt).team? id = s.team? id := by
  simp only [State.advance]
  split
  · exact s.team?_updTeam_of_ne h _ fun _ => rfl
  · unfold State.arrive
    split
    · rfl
    · simp only [State.updWarp]
      rw [State.team?_updTeam_of_ne _ h]
      · exact State.team?_of_teams (s.unbundle_teams tm w l) id
      · exact fun _ => rfl

theorem State.releaseBarrier_team?_of_ne (s : State) {tm id : Nat} (h : id ≠ tm) (cohort : Bool) :
    (s.releaseBarrier tm cohort).team? id = s.team? id := by
  unfold State.releaseBarrier
  split
  · rfl
  · refine foldl_of_step (fun s : State => s.team? id) _ (fun s m => ?_) _ s
    simp only
    split
    · exact (State.advance_team?_of_ne _ h _ _ _ _).trans (s.team?_updTeam_of_ne h _ fun _ => rfl)
    · rfl

/-- A team without live threads has none at a barrier. -/
theorem State.releaseBarrier_of_no_live {s : State} {tm : Nat} {t : Team} (h : s.team? tm = some t) (none : t.live = [])
    (cohort : Bool) : s.releaseBarrier tm cohort = s := by
  simp [State.releaseBarrier, h, none]

/-- What a killed team shows: it has failed, drains, and none of its threads or records is left (R391). -/
structure Team.Dead (t : Team) : Prop where
  killed : t.killed = true
  failed : t.failed = true
  draining : t.draining = true
  live : t.live = []
  sfq : t.sfq = []

theorem Team.live_of_exited {t : Team} (h : ∀ w ∈ t.warps, ∀ th ∈ w.threads, th.exited = true) : t.live = [] := by
  simp only [Team.live, List.flatMap_eq_nil_iff, List.mem_range, List.map_eq_nil_iff, Warp.live, List.filter_eq_nil_iff,
    Bool.not_eq_true', Bool.not_eq_false]
  intro w hw l hl
  have hw' : t.warp w = t.warps[w] := by simp [Team.warp, hw]
  rw [hw'] at hl ⊢
  have hl' : t.warps[w].thread l = t.warps[w].threads[l] := by simp [Warp.thread, hl]
  rw [hl']
  exact h _ (List.getElem_mem hw) _ (List.getElem_mem hl)

/-- The dead member `id` of a cohort stays dead when the cohort's barrier opens. -/
theorem openBarC_dead {id : Nat} (us : List Team) {s : State} (h : ∃ t, s.team? id = some t ∧ t.Dead) :
    ∃ t, (us.foldl (fun s u => (s.releaseBarrier u.id true).updTeam u.id fun u => { u with arrC := [] }) s).team? id = some t ∧
      t.Dead := by
  induction us generalizing s with
  | nil => exact h
  | cons u us ih =>
    refine ih ?_
    obtain ⟨t, found, dead⟩ := h
    simp only
    by_cases e : id = u.id
    · subst e
      rw [State.releaseBarrier_of_no_live found dead.live]
      exact ⟨_, State.team?_updTeam_self found _ fun _ => rfl, { dead with }⟩
    · refine ⟨t, ?_, dead⟩
      rw [State.team?_updTeam_of_ne _ e, State.releaseBarrier_team?_of_ne s e, found]
      exact fun _ => rfl

/-- A cohort's barrier opens without touching a dead member. -/
theorem State.settleBarC_dead {s : State} {id : Nat} (tm : Nat) (h : ∃ t, s.team? id = some t ∧ t.Dead) :
    ∃ t, (s.settleBarC tm).team? id = some t ∧ t.Dead := by
  unfold State.settleBarC
  split
  · exact h
  · simp only
    split
    · exact openBarC_dead _ h
    · exact h

/-- What stands at the homes and what is on its way there. -/
def State.homeward (s : State) : Memory × List StoreOp := (s.mem, s.stores)

theorem State.homeward_of_data {s s' : State} (h : s'.data = s.data) : s'.homeward = s.homeward := by
  have mem := congrArg State.mem h
  have stores := congrArg State.stores h
  exact Prod.ext mem stores

theorem State.releaseBarrier_homeward (s : State) (tm : Nat) (cohort : Bool) :
    (s.releaseBarrier tm cohort).homeward = s.homeward := by
  unfold State.releaseBarrier
  split
  · rfl
  · refine foldl_of_step State.homeward _ (fun s m => ?_) _ s
    simp only
    split
    · exact (State.homeward_of_data (State.advance_data _ _ _ _ _ _)).trans rfl
    · rfl

theorem State.settleBarC_homeward (s : State) (tm : Nat) : (s.settleBarC tm).homeward = s.homeward := by
  unfold State.settleBarC
  split
  · rfl
  · simp only
    split
    · refine foldl_of_step State.homeward _ (fun s u => ?_) _ s
      exact s.releaseBarrier_homeward u.id true
    · rfl

theorem State.dropVictims_homeward (s : State) (t : Team) : (s.dropVictims t).homeward = s.homeward := by
  unfold State.dropVictims
  split <;> rfl

theorem State.dissolve_homeward (s : State) (tm : Nat) : (s.dissolve tm).homeward = s.homeward :=
  State.homeward_of_data (s.dissolve_data tm)

theorem foldl_settleBarC_dead {id : Nat} (us : List Team) {s : State} (h : ∃ t, s.team? id = some t ∧ t.Dead) :
    ∃ t, (us.foldl (fun s u => s.settleBarC u.id) s).team? id = some t ∧ t.Dead := by
  induction us generalizing s with
  | nil => exact h
  | cons u us ih => exact ih (State.settleBarC_dead u.id h)

theorem State.killTeam_dead {s : State} {tm : Nat} {t : Team} (h : s.team? tm = some t) :
    ∃ t', (s.killTeam tm).team? tm = some t' ∧ t'.Dead := by
  unfold State.killTeam
  simp only [h]
  refine foldl_settleBarC_dead _ ⟨_, State.team?_updTeam_self (t := t) ?_ _ fun _ => rfl, ?_⟩
  · refine (State.team?_of_teams (s := s) ?_ tm).trans h
    exact (State.dropVictims_teams ((s.dissolve tm).dropWaiters tm) t).trans (s.dissolve_teams tm)
  · refine ⟨rfl, rfl, rfl, Team.live_of_exited ?_, rfl⟩
    simp

/-- A killed team's stores go on only once they are translated; memory stays (R391). -/
theorem State.killTeam_homeward {s : State} {tm : Nat} {t : Team} (h : s.team? tm = some t) :
    (s.killTeam tm).homeward = (s.mem, s.stores.filter fun o => o.team != tm || o.st == .translated) := by
  unfold State.killTeam
  simp only [h]
  refine (foldl_of_step State.homeward _ (fun s u => s.settleBarC_homeward (Team.id u)) _ _).trans ?_
  have before := (State.dropVictims_homeward ((s.dissolve tm).dropWaiters tm) t).trans (s.dissolve_homeward tm)
  simp only [State.homeward, Prod.mk.injEq] at before ⊢
  obtain ⟨mem, stores⟩ := before
  exact ⟨mem, congrArg (List.filter _) stores⟩

theorem State.freeTeam_gone {s : State} {t : Team} (h : s.team? t.id = some t) :
    ∃ t', (s.freeTeam t).team? t.id = some t' ∧ t'.place = .gone ∧ t'.slots = [] ∧ t'.warps = [] ∧ t'.scratch = [] ∧
      t'.tiles = [] ∧ t'.planes = [] := by
  refine ⟨_, State.team?_updTeam_self (t := t) ?_ _ fun _ => rfl, rfl, rfl, rfl, rfl, rfl, rfl⟩
  refine (State.team?_of_teams (s := s) ?_ t.id).trans h
  exact State.dropVictims_teams (s.dropWaiters t.id) t

end Sys2Proof.Machine

namespace Sys2Proof.Machine

/-! ### Teams and launches end (R46, R49, R390, R391) -/

theorem gatherTimeout_fires (g : Gather) (d : Nat) : Happens .gatherTimeout
    (fun s => s.gathers.find? (fun g => g.id == s.target.id) = some g ∧ g.deadline = some d ∧ d ≤ s.time ∧ g.join = false)
    fun s => (s.fireBatch g).driveGraph g.cmd := by
  intro s ⟨found, deadline, due, apart⟩
  show execGatherTimeout s = _
  simp [execGatherTimeout, found, deadline, due, apart]

theorem gatherTimeout_early (g : Gather) (d : Nat) : Happens .gatherTimeout
    (fun s => s.gathers.find? (fun g => g.id == s.target.id) = some g ∧ g.deadline = some d ∧ s.time < d) id := by
  intro s ⟨found, deadline, early⟩
  show execGatherTimeout s = _
  simp [execGatherTimeout, found, deadline, Nat.not_le.mpr early]

theorem teamDrainDone_completes (t : Team) : Happens .teamDrainDone
    (fun s => s.team? s.target.team = some t ∧ t.place ≠ .gone ∧ s.drained t = true) fun s => s.completeTeam t := by
  intro s ⟨found, present, drained⟩
  show execTeamDrainDone s = _
  simp [execTeamDrainDone, found, present, drained]

theorem teamDrainDone_waits (t : Team) : Happens .teamDrainDone
    (fun s => s.team? s.target.team = some t ∧ s.drained t = false) id := by
  intro s ⟨found, busy⟩
  show execTeamDrainDone s = _
  simp [execTeamDrainDone, found, busy]

theorem launchAbort_kills (l : Launch) : Happens .launchAbort
    (fun s => s.launch? s.target.id = some l ∧ l.phase = .running) fun s =>
      let s1 := s.updLaunch l.id fun l => { l with phase := .aborting s.target.value, doneTeams := [] }
      ((s.teams.filter fun t => t.launch == l.id && t.place != .gone).foldl (fun s t => s.killTeam t.id) s1).driveGraph l.cmd := by
  intro s ⟨found, running⟩
  show execLaunchAbort s = _
  simp [execLaunchAbort, found, running, State.updLaunch]

theorem launchAbort_late (l : Launch) : Happens .launchAbort
    (fun s => s.launch? s.target.id = some l ∧ l.phase ≠ .running) id := by
  intro s ⟨found, ended⟩
  show execLaunchAbort s = _
  simp [execLaunchAbort, found, ended]

/-- A team that is gone holds no place, and none of its copies and loads is left. -/
theorem State.freeTeam_leaves_nothing {s : State} {t : Team} (h : s.team? t.id = some t) :
    ∃ t', (s.freeTeam t).team? t.id = some t' ∧ t'.place = .gone ∧ t'.slots = [] ∧ t'.warps = [] ∧ t'.scratch = [] ∧
      t'.tiles = [] ∧ t'.planes = [] ∧ (∀ o ∈ (s.freeTeam t).cpas, o.team ≠ t.id) ∧
      (∀ o ∈ (s.freeTeam t).loads, o.dst.team ≠ t.id) ∧ (s.freeTeam t).mem = s.mem := by
  obtain ⟨t', found, place, slots, warps, scratch, tiles, planes⟩ := State.freeTeam_gone h
  refine ⟨t', found, place, slots, warps, scratch, tiles, planes, fun o ho => ?_, fun o ho => ?_, ?_⟩
  · simpa using (List.mem_filter.1 ho).2
  · simpa using (List.mem_filter.1 ho).2
  · exact congrArg Prod.fst (State.dropVictims_homeward (s.dropWaiters t.id) t)

/-- What is left of a killed team: nothing that runs, and of its stores those that are translated. -/
theorem State.killTeam_leaves_translated {s : State} {t : Team} (h : s.team? t.id = some t) :
    ∃ t', (s.killTeam t.id).team? t.id = some t' ∧ t'.killed = true ∧ t'.failed = true ∧ t'.draining = true ∧ t'.live = [] ∧
      t'.sfq = [] ∧ (∀ o, o ∈ (s.killTeam t.id).stores ↔ o ∈ s.stores ∧ (o.team = t.id → o.st = .translated)) ∧
      (s.killTeam t.id).mem = s.mem := by
  obtain ⟨t', found, dead⟩ := State.killTeam_dead h
  have home := State.killTeam_homeward h
  have stores : (s.killTeam t.id).stores = s.stores.filter fun o => o.team != t.id || o.st == .translated := congrArg Prod.snd home
  refine ⟨t', found, dead.killed, dead.failed, dead.draining, dead.live, dead.sfq, fun o => ?_, congrArg Prod.fst home⟩
  rw [stores, List.mem_filter]
  simp [imp_iff_not_or]

theorem teamsAndLaunchesEnd : TeamsAndLaunchesEnd :=
  ⟨gatherTimeout_fires, gatherTimeout_early, teamDrainDone_completes, teamDrainDone_waits, launchAbort_kills, launchAbort_late,
    fun _ _ h => State.freeTeam_leaves_nothing h, fun _ _ h => State.killTeam_leaves_translated h⟩

/-! ### Tiles start (R331, R332, R352) -/

theorem tileStart_starts (p : Pass) (s1 : State) : Happens .tileStart
    (fun s => s.pumpPass s.target.id = s1 ∧ s1.pass? s.target.id = some p ∧ p.parked = false ∧ p.ready = true ∧
      p.finished = false ∧ p.err = 0 ∧ p.binned = true ∧ s.target.value < p.tiles.length)
    fun s => (s1.startTile p s.target.value).endPass s.target.id := by
  intro s ⟨pumped, found, unparked, ready, unfinished, noerr, binned, inside⟩
  have target : s1.target = s.target := pumped ▸ congrArg Frame.target (s.pumpPass_frame s.target.id)
  show execTileStart s = _
  simp [execTileStart, pumped, found, unparked, ready, unfinished, noerr, binned, target, inside]

theorem tileStart_waits (p : Pass) : Happens .tileStart
    (fun s => s.pumpPass s.target.id = s ∧ s.pass? s.target.id = some p ∧
      (p.parked = true ∨ p.ready = false ∨ p.finished = true ∨ p.err ≠ 0)) id := by
  intro s ⟨pumped, found, held⟩
  have stop : (p.parked || !p.ready || p.finished || p.err != 0) = true := by
    simpa [or_assoc] using held
  show execTileStart s = _
  simp only [execTileStart, pumped, found, stop, if_true, id]

/-- A tile whose turn it is in its cluster starts: it is skipped for its cost, or opened. -/
theorem startTile_skipsOrOpens (s s1 : State) (p : Pass) (k cl cost : Nat) (owner : s.tileOwner p k = some cl)
    (idle : (p.tile k).phase = .idle) (serving : s.serving cl = some p.id)
    (first : ∀ u ∈ p.tiles, u.k < k → u.phase = .idle → s.tileOwner p u.k ≠ some cl) :
    (s.skipCost p (p.tile k) = (s1, some (some cost)) → s.startTile p k = s1.skipTile p (p.tile k) cl cost) ∧
    (s.skipCost p (p.tile k) = (s1, some none) → s.startTile p k = s1.openTile p k cl) := by
  have noEarly : (p.tiles.any fun u => u.k < k && u.phase == .idle && s.tileOwner p u.k == some cl) = false := by
    simpa [and_imp] using first
  constructor <;> intro sum <;> simp [State.startTile, owner, idle, serving, noEarly, sum]

/-- A free slot of a cluster: one of its 16, not held, that lies in its 2 MiB. -/
theorem State.freeTileSlot_fits {s : State} {p : Pass} {cl n : Nat} (h : s.freeTileSlot p cl = some n) :
    n < 16 ∧ n ∉ s.slotsHeld cl ∧ (n + 1) * p.slotBytes ≤ 2 ^ 21 := by
  have inRange : n < min 16 (2 ^ 21 / p.slotBytes) - (s.cluster cl).slotsDown := List.mem_range.1 (List.mem_of_find?_eq_some h)
  have unheld : n ∉ s.slotsHeld cl := by simpa using List.find?_some h
  have fits : n + 1 ≤ 2 ^ 21 / p.slotBytes := by omega
  exact ⟨by omega, unheld, (Nat.mul_le_mul_right _ fits).trans (Nat.div_mul_le_self _ _)⟩

/-! ### Dicing and sampling (R331, R335) -/

theorem diceTile_dices (p : Pass) (t : RTile) (s1 : State) (gs : List Grid) : Happens .diceTile
    (fun s => s.tileIs p t ∧ p.parked = false ∧ t.cl ∉ p.parkedCl ∧ t.bad = [] ∧ t.phase = .started ∧
      s.diceList p s.target.value t.patches = (s1, some gs))
    fun s => (s1.updTile s.target.id s.target.value fun t => { t with phase := .diced, grids := gs }).sendGrids
      s.target.id s.target.value gs := by
  intro s ⟨⟨pass, tile⟩, unparked, here, good, started, diced⟩
  show execDiceTile s = _
  simp [execDiceTile, pass, tile, unparked, here, good, started, diced]

theorem diceTile_parks (p : Pass) (t : RTile) (s1 : State) : Happens .diceTile
    (fun s => s.tileIs p t ∧ p.parked = false ∧ t.cl ∉ p.parkedCl ∧ t.bad = [] ∧ t.phase = .started ∧
      s.diceList p s.target.value t.patches = (s1, none))
    fun s => s1.parkDicing s.target.id t.cl := by
  intro s ⟨⟨pass, tile⟩, unparked, here, good, started, held⟩
  show execDiceTile s = _
  simp [execDiceTile, pass, tile, unparked, here, good, started, held]

theorem diceTile_sends (p : Pass) (t : RTile) : Happens .diceTile
    (fun s => s.tileIs p t ∧ p.parked = false ∧ t.cl ∉ p.parkedCl ∧ t.bad = [] ∧ t.phase = .diced)
    fun s => s.sendGrids s.target.id s.target.value (t.grids.filter (!·.fired)) := by
  intro s ⟨⟨pass, tile⟩, unparked, here, good, diced⟩
  show execDiceTile s = _
  simp [execDiceTile, pass, tile, unparked, here, good, diced]

theorem diceTile_waits (p : Pass) (t : RTile) : Happens .diceTile
    (fun s => s.tileIs p t ∧ (p.parked = true ∨ t.cl ∈ p.parkedCl ∨ t.bad ≠ [])) id := by
  intro s ⟨⟨pass, tile⟩, held⟩
  have stop : (p.parked || p.parkedCl.contains t.cl || !t.bad.isEmpty) = true := by
    simpa [or_assoc] using held
  show execDiceTile s = _
  simp only [execDiceTile, pass, tile, stop, if_true, id]

theorem diceTile_late (p : Pass) (t : RTile) : Happens .diceTile
    (fun s => s.tileIs p t ∧ (t.phase = .complete ∨ t.phase = .done ∨ t.phase = .skipped)) id := by
  intro s ⟨⟨pass, tile⟩, ended⟩
  have notStarted : (t.phase == .started) = false := by rcases ended with h | h | h <;> rw [h] <;> rfl
  have notDiced : (t.phase == .diced) = false := by rcases ended with h | h | h <;> rw [h] <;> rfl
  show execDiceTile s = _
  simp [execDiceTile, pass, tile, notStarted, notDiced]

theorem gridSample_samples (p : Pass) (t : RTile) : Happens .gridSample
    (fun s => s.tileIs p t ∧ t.phase = .diced ∧ t.bad = []) fun s => s.sampleNext s.target.id s.target.value := by
  intro s ⟨⟨pass, tile⟩, diced, good⟩
  show execGridSample s = _
  simp [execGridSample, pass, tile, diced, good]

theorem gridSample_waits (p : Pass) (t : RTile) : Happens .gridSample
    (fun s => s.tileIs p t ∧ (t.phase ≠ .diced ∨ t.bad ≠ [])) id := by
  intro s ⟨⟨pass, tile⟩, held⟩
  have stop : (t.phase == .diced && t.bad.isEmpty) = false := by
    simpa [imp_iff_not_or] using held
  show execGridSample s = _
  simp [execGridSample, pass, tile, stop]

/-! ### Tiles complete and resolve (R337, R339, R340) -/

theorem tileComplete_done (p : Pass) (t : RTile) : Happens .tileComplete
    (fun s => s.tileIs p t ∧ t.samplesDone = true ∧ s.tileProgDone t = true)
    fun s => s.updTile s.target.id s.target.value fun t => { t with phase := .complete } := by
  intro s ⟨⟨pass, tile⟩, sampled, ended⟩
  show execTileComplete s = _
  simp [execTileComplete, pass, tile, sampled, ended]

theorem tileComplete_arrives (p : Pass) (t : RTile) (u : Team) : Happens .tileComplete
    (fun s => s.tileIs p t ∧ t.samplesDone = true ∧ s.tileProgDone t = false ∧ s.tileTeam t = some u ∧ u.at?.isSome ∧
      u.killed = false ∧ u.draining = false)
    fun s => (s.tbUpdate u.id 0x20 (-1) 0).updTile s.target.id s.target.value fun t => { t with phase := .complete } := by
  intro s ⟨⟨pass, tile⟩, sampled, runs, team, present, unkilled, undrained⟩
  have here : u.at?.isNone = false := by simpa [Option.isSome_iff_ne_none] using present
  show execTileComplete s = _
  simp only [execTileComplete, pass, tile, sampled, runs, team, here, unkilled, undrained]
  rfl

theorem tileComplete_ends (p : Pass) (t : RTile) (u : Team) : Happens .tileComplete
    (fun s => s.tileIs p t ∧ t.samplesDone = true ∧ s.tileProgDone t = false ∧ s.tileTeam t = some u ∧ u.at?.isSome ∧
      (u.killed = true ∨ u.draining = true))
    fun s => s.updTile s.target.id s.target.value fun t => { t with phase := .complete } := by
  intro s ⟨⟨pass, tile⟩, sampled, runs, team, present, ending⟩
  have here : u.at?.isNone = false := by simpa [Option.isSome_iff_ne_none] using present
  have ends : (u.killed || u.draining) = true := by simpa using ending
  show execTileComplete s = _
  simp only [execTileComplete, pass, tile, sampled, runs, team, here, ends]
  rfl

theorem tileComplete_waits_place (p : Pass) (t : RTile) (u : Team) : Happens .tileComplete
    (fun s => s.tileIs p t ∧ t.samplesDone = true ∧ s.tileProgDone t = false ∧ s.tileTeam t = some u ∧ u.at? = none) id := by
  intro s ⟨⟨pass, tile⟩, sampled, runs, team, absent⟩
  show execTileComplete s = _
  simp [execTileComplete, pass, tile, sampled, runs, team, absent]

theorem tileComplete_waits_samples (p : Pass) (t : RTile) : Happens .tileComplete
    (fun s => s.tileIs p t ∧ t.samplesDone = false) id := by
  intro s ⟨⟨pass, tile⟩, unsampled⟩
  show execTileComplete s = _
  simp [execTileComplete, pass, tile, unsampled]

theorem tileResolve_resolves (p : Pass) (t : RTile) : Happens .tileResolve
    (fun s => s.tileIs p t ∧ t.phase = .complete ∧ (t.bad ≠ [] ∨ s.mayResolve t = true))
    fun s => s.resolveTile s.target.id s.target.value !t.bad.isEmpty := by
  intro s ⟨⟨pass, tile⟩, complete, allowed⟩
  have go : (t.phase == .complete && (!t.bad.isEmpty || s.mayResolve t)) = true := by
    simpa [complete] using allowed
  show execTileResolve s = _
  simp only [execTileResolve, pass, tile, go, if_true]

theorem tileResolve_frees (p : Pass) (t : RTile) : Happens .tileResolve
    (fun s => s.tileIs p t ∧ (t.phase ≠ .complete ∨ (t.bad = [] ∧ s.mayResolve t = false)))
    fun s => (s.freeTile s.target.id s.target.value).endPass s.target.id := by
  intro s ⟨⟨pass, tile⟩, held⟩
  have stop : (t.phase == .complete && (!t.bad.isEmpty || s.mayResolve t)) = false := by
    simpa [imp_iff_not_or] using held
  show execTileResolve s = _
  simp [execTileResolve, pass, tile, stop]

/-! ### Queries (R341, R342, R375) -/

theorem rayTraverseEvent_stopped : Happens .rayTraverseEvent
    (fun s => ((s.query? s.target.cl s.target.id).any fun q => (s.team? q.team).any (·.saving.isSome)) = true)
    fun s => s.performCmds s.target.cl s.target.id (s.cmdsOf s.target.cl s.target.id) := by
  intro s stopped
  show execRayTraverseEvent s = _
  simp only [execRayTraverseEvent, stopped, if_true]

theorem rayTraverseEvent_runs (s1 : State) : Happens .rayTraverseEvent
    (fun s => ((s.query? s.target.cl s.target.id).any fun q => (s.team? q.team).any (·.saving.isSome)) = false ∧
      s.raySteps s.target.cl s.target.id rayChunk = s1)
    fun s => s1.performCmds s.target.cl s.target.id (s1.cmdsOf s.target.cl s.target.id) := by
  intro s ⟨going, run⟩
  show execRayTraverseEvent s = _
  simp only [execRayTraverseEvent, going, run, Bool.false_eq_true, if_false]

theorem tilesRunTheirSteps : TilesRunTheirSteps :=
  ⟨tileStart_starts, tileStart_waits, fun s s1 p k cl cost => startTile_skipsOrOpens s s1 p k cl cost,
    fun _ _ _ _ => State.freeTileSlot_fits, diceTile_dices, diceTile_parks, diceTile_sends, diceTile_waits, diceTile_late,
    gridSample_samples, gridSample_waits, tileComplete_done, tileComplete_arrives, tileComplete_ends, tileComplete_waits_place,
    tileComplete_waits_samples, tileResolve_resolves, tileResolve_frees, rayTraverseEvent_stopped, rayTraverseEvent_runs⟩

/-- Settles O59: one lemma per event, and what a team that is freed or killed leaves behind. -/
theorem teamsLaunchesAndTilesEnd : Obligations.TeamsLaunchesAndTilesEnd :=
  ⟨teamsAndLaunchesEnd, tilesRunTheirSteps⟩

end Sys2Proof.Machine

namespace Sys2Proof.Machine

/-! ### Ring entries and their errors (R38, R39) -/

theorem canonicalAddr_eq (va : Addr) : canonicalAddr va = canonical va.toNat := by
  have bound := va.isLt
  rw [Bool.eq_iff_iff]
  simp only [canonicalAddr, canonical, bits, bitAt, Nat.shiftRight_eq_div_pow, Bool.or_eq_true, beq_iff_eq]
  split <;> omega

theorem vaAligned_iff (va : Addr) (n : Nat) : vaAligned va n = true ↔ canonical va.toNat = true ∧ va.toNat % n = 0 := by
  simp [vaAligned, canonicalAddr_eq]

/-- The seven commands of R38. -/
inductive RingCommand : Instr → Prop
  | launchGraph (h roots count recVA work bytes) : RingCommand (.launchGraph h roots count recVA work bytes)
  | launchNode (h node recVA work bytes) : RingCommand (.launchNode h node recVA work bytes)
  | signal (h va value) : RingCommand (.signal h va value)
  | wait (h va threshold) : RingCommand (.wait h va threshold)
  | timestamp (h va) : RingCommand (.timestamp h va)
  | setDomain (h dom share key) : RingCommand (.setDomain h dom share key)
  | partition (h ctx mask excl slice root pool pages) : RingCommand (.partition h ctx mask excl slice root pool pages)

theorem commandOf_ringCommand {q : BitVec 6} {ws : List (BitVec 64)} {i : Instr} (h : commandOf q ws = some i) : RingCommand i := by
  unfold commandOf at h
  split at h
  · simp only [Option.ite_none_left_eq_some] at h
    obtain ⟨-, h⟩ := h
    repeat' split at h
    all_goals cases h
    all_goals constructor
  · cases h

/-- SET_DOMAIN and PARTITION, which a queue needs QPRIV for. -/
def privileged (i : Instr) : Prop :=
  (∃ h d sh k, i = .setDomain h d sh k) ∨ ∃ h c m e sl r p n, i = .partition h c m e sl r p n

/-- The addresses of a command are canonical and aligned. -/
def placed (i : Instr) : Prop := ∀ x ∈ cmdAddresses i, canonical x.1.toNat = true ∧ 0 < x.2 ∧ x.1.toNat % x.2 = 0

theorem placed_launchGraph (h roots count recVA work bytes) : placed (.launchGraph h roots count recVA work bytes) ↔
    vaAligned roots 8 = true ∧ vaAligned recVA 64 = true ∧ canonicalAddr work = true := by
  simp [placed, cmdAddresses, vaAligned_iff, canonicalAddr_eq, Nat.mod_one]

theorem placed_launchNode (h node recVA work bytes) : placed (.launchNode h node recVA work bytes) ↔
    vaAligned node 256 = true ∧ vaAligned recVA 64 = true ∧ canonicalAddr work = true := by
  simp [placed, cmdAddresses, vaAligned_iff, canonicalAddr_eq, Nat.mod_one]

theorem placed_one {i : Instr} {va : Addr} (h : cmdAddresses i = [(va, 8)]) : placed i ↔ vaAligned va 8 = true := by
  simp [placed, h, vaAligned_iff]

theorem placed_partition (h ctx mask excl slice root pool pages) : placed (.partition h ctx mask excl slice root pool pages) ↔
    root.toNat < 2 ^ 52 ∧ root.toNat % 256 = 0 ∧ vaAligned pool 65536 = true := by
  have zero : canonical (0 : Addr).toNat = true := by decide
  simp only [placed, cmdAddresses, List.forall_mem_cons, List.not_mem_nil, false_imp_iff, implies_true, and_true, vaAligned_iff,
    zero]
  split <;> simp_all

open Classical in
/-- The errors of R39, in the order of their codes. -/
theorem commandErr_eq {i : Instr} (priv : Bool) (h : RingCommand i) : commandErr priv i =
    if privileged i ∧ priv = false then some 0x11 else if ¬ placed i then some 0x12 else if ¬ cmdCounts i then some 0x13
    else none := by
  cases h with
  | launchGraph => simp [commandErr, privileged, placed_launchGraph, cmdCounts, imp_iff_not_or, or_assoc]
  | launchNode => simp [commandErr, privileged, placed_launchNode, cmdCounts, imp_iff_not_or, or_assoc]
  | signal h va value => cases at_ : vaAligned va 8 <;> simp [commandErr, privileged, placed_one (i := .signal h va value) rfl, cmdCounts, at_]
  | wait h va threshold => cases at_ : vaAligned va 8 <;> simp [commandErr, privileged, placed_one (i := .wait h va threshold) rfl, cmdCounts, at_]
  | timestamp h va => cases at_ : vaAligned va 8 <;> simp [commandErr, privileged, placed_one (i := .timestamp h va) rfl, cmdCounts, at_]
  | setDomain => cases priv <;> simp [commandErr, privileged, placed, cmdAddresses, cmdCounts]
  | partition => simp [commandErr, privileged, placed_partition, cmdCounts, imp_iff_not_or, or_assoc]

theorem entryCommand_error {s : State} {q : Queue} {bs : List Byte} {i : Instr} {e : BitVec 8}
    (h : commandOf (BitVec.ofNat 6 s.target.id) ((List.range 8).map fun k => BitVec.ofNat 64 (w64 bs (8 * k))) = some i)
    (err : commandErr q.priv i = some e) : entryCommand s q bs = .error e := by
  simp only [entryCommand, decodeCommand, h, err]

theorem entryCommand_ok {s : State} {q : Queue} {bs : List Byte} {i : Instr}
    (h : commandOf (BitVec.ofNat 6 s.target.id) ((List.range 8).map fun k => BitVec.ofNat 64 (w64 bs (8 * k))) = some i)
    (err : commandErr q.priv i = none) : entryCommand s q bs = .ok i := by
  simp only [entryCommand, decodeCommand, h, err]

theorem entriesInErrorHaveTheirCode : EntriesInErrorHaveTheirCode := by
  intro s q bs ws
  refine ⟨fun none => by simp only [entryCommand, decodeCommand]; rw [none], fun i h => ?_⟩
  have code := commandErr_eq q.priv (commandOf_ringCommand h)
  exact ⟨fun bare => entryCommand_error h (code.trans (if_pos bare)),
    fun ok bad => entryCommand_error h (code.trans ((if_neg ok).trans (if_pos bad))),
    fun ok at_ bad => entryCommand_error h (code.trans ((if_neg ok).trans ((if_neg (not_not.2 at_)).trans (if_pos bad)))),
    fun ok at_ counts => entryCommand_ok h
      (code.trans ((if_neg ok).trans ((if_neg (not_not.2 at_)).trans (if_neg (not_not.2 counts)))))⟩

/-! ### Claiming a command (R35, R39, R43) -/

theorem State.newCommand_joins (s : State) (n : Nat) (q : Queue) (i : Instr) :
    (s.newCommand n q i).agenda = .event i { id := s.nextId } :: s.agenda ∧ (s.newCommand n q i).mem = s.mem ∧
    (∃ d : Command, (s.newCommand n q i).commands = s.commands ++ [d] ∧ d.id = s.nextId ∧ d.q = n ∧ d.idx = q.claim.toNat ∧
      d.ctx = q.ctx ∧ d.instr = i ∧ d.acted = false ∧ d.finished = false) ∧
    ∃ held, (s.newCommand n q i).queues =
        updAt s.queues n (fun q => { q with claim := q.claim + 1, cons := q.cons + 1, waiting := held }) ∧
      (held.isSome = true ↔ ∃ h va threshold, i = .wait h va threshold) := by
  refine ⟨rfl, rfl, ⟨_, rfl, ?_⟩, _, rfl, ?_⟩
  · split <;> exact ⟨rfl, rfl, rfl, rfl, rfl, rfl, rfl⟩
  · split <;> simp_all

theorem State.agentRead_ok {s : State} {ctx va : Nat} {x : Xlat} (h : s.unitXlat ctx true .read va = .ok x) (w : Waiter) (n : Nat)
    (good : s.xlatBad x n = false) : s.agentRead w ctx va n = (s, .data (s.homeBytes x n)) := by
  simp [State.agentRead, State.unitRead, h, good]

theorem State.agentRead_prot {s : State} {ctx va : Nat} (h : s.unitXlat ctx true .read va = .prot) (w : Waiter) (n : Nat) :
    s.agentRead w ctx va n = (s, .prot) := by
  simp [State.agentRead, State.unitRead, h]

/-- A live agent that may claim the next entry of a queue does so. -/
theorem commandClaim_claims {s : State} {q : Queue} {got : Trans} (h : Claims s q got) :
    exec .commandClaim s = .next (s.claimCommand s.target.id) := by
  obtain ⟨live, small, -⟩ := h
  show execCommandClaim s = _
  simp [execCommandClaim, live, small]

/-- The tests before an entry is read find nothing in the way. -/
theorem Claims.open {s : State} {q : Queue} {got : Trans} (h : Claims s q got) :
    (!q.en || q.halt || q.waiting.isSome || decide ((q.prod - q.claim).toNat = 0) ||
      decide ((q.prod - q.claim).toNat > 2 ^ q.log) || s.claimEnds q.ctx) = false := by
  obtain ⟨-, -, -, en, halt, waiting, some, fits, serves, -⟩ := h
  generalize (q.prod - q.claim).toNat = n at some fits
  simp [en, halt, waiting, Nat.pos_iff_ne_zero.1 some, fits, serves]

theorem commandClaim_ok {s : State} {q : Queue} {bs : List Byte} {i : Instr} {x : Xlat} (h : Claims s q (.ok x))
    (good : s.xlatBad x 64 = false) (read : s.homeBytes x 64 = bs) (entry : entryCommand s q bs = .ok i) :
    exec .commandClaim s = .next (s.newCommand s.target.id q i) := by
  rw [commandClaim_claims h]
  have clear := h.open
  obtain ⟨-, -, rfl, -, -, -, -, -, -, got⟩ := h
  subst read
  unfold entryCommand at entry
  simp only [State.claimCommand, clear, State.agentRead_ok got _ _ good, entry, Bool.false_eq_true, if_false]

theorem commandClaim_error {s : State} {q : Queue} {bs : List Byte} {e : BitVec 8} {x : Xlat} (h : Claims s q (.ok x))
    (good : s.xlatBad x 64 = false) (read : s.homeBytes x 64 = bs) (entry : entryCommand s q bs = .error e) :
    exec .commandClaim s = .next (haltTarget s e.toNat) := by
  rw [commandClaim_claims h]
  have clear := h.open
  obtain ⟨-, -, rfl, -, -, -, -, -, -, got⟩ := h
  subst read
  unfold entryCommand at entry
  simp only [State.claimCommand, clear, State.agentRead_ok got _ _ good, entry, Bool.false_eq_true, if_false]
  rfl

theorem commandClaim_unreadable {s : State} {q : Queue} (h : Claims s q .prot) :
    exec .commandClaim s = .next (haltTarget s 0x16) := by
  rw [commandClaim_claims h]
  have clear := h.open
  obtain ⟨-, -, rfl, -, -, -, -, -, -, got⟩ := h
  simp only [State.claimCommand, clear, State.agentRead_prot got, Bool.false_eq_true, if_false]
  rfl

theorem commandClaim_nothing {s : State} {q : Queue} (is : s.queues.getD s.target.id {} = q)
    (shut : q.en = false ∨ q.halt = true ∨ q.waiting.isSome = true ∨ q.prod = q.claim ∨ s.claimEnds q.ctx = true) :
    exec .commandClaim s = .next s := by
  subst is
  generalize hq : s.queues.getD s.target.id {} = q at shut
  have empty (h : q.prod = q.claim) : (q.prod - q.claim).toNat = 0 := by rw [h, BitVec.sub_self]; rfl
  have nothing : s.claimCommand s.target.id = s := by
    refine if_pos ?_
    rw [hq]
    generalize (q.prod - q.claim).toNat = n at empty
    rcases shut with h | h | h | h | h
    · simp [h]
    · simp [h]
    · simp [h]
    · simp [empty h]
    · simp [h]
  show execCommandClaim s = _
  simp [execCommandClaim, nothing]

/-! ### The registers of a queue (R34, R35, R460) -/

theorem Queue.doorbell_eq (q : Queue) (v : Word) : q.doorbell v = producedTo v q := rfl

theorem doorbellWrite_produces {s : State} (safe : s.start.safe = false) (first : s.target.addr = 0)
    (wide : s.target.size = 4 ∨ s.target.size = 8) (small : s.target.id < 64) {v : Word} (value : s.target.value = v.toNat) :
    exec .doorbellWrite s = .next { s with queues := updAt s.queues s.target.id (producedTo v) } := by
  show execDoorbellWrite s = _
  simp [execDoorbellWrite, safe, first, wide, small, value, State.updQueue, funext fun q => Queue.doorbell_eq q v]

theorem haltClear_clears {s : State} (safe : s.start.safe = false) : exec .haltClear s =
    .next { s with queues := updAt s.queues s.target.id fun q => { q with halt := false, err := 0 } } := by
  show execHaltClear s = _
  simp [execHaltClear, safe, State.updQueue, Queue.clear]

theorem registerWrite_word {s : State} (size : s.target.size = 4) (aligned : s.target.addr % 4 = 0) :
    exec .registerWrite s = .next (s.write32 s.target.addr (s.target.value % 2 ^ 32)) := by
  show execRegisterWrite s = _
  simp [execRegisterWrite, regHalves, size, aligned]

theorem registerWrite_pair {s : State} (size : s.target.size = 8) (aligned : s.target.addr % 8 = 0) :
    exec .registerWrite s = .next ((s.write32 s.target.addr (s.target.value % 2 ^ 32)).write32 (s.target.addr + 4)
      (s.target.value / 2 ^ 32 % 2 ^ 32)) := by
  show execRegisterWrite s = _
  simp [execRegisterWrite, regHalves, size, aligned]

/-- A 32-bit write in the register block of queue `n`. -/
theorem State.write32_queue {s : State} (safe : s.start.safe = false) {n off : Nat} (hn : n < 64) (hoff : off < 0x40) (v : Nat) :
    s.write32 (0x10000 + 64 * n + off) v = s.updQueue n fun q => q.write32 off v := by
  have notReq : 0x10000 + 64 * n + off ≠ 0x50000 := by omega
  have notWake : 0x10000 + 64 * n + off ≠ 0x50008 := by omega
  have inBlocks : 0x10000 ≤ 0x10000 + 64 * n + off ∧ 0x10000 + 64 * n + off < 0x11000 := by omega
  have block : (0x10000 + 64 * n + off - 0x10000) / 0x40 = n := by omega
  have place : (0x10000 + 64 * n + off) % 0x40 = off := by omega
  simp only [State.write32, notReq, notWake, safe, inBlocks, block, place, if_false, if_true, and_self, Bool.false_eq_true]

theorem registerWrite_queue {s : State} {n : Nat} (hn : n < 64) (safe : s.start.safe = false) (size : s.target.size = 4)
    (small : s.target.value < 2 ^ 32) :
    (s.target.addr = 0x10000 + 64 * n + 0x10 → exec .registerWrite s =
      .next { s with queues := updAt s.queues n (producedTo (BitVec.ofNat 32 s.target.value)) }) ∧
    (s.target.addr = 0x10000 + 64 * n + 0x18 → s.target.value = 2 ^ 31 → exec .registerWrite s =
      .next { s with queues := updAt s.queues n fun q => { q with halt := false, err := 0 } }) := by
  constructor
  · intro at_
    rw [registerWrite_word size (by omega), at_, Nat.mod_eq_of_lt small, State.write32_queue safe hn (by decide)]
    rfl
  · intro at_ value
    rw [registerWrite_word size (by omega), at_, value, State.write32_queue safe hn (by decide)]
    rfl

/-! ### A WAIT is read (R40) -/

/-- Read at home, the value of a WAIT completes it or keeps it waiting. -/
theorem State.readWait_ok {s : State} {c : Command} {va : Nat} {x : Xlat} (h : s.unitXlat c.ctx true .read va = .ok x)
    (good : s.xlatBad x 8 = false) (threshold : Nat) : s.readWait c va threshold =
    if threshold ≤ leNat (s.homeBytes x 8) then (s.updQueue c.q fun q => { q with waiting := none }).finishCommand c
    else s.updQueue c.q fun q => { q with waiting := some (va, threshold, c.id, s.time) } := by
  simp only [State.readWait, State.agentRead_ok h _ _ good]

theorem waitRecheck_reads {s : State} {va threshold cmd now : Nat} {c : Command} {x : Xlat}
    (waiting : (s.queues.getD s.target.id {}).waiting = some (va, threshold, cmd, now)) (found : s.command? cmd = some c)
    (unfinished : c.finished = false) (unfenced : s.fenced c = false) (h : s.unitXlat c.ctx true .read va = .ok x)
    (good : s.xlatBad x 8 = false) :
    exec .waitRecheck s = .next (if threshold ≤ leNat (s.homeBytes x 8) then
        (s.updQueue c.q fun q => { q with waiting := none }).finishCommand c
      else s.updQueue c.q fun q => { q with waiting := some (va, threshold, c.id, s.time) }) := by
  rw [← State.readWait_ok h good]
  show execWaitRecheck s = _
  simp only [execWaitRecheck, waiting, found, unfinished, unfenced, Bool.or_self, Bool.false_eq_true, if_false]

/-- Settles O17: one lemma per event, and the errors of a ring entry read off the error function of R39. -/
theorem queuesTakeTheirEvents : Obligations.QueuesTakeTheirEvents := fun _ =>
  ⟨fun _ _ _ _ h good read entry => commandClaim_ok h good read entry,
    fun _ _ _ _ h good read entry => commandClaim_error h good read entry, fun _ => commandClaim_unreadable,
    fun _ => commandClaim_nothing, State.newCommand_joins, entriesInErrorHaveTheirCode,
    fun safe first wide small _ value => doorbellWrite_produces safe first wide small value, haltClear_clears,
    fun _ hn safe size small => registerWrite_queue hn safe size small, registerWrite_word, registerWrite_pair,
    fun _ _ _ _ _ _ waiting found unfinished unfenced h good => waitRecheck_reads waiting found unfinished unfenced h good⟩

end Sys2Proof.Machine

namespace Sys2Proof.Machine

/-! ### Bytes stored in memory (R234) -/

/-- A byte of memory after a list of bytes is stored. -/
theorem Memory.read_writeBytes (bs : List Byte) {m : Memory} (hm : Memory.wf m = true) (a x : Nat) :
    Memory.read (Memory.writeBytes m a bs) x = if a ≤ x ∧ x < a + bs.length then bs.getD (x - a) 0 else Memory.read m x := by
  induction bs generalizing m a with
  | nil =>
    have outside : ¬ (a ≤ x ∧ x < a + 0) := by omega
    exact (if_neg outside).symm
  | cons b bs ih =>
    simp only [Memory.writeBytes, ih (Memory.wf_write a b hm), Memory.read_write hm, List.length_cons]
    rcases Nat.lt_trichotomy x a with below | rfl | above
    · rw [if_neg (by omega), if_neg (by omega), if_neg (by omega)]
    · simp
    · obtain ⟨k, rfl⟩ : ∃ k, x = a + 1 + k := ⟨x - (a + 1), by omega⟩
      have rest : a + 1 + k - (a + 1) = k := by omega
      have all : a + 1 + k - a = k + 1 := by omega
      rw [rest, all, List.getD_cons_succ, if_neg (by omega : ¬ a + 1 + k = a)]
      exact if_congr (by omega) rfl rfl

theorem leBytes_getD (v n : Nat) {i : Nat} (h : i < n) : (leBytes v n).getD i 0 = BitVec.ofNat 8 (v / 256 ^ i) := by
  induction n generalizing v i with
  | zero => omega
  | succ n ih =>
    cases i with
    | zero => simp [leBytes]
    | succ i =>
      rw [leBytes, List.getD_cons_succ, ih (v / 256) (Nat.lt_of_succ_lt_succ h), Nat.div_div_eq_div_mul, Nat.pow_succ']

theorem stored_of_mem {s s' : State} {k n v : Nat} (hm : Memory.wf s.mem = true)
    (mem : s'.mem = Memory.writeBytes s.mem k (leBytes v n)) : Stored s s' k n v := by
  constructor
  · intro i hi
    rw [mem, Memory.read_writeBytes _ hm, if_pos (by simp [hi]), Nat.add_sub_cancel_left, leBytes_getD v n hi]
  · intro a ha
    rw [mem, Memory.read_writeBytes _ hm, if_neg (by rw [leBytes_length]; omega)]

/-! ### The commands of a state -/

theorem State.command?_id {s : State} {id : Nat} {c : Command} (h : s.command? id = some c) : c.id = id := by
  simpa using List.find?_some h

theorem State.command?_updCommand (s : State) (id : Nat) (f : Command → Command) (hf : ∀ c, (f c).id = c.id) :
    (s.updCommand id f).command? id = (s.command? id).map f := by
  have keep : ((·.id == id) ∘ fun c : Command => if c.id == id then f c else c) = (·.id == id) := by
    funext c
    simp only [Function.comp_apply]
    split <;> simp [hf]
  simp only [State.updCommand, State.command?, List.find?_map, keep]
  refine Option.map_congr fun c hc => ?_
  have : c.id = id := State.command?_id hc
  simp [this]

@[simp] theorem State.writeHome_commands (s : State) (x : Xlat) (bs : List Byte) : (s.writeHome x bs).commands = s.commands := by
  unfold State.writeHome
  split <;> rfl

@[simp] theorem State.finishCommand_mem (s : State) (c : Command) : (s.finishCommand c).mem = s.mem := by
  unfold State.finishCommand
  simp only
  split <;> rfl

theorem State.finishCommand_command? (s : State) (c : Command) : (s.finishCommand c).command? c.id =
    (s.command? c.id).map fun d => { d with finished := true, acted := true } := by
  have found := State.command?_updCommand s c.id (fun d => { d with finished := true, acted := true }) fun _ => rfl
  unfold State.finishCommand
  simp only
  split <;> exact found

/-- A command that no fence holds takes its step. -/
theorem withCommand_inFlight {s : State} {c : Command} (h : InFlight s c) (f : State → Command → State) :
    withCommand s f = .next (f s c) := by
  obtain ⟨found, unfinished, unfenced⟩ := h
  simp [withCommand, found, unfinished, unfenced]

/-! ### LAUNCH_GRAPH and LAUNCH_NODE (R9, R31, R36) -/

theorem launchGraph_acts {s s1 : State} {c : Command} (h : CmdHead) (roots recVA work : Addr) (count bytes : BitVec 64)
    {vas : List Nat} (flight : InFlight s c) (fresh : c.acted = false)
    (read : s.agentWords (agentOf c) c.ctx (count.toNat % 65) roots.toNat = (s1, some vas)) :
    exec (.launchGraph h roots count recVA work bytes) s = .next ((s1.makeRoots c vas).driveGraph c.id) := by
  show execLaunchGraph h roots count recVA work bytes s = _
  simp [execLaunchGraph, withCommand_inFlight flight, fresh, read]

theorem launchNode_acts {s : State} {c : Command} (h : CmdHead) (node recVA work : Addr) (bytes : BitVec 64)
    (flight : InFlight s c) (fresh : c.acted = false) :
    exec (.launchNode h node recVA work bytes) s = .next ((s.makeRoots c [node.toNat]).driveGraph c.id) := by
  obtain ⟨found, -, unfenced⟩ := flight
  show execLaunchNode h node recVA work bytes s = _
  simp [execLaunchNode, found, unfenced, fresh]

/-- The root launch of a command's node. -/
def Command.rootLaunch (c : Command) (id va : Nat) : Launch :=
  { id := id, ctx := c.ctx, cmd := c.id, cause := .command, node := { va := va }, dom := c.dom, share := c.share
    key := c.key, pool := c.pool, fired := none, q := c.q, replayable := Cause.command.isRoot }

/-- One root launch of a command is added. -/
def State.addRoot (s : State) (c : Command) (va : Nat) : State :=
  s.addLaunch c va .command c.dom c.share c.key c.pool none

theorem State.addRoot_command? {s : State} {c d : Command} (va : Nat) (h : s.command? c.id = some d) :
    (s.addRoot c va).command? c.id = some { d with launches := d.launches + 1 } := by
  have added := State.command?_updCommand { s with nextId := s.nextId + 1, launches := s.launches ++ [c.rootLaunch s.nextId va] }
    c.id (fun d => { d with launches := d.launches + 1 }) fun _ => rfl
  exact added.trans (congrArg (Option.map _) h)

theorem State.addRoots_mem (s : State) (c : Command) (vas : List Nat) : (vas.foldl (·.addRoot c ·) s).mem = s.mem :=
  foldl_of_step State.mem (·.addRoot c ·) (fun _ _ => rfl) vas s

theorem State.addRoots_launches (s : State) (c : Command) (vas : List Nat) : (vas.foldl (·.addRoot c ·) s).launches =
    s.launches ++ (vas.zipIdx s.nextId).map fun x => c.rootLaunch x.2 x.1 := by
  induction vas generalizing s with
  | nil => simp
  | cons va vas ih =>
    have launches : (s.addRoot c va).launches = s.launches ++ [c.rootLaunch s.nextId va] := rfl
    have nextId : (s.addRoot c va).nextId = s.nextId + 1 := rfl
    rw [List.foldl_cons, ih, launches, nextId]
    simp

theorem State.addRoots_command? {s : State} {c d : Command} (vas : List Nat) (h : s.command? c.id = some d) :
    (vas.foldl (·.addRoot c ·) s).command? c.id = some { d with launches := d.launches + vas.length } := by
  induction vas generalizing s d with
  | nil => exact h
  | cons va vas ih =>
    rw [List.foldl_cons, ih (State.addRoot_command? va h)]
    simp [Nat.add_assoc, Nat.add_comm 1]

theorem launchCommandsMakeTheirRoots : LaunchCommandsMakeTheirRoots := by
  intro s c vas found
  have marked := (State.command?_updCommand s c.id (fun c => { c with roots := vas, acted := true }) fun _ => rfl).trans
    (congrArg (Option.map _) found)
  refine ⟨State.addRoots_command? vas marked, State.addRoots_mem _ c vas, _, State.addRoots_launches _ c vas, ?_, ?_, ?_⟩
  · simp [Command.rootLaunch, Function.comp_def]
  · simp only [Command.rootLaunch, List.map_map, Function.comp_def]
    exact (List.zipIdx_map_snd ..).trans (List.range'_eq_map_range ..)
  · intro l hl
    obtain ⟨x, -, rfl⟩ := List.mem_map.1 hl
    exact ⟨rfl, rfl, rfl, rfl, rfl, rfl, rfl, rfl⟩

/-! ### SIGNAL, WAIT and TIMESTAMP (R36, R40, R41, R292) -/

/-- An agent's store at a page that holds memory is performed at home. -/
theorem State.agentWrite_ok {s : State} {c : Command} {va : Addr} {x : Xlat} (h : agentPuts s c va x) (bs : List Byte) :
    s.agentWrite (agentOf c) c.ctx va.toNat bs =
      ((s.writeHome x bs).updCommand c.id fun d => { d with mark := max d.mark (s.gwct x) }, true) := by
  obtain ⟨ok, imm, doorbell⟩ := h
  simp [State.agentWrite, State.unitWrite, ok, imm, doorbell, agentOf, State.markCommand]

/-- The command has stored its eight bytes and completed. -/
theorem State.storeAndFinish {s : State} {c : Command} {va : Addr} {x : Xlat} (found : s.command? c.id = some c)
    (h : agentPuts s c va x) (ok : s.MemOk) (v : Nat) :
    let s' := (s.agentWrite (agentOf c) c.ctx va.toNat (leBytes v 8)).1.finishCommand c
    Ended s' c ∧ Stored s s' x.key 8 v := by
  rw [State.agentWrite_ok h]
  constructor
  · have at_ : ((s.writeHome x (leBytes v 8)).updCommand c.id fun d => { d with mark := max d.mark (s.gwct x) }).command? c.id =
        some { c with mark := max c.mark (s.gwct x) } := by
      rw [State.command?_updCommand]
      · simp only [State.command?, State.writeHome_commands] at found ⊢
        simp [found]
      · exact fun _ => rfl
    refine ⟨_, (State.finishCommand_command? _ c).trans (congrArg (Option.map _) at_), rfl, rfl, rfl, rfl, rfl⟩
  · refine stored_of_mem ok.1 ?_
    rw [State.finishCommand_mem]
    exact State.writeHome_mem s x _

theorem InFlight.self {s : State} {c : Command} (h : InFlight s c) : s.command? c.id = some c := by
  obtain ⟨found, -⟩ := h
  rw [State.command?_id found]
  exact found

theorem agentReleased.sysReleased {s : State} {c : Command} (h : agentReleased s c) : s.sysReleased c.q c.id = true := by
  obtain ⟨lock, marks⟩ := h
  have each (d : Command) (hd : d ∈ s.commands) :
      (d.q != c.q || decide (c.id < d.id) || decide (d.mark + 20 ≤ s.time) || d.mark == 0) = true := by
    by_cases q : d.q = c.q
    · by_cases late : c.id < d.id
      · simp [late]
      · rcases marks d hd q (Nat.not_lt.1 late) with h | h <;> simp [h]
    · simp [q]
  simpa [State.sysReleased, State.sysReady, lock] using each

theorem signal_stores {s : State} {c : Command} (h : CmdHead) {va : Addr} (value : BitVec 64) {x : Xlat} (flight : InFlight s c)
    (first : noneEarlier s c) (released : agentReleased s c) (puts : agentPuts s c va x) (ok : s.MemOk) :
    ∃ s', exec (.signal h va value) s = .next s' ∧ Ended s' c ∧ Stored s s' x.key 8 value.toNat := by
  refine ⟨_, ?_, State.storeAndFinish flight.self puts ok value.toNat⟩
  show execSignal h va value s = _
  unfold noneEarlier at first
  simp [execSignal, withCommand_inFlight flight, first, released.sysReleased, State.agentWrite_ok puts]

theorem timestamp_stores {s : State} {c : Command} (h : CmdHead) {va : Addr} {x : Xlat} (flight : InFlight s c)
    (first : h.after = true → noneEarlier s c) (puts : agentPuts s c va x) (ok : s.MemOk) :
    ∃ s', exec (.timestamp h va) s = .next s' ∧ Ended s' c ∧ Stored s s' x.key 8 s.time := by
  refine ⟨_, ?_, State.storeAndFinish flight.self puts ok s.time⟩
  have go : (h.after && s.earlierOpen c) = false := by
    cases after : h.after with
    | false => rfl
    | true => exact first after
  show execTimestamp h va s = _
  simp only [execTimestamp, withCommand_inFlight flight, go, State.agentWrite_ok puts, Bool.false_eq_true, if_false]

theorem wait_reads {s : State} {c : Command} (h : CmdHead) (va : Addr) (threshold : BitVec 64) {x : Xlat} (flight : InFlight s c)
    (read : s.unitXlat c.ctx true .read va.toNat = .ok x) (good : s.xlatBad x 8 = false) :
    exec (.wait h va threshold) s = .next (if threshold.toNat ≤ leNat (s.homeBytes x 8) then
        (s.updQueue c.q fun q => { q with waiting := none }).finishCommand c
      else s.updQueue c.q fun q => { q with waiting := some (va.toNat, threshold.toNat, c.id, s.time) }) := by
  rw [← State.readWait_ok read good]
  exact withCommand_inFlight flight fun s c => s.readWait c va.toNat threshold.toNat

/-! ### SET_DOMAIN and PARTITION (R37, R55, R56) -/

/-- Equal frames have the same entries, in every field but the pool pages in use. -/
theorem State.field_of_frame {α : Type} {s s' : State} (h : s'.frame = s.frame) (g : Context → α)
    (hg : ∀ x, g { x with used := 0 } = g x) (n : Nat) : g (s'.context n) = g (s.context n) := by
  have entry : { s'.context n with used := 0 } = { s.context n with used := 0 } := congrFun (congrArg Frame.entry h) n
  rw [← hg, entry, hg]

/-- Every context's entry is rewritten; the entry of a context that is not listed is blank. -/
theorem State.context_mapContexts (s : State) (n : Nat) {g : Context → Context} (hg : ∀ x, (g x).id = x.id)
    (blank : g { id := n } = { id := n }) : ({ s with contexts := s.contexts.map g } : State).context n = g (s.context n) := by
  simp only [State.context, find?_map_entry _ n hg]
  cases s.contexts.find? (·.id == n) with
  | none => exact blank.symm
  | some x => rfl

/-- EXCL takes the clusters of `mask` out of the mask of every context but `ctx`. -/
def Context.without (ctx mask : Nat) (x : Context) : Context :=
  if x.id == ctx then x else { x with mask := x.mask - (x.mask &&& mask) }

theorem Context.without_id (ctx mask : Nat) (x : Context) : (x.without ctx mask).id = x.id := by
  unfold Context.without
  split <;> rfl

theorem Context.without_blank (ctx mask n : Nat) : ({ id := n } : Context).without ctx mask = { id := n } := by
  unfold Context.without
  split <;> simp

/-- The entries that a PARTITION writes, before they take effect on the clusters. -/
def State.writePartition (s : State) (ctx mask : Nat) (excl : Bool) (slice root pool pages : Nat) : State :=
  let s := s.updContext ctx fun x => { x with
    mask := mask, excl := excl, slice := slice, root := root, pool := pool, pages := pages }
  if excl then { s with contexts := s.contexts.map (Context.without ctx mask) } else s

theorem State.writePartition_context (s : State) (ctx mask : Nat) (excl : Bool) (slice root pool pages n : Nat) :
    (s.writePartition ctx mask excl slice root pool pages).context n =
      if n = ctx then { s.context ctx with mask := mask, excl := excl, slice := slice, root := root, pool := pool, pages := pages }
      else if excl then { s.context n with mask := (s.context n).mask - ((s.context n).mask &&& mask) }
      else s.context n := by
  have written := s.context_updContext ctx n
    (fun x => { x with mask := mask, excl := excl, slice := slice, root := root, pool := pool, pages := pages }) fun _ => rfl
  have id := s.context_id n
  cases excl with
  | false =>
    refine written.trans ?_
    split
    next this => rw [this]
    next => rfl
  | true =>
    refine (State.context_mapContexts _ n (Context.without_id ctx mask) (Context.without_blank ctx mask n)).trans ?_
    rw [written]
    split
    next this => simp [Context.without, this, s.context_id]
    next other => simp [Context.without, id, other]

theorem State.reloadRoots_frame (s : State) (ctx : Nat) : (s.reloadRoots ctx).frame = s.frame := by
  refine foldl_frame (fun s cl => State.ite_frame rfl ?_) _ _
  refine foldl_frame (fun s co => ?_) _ _
  exact State.ite_frame rfl rfl

theorem State.teardown_frame (s : State) (ctx : Nat) : (s.teardown ctx).frame = s.frame :=
  foldl_frame (fun (s : State) (t : Team) => s.killTeam_frame t.id) _ s

theorem State.partition_frame (s : State) (ctx mask : Nat) (excl : Bool) (slice root pool pages : Nat) :
    (s.partition ctx mask excl slice root pool pages).frame = (s.writePartition ctx mask excl slice root pool pages).frame := by
  refine (foldl_frame (fun s cl => State.ite_frame rfl ?_) _ _).trans ?_
  · exact ((s.enforceMask cl).afterDeparture_frame cl).trans (s.enforceMask_frame cl)
  · have loaded := (s.writePartition ctx mask excl slice root pool pages).reloadRoots_frame ctx
    exact (State.ite_frame (State.teardown_frame _ ctx) rfl).trans loaded

theorem partitionsWriteTheContext : PartitionsWriteTheContext := by
  intro s ctx mask excl slice root pool pages s' x
  have field {α : Type} (g : Context → α) (hg : ∀ x, g { x with used := 0 } = g x) (n : Nat) :=
    (State.field_of_frame (s.partition_frame ctx mask excl slice root pool pages) g hg n).trans
      (congrArg g (s.writePartition_context ctx mask excl slice root pool pages n))
  have own {α : Type} (g : Context → α) (hg : ∀ x, g { x with used := 0 } = g x) :=
    (field g hg ctx).trans (congrArg g (if_pos rfl))
  refine ⟨own (·.mask) fun _ => rfl, own (·.excl) fun _ => rfl, own (·.slice) fun _ => rfl, own (·.root) fun _ => rfl,
    own (·.pool) fun _ => rfl, own (·.pages) fun _ => rfl, own (·.dom) fun _ => rfl, own (·.key) fun _ => rfl,
    own (·.share) fun _ => rfl, fun n other => ?_⟩
  have others {α : Type} (g : Context → α) (hg : ∀ x, g { x with used := 0 } = g x) :=
    (field g hg n).trans (congrArg g (if_neg other))
  cases excl <;> exact ⟨others (·.mask) fun _ => rfl, others (·.root) fun _ => rfl, others (·.pool) fun _ => rfl,
    others (·.pages) fun _ => rfl, others (·.slice) fun _ => rfl⟩

theorem setDomain_writes {s : State} {c : Command} (h : CmdHead) (dom : BitVec 12) (share : Bool) (key : BitVec 128)
    (flight : InFlight s c) : exec (.setDomain h dom share key) s =
      .next ((s.updContext c.ctx fun x => { x with dom := dom.toNat, share := share, key := key }).finishCommand c) :=
  withCommand_inFlight flight fun s c =>
    (s.updContext c.ctx fun x => { x with dom := dom.toNat, share := share, key := key }).finishCommand c

theorem partition_writes {s : State} {c : Command} (h : CmdHead) (ctx mask : BitVec 8) (excl : Bool) (slice : BitVec 7)
    (root : BitVec 64) (pool : Addr) (pages : BitVec 64) (flight : InFlight s c) :
    exec (.partition h ctx mask excl slice root pool pages) s =
      .next ((s.partition ctx.toNat mask.toNat excl slice.toNat root.toNat pool.toNat pages.toNat).finishCommand c) :=
  withCommand_inFlight flight fun s c =>
    (s.partition ctx.toNat mask.toNat excl slice.toNat root.toNat pool.toNat pages.toNat).finishCommand c

/-- Settles O16: one lemma per command; what a PARTITION sets in motion keeps every entry but its pool pages in use. -/
theorem commandsHaveTheirEffect : Obligations.CommandsHaveTheirEffect := fun _ _ h =>
  ⟨fun roots recVA work count bytes _ _ flight fresh read => launchGraph_acts h roots recVA work count bytes flight fresh read,
    fun node recVA work bytes flight fresh => launchNode_acts h node recVA work bytes flight fresh,
    launchCommandsMakeTheirRoots,
    fun _ value _ flight first released puts ok => signal_stores h value flight first released puts ok,
    fun va threshold _ flight read good reached =>
      (wait_reads h va threshold flight read good).trans (congrArg _ (if_pos reached)),
    fun va threshold _ flight read good below =>
      (wait_reads h va threshold flight read good).trans (congrArg _ (if_neg (Nat.not_le.2 below))),
    fun _ _ flight first puts ok => timestamp_stores h flight first puts ok,
    fun dom share key flight => setDomain_writes h dom share key flight, partitionsWriteTheContext,
    fun ctx mask excl slice root pool pages flight => partition_writes h ctx mask excl slice root pool pages flight⟩

end Sys2Proof.Machine

namespace Sys2Proof.Machine

/-! ### Room on a core (R60) -/

theorem mem_quadSlots {q x : Nat} : x ∈ quadSlots q ↔ x / 16 = q ∧ x ≠ 63 := by
  simp only [quadSlots, agentSlot, List.mem_filter, List.mem_map, List.mem_range, bne_iff_ne]
  constructor
  · rintro ⟨⟨k, hk, rfl⟩, h⟩
    exact ⟨by omega, h⟩
  · rintro ⟨h, h63⟩
    exact ⟨⟨x % 16, by omega, by omega⟩, h63⟩

/-- The slots taken for a list of quadrants: one in each quadrant of the list, all different and none of those in use. -/
theorem takeSlots_spec {used qs ss : List Nat} (h : takeSlots used qs = some ss) :
    List.Forall₂ (fun q x => x / 16 = q ∧ x ≠ 63) qs ss ∧ ss.Nodup ∧ ∀ x ∈ ss, x ∉ used := by
  induction qs generalizing used ss with
  | nil =>
    obtain rfl := Option.some.inj h
    exact ⟨.nil, .nil, fun x hx => absurd hx List.not_mem_nil⟩
  | cons q qs ih =>
    rw [takeSlots] at h
    split at h
    · cases h
    · rename_i k found
      obtain ⟨ks, rest, rfl⟩ := Option.map_eq_some_iff.1 h
      obtain ⟨quads, nodup, unused⟩ := ih rest
      have free : k ∉ used := by simpa using List.find?_some found
      refine ⟨.cons (mem_quadSlots.1 (List.mem_of_find?_eq_some found)) quads, List.nodup_cons.2 ⟨fun hk => ?_, nodup⟩, ?_⟩
      · exact unused k hk List.mem_cons_self
      · exact List.forall_mem_cons.2 ⟨free, fun x hx hu => unused x hx (List.mem_cons_of_mem _ hu)⟩

/-- A free run starts at a granule, lies within the scratchpad and meets no other run. -/
theorem freeRun_spec {runs : List (Nat × Nat)} {len a : Nat} (h : freeRun runs len = some a) :
    a % 4096 = 0 ∧ a + len ≤ 262144 ∧ ∀ r ∈ runs, a + len ≤ r.1 ∨ r.1 + r.2 ≤ a := by
  have granule := List.mem_of_find?_eq_some h
  have fits := List.find?_some h
  simp only [List.mem_map, List.mem_range] at granule
  simp only [Bool.and_eq_true, decide_eq_true_eq, Bool.not_eq_true', List.any_eq_false, not_and, Nat.not_lt] at fits
  obtain ⟨k, -, rfl⟩ := granule
  refine ⟨Nat.mul_mod_left k 4096, fits.1, fun r hr => ?_⟩
  have := fits.2 r hr
  omega

/-- The sum that a fold over teams collects. -/
theorem foldl_add_eq_sum {α : Type} (f : α → Nat) (l : List α) (n : Nat) : l.foldl (fun n t => n + f t) n = n + (l.map f).sum := by
  induction l generalizing n with
  | nil => rfl
  | cons t l ih => simp [ih, Nat.add_assoc]

theorem Prog.runLen_ne_zero {p : Prog} (h : p.scratch ≠ 0) : p.runLen ≠ 0 := by
  unfold Prog.runLen roundUp
  omega

/-- What a found room has been tested for. -/
theorem roomFor_eq_some {ts : List Team} {p : Prog} {a : Assign} (h : roomFor ts p = some a) :
    ((∀ q < 4, (ts.map fun t => t.prog.inQuad q * (t.prog.vregs / 8)).sum + p.inQuad q * (p.vregs / 8) ≤ 64) ∧
      (ts.map fun t => t.prog.acc).sum + p.acc ≤ 8 ∧ (ts.map fun t => t.prog.planes).sum + p.planes ≤ 4 ∧
      (ts.map fun t => t.prog.queues).sum + p.queues ≤ 16) ∧
    takeSlots (ts.flatMap fun t => t.slots.filter (· < 64)) ((List.range p.warpCount).map (· % 4)) = some a.slots ∧
    (p.runLen ≠ 0 → freeRun (ts.map fun t => (t.run, t.prog.runLen)) p.runLen = some a.run) := by
  simp only [roomFor, foldl_add_eq_sum, Nat.zero_add] at h
  split at h
  · cases h
  · rename_i fits
    split at h
    · rename_i ss r slots run
      obtain rfl := Option.some.inj h
      simp only [Bool.or_eq_true, decide_eq_true_eq, Bool.not_eq_true', List.all_eq_false, List.mem_range, not_or, not_exists,
        not_and, not_not, Nat.not_lt] at fits
      obtain ⟨⟨⟨blocks, acc⟩, planes⟩, queues⟩ := fits
      refine ⟨⟨blocks, acc, planes, queues⟩, slots, fun long => ?_⟩
      rwa [if_neg long] at run
    · cases h

theorem roomIsWithinTheCore : RoomIsWithinTheCore := by
  intro ts p a room
  obtain ⟨⟨blocks, acc, planes, queues⟩, slots, run⟩ := roomFor_eq_some room
  obtain ⟨quads, nodup, unused⟩ := takeSlots_spec slots
  refine ⟨⟨by simpa using quads.length_eq.symm, nodup, fun k hk x hx => ?_⟩, blocks, acc, planes, queues, fun long => ?_⟩
  · obtain ⟨inside, rfl⟩ := List.getElem?_eq_some_iff.1 hx
    have quad := quads.get (by simpa using hk) inside
    simp only [List.get_eq_getElem, List.getElem_map, List.getElem_range] at quad
    have below : a.slots[k] < 63 := by omega
    refine ⟨quad.1, below, fun t ht held => unused a.slots[k] (List.getElem_mem inside) ?_⟩
    exact List.mem_flatMap.2 ⟨t, ht, List.mem_filter.2 ⟨held, by simp; omega⟩⟩
  · obtain ⟨granule, inside, apart⟩ := freeRun_spec (run (Prog.runLen_ne_zero long))
    exact ⟨granule, inside, fun t ht _ => apart (t.run, t.prog.runLen) (List.mem_map_of_mem ht)⟩

/-! ### Placing a claimed team (R61, R62) -/

/-- What a team holds of its core, and how many warps it has. -/
def Team.holding (t : Team) : Place × List Nat × Nat × Nat := (t.place, t.slots, t.run, t.warps.length)

/-- What every team holds, and memory. -/
def State.holdings (s : State) : (Nat → Option (Place × List Nat × Nat × Nat)) × Memory :=
  (fun tm => (s.team? tm).map Team.holding, s.mem)

theorem State.updTeam_holdings (s : State) (id : Nat) {f : Team → Team} (hid : ∀ t, (f t).id = t.id)
    (h : ∀ t, (f t).holding = t.holding) : (s.updTeam id f).holdings = s.holdings := by
  refine Prod.ext (funext fun tm => ?_) rfl
  simp only [State.holdings, State.team?_updTeam s id tm f hid, Option.map_map]
  congr 1
  funext t
  simp only [Function.comp_apply]
  split
  · exact h t
  · rfl

/-- Starting teams leaves what they hold. -/
theorem State.startTeam_holdings (s : State) (tm cl : Nat) : (s.startTeam tm cl).holdings = s.holdings :=
  State.updTeam_holdings (s.updCluster cl _) tm (fun _ => rfl) fun t => by simp [Team.holding]

theorem startAll_holdings (cl : Nat) (gs : List (List Team)) (s : State) : (startAll cl gs s).holdings = s.holdings := by
  have group (g : List Team) (s : State) : (g.foldl (fun s t => s.startTeam t.id cl) s).holdings = s.holdings :=
    foldl_of_step State.holdings _ (fun s t => s.startTeam_holdings t.id cl) g s
  induction gs generalizing s with
  | nil => rfl
  | cons g gs ih =>
    unfold startAll
    simp only
    split
    · exact (ih _).trans (group g s)
    · split
      · exact group g s
      · rfl

theorem State.rampStart_holdings (s : State) (cl : Nat) : (s.rampStart cl).holdings = s.holdings := startAll_holdings cl _ s

theorem State.writeScratch_holdings (s : State) (tm a : Nat) (bs : List Byte) : (s.writeScratch tm a bs).holdings = s.holdings :=
  State.updTeam_holdings s tm (fun _ => rfl) fun _ => rfl

/-- A placed team holds what its room says. -/
theorem State.placeTeam_holdings {s : State} {tm : Nat} {t : Team} (h : s.team? tm = some t) (cl co : Nat) (a : Assign) :
    (s.placeTeam tm cl co a).holdings.1 tm = some (.resident cl co, a.slots, a.run, t.warps.length) ∧
      (s.placeTeam tm cl co a).mem = s.mem := by
  have batch (s : State) (bs : List Byte) :
      ((s.updTeam tm fun t => { t with scratch := [] }).writeScratch tm 0 bs).holdings = s.holdings :=
    (State.writeScratch_holdings _ _ _ _).trans (State.updTeam_holdings s tm (fun _ => rfl) fun _ => rfl)
  have given {s' : State} (g : Team → Team) (hid : ∀ t, (g t).id = t.id) (teams : s'.teams = s.teams)
      (hold : (g t).holding = (.resident cl co, a.slots, a.run, t.warps.length)) :
      (s'.updTeam tm g).holdings.1 tm = some (.resident cl co, a.slots, a.run, t.warps.length) := by
    simp only [State.holdings, State.team?_updTeam_self ((State.team?_of_teams teams tm).trans h) g hid, Option.map_some, hold]
  simp only [State.placeTeam, h, State.fresh]
  split
  · constructor
    · rw [batch]
      exact given _ (fun _ => rfl) rfl rfl
    · simp only [State.writeScratch, State.updTeam_mem, State.loadRoot, State.updCore_mem]
  · constructor
    · exact given _ (fun _ => rfl) rfl rfl
    · simp only [State.updTeam_mem, State.loadRoot, State.updCore_mem]

theorem claimedTeamsArePlaced : ClaimedTeamsArePlaced := by
  intro s tm cl co t a c0 k0 _ found claimed on serves room
  have id : t.id = tm := State.team?_id found
  have placed : s.tryCore tm cl co = some ((s.placeTeam tm cl co a).rampStart cl) := by
    simp [State.tryCore, State.give, State.settle, found, claimed, on, serves, room, id]
  obtain ⟨hold, mem⟩ := State.placeTeam_holdings found cl co a
  have kept := (s.placeTeam tm cl co a).rampStart_holdings cl
  rw [← kept] at hold
  obtain ⟨t', found', hold'⟩ := Option.map_eq_some_iff.1 hold
  simp only [Team.holding, Prod.mk.injEq] at hold'
  obtain ⟨place, slots, run, warps⟩ := hold'
  exact ⟨_, t', placed, found', place, slots, run, warps, (congrArg Prod.snd kept).trans mem⟩

/-- Settles O53: a found room has passed its tests, and starting the placed team leaves what it holds. -/
theorem teamsArePlacedWithinTheCore : Obligations.TeamsArePlacedWithinTheCore :=
  ⟨roomIsWithinTheCore, claimedTeamsArePlaced⟩

end Sys2Proof.Machine

namespace Sys2Proof.Machine

/-! ### Reading an updated warp or thread -/

theorem Team.warp_updWarp {t : Team} {w : Nat} (h : w < t.warps.length) (f : Warp → Warp) :
    (t.updWarp w f).warp w = f (t.warp w) := by
  simp only [Team.warp, Team.updWarp, updAt_getD, h, and_self, if_true]

theorem Team.warp_updWarp_of_ne {w w' : Nat} (h : w ≠ w') (t : Team) (f : Warp → Warp) : (t.updWarp w f).warp w' = t.warp w' := by
  simp only [Team.warp, Team.updWarp, updAt_getD, h, false_and, if_false]

theorem Warp.thread_updThread {wp : Warp} {l : Nat} (h : l < wp.threads.length) (f : Thread → Thread) :
    (wp.updThread l f).thread l = f (wp.thread l) := by
  simp only [Warp.thread, Warp.updThread, updAt_getD, h, and_self, if_true]

theorem Warp.thread_updThread_of_ne {l l' : Nat} (h : l ≠ l') (wp : Warp) (f : Thread → Thread) :
    (wp.updThread l f).thread l' = wp.thread l' := by
  simp only [Warp.thread, Warp.updThread, updAt_getD, h, false_and, if_false]

theorem Team.thread_updThread {t : Team} {w l : Nat} (hw : w < t.warps.length) (hl : l < (t.warp w).threads.length)
    (f : Thread → Thread) : (t.updThread w l f).thread w l = f (t.thread w l) := by
  rw [Team.thread, Team.updThread, Team.warp_updWarp hw, Warp.thread_updThread hl]
  rfl

/-- An update of a thread leaves what it keeps of every thread. -/
theorem Team.thread_updThread_of {α : Type} (g : Thread → α) {f : Thread → Thread} (hf : ∀ th, g (f th) = g th) (t : Team)
    (w l w' l' : Nat) : g ((t.updThread w l f).thread w' l') = g (t.thread w' l') := by
  simp only [Team.thread, Team.updThread, Team.warp, Team.updWarp, Warp.thread, updAt_getD]
  split
  · simp only [Warp.updThread, updAt_getD]
    split
    · exact hf _
    · rfl
  · rfl

theorem State.team?_updWarp {s : State} {tm : Nat} {t : Team} (h : s.team? tm = some t) (w : Nat) (f : Warp → Warp) :
    (s.updWarp tm w f).team? tm = some (t.updWarp w f) := State.team?_updTeam_self h _ fun _ => rfl

theorem State.team?_updThread {s : State} {tm : Nat} {t : Team} (h : s.team? tm = some t) (w l : Nat) (f : Thread → Thread) :
    (s.updThread tm w l f).team? tm = some (t.updThread w l f) := State.team?_updTeam_self h _ fun _ => rfl

theorem State.thread_of_team? {s : State} {tm : Nat} {t : Team} (h : s.team? tm = some t) (w l : Nat) :
    s.thread tm w l = t.thread w l := by
  simp only [State.thread, h, Option.map_some, Option.getD_some]

/-! ### What equal data say of a team -/

/-- Two states of equal data have the same teams but for where their threads stand. -/
theorem State.team?_of_data {s s' : State} (h : s'.data = s.data) {tm : Nat} {t : Team} (found : s.team? tm = some t) :
    ∃ t', s'.team? tm = some t' ∧ t'.data = t.data := by
  have named : ((·.id == tm) ∘ Team.data) = fun t : Team => t.id == tm := rfl
  have look (s : State) : (s.data.teams.find? fun t => t.id == tm) = (s.team? tm).map Team.data := by
    simp only [State.data, List.find?_map, named, State.team?]
  have same := look s'
  rw [h, look s, found] at same
  obtain ⟨t', found', data⟩ := Option.map_eq_some_iff.1 same.symm
  exact ⟨t', found', data⟩

theorem State.mem_of_data {s s' : State} (h : s'.data = s.data) : s'.mem = s.mem := by
  have mem := congrArg State.mem h
  exact mem

theorem Team.warp_data (t : Team) (w : Nat) : t.data.warp w = (t.warp w).data := by
  simp only [Team.warp, Team.data, List.getD_eq_getElem?_getD, List.getElem?_map]
  cases t.warps[w]? <;> rfl

theorem Team.thread_data (t : Team) (w l : Nat) : t.data.thread w l = (t.thread w l).data := by
  simp only [Team.thread, Team.warp_data, Warp.thread, Warp.data, List.getD_eq_getElem?_getD, List.getElem?_map]
  cases (t.warp w).threads[l]? <;> rfl

theorem Team.warp_of_data {t t' : Team} (h : t'.data = t.data) (w : Nat) : (t'.warp w).data = (t.warp w).data := by
  rw [← Team.warp_data, h, Team.warp_data]

theorem Team.thread_of_data {t t' : Team} (h : t'.data = t.data) (w l : Nat) : (t'.thread w l).data = (t.thread w l).data := by
  rw [← Team.thread_data, h, Team.thread_data]

/-! ### Threads that go on (R99, R107) -/

/-- A thread of a warp keeps its position while the groups of its warp are tested. -/
theorem Warp.settleMeetings_pos (wp : Warp) (l : Nat) : (wp.settleMeetings.thread l).pos = (wp.thread l).pos := by
  simp only [Warp.thread, Warp.settleMeetings, List.getD_eq_getElem?_getD, List.getElem?_map]
  cases wp.threads[l]? with
  | none => rfl
  | some th =>
    simp only [Option.map_some, Option.getD_some]
    split <;> rfl

@[simp] theorem Thread.arriveAt_pos (th : Thread) (hdr : Nat) (prog : Prog) (clk now : Nat) :
    (th.arriveAt hdr prog clk now).pos = { hdr := hdr } := by
  simp only [Thread.arriveAt]
  split <;> rfl

theorem State.arrive_pos {s : State} {t : Team} {w l : Nat} (found : s.team? t.id = some t) (hw : w < t.warps.length)
    (hl : l < (t.warp w).threads.length) (hdr : Nat) :
    ∃ t', (s.arrive t.id w l hdr).team? t.id = some t' ∧ (t'.thread w l).pos = { hdr := hdr % 2 ^ 64 } := by
  simp only [State.arrive, found]
  refine ⟨_, State.team?_updWarp ((State.team?_of_teams (s.unbundle_teams t.id w l) t.id).trans found) w _, ?_⟩
  rw [Team.thread, Team.warp_updWarp hw, Warp.settleMeetings_pos, Warp.thread_updThread hl, Thread.arriveAt_pos]

/-- Where a thread that has done a word of one word stands: at the next place of its clause, or at the header after it. -/
theorem State.advance_pos {s : State} {t : Team} {w l : Nat} (found : s.team? t.id = some t) (hw : w < t.warps.length)
    (hl : l < (t.warp w).threads.length) (cnt : Option Nat) :
    let th := t.thread w l
    let q := nextPos th.pos 1 th.clauseN cnt
    ∃ t', (s.advance t.id w l 1 cnt).team? t.id = some t' ∧
      (q.hdr = th.pos.hdr → (t'.thread w l).pos = q ∧ (t'.thread w l).wait = .none) ∧
      (q.hdr ≠ th.pos.hdr → (t'.thread w l).pos = { hdr := q.hdr % 2 ^ 64 }) := by
  intro th q
  simp only [State.advance, State.thread_of_team? found]
  split
  · rename_i stays
    refine ⟨_, State.team?_updThread found w l _, fun _ => ?_, fun goes => absurd stays goes⟩
    rw [Team.thread_updThread hw hl]
    exact ⟨rfl, rfl⟩
  · rename_i goes
    obtain ⟨t', found', pos⟩ := State.arrive_pos found hw hl q.hdr
    exact ⟨t', found', fun stays => absurd stays goes, fun _ => pos⟩

theorem nextPos_repeats {p : Pos} {i k : Nat} (rep : p.rep = some i) (more : i < k) (len n : Nat) :
    nextPos p len n (some k) = { p with rep := some (i + 1) } := by
  simp only [nextPos, rep, if_pos more]

theorem nextPos_goes {p : Pos} {cnt : Option Nat} (last : ∀ i k, p.rep = some i → cnt = some k → k ≤ i) (n : Nat) :
    nextPos p 1 n cnt = if p.word < n then { hdr := p.hdr, word := p.word + 1 } else { hdr := p.hdr + 4 * (1 + n), word := 1 } := by
  unfold nextPos
  simp only [Nat.add_one_le_iff]
  split
  · rename_i i k rep
    rw [if_neg (Nat.not_lt.2 (last i k rep rfl))]
  · rfl

theorem threadsGoOnWordByWord : ThreadsGoOnWordByWord := by
  intro s t w l cnt found hw hl th s'
  obtain ⟨t', found', stays, goes⟩ := State.advance_pos found hw hl cnt
  have data : s'.data = s.data := s.advance_data t.id w l 1 cnt
  obtain ⟨u, foundu, teamData⟩ := State.team?_of_data data found
  obtain rfl : u = t' := Option.some.inj (foundu.symm.trans found')
  refine ⟨u, found', Team.thread_of_data teamData w l, State.mem_of_data data, fun i k rep count more => ?_, fun last => ⟨?_, ?_⟩⟩
  · subst count
    rw [nextPos_repeats rep more] at stays
    exact stays rfl
  · intro inside
    rw [nextPos_goes last, if_pos inside] at stays
    exact stays rfl
  · intro done
    rw [nextPos_goes last, if_neg (Nat.not_lt.2 done)] at goes
    have beyond : th.pos.hdr + 4 * (1 + th.clauseN) ≠ th.pos.hdr := by omega
    exact goes beyond

/-! ### Exited threads (R132) -/

/-- Which threads have exited and how deep their return stacks are, and memory. -/
def Team.ends (t : Team) : Nat × List (List (Bool × Nat)) :=
  (t.id, t.warps.map fun w => w.threads.map fun th => (th.exited, th.rsd))
def State.ends (s : State) : List (Nat × List (List (Bool × Nat))) × Memory := (s.teams.map Team.ends, s.mem)

theorem Team.ends_data (t : Team) : t.data.ends = t.ends := by
  simp only [Team.ends, Team.data, List.map_map]
  refine Prod.ext rfl (List.map_congr_left fun w _ => ?_)
  exact List.map_map

theorem State.ends_of_data {s s' : State} (h : s'.data = s.data) : s'.ends = s.ends := by
  have keep (s : State) : s.data.ends = s.ends := by
    simp only [State.ends, State.data, List.map_map]
    congr 1
    exact List.map_congr_left fun t _ => t.ends_data
  rw [← keep, h, keep]

theorem State.updTeam_ends (s : State) (id : Nat) (f : Team → Team) (h : ∀ t, (f t).ends = t.ends) :
    (s.updTeam id f).ends = s.ends := by
  simp only [State.ends, State.updTeam, List.map_map]
  congr 1
  refine List.map_congr_left fun t _ => ?_
  simp only [Function.comp_apply]
  split
  · exact h t
  · rfl

/-- Two updates that leave the same of every element. -/
theorem updAt_map_congr {α β : Type} (g : α → β) {f f' : α → α} (h : ∀ x, g (f x) = g (f' x)) (l : List α) (i : Nat) :
    (updAt l i f).map g = (updAt l i f').map g := by
  induction l generalizing i with
  | nil => rfl
  | cons x l ih => cases i <;> simp [updAt, h, ih]

theorem State.updTeam_ends_congr {s s' : State} (teams : s'.teams = s.teams) (mem : s'.mem = s.mem) (id : Nat) {f g : Team → Team}
    (h : ∀ t, (f t).ends = (g t).ends) : (s'.updTeam id f).ends = (s.updTeam id g).ends := by
  simp only [State.ends, State.updTeam, teams, mem, List.map_map]
  congr 1
  refine List.map_congr_left fun t _ => ?_
  simp only [Function.comp_apply]
  split
  · exact h t
  · rfl

theorem State.updThread_ends (s : State) (tm w l : Nat) (f : Thread → Thread) (hx : ∀ th, (f th).exited = th.exited)
    (hr : ∀ th, (f th).rsd = th.rsd) : (s.updThread tm w l f).ends = s.ends := by
  refine s.updTeam_ends tm _ fun t => Prod.ext rfl ?_
  refine updAt_map_of _ _ (fun wp => ?_) t.warps w
  exact updAt_map_of _ f (fun th => Prod.ext (hx th) (hr th)) wp.threads l

theorem State.releaseBarrier_ends (s : State) (tm : Nat) (cohort : Bool) : (s.releaseBarrier tm cohort).ends = s.ends := by
  unfold State.releaseBarrier
  split
  · rfl
  · refine foldl_of_step State.ends _ (fun s m => ?_) _ s
    simp only
    split
    · refine (State.ends_of_data (State.advance_data _ _ _ _ _ _)).trans ?_
      exact State.updThread_ends _ _ _ _ _ (fun _ => rfl) fun _ => rfl
    · rfl

theorem State.settleBarT_ends (s : State) (tm : Nat) : (s.settleBarT tm).ends = s.ends := by
  unfold State.settleBarT
  split
  · rfl
  · split
    · refine (State.updTeam_ends _ tm _ ?_).trans (s.releaseBarrier_ends tm false)
      exact fun _ => rfl
    · rfl

theorem State.settleBarC_ends (s : State) (tm : Nat) : (s.settleBarC tm).ends = s.ends := by
  unfold State.settleBarC
  split
  · rfl
  · simp only
    split
    · refine foldl_of_step State.ends _ (fun s u => ?_) _ s
      refine (State.updTeam_ends _ _ _ ?_).trans (s.releaseBarrier_ends u.id true)
      exact fun _ => rfl
    · rfl

theorem State.closeStream_ends (s : State) (tm q : Nat) : (s.closeStream tm q).ends = s.ends := by
  have closed : (s.updStream tm q Stream.close).ends = s.ends := s.updTeam_ends tm _ fun _ => rfl
  unfold State.closeStream
  simp only
  split
  · exact closed
  · exact closed

/-- What a state's ends say of one thread. -/
theorem State.thread_ends {s s' : State} (h : s'.ends = s.ends) {tm : Nat} {t : Team} (found : s.team? tm = some t) :
    ∃ t', s'.team? tm = some t' ∧ ∀ w l, ((t'.thread w l).exited, (t'.thread w l).rsd) = ((t.thread w l).exited, (t.thread w l).rsd) := by
  have named : ((·.1 == tm) ∘ Team.ends) = fun t : Team => t.id == tm := rfl
  have look (s : State) : (s.ends.1.find? fun x => x.1 == tm) = (s.team? tm).map Team.ends := by
    simp only [State.ends, List.find?_map, named, State.team?]
  have same := look s'
  rw [h, look s, found] at same
  obtain ⟨t', found', ends⟩ := Option.map_eq_some_iff.1 same.symm
  have read (t : Team) (w l : Nat) : ((t.thread w l).exited, (t.thread w l).rsd) = (t.ends.2.getD w []).getD l (true, 0) := by
    simp only [Team.thread, Team.warp, Warp.thread, Team.ends, List.getD_eq_getElem?_getD, List.getElem?_map]
    cases t.warps[w]? with
    | none => rfl
    | some wp =>
      simp only [Option.map_some, Option.getD_some, List.getElem?_map]
      cases wp.threads[l]? <;> rfl
  exact ⟨t', found', fun w l => by rw [read t' w l, ends, read t w l]⟩

theorem Warp.settleMeetings_ends (wp : Warp) : wp.settleMeetings.threads.map (fun th => (th.exited, th.rsd)) =
    wp.threads.map fun th => (th.exited, th.rsd) := by
  simp only [Warp.settleMeetings, List.map_map]
  refine List.map_congr_left fun th _ => ?_
  simp only [Function.comp_apply]
  split <;> rfl

/-- A thread that exits counts as exited at once, with an empty stack; nothing that follows changes that. -/
theorem State.exitThread_ends (s : State) (tm w l : Nat) :
    (s.exitThread tm w l).ends = (s.updThread tm w l fun th => { th with exited := true, rsd := 0 }).ends := by
  unfold State.exitThread
  extract_lets clk s1 s2 last s3 s4
  have left : s2.ends = (s.updThread tm w l fun th => { th with exited := true, rsd := 0 }).ends := by
    refine State.updTeam_ends_congr (s.unbundle_teams tm w l) (State.mem_of_data (s.unbundle_data tm w l)) tm fun t => ?_
    refine Prod.ext rfl (updAt_map_congr _ (fun wp => ?_) t.warps w)
    refine (Warp.settleMeetings_ends _).trans (updAt_map_congr _ ?_ wp.threads l)
    exact fun _ => rfl
  have settled : s4.ends = s2.ends := by
    refine (State.updTeam_ends _ tm _ ?_).trans ((State.settleBarC_ends _ tm).trans (State.settleBarT_ends s3 tm))
    exact fun _ => rfl
  have closed : ((List.range 8).foldl (fun s q => s.closeStream tm q) s4).ends = s4.ends :=
    foldl_of_step State.ends _ (fun s q => s.closeStream_ends tm q) _ s4
  split
  · exact closed.trans (settled.trans left)
  · exact settled.trans left

theorem exitedThreadsAreLiveNoLonger : ExitedThreadsAreLiveNoLonger := by
  intro s t w l found hw hl
  have ends := s.exitThread_ends t.id w l
  obtain ⟨t', found', same⟩ := State.thread_ends ends (State.team?_updThread found w l _)
  have gone := same w l
  rw [Team.thread_updThread hw hl] at gone
  exact ⟨t', found', congrArg Prod.fst gone, congrArg Prod.snd gone, congrArg Prod.snd ends⟩

end Sys2Proof.Machine

namespace Sys2Proof.Machine

/-! ### What a control word leaves in its thread -/

theorem sextNat_toNat {n : Nat} (b : BitVec n) : sextNat n b.toNat = b.toInt := by
  have small := b.isLt
  rw [sextNat, Nat.mod_eq_of_lt small, BitVec.toInt_eq_toNat_cond]
  cases n with
  | zero => simp_all
  | succ n =>
    have half : 2 ^ (n + 1) = 2 * 2 ^ n := Nat.pow_succ'
    simp only [Nat.add_sub_cancel, half]
    refine if_congr (by omega) rfl ?_
    simp [Int.pow_succ']

/-- The thread in which a word acts is one of those it concerns. -/
theorem Acts.mem_all {s : State} {iss : Issue} {t : Team} {w l : Nat} (h : Acts s iss t w l) (hl : l < (t.warp w).threads.length) :
    (w, l) ∈ Ctx.all ⟨t, w, l, iss⟩ := by
  have live : ((t.warp w).thread l).exited = false := h.live
  unfold Ctx.all Issue.lanes
  split
  · exact List.mem_map_of_mem (List.mem_filter.2 ⟨List.mem_range.2 hl, by simp [live]⟩)
  · exact List.mem_singleton_self _

theorem Acts.team_id {s : State} {iss : Issue} {t : Team} {w l : Nat} (h : Acts s iss t w l) : t.id = iss.team :=
  State.team?_id h.team

/-- What a state of the same data as `s1` shows of its teams and of memory. -/
theorem Acted.of_data {i : Instr} {s s' s1 : State} {iss : Issue} {t1 : Team} {w l : Nat} {post : Warp → Thread → Prop}
    (run : exec i s = .next s') (data : s'.data = s1.data) (found : s1.team? iss.team = some t1) (mem : s1.mem = s.mem)
    (h : ∀ t' : Team, t'.data = t1.data → post (t'.warp w) (t'.thread w l)) : Acted i s iss w l post := by
  obtain ⟨t', found', data'⟩ := State.team?_of_data data found
  exact ⟨s', t', run, found', (State.mem_of_data data).trans mem, h t' data'⟩

/-- A word that is done shows what its action leaves. -/
theorem Acted.of_done {i : Instr} {s s1 : State} {iss : Issue} {t t1 : Team} {w l : Nat} {fm : Form}
    {value : Ctx → Option Nat} {act : State → Ctx → State × LaneRes} {post : Warp → Thread → Prop}
    (run : exec i s = .next (fm.perform iss value act { s with issue := none })) (ha : Acts s iss t w l)
    (hc : fm.clear value ⟨t, w, l, iss⟩) (done : act { s with issue := none } ⟨t, w, l, iss⟩ = (s1, .done))
    (found : s1.team? iss.team = some t1) (mem : s1.mem = s.mem)
    (h : ∀ t' : Team, t'.data = t1.data → post (t'.warp w) (t'.thread w l)) : Acted i s iss w l post :=
  Acted.of_data run (Form.perform_done ha hc done) found mem h

/-! ### Words that write their warp or thread -/

theorem Warp.setCell_threads_length (wp : Warp) (l : Nat) (f : RFile) (n : Nat) (v : Word) (tag : Tag) :
    (wp.setCell l f n v tag).threads.length = wp.threads.length := by
  unfold Warp.setCell
  split
  · exact updAt_length _ _ _
  · rfl
  · split
    · rfl
    · exact updAt_length _ _ _
  · split <;> rfl

theorem Warp.setGroup_threads_length (wp : Warp) (l : Nat) (o : Opnd) (ws : List (Word × Tag)) :
    (wp.setGroup l o ws).threads.length = wp.threads.length :=
  foldl_of_step (fun wp : Warp => wp.threads.length) _ (fun wp _ => wp.setCell_threads_length _ _ _ _ _) _ wp

/-- The meeting register has its value, whatever the groups of the warp do then (R120, R133). -/
theorem State.setMr_data {s : State} (tm w l : Nat) (x : Word) :
    (s.setMr tm [(w, l)] x).data = (s.updThread tm w l fun th => { th with mr := x }).data := by
  refine State.updWarp_data _ tm w _ fun wp => ?_
  exact wp.settleMeetings_data

/-- A word passes its checks when the cause of a bad value is the same. -/
theorem Form.clear.of_value {fm : Form} {value value' : Ctx → Option Nat} {c : Ctx} (hc : fm.clear value c)
    (h : value' c = value c) : fm.clear value' c := by
  obtain ⟨pre, checks⟩ := hc
  exact ⟨pre, by rw [h]; exact checks⟩

/-- A word that sets the meeting register of its thread in the state `s1` that its writes have left. -/
theorem Acted.of_setMr {i : Instr} {s s1 : State} {iss : Issue} {t t1 : Team} {w l : Nat} {fm : Form} {value : Ctx → Option Nat}
    {act : State → Ctx → State × LaneRes} {x : Word} (run : exec i s = .next (fm.perform iss value act { s with issue := none }))
    (ha : Acts s iss t w l) (hc : fm.clear value ⟨t, w, l, iss⟩) (found : s1.team? iss.team = some t1) (mem : s1.mem = s.mem)
    (hw : w < t1.warps.length) (hl : l < (t1.warp w).threads.length)
    (done : act { s with issue := none } ⟨t, w, l, iss⟩ = (s1.setMr t.id [(w, l)] x, .done)) :
    Acted i s iss w l fun _ th => th.mr = x := by
  rw [ha.team_id] at done
  refine Acted.of_data run ((Form.perform_done ha hc done).trans (State.setMr_data _ w l x)) (State.team?_updThread found w l _) mem
    fun t' same => ?_
  have data := Team.thread_of_data same w l
  rw [Team.thread_updThread hw hl] at data
  exact congrArg Thread.mr data

/-- A word that updates its warp. -/
theorem Acted.of_updWarp {i : Instr} {s : State} {iss : Issue} {t : Team} {w l : Nat} {fm : Form} {value : Ctx → Option Nat}
    {act : State → Ctx → State × LaneRes} {post : Warp → Thread → Prop} (f : Warp → Warp)
    (run : exec i s = .next (fm.perform iss value act { s with issue := none })) (ha : Acts s iss t w l)
    (hw : w < t.warps.length) (hc : fm.clear value ⟨t, w, l, iss⟩)
    (done : act { s with issue := none } ⟨t, w, l, iss⟩ = (({ s with issue := none } : State).updWarp t.id w f, .done))
    (h : ∀ (wp : Warp) (th : Thread), wp.data = (f (t.warp w)).data → post wp th) : Acted i s iss w l post := by
  have found : ({ s with issue := none } : State).team? iss.team = some t := ha.team
  rw [ha.team_id] at done
  refine Acted.of_done run ha hc done (State.team?_updWarp found w f) rfl fun t' same => h _ _ ?_
  rw [Team.warp_of_data same, Team.warp_updWarp hw]

/-! ### Words that hold or move their threads -/

theorem Issue.holdMates_of_not_mshr {iss : Issue} {m : Nat × Nat} {r : LaneRes} (h : r ≠ .stay .mshr) (d : Word) (s : State) :
    iss.holdMates [(m, r, d)] s = s := by
  simp [Issue.holdMates, h]

/-- A word that waits holds every thread it concerns. -/
theorem Issue.finish_stay {iss : Issue} {s : State} {t : Team} {wt : Wait} (found : s.team? iss.team = some t) (h : wt ≠ .mshr)
    (len : Nat) (m : Nat × Nat) (d : Word) : iss.finish len [(m, .stay wt, d)] s =
      (iss.lanes t m).foldl (fun s x => s.holdLane iss.team (iss.leaves wt) wt x) s := by
  simp only [Issue.finish, found, List.foldl_cons, List.foldl_nil, List.flatMap_cons, List.flatMap_nil, List.append_nil,
    Issue.deliverTraps]
  exact Issue.holdMates_of_not_mshr (fun e => h (LaneRes.stay.inj e)) d _

theorem Issue.missedTrap_teams (iss : Issue) (x : Nat × Nat) (s : State) : (iss.missedTrap x s).teams = s.teams := by
  unfold Issue.missedTrap
  split <;> rfl

/-- A word that has set its threads' positions leaves the teams as they are. -/
theorem Issue.finish_moved_teams (iss : Issue) (len : Nat) (m : Nat × Nat) (d : Word) (s : State) :
    (iss.finish len [(m, .moved, d)] s).teams = s.teams := by
  unfold Issue.finish
  split
  · rfl
  · simp only [List.foldl_cons, List.foldl_nil, List.flatMap_cons, List.flatMap_nil, List.append_nil, Issue.deliverTraps]
    rw [Issue.holdMates_of_not_mshr (by simp)]
    split
    · rfl
    · exact iss.missedTrap_teams m s

theorem Team.updThread_lengths (t : Team) (w l : Nat) (f : Thread → Thread) :
    (t.updThread w l f).warps.length = t.warps.length ∧
      ∀ w', ((t.updThread w l f).warp w').threads.length = (t.warp w').threads.length := by
  refine ⟨updAt_length _ _ _, fun w' => ?_⟩
  simp only [Team.warp, Team.updThread, Team.updWarp, updAt_getD]
  split
  · exact updAt_length _ _ _
  · rfl

/-- Where each step of a fold updates the thread it names and leaves it with `Q`, every thread named has `Q` at the end. -/
theorem foldl_updThread_spec {tm : Nat} {f : State → Nat × Nat → State} {Q : Thread → Prop}
    (hf : ∀ s m t, s.team? tm = some t → ∃ u, (f s m).team? tm = some (t.updThread m.1 m.2 u) ∧ ∀ th, Q (u th))
    (ms : List (Nat × Nat)) {s : State} {t : Team} (found : s.team? tm = some t) {w l : Nat} (hw : w < t.warps.length)
    (hl : l < (t.warp w).threads.length) (h : (w, l) ∈ ms ∨ Q (t.thread w l)) :
    ∃ t', (ms.foldl f s).team? tm = some t' ∧ Q (t'.thread w l) := by
  induction ms generalizing s t with
  | nil => exact ⟨t, found, h.resolve_left List.not_mem_nil⟩
  | cons m ms ih =>
    obtain ⟨u, found', all⟩ := hf s m t found
    obtain ⟨warps, threads⟩ := t.updThread_lengths m.1 m.2 u
    refine ih found' (warps ▸ hw) (threads w ▸ hl) ?_
    by_cases here : m = (w, l)
    · subst here
      exact .inr (Team.thread_updThread hw hl u ▸ all _)
    · refine h.imp (fun mem => (List.mem_cons.1 mem).resolve_left (Ne.symm here)) fun q => ?_
      by_cases warp : m.1 = w
      · have lane : m.2 ≠ l := fun e => here (Prod.ext warp e)
        rw [Team.thread, Team.updThread, warp, Team.warp_updWarp hw, Warp.thread_updThread_of_ne lane]
        exact q
      · rw [Team.thread, Team.updThread, Team.warp_updWarp_of_ne warp]
        exact q

/-- A thread that is held waits. -/
theorem State.holdLane_team? {s : State} {tm : Nat} {t : Team} (found : s.team? tm = some t) (leave : Bool) (wt : Wait)
    (m : Nat × Nat) : (s.holdLane tm leave wt m).team? tm = some (t.updThread m.1 m.2 fun th => th.park s.time wt) := by
  have parked := State.team?_updThread found m.1 m.2 fun th => th.park s.time wt
  unfold State.holdLane
  split
  · exact (State.team?_of_teams (State.unbundle_teams _ _ _ _) tm).trans parked
  · exact parked

/-- What a fold that updates threads keeps of each. -/
theorem foldl_updThread_keeps {α : Type} {tm : Nat} {f : State → Nat × Nat → State} (g : Thread → α)
    (hf : ∀ s m t, s.team? tm = some t → ∃ u, (f s m).team? tm = some (t.updThread m.1 m.2 u) ∧ ∀ th, g (u th) = g th)
    (ms : List (Nat × Nat)) {s : State} {t : Team} (found : s.team? tm = some t) (w l : Nat) :
    ∃ t', (ms.foldl f s).team? tm = some t' ∧ g (t'.thread w l) = g (t.thread w l) := by
  induction ms generalizing s t with
  | nil => exact ⟨t, found, rfl⟩
  | cons m ms ih =>
    obtain ⟨u, found', keeps⟩ := hf s m t found
    obtain ⟨t', found'', same⟩ := ih found'
    exact ⟨t', found'', same.trans (Team.thread_updThread_of g keeps t m.1 m.2 w l)⟩

/-- A word that waits leaves its thread waiting at the word, with its data. -/
theorem Acted.of_stay {i : Instr} {s : State} {iss : Issue} {t : Team} {w l : Nat} {fm : Form} {value : Ctx → Option Nat}
    {act : State → Ctx → State × LaneRes} {wt : Wait} (hwt : wt ≠ .mshr)
    (run : exec i s = .next (fm.perform iss value act { s with issue := none })) (ha : Acts s iss t w l)
    (hw : w < t.warps.length) (hl : l < (t.warp w).threads.length) (hc : fm.clear value ⟨t, w, l, iss⟩)
    (stay : act { s with issue := none } ⟨t, w, l, iss⟩ = ({ s with issue := none }, .stay wt)) :
    Acted i s iss w l fun _ th => th.wait = wt ∧ th.pos = (t.thread w l).pos ∧ th.data = (t.thread w l).data := by
  have found : ({ s with issue := none } : State).team? iss.team = some t := ha.team
  have all : fm.perform iss value act { s with issue := none } = (Ctx.all ⟨t, w, l, iss⟩).foldl
      (fun s x => s.holdLane iss.team (iss.leaves wt) wt x) { s with issue := none } := by
    rw [Form.perform_clear ha hc, stay]
    exact Issue.finish_stay found hwt _ _ _
  rw [all] at run
  obtain ⟨t', found', waits⟩ := foldl_updThread_spec (Q := fun th => th.wait = wt)
    (fun s m t h => ⟨_, State.holdLane_team? h _ _ m, fun _ => rfl⟩) _ found hw hl (.inl (ha.mem_all hl))
  obtain ⟨t1, found1, pos⟩ := foldl_updThread_keeps (fun th => (th.pos, th.data))
    (fun s m t h => ⟨_, State.holdLane_team? h (iss.leaves wt) wt m, fun _ => rfl⟩) (Ctx.all ⟨t, w, l, iss⟩) found w l
  obtain rfl : t1 = t' := Option.some.inj (found1.symm.trans found')
  refine ⟨_, t1, run, found1, ?_, waits, congrArg Prod.fst pos, congrArg Prod.snd pos⟩
  exact foldl_of_step State.mem _ (fun s x => State.mem_of_data (s.holdLane_data _ _ _ x)) _ _

end Sys2Proof.Machine

namespace Sys2Proof.Machine

/-! ### The control words (R107, R133 to R136) -/

section
variable {s : State} {iss : Issue} {t : Team} {w l : Nat}

theorem meet_acts (ha : Acts s iss t w l) (hw : w < t.warps.length) (hl : l < (t.warp w).threads.length) (d : BitVec 7)
    (off : BitVec 17) {x : Int} (hx : x = (iss.hdr : Int) - t.prog.hdr + 4 * off.toInt) (low : 0 ≤ x) (high : x < 2 ^ 32)
    (clear : Form.clear { grp := .meet, os := [(iss.reg d.toNat).dst] } (fun _ => none) ⟨t, w, l, iss⟩) :
    Acted (.meet d off) s iss w l fun _ th => th.mr = BitVec.ofInt 32 x := by
  obtain rfl : x = meetOffset iss t.prog.hdr off := by rw [hx, meetOffset, sextNat_toNat]
  refine Acted.of_setMr (withIssue_of ha.issue _) ha (clear.of_value (if_neg (by dsimp only; omega)))
    (State.team?_updWarp (s := { s with issue := none }) ha.team w fun wp =>
      wp.setGroup l (iss.reg d.toNat).dst [((t.thread w l).mr, .n32)]) rfl ?_ ?_ (ha.team_id ▸ rfl)
  · simpa only [Team.updWarp, updAt_length] using hw
  · rw [Team.warp_updWarp hw, Warp.setGroup_threads_length]
    exact hl

theorem meetr_acts (ha : Acts s iss t w l) (hw : w < t.warps.length) (hl : l < (t.warp w).threads.length) (a : BitVec 7)
    (clear : Form.clear { grp := .meet, os := [(iss.reg a.toNat).src (some [.n32])] }
      (fun c => mrCheck (c.rd ((iss.reg a.toNat).src (some [.n32])))) ⟨t, w, l, iss⟩) :
    Acted (.meetr a) s iss w l fun _ th => th.mr = Ctx.rd ⟨t, w, l, iss⟩ ((iss.reg a.toNat).src (some [.n32])) :=
  Acted.of_setMr (withIssue_of ha.issue _) ha clear (s1 := { s with issue := none }) ha.team rfl hw hl rfl

/-- The form of LEASE declare, boost and end (R136). -/
def leaseForm (form : BitVec 2) (a : BitVec 7) (lines : BitVec 10) (os : List Opnd) : Form :=
  { grp := .lease, wf := (Instr.lease form a lines).wf, os := os, pure := true }

theorem leaseDeclare_acts (ha : Acts s iss t w l) (hw : w < t.warps.length) (a : BitVec 7) (lines : BitVec 10)
    (clear : (leaseForm 0 a lines []).clear (fun _ => none) ⟨t, w, l, iss⟩) :
    Acted (.lease 0 a lines) s iss w l fun wp _ => wp.decl = lines.toNat :=
  Acted.of_updWarp _ (withIssue_of ha.issue _) ha hw clear rfl fun _ _ data => congrArg Warp.decl data

theorem leaseBoost_acts (ha : Acts s iss t w l) (hw : w < t.warps.length) (a : BitVec 7) (lines : BitVec 10) {x : Word}
    (hx : x = Ctx.rd ⟨t, w, l, iss⟩ ((iss.reg a.toNat).src (some [.n32])))
    (clear : (leaseForm 1 a lines [(iss.reg a.toNat).src (some [.n32])]).clear
      (fun c => if (c.rd ((iss.reg a.toNat).src (some [.n32]))).toNat > 4194303 then some 0x04 else none) ⟨t, w, l, iss⟩) :
    Acted (.lease 1 a lines) s iss w l fun wp _ => wp.boostLines = (if x = 0 then 0 else lines.toNat) ∧
      wp.boostExp = if x = 0 then 0 else s.time + x.toNat := by
  subst hx
  refine Acted.of_updWarp _ (withIssue_of ha.issue _) ha hw clear rfl fun wp _ data => ?_
  by_cases zero : Ctx.rd ⟨t, w, l, iss⟩ ((iss.reg a.toNat).src (some [.n32])) = 0
  · simp only [if_pos zero] at data ⊢
    exact ⟨congrArg Warp.boostLines data, congrArg Warp.boostExp data⟩
  · simp only [if_neg zero] at data ⊢
    exact ⟨congrArg Warp.boostLines data, congrArg Warp.boostExp data⟩

theorem leaseEnd_acts (ha : Acts s iss t w l) (hw : w < t.warps.length) (a : BitVec 7) (lines : BitVec 10)
    (clear : (leaseForm 2 a lines []).clear (fun _ => none) ⟨t, w, l, iss⟩) :
    Acted (.lease 2 a lines) s iss w l fun wp _ => wp.boostLines = 0 ∧ wp.boostExp = 0 :=
  Acted.of_updWarp _ (withIssue_of ha.issue _) ha hw clear rfl fun _ _ data =>
    ⟨congrArg Warp.boostLines data, congrArg Warp.boostExp data⟩

/-- A wait for a time that has come is over at once, and another holds the thread at its word (R135). -/
theorem Acted.of_waitUntil {i : Instr} {fm : Form} {time : State → Ctx → Nat}
    (run : exec i s = .next (fm.perform iss (fun _ => none) (fun s c => waitUntil s (time s c)) { s with issue := none }))
    (ha : Acts s iss t w l) (hw : w < t.warps.length) (hl : l < (t.warp w).threads.length)
    (clear : fm.clear (fun _ => none) ⟨t, w, l, iss⟩) {d : Nat} (hd : d = time { s with issue := none } ⟨t, w, l, iss⟩) :
    (d ≤ s.time → Acted i s iss w l fun _ th => th.data = (t.thread w l).data) ∧
      (s.time < d → Acted i s iss w l fun _ th =>
        th.wait = .time d ∧ th.pos = (t.thread w l).pos ∧ th.data = (t.thread w l).data) := by
  subst hd
  constructor
  · intro come
    exact Acted.of_done run ha clear (if_pos come) ha.team rfl fun t' same => Team.thread_of_data same w l
  · intro later
    exact Acted.of_stay (by simp) run ha hw hl clear (if_neg (Nat.not_le.2 later))

theorem waitt_acts (ha : Acts s iss t w l) (hw : w < t.warps.length) (hl : l < (t.warp w).threads.length) (a : BitVec 7)
    (clear : (ctlForm (fun _ => [((iss.reg a.toNat).grp 2 2).src (some [.addr, .n32])]) iss).clear (fun _ => none) ⟨t, w, l, iss⟩)
    {d : Nat} (hd : d = Ctx.pair ⟨t, w, l, iss⟩ (((iss.reg a.toNat).grp 2 2).src (some [.addr, .n32]))) :
    (d ≤ s.time → Acted (.waitt a) s iss w l fun _ th => th.data = (t.thread w l).data) ∧
      (s.time < d → Acted (.waitt a) s iss w l fun _ th =>
        th.wait = .time d ∧ th.pos = (t.thread w l).pos ∧ th.data = (t.thread w l).data) :=
  Acted.of_waitUntil (i := .waitt a) (fm := ctlForm (fun _ => [((iss.reg a.toNat).grp 2 2).src (some [.addr, .n32])]) iss)
    (time := fun _ c => c.pair (((iss.reg a.toNat).grp 2 2).src (some [.addr, .n32]))) (withIssue_of ha.issue _) ha hw hl clear hd

theorem waittD_acts (ha : Acts s iss t w l) (hw : w < t.warps.length) (hl : l < (t.warp w).threads.length) {delay : BitVec 23}
    (clear : (ctlForm (fun _ => []) iss).clear (fun _ => none) ⟨t, w, l, iss⟩) (later : delay ≠ 0) :
    Acted (.waittD delay) s iss w l fun _ th =>
      th.wait = .time (s.time + delay.toNat) ∧ th.pos = (t.thread w l).pos ∧ th.data = (t.thread w l).data := by
  refine (Acted.of_waitUntil (i := .waittD delay) (fm := ctlForm (fun _ => []) iss) (time := fun s _ => s.time + delay.toNat)
    (withIssue_of ha.issue _) ha hw hl clear rfl).2 (Nat.lt_add_of_pos_right ?_)
  exact Nat.pos_of_ne_zero fun e => later (BitVec.eq_of_toNat_eq e)

/-- A word that has set the positions of its threads shows what its action leaves. -/
theorem Acted.of_moved {i : Instr} {s1 : State} {t1 : Team} {fm : Form} {value : Ctx → Option Nat}
    {act : State → Ctx → State × LaneRes} {post : Warp → Thread → Prop}
    (run : exec i s = .next (fm.perform iss value act { s with issue := none })) (ha : Acts s iss t w l)
    (hc : fm.clear value ⟨t, w, l, iss⟩) (moved : act { s with issue := none } ⟨t, w, l, iss⟩ = (s1, .moved))
    (found : s1.team? iss.team = some t1) (mem : s1.mem = s.mem) (h : post (t1.warp w) (t1.thread w l)) :
    Acted i s iss w l post := by
  rw [Form.perform_clear ha hc, moved] at run
  exact ⟨_, t1, run, (State.team?_of_teams (iss.finish_moved_teams _ _ _ s1) _).trans found,
    (State.mem_of_data (iss.finish_moved_data _ _ _ s1)).trans mem, h⟩

/-- The opcode of the word after REP. -/
theorem bits_opcode (x : Word) : bits x.toNat 24 8 = x.toNat / 2 ^ 24 := by
  rw [bits, Nat.shiftRight_eq_div_pow]
  omega

/-- REP puts its threads at the word after it, at repetition 0 (R107, R134). -/
theorem rep_acts (ha : Acts s iss t w l) (hw : w < t.warps.length) (hl : l < (t.warp w).threads.length) (count : BitVec 6)
    {mask : BitVec 3} (stride : BitVec 2) {d a b : Bool} (next : iss.has2 = true)
    (clear : Form.clear { grp := .repeat_ } (fun _ => none) ⟨t, w, l, iss⟩)
    (fields : repFields (iss.raw2.toNat / 2 ^ 24) = some (d, a, b)) (hd : mask.getLsbD 2 = true → d = true)
    (haF : mask.getLsbD 1 = true → a = true) (hb : mask.getLsbD 0 = true → b = true) :
    Acted (.rep count mask stride) s iss w l fun _ th =>
      th.pos = { hdr := iss.hdr, word := iss.word + 1, rep := some 0 } ∧ th.data = (t.thread w l).data := by
  have follows : (if iss.has2 then repFields (bits iss.raw2.toNat 24 8) else none) = some (d, a, b) := by
    rw [if_pos next, bits_opcode, fields]
  have all : (mask.getLsbD 2 && !d || mask.getLsbD 1 && !a || mask.getLsbD 0 && !b) = false := by
    simp only [Bool.or_eq_false_iff, Bool.and_eq_false_imp, Bool.not_eq_false']
    exact ⟨⟨hd, haF⟩, hb⟩
  have found : ({ s with issue := none } : State).team? iss.team = some t := ha.team
  have step (s : State) (m : Nat × Nat) (t : Team) (h : s.team? iss.team = some t) := State.team?_updThread h m.1 m.2 fun th =>
    { th with pos := { hdr := iss.hdr, word := iss.word + 1, rep := some 0 } }
  obtain ⟨t', found', pos⟩ := foldl_updThread_spec
    (Q := fun th => th.pos = { hdr := iss.hdr, word := iss.word + 1, rep := some 0 })
    (fun s m t h => ⟨_, step s m t h, fun _ => rfl⟩) _ found hw hl (.inl (ha.mem_all hl))
  obtain ⟨t1, found1, data⟩ := foldl_updThread_keeps Thread.data
    (fun s m t h => ⟨_, step s m t h, fun _ => rfl⟩) (Ctx.all ⟨t, w, l, iss⟩) found w l
  obtain rfl : t1 = t' := Option.some.inj (found1.symm.trans found')
  refine Acted.of_moved (withIssue_of ha.issue _) ha ?_ rfl found1 ?_ ⟨pos, data⟩
  · simpa only [follows, all, Option.isSome_some, if_true, Bool.not_false] using clear
  · refine foldl_of_step State.mem _ ?_ _ _
    exact fun _ _ => rfl

end

/-- Settles O60: one lemma per word, on what its action leaves; going on and exiting keep the rest of the threads' data. -/
theorem controlWordsMoveTheirThreads : Obligations.ControlWordsMoveTheirThreads :=
  ⟨threadsGoOnWordByWord, exitedThreadsAreLiveNoLonger, fun _ _ _ _ _ ha hw hl _ =>
    ⟨fun d off low high clear => meet_acts ha hw hl d off rfl low high clear, fun a clear => meetr_acts ha hw hl a clear,
      fun a lines => ⟨leaseDeclare_acts ha hw a lines, leaseBoost_acts ha hw a lines rfl, leaseEnd_acts ha hw a lines⟩,
      fun a clear => waitt_acts ha hw hl a clear rfl, fun _ clear later => waittD_acts ha hw hl clear later,
      fun count _ stride _ _ _ next clear fields hd haF hb => rep_acts ha hw hl count stride next clear fields hd haF hb⟩⟩

end Sys2Proof.Machine

namespace Sys2Proof.Machine

/-! ### The choice of active warps (R72, R73) -/

theorem State.team?_of_mem {s : State} (h : s.distinct) {t : Team} (ht : t ∈ s.teams) : s.team? t.id = some t := by
  have one : ∀ ts : List Team, (ts.map (·.id)).Nodup → t ∈ ts → ts.find? (·.id == t.id) = some t := by
    intro ts
    induction ts with
    | nil => exact fun _ ht => absurd ht List.not_mem_nil
    | cons u ts ih =>
      intro nodup ht
      obtain ⟨alone, nodup⟩ := List.nodup_cons.1 nodup
      rcases List.mem_cons.1 ht with rfl | ht
      · simp
      · have ne : u.id ≠ t.id := fun same => alone (List.mem_map.2 ⟨t, ht, same.symm⟩)
        simpa [ne] using ih nodup ht
  exact one s.teams h ht

theorem State.mem_residents {s : State} {cl co : Nat} {t : Team} :
    t ∈ s.residents cl co ↔ t ∈ s.teams ∧ t.onCore cl co = true := by
  simp only [State.residents, mem_sortBy, List.mem_filter]

theorem sortBy_map {α β : Type} {le : α → α → Bool} {le' : β → β → Bool} (g : α → β) (h : ∀ a b, le' (g a) (g b) = le a b)
    (l : List α) : sortBy le' (l.map g) = (sortBy le l).map g := by
  have insert (x : α) (l : List α) : insertBy le' (g x) (l.map g) = (insertBy le x l).map g := by
    induction l with
    | nil => rfl
    | cons y l ih =>
      simp only [List.map_cons, insertBy, h, ih]
      split <;> rfl
  induction l with
  | nil => rfl
  | cons x l ih => simp only [List.map_cons, sortBy, ih, insert]

/-- A team whose warps are those of `act` that are active. -/
def Team.mark (act : List (Nat × Nat)) (t : Team) : Team :=
  { t with warps := (t.warps.zipIdx).map fun (w, i) => { w with active := act.contains (t.id, i) } }

/-- The mark of a core's residents, and no mark elsewhere. -/
def Team.markOn (cl co : Nat) (act : List (Nat × Nat)) (t : Team) : Team := if t.onCore cl co then t.mark act else t

@[simp] theorem Team.mark_warps_length (act : List (Nat × Nat)) (t : Team) : (t.mark act).warps.length = t.warps.length := by
  simp [Team.mark]

theorem Team.mark_warp (act : List (Nat × Nat)) (t : Team) {w : Nat} (h : w < t.warps.length) :
    (t.mark act).warp w = { t.warp w with active := act.contains (t.id, w) } := by
  simp [Team.mark, Team.warp, h]

theorem Team.mark_mark (act : List (Nat × Nat)) (t : Team) : (t.mark act).mark act = t.mark act := by
  have warps : ((t.mark act).mark act).warps = (t.mark act).warps := by
    refine List.ext_getElem (by simp) fun w h _ => ?_
    simp [Team.mark]
  rw [show (t.mark act).mark act = { t.mark act with warps := ((t.mark act).mark act).warps } from rfl, warps]

/-- Marking a list of teams marks each team of those names once and leaves the rest of the state. -/
theorem State.foldl_mark (act : List (Nat × Nat)) (ts : List Team) (s : State) :
    let s' := ts.foldl (fun s t => s.updTeam t.id (Team.mark act)) s
    (s'.teams = s.teams.map fun t => if t.id ∈ ts.map (·.id) then t.mark act else t) ∧ s'.clusters = s.clusters ∧
      s'.timer = s.timer := by
  refine ⟨?_, ?_, ?_⟩
  · induction ts generalizing s with
    | nil => simp
    | cons u ts ih =>
      simp only [List.foldl_cons]
      rw [ih, State.updTeam, List.map_map]
      refine List.map_congr_left fun t _ => ?_
      have id (t : Team) : (t.mark act).id = t.id := rfl
      by_cases same : t.id = u.id <;> by_cases later : u.id ∈ ts.map (·.id) <;>
        simp_all [Team.mark_mark]
  · refine foldl_of_step State.clusters _ ?_ _ _
    exact fun _ _ => rfl
  · refine foldl_of_step State.timer _ ?_ _ _
    exact fun _ _ => rfl

/-- The warps of a team that run. -/
def Team.runs (t : Team) : List Nat :=
  (List.range t.warps.length).filter fun w => !((t.warp w).live.isEmpty || (t.warp w).waiting)

/-- The lease of a team's warp. -/
def Team.leaseOf (t : Team) (now w : Nat) : Nat := (t.warp w).effLease t.prog now

/-- The first warp that runs of each team, and the others that run, with their leases. -/
def firstRuns (ts : List Team) : List (Team × Nat) := ts.filterMap fun t => t.runs.head?.map fun w => (t, w)
def laterRuns (now : Nat) (ts : List Team) : List ((Nat × Nat) × Nat) :=
  ts.flatMap fun t => (t.runs.drop 1).map fun w => ((t.id, w), t.leaseOf now w)

theorem State.activeSet_eq (s : State) (cl co : Nat) :
    s.activeSet cl co =
      let ts := (s.residents cl co).filter (·.started)
      if (s.core cl co).lresOff then ts.flatMap fun t => t.runs.map fun w => (t.id, w)
      else (firstRuns ts).map (fun x => (x.1.id, x.2)) ++
        walkLeases (4096 - (s.core cl co).lresReserve) ((firstRuns ts).map fun x => x.1.leaseOf s.time x.2).sum
          (laterRuns s.time ts) := by
  simp only [State.activeSet, foldl_add_eq_sum, List.flatMap_map, List.filterMap_map, Nat.zero_add]
  rfl

/-- What the choice of active warps reads of a team. -/
structure Team.SameChoice (t t' : Team) : Prop where
  id : t'.id = t.id
  age : t'.age = t.age
  onCore : ∀ cl co, t'.onCore cl co = t.onCore cl co
  started : t'.started = t.started
  runs : t'.runs = t.runs
  lease : ∀ now w, t'.leaseOf now w = t.leaseOf now w

theorem Team.sameChoice_mark (act : List (Nat × Nat)) (t : Team) : t.SameChoice (t.mark act) where
  id := rfl
  age := rfl
  onCore _ _ := rfl
  started := rfl
  runs := by
    simp only [Team.runs, Team.mark_warps_length]
    refine List.filter_congr fun w hw => ?_
    rw [t.mark_warp act (List.mem_range.1 hw)]
    rfl
  lease now w := by
    by_cases h : w < t.warps.length
    · rw [Team.leaseOf, t.mark_warp act h]
      rfl
    · simp [Team.leaseOf, Team.warp, Team.mark, h]

/-- The choice of active warps does not read which are active. -/
theorem State.activeSet_of_sameChoice {s s' : State} {g : Team → Team} (hg : ∀ t : Team, t.SameChoice (g t))
    (teams : s'.teams = s.teams.map g) (clusters : s'.clusters = s.clusters) (timer : s'.timer = s.timer) (cl co : Nat) :
    s'.activeSet cl co = s.activeSet cl co := by
  have residents : s'.residents cl co = (s.residents cl co).map g := by
    simp only [State.residents, teams, List.filter_map]
    rw [sortBy_map (le := fun a b => decide (a.age ≤ b.age)) g fun a b => by rw [(hg a).age, (hg b).age]]
    congr 3
    funext t
    exact (hg t).onCore cl co
  have core : s'.core cl co = s.core cl co := by
    simp only [State.core, State.cluster, clusters]
  have started : ((·.started) ∘ g) = fun t : Team => t.started := funext fun t => (hg t).started
  have first (ts : List Team) : firstRuns (ts.map g) = (firstRuns ts).map fun x => (g x.1, x.2) := by
    simp only [firstRuns, List.filterMap_map, Function.comp_def, (hg _).runs, List.map_filterMap, Option.map_map]
  have later (now : Nat) (ts : List Team) : laterRuns now (ts.map g) = laterRuns now ts := by
    simp only [laterRuns, List.flatMap_map, (hg _).runs, (hg _).id, (hg _).lease]
  simp only [State.activeSet_eq, residents, core, List.filter_map, started, first, later, List.map_map, Function.comp_def,
    List.flatMap_map, (hg _).runs, (hg _).lease, (hg _).id, State.time, timer]

/-- After an activation the active warps of a core are those that are chosen. -/
theorem State.activate_active (s : State) (cl co : Nat) {t : Team} (ht : t ∈ (s.activate cl co).teams)
    (on : t.onCore cl co = true) {w : Nat} (hw : w < t.warps.length) :
    (t.warp w).active = ((s.activate cl co).activeSet cl co).contains (t.id, w) := by
  obtain ⟨s1, marks⟩ : ∃ s1 : State, s.activate cl co = (s1.residents cl co).foldl
      (fun s t => s.updTeam t.id (Team.mark (s1.activeSet cl co))) s1 := ⟨_, rfl⟩
  obtain ⟨teams, clusters, timer⟩ := State.foldl_mark (s1.activeSet cl co) (s1.residents cl co) s1
  rw [← marks] at teams clusters timer
  rw [State.activeSet_of_sameChoice (fun t => ?_) teams clusters timer]
  · rw [teams] at ht
    obtain ⟨u, hu, rfl⟩ := List.mem_map.1 ht
    have onCore : u.onCore cl co = true := by
      revert on
      split <;> exact id
    have resident : u.id ∈ (s1.residents cl co).map (·.id) := List.mem_map_of_mem (State.mem_residents.2 ⟨hu, onCore⟩)
    simp only [resident, if_true, Team.mark_warps_length] at hw ⊢
    rw [u.mark_warp _ hw]
    rfl
  · split
    · exact t.sameChoice_mark _
    · exact ⟨rfl, rfl, fun _ _ => rfl, rfl, rfl, fun _ _ => rfl⟩

/-! ### Leases fit (R72) -/

/-- The walk takes no warp, or what it takes fits the limit. -/
theorem walkLeases_fit (lease : Nat × Nat → Nat) (limit sum : Nat) (rest : List ((Nat × Nat) × Nat))
    (h : ∀ x ∈ rest, lease x.1 = x.2) :
    walkLeases limit sum rest = [] ∨ sum + ((walkLeases limit sum rest).map lease).sum ≤ limit := by
  induction rest generalizing sum with
  | nil => exact .inl rfl
  | cons x rest ih =>
    simp only [walkLeases]
    split
    · rename_i fits
      right
      rcases ih (sum + x.2) fun y hy => h y (List.mem_cons_of_mem _ hy) with none | fit
      · simpa [none, h x List.mem_cons_self] using fits
      · simp only [List.map_cons, List.sum_cons, h x List.mem_cons_self]
        omega
    · exact .inl rfl

theorem mem_firstRuns {ts : List Team} {t : Team} {w : Nat} (h : (t, w) ∈ firstRuns ts) :
    t ∈ ts ∧ ∀ v < w, (t.warp v).live = [] ∨ (t.warp v).waiting = true := by
  obtain ⟨u, hu, found⟩ := List.mem_filterMap.1 h
  obtain ⟨v, head, same⟩ := Option.map_eq_some_iff.1 found
  obtain ⟨rfl, rfl⟩ := Prod.mk.inj same
  rw [Team.runs, List.head?_filter, List.find?_range_eq_some] at head
  refine ⟨hu, fun x hx => ?_⟩
  simpa [Bool.or_eq_true, List.isEmpty_iff] using head.2.2 x hx

theorem leasesFit (s : State) (cl co : Nat) (distinct : s.distinct) (on : (s.core cl co).lresOff = false) :
    let act := s.activeSet cl co
    let lease (x : Nat × Nat) : Nat := ((s.team? x.1).map fun t => (t.warp x.2).effLease t.prog s.time).getD 0
    (act.map lease).sum ≤ 4096 - (s.core cl co).lresReserve ∨
      ∀ x ∈ act, ∀ w < x.2, (s.warp x.1 w).live = [] ∨ (s.warp x.1 w).waiting = true := by
  intro act lease
  generalize hts : (s.residents cl co).filter (·.started) = ts
  have team (t : Team) (ht : t ∈ ts) : s.team? t.id = some t := by
    rw [← hts] at ht
    exact State.team?_of_mem distinct (State.mem_residents.1 (List.mem_filter.1 ht).1).1
  have leased (t : Team) (ht : t ∈ ts) (w : Nat) : lease (t.id, w) = t.leaseOf s.time w := by
    simp only [lease, team t ht, Option.map_some, Option.getD_some, Team.leaseOf]
  have sum : (((firstRuns ts).map fun x => (x.1.id, x.2)).map lease).sum =
      ((firstRuns ts).map fun x => x.1.leaseOf s.time x.2).sum := by
    rw [List.map_map]
    exact congrArg List.sum (List.map_congr_left fun x hx => leased x.1 (mem_firstRuns hx).1 x.2)
  have rest : ∀ x ∈ laterRuns s.time ts, lease x.1 = x.2 := by
    intro x hx
    obtain ⟨t, ht, found⟩ := List.mem_flatMap.1 hx
    obtain ⟨w, -, rfl⟩ := List.mem_map.1 found
    exact leased t ht w
  have chosen : act = (firstRuns ts).map (fun x => (x.1.id, x.2)) ++ walkLeases (4096 - (s.core cl co).lresReserve)
      ((firstRuns ts).map fun x => x.1.leaseOf s.time x.2).sum (laterRuns s.time ts) := by
    simp only [act, State.activeSet_eq, on, hts, Bool.false_eq_true, if_false]
  rcases walkLeases_fit lease (4096 - (s.core cl co).lresReserve) _ _ rest with none | fit
  · right
    rw [chosen, none, List.append_nil]
    intro x hx w hw
    obtain ⟨⟨t, v⟩, first, rfl⟩ := List.mem_map.1 hx
    obtain ⟨ht, idle⟩ := mem_firstRuns first
    have warp : s.warp t.id w = t.warp w := by
      simp only [State.warp, team t ht, Option.map_some, Option.getD_some]
    rw [warp]
    exact idle w hw
  · left
    rw [chosen, List.map_append, List.sum_append, sum]
    exact fit

/-! ### Windows, boosts and wake-watch entries (R69, R70, R80) -/

/-- The count is within one eighth of the lines seen. -/
theorem sketchCount_bounds (n free : Nat) : n - n / 8 ≤ sketchCount n free ∧ sketchCount n free ≤ n + n / 8 := by
  have := Nat.mod_lt (Config.freeNat free) (show 0 < 2 * (n / 8) + 1 by omega)
  unfold sketchCount
  omega

theorem windowsAreMeasured (t : Team) (cl co : Nat) : Leaves .leaseWindowEnd
    (fun s => s.team? s.target.team = some t ∧ t.place = .resident cl co ∧ s.target.warp < t.warps.length ∧
      (t.warp s.target.warp).active = true ∧ (t.warp s.target.warp).winStart + 4096 ≤ (s.cluster cl).r.clk)
    (fun s s' =>
      let w := t.warp s.target.warp
      let n := w.sketch.length
      (∃ c, n - n / 8 ≤ c ∧ c ≤ n + n / 8 ∧ s'.warp s.target.team s.target.warp =
        { w with meas := min 4095 (c + w.winLost), sketch := [], winLost := 0, winStart := (s.cluster cl).r.clk }) ∧
      s'.mem = s.mem) := by
  rintro s ⟨found, place, hw, active, full⟩
  obtain ⟨low, high⟩ := sketchCount_bounds (t.warp s.target.warp).sketch.length s.free
  have core : (s.team? s.target.team).bind (fun t => t.at?.map fun p => (t, p)) = some (t, cl, co) := by
    simp only [found, Option.bind_some, Team.at?, place, Option.map_some]
  have step : exec .leaseWindowEnd s = .next (({ s with free := s.free + 1 } : State).updWarp s.target.team s.target.warp fun w =>
      { w with meas := min 4095 (sketchCount w.sketch.length s.free + w.winLost), sketch := [], winLost := 0,
               winStart := (s.cluster cl).r.clk }) := by
    show execLeaseWindowEnd s = _
    unfold execLeaseWindowEnd
    simp only [core, Nat.not_lt.2 full, active, Bool.not_true, Bool.false_eq_true, if_false]
  have found : ({ s with free := s.free + 1 } : State).team? s.target.team = some t := found
  refine ⟨_, step, ⟨_, low, high, ?_⟩, rfl⟩
  rw [State.warp, State.team?_updWarp found, Option.map_some, Option.getD_some, Team.warp_updWarp hw]

theorem boostsEnd : Leaves .boostExpiry
    (fun s => (s.team? s.target.team).isSome ∧ (s.warp s.target.team s.target.warp).boostExp ≤ s.time)
    (fun s s' => s'.warp s.target.team s.target.warp = { s.warp s.target.team s.target.warp with boostLines := 0 } ∧
      s'.mem = s.mem) := by
  rintro s ⟨there, ended⟩
  obtain ⟨t, found⟩ := Option.isSome_iff_exists.1 there
  refine ⟨s.updWarp s.target.team s.target.warp fun w => { w with boostLines := 0 }, ?_, ?_, rfl⟩
  · show execBoostExpiry s = _
    unfold execBoostExpiry
    simp only [ended, if_true]
  · simp only [State.warp, State.team?_updWarp found, found, Option.map_some, Option.getD_some]
    by_cases hw : s.target.warp < t.warps.length
    · exact Team.warp_updWarp hw _
    · simp [Team.warp, Team.updWarp, hw]

theorem watchDue_iff (s : State) (e : WakeEntry) : s.watchDue e = true ↔ (∀ t, s.team? e.team = some t → t.saving = none) ∧
    ((e.fault = true ∧ s.watchPages e = 0) ∨ ∃ d, e.wake = some d ∧ d ≤ s.time) := by
  have saved : (s.team? e.team).all (·.saving.isNone) = true ↔ ∀ t, s.team? e.team = some t → t.saving = none := by
    cases s.team? e.team <;> simp
  have due : (match e.wake with | some d => decide (d ≤ s.time) | none => false) = true ↔ ∃ d, e.wake = some d ∧ d ≤ s.time := by
    cases e.wake <;> simp
  rw [State.watchDue, Bool.and_eq_true, Bool.or_eq_true, saved, Bool.and_eq_true, beq_iff_eq]
  exact and_congr_right fun _ => or_congr_right due

theorem WakeEntry.without_spec {e u : WakeEntry} {s : State} {tm : Nat} (named : e.team = tm ∨ tm ∈ e.cohort)
    (h : e.without s tm = some u) :
    u.fault = e.fault ∧ u.team ≠ tm ∧ ∀ x, x ∈ u.cohort ↔ x ≠ tm ∧ (x = e.team ∨ x ∈ e.cohort) := by
  have inside : (e.team :: e.cohort).eraseDups.contains tm = true := by
    simpa using named.imp_left Eq.symm
  have others (x : Nat) : x ∈ (e.team :: e.cohort).eraseDups.filter (· != tm) ↔ x ≠ tm ∧ (x = e.team ∨ x ∈ e.cohort) := by
    simp [and_comm]
  simp only [WakeEntry.without, inside, Bool.not_true, Bool.false_eq_true, if_false] at h
  split at h
  · cases h
  · rename_i x l rest
    obtain rfl := Option.some.inj h
    simp only [rest] at others
    exact ⟨rfl, ((others x).1 List.mem_cons_self).1, others⟩

/-- A turn of a cluster whose watch holds one entry re-queues it when it is due. -/
theorem wakeWatch_one {s : State} {e : WakeEntry} (one : s.here.watch = [e]) :
    exec .wakeWatchTimeout s = .next (if s.watchDue e then s.requeue s.target.cl e else s) := by
  have watch : (s.cluster s.target.cl).watch = [e] := one
  show execWakeWatchTimeout s = _
  simp only [execWakeWatchTimeout, watch, List.foldl_cons, List.foldl_nil]

theorem activationStep_early {s : State} (early : s.here.r.clk < s.thisCore.lastStep + 64) :
    exec .activationStep s = .next s := by
  have early : (s.cluster s.target.cl).r.clk < (s.core s.target.cl s.target.co).lastStep + 64 := early
  show execActivationStep s = _
  simp only [execActivationStep, early, if_true]

theorem activationStep_late {s : State} (late : s.thisCore.lastStep + 64 ≤ s.here.r.clk) :
    ∃ s1 : State, exec .activationStep s = .next (s1.activate s.target.cl s.target.co) := by
  have late : ¬(s.cluster s.target.cl).r.clk < (s.core s.target.cl s.target.co).lastStep + 64 := Nat.not_lt.2 late
  exact ⟨_, congrArg Host.Outcome.next (if_neg late)⟩

theorem warpsAreActivatedByLease : WarpsAreActivatedByLease := by
  refine ⟨?_, fun s early => activationStep_early early, leasesFit, windowsAreMeasured, boostsEnd, ?_, watchDue_iff,
    fun s e u tm named h => WakeEntry.without_spec named h, ?_⟩
  · rintro s ⟨-, -, late⟩
    obtain ⟨s1, step⟩ := activationStep_late late
    exact ⟨_, step, fun t ht on w hw => s1.activate_active _ _ ht on hw⟩
  · rintro e s ⟨one, due⟩
    rw [wakeWatch_one one, due, if_pos rfl]
  · rintro e s ⟨one, due⟩
    rw [wakeWatch_one one, due]
    rfl

end Sys2Proof.Machine

namespace Sys2Proof.Machine

/-! ### What a bundle takes (R116, R117, R73) -/

/-- A ready thread stands in a warp of the quadrant and waits for nothing. -/
def State.ReadyIn (s : State) (q : Nat) (r : Ready) : Prop :=
  ∃ t ∈ s.teams, t.id = r.team ∧ r.warp % 4 = q ∧
    (t.thread r.warp r.lane).pos = r.pos ∧ (t.thread r.warp r.lane).wait = .none ∧ (t.thread r.warp r.lane).exited = false ∧
    ((t.warp r.warp).active = true ∨ r.pos.begun = true)

theorem Warp.mem_live {w : Warp} {l : Nat} : l ∈ w.live ↔ l < w.threads.length ∧ (w.thread l).exited = false := by
  simp [Warp.live]

theorem State.readyThreads_ready {s : State} {cl co q : Nat} {r : Ready} (h : r ∈ s.readyThreads cl co q) : s.ReadyIn q r := by
  simp only [State.readyThreads, List.mem_flatMap, List.mem_map, mem_sortBy, List.mem_filter, Bool.and_eq_true, Bool.or_eq_true,
    beq_iff_eq] at h
  obtain ⟨t, ⟨ht, -⟩, w, ⟨-, quad⟩, l, ⟨live, ⟨wait, -⟩, inside⟩, rfl⟩ := h
  exact ⟨t, ht, rfl, quad, rfl, wait, (Warp.mem_live.1 live).2, inside⟩

theorem candidates_threads {rs : List Ready} {c : Candidate} (h : c ∈ candidates rs) :
    ∀ r ∈ c.threads, r ∈ rs ∧ r.team = c.team ∧ r.pos = c.pos := by
  obtain ⟨k, -, rfl⟩ := List.mem_map.1 h
  simp

/-- A fold that keeps the larger of two candidates ends with one of the list. -/
theorem largest_mem {cs : List Candidate} {b : Option Candidate} {c : Candidate}
    (h : cs.foldl (fun (b : Option Candidate) c => match b with
      | none => some c
      | some x => if x.size < c.size then some c else some x) b = some c) : c ∈ cs ∨ b = some c := by
  induction cs generalizing b with
  | nil => exact .inr h
  | cons d cs ih =>
    rcases ih h with there | here
    · exact .inl (List.mem_cons_of_mem _ there)
    · cases b with
      | none => exact .inl (Option.some.inj here ▸ List.mem_cons_self)
      | some x =>
        simp only at here
        split at here
        · exact .inl (Option.some.inj here ▸ List.mem_cons_self)
        · exact .inr here

theorem pick_mem {k : Core} {q clk : Nat} {cs : List Candidate} {c : Candidate} (h : pick k q clk cs = some c) : c ∈ cs := by
  unfold pick at h
  simp only at h
  split at h
  · rename_i x d rest oldest
    obtain rfl := Option.some.inj h
    have starved := List.mem_cons_self (a := (x, d)) (l := rest)
    rw [← oldest, mem_sortBy] at starved
    obtain ⟨c, hc, found⟩ := List.mem_filterMap.1 starved
    obtain ⟨y, -, same⟩ := Option.map_eq_some_iff.1 found
    obtain ⟨-, rfl⟩ := Prod.mk.inj same
    exact hc
  · rcases largest_mem h with there | none
    · exact List.mem_of_mem_take there
    · cases none

theorem State.groups_threads {s : State} {cl co : Nat} {c : Candidate} {g : List Ready} (h : g ∈ s.groups cl co c) :
    ∀ r ∈ g, r ∈ c.threads := by
  unfold State.groups at h
  split at h
  · cases h
  · split at h
    · obtain ⟨x, -, rfl⟩ := List.mem_map.1 (List.mem_eraseDups.1 (List.mem_filter.1 h).1)
      intro r hr
      simp only at hr
      split at hr
      · exact (List.mem_filter.1 hr).1
      · cases hr
    · obtain ⟨x, hx, rfl⟩ := List.mem_map.1 h
      exact fun r hr => List.mem_singleton.1 hr ▸ hx

theorem takeGroups_mem {gs : List (List Ready)} {acc : List Ready} {r : Ready} (h : r ∈ takeGroups acc gs) :
    r ∈ acc ∨ ∃ g ∈ gs, r ∈ g := by
  induction gs generalizing acc with
  | nil => exact .inl h
  | cons g gs ih =>
    rcases ih h with here | ⟨g', hg, hr⟩
    · split at here
      · exact .inl here
      · rcases List.mem_append.1 here with old | new
        · exact .inl old
        · exact .inr ⟨g, List.mem_cons_self, new⟩
    · exact .inr ⟨g', List.mem_cons_of_mem _ hg, hr⟩

theorem State.bundleOf_lanes (s : State) (cl co : Nat) (c : Candidate) : ((s.bundleOf cl co c).members.map (·.2)).Nodup := by
  have lanes : (s.bundleOf cl co c).members.map (·.2) =
      (List.range 32).filter fun l => ((takeGroups [] (s.groups cl co c)).find? (·.lane == l)).isSome := by
    rw [← List.filterMap_eq_filter, State.bundleOf, List.map_filterMap]
    refine List.filterMap_congr fun l _ => ?_
    cases found : (takeGroups [] (s.groups cl co c)).find? (·.lane == l) <;> simp [Option.guard, found]
  rw [lanes]
  exact List.nodup_range.filter _

theorem State.bundleOf_members {s : State} {cl co : Nat} {c : Candidate} {m : Nat × Nat}
    (h : m ∈ (s.bundleOf cl co c).members) : ∃ r ∈ c.threads, r.warp = m.1 ∧ r.lane = m.2 := by
  obtain ⟨l, -, taken⟩ := List.mem_filterMap.1 h
  obtain ⟨r, found, rfl⟩ := Option.map_eq_some_iff.1 taken
  have lane : r.lane = l := by simpa using List.find?_some found
  rcases takeGroups_mem (List.mem_of_find?_eq_some found) with none | ⟨g, hg, hr⟩
  · cases none
  · exact ⟨r, State.groups_threads hg r hr, rfl, lane⟩

/-- A bundle of slot `n` that gathers ready threads of one team at one position, one for each lane. -/
def State.Gathers (s : State) (n : Nat) (b : Bundle) : Prop :=
  (b.members.map (·.2)).Nodup ∧ ∃ pos, ∀ m ∈ b.members,
    (s.thread b.team m.1 m.2).pos = pos ∧ (s.thread b.team m.1 m.2).wait = .none ∧
    (s.thread b.team m.1 m.2).exited = false ∧ m.1 % 4 = n / 2 ∧ ((s.warp b.team m.1).active = true ∨ pos.begun = true)

theorem State.bundleOf_gathers {s : State} (distinct : s.distinct) {cl co q n : Nat} {c : Candidate} (quad : n / 2 = q)
    (h : c ∈ candidates (s.readyThreads cl co q)) : s.Gathers n (s.bundleOf cl co c) := by
  refine ⟨s.bundleOf_lanes cl co c, c.pos, fun m hm => ?_⟩
  obtain ⟨r, hr, warp, lane⟩ := State.bundleOf_members hm
  obtain ⟨inside, team, pos⟩ := candidates_threads h r hr
  obtain ⟨t, ht, id, hq, stands, wait, live, runs⟩ := State.readyThreads_ready inside
  have found : s.team? (s.bundleOf cl co c).team = some t := by
    rw [show (s.bundleOf cl co c).team = t.id from (id.trans team).symm]
    exact State.team?_of_mem distinct ht
  subst quad
  rw [State.thread_of_team? found, State.warp, found, ← warp, ← lane, ← pos]
  exact ⟨stands, wait, live, hq, runs⟩

theorem State.gathers_of_teams {s s' : State} (h : s'.teams = s.teams) {n : Nat} {b : Bundle} : s'.Gathers n b ↔ s.Gathers n b := by
  simp only [State.Gathers, State.thread, State.warp, State.team?, h]

/-! ### A regroup period (R116) -/

/-- What a step of a regroup period does to a core's bundles. -/
structure State.Regroups (cl co : Nat) (s s' : State) : Prop where
  teams : s'.teams = s.teams
  target : s'.target = s.target
  keeps : ∀ (n : Nat) (b : Bundle), (s.core cl co).bundles[n]? = some (some b) → (s'.core cl co).bundles[n]? = some (some b)
  fills : ∀ (n : Nat) (b : Bundle), (s'.core cl co).bundles[n]? = some (some b) →
    (s.core cl co).bundles[n]? = some (some b) ∨ s.Gathers n b

namespace State.Regroups

variable {cl co : Nat} {s s' s'' : State}

theorem refl (cl co : Nat) (s : State) : Regroups cl co s s := ⟨rfl, rfl, fun _ _ h => h, fun _ _ h => .inl h⟩

theorem trans (h : Regroups cl co s s') (h' : Regroups cl co s' s'') : Regroups cl co s s'' where
  teams := h'.teams.trans h.teams
  target := h'.target.trans h.target
  keeps n b hb := h'.keeps n b (h.keeps n b hb)
  fills n b hb := (h'.fills n b hb).elim (h.fills n b) fun g => .inr ((State.gathers_of_teams h.teams).1 g)

theorem of_bundles (teams : s'.teams = s.teams) (target : s'.target = s.target) (bundles : (s'.core cl co).bundles = (s.core cl co).bundles) :
    Regroups cl co s s' := by
  refine ⟨teams, target, fun n b h => ?_, fun n b h => .inl ?_⟩
  · rwa [bundles]
  · rwa [bundles] at h

end State.Regroups

/-- An updated core is the update of the core, or no core there. -/
theorem State.core_updCore (s : State) (cl co : Nat) (f : Core → Core) :
    (s.updCore cl co f).core cl co = f (s.core cl co) ∨ (s.updCore cl co f).core cl co = s.core cl co := by
  simp only [State.core, State.cluster, State.updCore, State.updCluster, updAt_getD]
  split
  · simp only [updAt_getD]
    split
    · exact .inl rfl
    · exact .inr rfl
  · exact .inr rfl

theorem State.noteReady_regroups (s : State) (cl co q : Nat) : Regroups cl co s (s.noteReady cl co q) := by
  refine .of_bundles rfl rfl ?_
  have keeps {f : Core → Core} (hf : ∀ k, (f k).bundles = k.bundles) :
      ((s.updCore cl co f).core cl co).bundles = (s.core cl co).bundles := by
    rcases s.core_updCore cl co f with h | h
    · rw [h, hf]
    · rw [h]
  exact keeps fun _ => rfl

theorem setAt_getElem? {α : Type} (l : List α) (i j : Nat) (x : α) :
    (setAt l i x)[j]? = if i = j ∧ j < l.length then some x else l[j]? := by
  induction l generalizing i j with
  | nil => simp [setAt]
  | cons h t ih => cases i <;> cases j <;> simp [setAt, ih]

theorem State.fillSlot_regroups {s : State} (distinct : s.distinct) (cl co q : Nat) {n : Nat} (quad : n / 2 = q) :
    Regroups cl co s (s.fillSlot cl co q n) := by
  unfold State.fillSlot
  simp only
  split
  · exact .refl cl co s
  · rename_i free
    split
    · exact .refl cl co s
    · rename_i c chosen
      split
      · exact .refl cl co s
      · have gathers := State.bundleOf_gathers distinct quad (pick_mem chosen)
        rcases s.core_updCore cl co _ with new | same
        · refine ⟨rfl, rfl, fun k b held => ?_, fun k b held => ?_⟩
          · have other : n ≠ k := by
              rintro rfl
              simp [List.getD_eq_getElem?_getD, held] at free
            rw [new, setAt_getElem?, if_neg (fun h => other h.1), held]
          · rw [new, setAt_getElem?] at held
            split at held
            · rename_i here
              obtain rfl := Option.some.inj (Option.some.inj held)
              exact .inr (here.1 ▸ gathers)
            · exact .inl held
        · exact .of_bundles rfl rfl (congrArg Core.bundles same)

theorem State.distinct_of_teams {s s' : State} (h : s'.teams = s.teams) (distinct : s.distinct) : s'.distinct := by
  rwa [State.distinct, h]

/-- A quadrant's two slots are filled. -/
theorem State.quadrant_regroups {s : State} (distinct : s.distinct) (cl co q : Nat) :
    Regroups cl co s (((s.noteReady cl co q).fillSlot cl co q (2 * q)).fillSlot cl co q (2 * q + 1)) := by
  have noted := s.noteReady_regroups cl co q
  have first := noted.trans (State.fillSlot_regroups (State.distinct_of_teams noted.teams distinct) cl co q (n := 2 * q) (by omega))
  exact first.trans (State.fillSlot_regroups (State.distinct_of_teams first.teams distinct) cl co q (by omega))

theorem State.quadrants_regroup (cl co : Nat) (qs : List Nat) {s : State} (distinct : s.distinct) :
    Regroups cl co s (qs.foldl (fun s q => ((s.noteReady cl co q).fillSlot cl co q (2 * q)).fillSlot cl co q (2 * q + 1)) s) := by
  induction qs generalizing s with
  | nil => exact .refl cl co s
  | cons q qs ih =>
    have step := State.quadrant_regroups distinct cl co q
    exact step.trans (ih (State.distinct_of_teams step.teams distinct))

/-- The names of the teams, the clusters and the target. -/
def State.grouping (s : State) : List Nat × List Cluster × Target := (s.teams.map (·.id), s.clusters, s.target)

theorem State.updTeam_grouping (s : State) (tm : Nat) {f : Team → Team} (hf : ∀ t, (f t).id = t.id) :
    (s.updTeam tm f).grouping = s.grouping := by
  refine Prod.ext ?_ rfl
  simp only [State.grouping, State.updTeam, List.map_map]
  refine List.map_congr_left fun t _ => ?_
  simp only [Function.comp_apply]
  split
  · exact hf t
  · rfl

/-- Noting the mismatches of a team. -/
theorem State.noteMixed_grouping (s : State) (tm : Nat) : ((s.noteMismatch tm).noteMixed tm).grouping = s.grouping := by
  have noted : (s.noteMismatch tm).grouping = s.grouping := State.updTeam_grouping s tm fun _ => rfl
  unfold State.noteMixed
  split
  · exact noted
  · refine (State.updTeam_grouping _ tm ?_).trans noted
    exact fun _ => rfl

/-- A regroup period fills the quadrants, in a state of the same bundles. -/
theorem regroupPeriod_fills (s : State) : ∃ s1 : State, s1.grouping = s.grouping ∧ exec .regroupPeriod s =
    .next ([0, 1, 2, 3].foldl (fun x q => ((x.noteReady s.target.cl s.target.co q).fillSlot s.target.cl s.target.co q
      (2 * q)).fillSlot s.target.cl s.target.co q (2 * q + 1)) s1) := by
  refine ⟨_, ?_, rfl⟩
  refine foldl_of_step State.grouping _ ?_ _ _
  intro s tm
  split
  · exact s.noteMixed_grouping tm
  · rfl

theorem bundlesGatherReadyThreads : BundlesGatherReadyThreads := by
  intro s distinct
  obtain ⟨s1, kept, step⟩ := regroupPeriod_fills s
  obtain ⟨ids, kept⟩ := Prod.mk.inj kept
  obtain ⟨clusters, target⟩ := Prod.mk.inj kept
  have distinct1 : s1.distinct := by
    rw [State.distinct, ids]
    exact distinct
  have filled := State.quadrants_regroup s.target.cl s.target.co [0, 1, 2, 3] distinct1
  generalize [0, 1, 2, 3].foldl _ s1 = s' at step filled
  obtain ⟨teams, target', keeps, fills⟩ := filled
  have before : s1.core s.target.cl s.target.co = s.thisCore := by
    simp only [State.core, State.cluster, clusters, State.thisCore]
  have after : s'.core s.target.cl s.target.co = s'.thisCore := by
    rw [State.thisCore, target', target]
  rw [before, after] at keeps fills
  refine ⟨s', step, keeps, fun n b free held => ?_⟩
  rcases fills n b held with old | gathers
  · rw [free] at old
    cases old
  · exact (State.gathers_of_teams teams).2 gathers

end Sys2Proof.Machine

namespace Sys2Proof.Machine

/-! ### A word in the threads of a bundle (R118) -/

/-- A word none of whose threads traps moves its threads on alone. -/
theorem Issue.finish_untrapped_data (iss : Issue) (len : Nat) (rs : List ((Nat × Nat) × LaneRes × Word)) (s : State)
    (h : ∀ r ∈ rs, ∀ k, r.2.1 ≠ .trap k) : (iss.finish len rs s).data = s.data := by
  unfold Issue.finish
  split
  · rfl
  · rename_i t ht
    clear ht
    simp only
    rw [List.flatMap_eq_nil_iff.2 fun r hr => ?none]
    case none =>
      obtain ⟨m, x, d⟩ := r
      cases x with
      | trap k => exact absurd rfl (h _ hr k)
      | done | stay | moved => rfl
    simp only [Issue.deliverTraps, List.foldl_nil, Issue.holdMates_data]
    refine foldl_of_step State.data _ ?_ rs s
    rintro s ⟨m, x, d⟩
    cases x with
    | done =>
      refine foldl_of_step State.data _ ?_ _ s
      intro s y
      split <;> simp
    | stay w => exact foldl_of_step State.data _ (fun s x => s.holdLane_data _ _ _ x) _ s
    | trap k => rfl
    | moved =>
      simp only
      split
      · rfl
      · exact iss.missedTrap_data m s

/-- The threads of a word that pass their checks and run leave what their actions leave, and none traps. -/
theorem Form.foldl_lane_runs {fm : Form} {value : Ctx → Option Nat} {act : State → Ctx → State × LaneRes} {iss : Issue} {t : Team}
    {ms : List (Nat × Nat)} (checks : ∀ m ∈ ms, Ctx.checks ⟨t, m.1, m.2, iss⟩ fm.os (value ⟨t, m.1, m.2, iss⟩) fm.pure = none)
    {s s' : State} (runs : Runs fm.inOrder act iss ms s s') {rs : List ((Nat × Nat) × LaneRes × Word)}
    (h : ∀ r ∈ rs, (∀ k, r.2.1 ≠ .trap k) ∧ (fm.inOrder = true → r.2.1 ≠ .stay .mshr)) :
    ∃ rs', ms.foldl (fm.lane iss value act t) (s, rs) = (s', rs') ∧ ∀ r ∈ rs', ∀ k, r.2.1 ≠ .trap k := by
  induction ms generalizing s rs with
  | nil =>
    obtain rfl := runs
    exact ⟨rs, rfl, fun r hr => (h r hr).1⟩
  | cons m ms ih =>
    obtain ⟨t', s1, r, found, ran, untrapped, inOrder, runs⟩ := runs
    have goes : (fm.inOrder && rs.any (·.2.1 == .stay .mshr)) = false := by
      simp only [Bool.and_eq_false_imp, List.any_eq_false, beq_iff_eq]
      exact fun ordered x hx => (h x hx).2 ordered
    have lane : fm.lane iss value act t (s, rs) m =
        (s1, rs ++ [(m, r, (fm.data.map (Ctx.rd ⟨t, m.1, m.2, iss⟩)).getD 0)]) := by
      simp only [Form.lane, checks m List.mem_cons_self, goes, Bool.false_eq_true, if_false, found, ran]
    rw [List.foldl_cons, lane]
    refine ih (fun x hx => checks x (List.mem_cons_of_mem _ hx)) runs fun x hx => ?_
    rcases List.mem_append.1 hx with old | new
    · exact h x old
    · obtain rfl := List.mem_singleton.1 new
      exact ⟨untrapped, inOrder⟩

theorem bundlesActThreadByThread : BundlesActThreadByThread := by
  intro fm value act s s' iss t found pre checks runs
  have held : ((iss.actors t).filter fun m =>
      let c : Ctx := ⟨t, m.1, m.2, iss⟩; c.checks fm.os (value c) fm.pure == some .hold) = [] := by
    rw [List.filter_eq_nil_iff]
    intro m hm
    simp [checks m hm]
  obtain ⟨rs, all, untrapped⟩ := Form.foldl_lane_runs checks runs (rs := []) fun r hr => absurd hr List.not_mem_nil
  have done : fm.perform iss value act s = iss.finish fm.len rs s' := by
    unfold Form.perform
    simp only [found, pre]
    simp only [held, List.isEmpty_nil, Bool.not_true, Bool.and_false, Bool.false_eq_true, if_false, List.foldl_nil, all]
  rw [done]
  exact iss.finish_untrapped_data fm.len rs s' untrapped

end Sys2Proof.Machine

namespace Sys2Proof.Machine

/-! ### What the words of a bundle see of each other (R118) -/

/-- What a word in one thread sees of a team: the uniform registers and predicates of its warp, and the thread. -/
def Team.sees (t : Team) (m : Nat × Nat) : List SReg × List PReg × Thread :=
  ((t.warp m.1).s, (t.warp m.1).sp, t.thread m.1 m.2)

/-- A warp's uniform files and its threads but for one. -/
def Warp.besides (wp : Warp) (l : Nat) : List SReg × List PReg × (Nat → Thread) :=
  (wp.s, wp.sp, fun k => if k = l then Thread.gone else wp.thread k)

theorem Warp.updThread_besides (wp : Warp) (l : Nat) (f : Thread → Thread) : (wp.updThread l f).besides l = wp.besides l := by
  refine Prod.ext rfl (Prod.ext rfl (funext fun k => ?_))
  simp only [Warp.besides]
  split
  · rfl
  · rename_i other
    exact Warp.thread_updThread_of_ne (Ne.symm other) wp f

/-- Vector registers are written in one thread. -/
theorem Warp.setGroup_besides (wp : Warp) (l : Nat) {o : Opnd} (vec : o.file = .vec) (ws : List (Word × Tag)) :
    (wp.setGroup l o ws).besides l = wp.besides l := by
  refine foldl_of_step (Warp.besides · l) _ ?_ _ wp
  intro wp x
  simp only [vec, Warp.setCell]
  exact wp.updThread_besides l _

/-- An update within one thread leaves what the others see. -/
theorem State.updWarp_sees {s : State} {tm : Nat} {t : Team} (found : s.team? tm = some t) (w l : Nat) {f : Warp → Warp}
    (hf : ∀ wp, (f wp).besides l = wp.besides l) :
    ∃ t', (s.updWarp tm w f).team? tm = some t' ∧ ∀ m ≠ (w, l), t'.sees m = t.sees m := by
  refine ⟨_, State.team?_updWarp found w f, fun m other => ?_⟩
  have besides : ((t.updWarp w f).warp w).besides l = (t.warp w).besides l := by
    by_cases hw : w < t.warps.length
    · rw [Team.warp_updWarp hw, hf]
    · simp only [Team.warp, Team.updWarp, updAt_getD, hw, and_false, if_false]
  by_cases same : m.1 = w
  · have lane : m.2 ≠ l := fun e => other (Prod.ext same e)
    obtain ⟨s, rest⟩ := Prod.mk.inj besides
    obtain ⟨sp, threads⟩ := Prod.mk.inj rest
    have thread := congrFun threads m.2
    simp only [lane, if_false] at thread
    simp only [Team.sees, Team.thread, same, s, sp, thread]
  · simp only [Team.sees, Team.thread, Team.warp_updWarp_of_ne (Ne.symm same)]

theorem Issue.setFlags_sees {iss : Issue} (cls : iss.cls ≠ 0) {s : State} {t : Team} (found : s.team? iss.team = some t)
    (m : Nat × Nat) (fl : FpFlags) (ist : IntFlags) :
    ∃ t', (iss.setFlags m fl ist s).team? iss.team = some t' ∧ ∀ m' ≠ m, t'.sees m' = t.sees m' := by
  unfold Issue.setFlags
  split
  · exact ⟨t, found, fun _ _ => rfl⟩
  · simp only [found, Issue.lanes, cls, if_false, List.foldl_cons, List.foldl_nil]
    exact State.updWarp_sees found m.1 m.2 fun wp => wp.updThread_besides m.2 _

/-- Outside class 0 a word that writes vector registers leaves what the other threads see. -/
theorem Ctx.write_sees {iss : Issue} (cls : iss.cls ≠ 0) {s : State} {t : Team} (found : s.team? iss.team = some t) (t0 : Team)
    (m : Nat × Nat) {o : Opnd} (vec : o.file = .vec) (ws : List (Word × Tag)) (fl : FpFlags) (ist : IntFlags) :
    ∃ t', (Ctx.write ⟨t0, m.1, m.2, iss⟩ o ws fl ist s).team? iss.team = some t' ∧ ∀ m' ≠ m, t'.sees m' = t.sees m' := by
  obtain ⟨t1, found1, flags⟩ := Issue.setFlags_sees cls found m fl ist
  obtain ⟨t2, found2, regs⟩ := State.updWarp_sees found1 m.1 m.2 (f := fun wp => wp.setGroup m.2 o ws)
    fun wp => wp.setGroup_besides m.2 vec ws
  exact ⟨t2, found2, fun m' other => (regs m' other).trans (flags m' other)⟩

/-! ### Register words in a bundle -/

/-- A result that depends on what the word sees in its thread alone. -/
def Local (res : Ctx → XRes) : Prop :=
  ∀ (c : Ctx) (t : Team), t.sees (c.w, c.l) = c.t.sees (c.w, c.l) → res { c with t := t } = res c

theorem Ctx.cell_of_sees {c : Ctx} {t : Team} (h : t.sees (c.w, c.l) = c.t.sees (c.w, c.l)) (f : RFile) (n : Nat) :
    Ctx.cell { c with t := t } f n = c.cell f n := by
  obtain ⟨s, rest⟩ := Prod.mk.inj h
  obtain ⟨sp, th⟩ := Prod.mk.inj rest
  cases f <;> simp only [Ctx.cell, Ctx.wp, Ctx.th, s, sp, th]

theorem Ctx.rd_of_sees {c : Ctx} {t : Team} (h : t.sees (c.w, c.l) = c.t.sees (c.w, c.l)) (o : Opnd) (k : Nat) :
    Ctx.rd { c with t := t } o k = c.rd o k := by
  rw [Ctx.rd, Ctx.cell_of_sees h, Ctx.rd]

theorem Ctx.tag_of_sees {c : Ctx} {t : Team} (h : t.sees (c.w, c.l) = c.t.sees (c.w, c.l)) (o : Opnd) (k : Nat) :
    Ctx.tag { c with t := t } o k = c.tag o k := by
  rw [Ctx.tag, Ctx.cell_of_sees h, Ctx.tag]

theorem Ctx.th_of_sees {c : Ctx} {t : Team} (h : t.sees (c.w, c.l) = c.t.sees (c.w, c.l)) :
    Ctx.th { c with t := t } = c.th := by
  exact congrArg (fun x : List SReg × List PReg × Thread => x.2.2) h

/-- The effect of a word that writes one operand. -/
def XRes.eff (r : XRes) (o : Opnd) : Eff := { regs := [(o, r.ws)], fl := r.fl, ist := r.ist }

/-- The word's writes in the threads of a bundle in turn are its action there, when each result is local to its thread. -/
theorem runs_of_local {iss : Issue} {run : Ctx → Eff} {o : Opnd} (res : Ctx → XRes) (vec : iss.cls ≠ 0 → o.file = .vec)
    (hr : ∀ c, c.iss = iss → run c = (res c).eff o) (hl : Local res) (inOrder : Bool) (t0 : Team) (ms : List (Nat × Nat))
    (nodup : ms.Nodup) (one : iss.cls = 0 → ms.length ≤ 1) {s : State} {t : Team} (found : s.team? iss.team = some t)
    (sees : ∀ m ∈ ms, t.sees m = t0.sees m)
    (free : ∀ m ∈ ms, (t0.thread m.1 m.2).untrapped (res ⟨t0, m.1, m.2, iss⟩).fl (res ⟨t0, m.1, m.2, iss⟩).ist) :
    Runs inOrder (effAct iss run) iss ms s (ms.foldl (fun s m =>
      let r := res ⟨t0, m.1, m.2, iss⟩
      Ctx.write ⟨t0, m.1, m.2, iss⟩ o r.ws r.fl r.ist s) s) := by
  induction ms generalizing s t with
  | nil => rfl
  | cons m ms ih =>
    obtain ⟨alone, nodup⟩ := List.nodup_cons.1 nodup
    have same := sees m List.mem_cons_self
    have run_m : run ⟨t, m.1, m.2, iss⟩ = (res ⟨t0, m.1, m.2, iss⟩).eff o := by
      rw [hr _ rfl, ← hl ⟨t0, m.1, m.2, iss⟩ t same]
    have thread : Ctx.th ⟨t, m.1, m.2, iss⟩ = t0.thread m.1 m.2 := Ctx.th_of_sees (c := ⟨t0, m.1, m.2, iss⟩) same
    have cause : ((res ⟨t0, m.1, m.2, iss⟩).eff o).cause (Ctx.th ⟨t, m.1, m.2, iss⟩) = none := by
      rw [thread]
      exact Eff.cause_none_of_untrapped rfl (free m List.mem_cons_self)
    have acts : effAct iss run s ⟨t, m.1, m.2, iss⟩ = (Ctx.write ⟨t0, m.1, m.2, iss⟩ o (res ⟨t0, m.1, m.2, iss⟩).ws
        (res ⟨t0, m.1, m.2, iss⟩).fl (res ⟨t0, m.1, m.2, iss⟩).ist s, .done) := by
      simp only [effAct, cause, run_m]
      rfl
    refine ⟨t, _, .done, found, acts, by simp, by simp, ?_⟩
    rw [List.foldl_cons]
    by_cases cls : iss.cls = 0
    · obtain rfl : ms = [] := by simpa using one cls
      rfl
    · obtain ⟨t', found', others⟩ := Ctx.write_sees cls found t0 m (vec cls) (res ⟨t0, m.1, m.2, iss⟩).ws
        (res ⟨t0, m.1, m.2, iss⟩).fl (res ⟨t0, m.1, m.2, iss⟩).ist
      refine ih nodup (fun h => absurd h cls) found' (fun x hx => ?_) fun x hx => free x (List.mem_cons_of_mem _ hx)
      have other : x ≠ m := fun e => alone (e ▸ hx)
      exact (others x other).trans (sees x (List.mem_cons_of_mem _ hx))

theorem Issue.actors_class0 {iss : Issue} (cls : iss.cls = 0) (t : Team) : (iss.actors t).length ≤ 1 := by
  simp only [Issue.actors, cls, if_true]
  split <;> simp

/-- A register word whose results are local writes in each thread of its bundle. -/
theorem regWord_writesEach {i : Instr} {fm : Issue → Form} {run : Issue → Ctx → Eff} {o : Issue → Opnd}
    {rule : Ctx → List (Word × Tag) → FpFlags → IntFlags → Prop} (res : Ctx → XRes) (hx : ∀ s, exec i s = regWord fm run s)
    (vec : ∀ iss : Issue, iss.cls ≠ 0 → (o iss).file = .vec)
    (hr : ∀ iss c, c.iss = iss → run iss c = (res c).eff (o iss)) (hl : Local res)
    (hq : ∀ c, rule c (res c).ws (res c).fl (res c).ist) : WritesEach i fm o rule := by
  intro s iss t hi found nodup clear
  refine ⟨fun m => (res ⟨t, m.1, m.2, iss⟩).ws, fun m => (res ⟨t, m.1, m.2, iss⟩).fl, fun m => (res ⟨t, m.1, m.2, iss⟩).ist,
    fun m _ => hq _, fun free => ⟨_, (hx s).trans (withIssue_of hi _), ?_⟩⟩
  have found : ({ s with issue := none } : State).team? iss.team = some t := found
  cases pre : (fm iss).precheck iss t with
  | none =>
    refine bundlesActThreadByThread _ _ _ _ _ _ t found pre (fun m hm => (clear m hm).2) ?_
    exact runs_of_local res (vec iss) (hr iss) hl _ t _ nodup (fun cls => iss.actors_class0 cls t) found (fun _ _ => rfl) free
  | some k =>
    have empty : iss.actors t = [] := List.eq_nil_iff_forall_not_mem.2 fun m hm => by
      have passes : (fm iss).precheck iss t = none := (clear m hm).1
      rw [pre] at passes
      cases passes
    simp only [Form.perform, found, pre, empty, List.flatMap_nil, List.map_nil, Issue.deliverTraps, List.foldl_nil]

end Sys2Proof.Machine

namespace Sys2Proof.Machine

/-! ### What the integer words compute (R143, R144, R169, R170) -/

theorem imulh_rule (a b : Word) : (BitVec.ofInt 32 (a.toInt * b.toInt / 2 ^ 32)).toInt = a.toInt * b.toInt / 2 ^ 32 := by
  have bound (x : Word) : |x.toInt| ≤ 2 ^ 31 := by
    rw [abs_le]
    constructor
    · have := BitVec.le_toInt x
      omega
    · have := BitVec.toInt_lt (x := x)
      omega
  have product : |a.toInt * b.toInt| ≤ 2 ^ 31 * 2 ^ 31 := by
    rw [abs_mul]
    exact mul_le_mul (bound a) (bound b) (abs_nonneg _) (by norm_num)
  rw [abs_le] at product
  exact BitVec.toInt_ofInt_eq_self (by norm_num) (by omega) (by omega)

theorem nmulh_rule (a b : Word) : (BitVec.ofNat 32 (a.toNat * b.toNat / 2 ^ 32)).toNat = a.toNat * b.toNat / 2 ^ 32 := by
  have product : a.toNat * b.toNat < 2 ^ 32 * 2 ^ 32 := Nat.mul_lt_mul'' a.isLt b.isLt
  rw [BitVec.toNat_ofNat]
  exact Nat.mod_eq_of_lt (Nat.div_lt_of_lt_mul product)

/-- A clipped value, read as `val` reads the words of the range. -/
theorem clipTo_clips {val : Word → Int} {lo hi : Int} (range : lo ≤ hi)
    (read : ∀ v, lo ≤ v → v ≤ hi → val (BitVec.ofInt 32 v) = v) (v : Int) :
    clips lo hi v (val (clipTo lo hi v).1) (clipTo lo hi v).2 := by
  unfold clipTo clips
  split
  · rename_i below
    rw [read lo le_rfl range]
    exact ⟨by omega, (if_neg (by omega)).symm⟩
  · split
    · rename_i above
      rw [read hi range le_rfl]
      exact ⟨by omega, (if_neg (by omega)).symm⟩
    · rw [read v (by omega) (by omega)]
      exact ⟨by omega, (if_pos rfl).symm⟩

theorem clipS_clips (v : Int) : clips (-2 ^ 31) (2 ^ 31 - 1) v (clipS v).1.toInt (clipS v).2 :=
  clipTo_clips (by norm_num) (fun v low high => BitVec.toInt_ofInt_eq_self (by norm_num) low (by omega)) v

theorem clipN_clips (v : Int) : clips 0 (2 ^ 32 - 1) v (clipN v).1.toNat (clipN v).2 :=
  clipTo_clips (val := fun x => (x.toNat : Int)) (by norm_num)
    (fun v low high => by simp only [BitVec.toNat_ofInt]; omega) v

theorem min_of_slt (a b : Word) : (if a.slt b then a else b).toInt = min a.toInt b.toInt := by
  simp only [BitVec.slt_eq_decide, decide_eq_true_eq]
  split <;> omega

theorem max_of_slt (a b : Word) : (if a.slt b then b else a).toInt = max a.toInt b.toInt := by
  simp only [BitVec.slt_eq_decide, decide_eq_true_eq]
  split <;> omega

theorem min_of_ult (a b : Word) : (if a.ult b then a else b).toNat = min a.toNat b.toNat := by
  simp only [BitVec.ult_eq_decide, decide_eq_true_eq]
  split <;> omega

theorem max_of_ult (a b : Word) : (if a.ult b then b else a).toNat = max a.toNat b.toNat := by
  simp only [BitVec.ult_eq_decide, decide_eq_true_eq]
  split <;> omega

theorem andn_bit (a b : Word) (i : Nat) : (a &&& ~~~b).getLsbD i = (a.getLsbD i && !b.getLsbD i) := by
  by_cases inside : i < 32
  · simp [inside]
  · simp [BitVec.getLsbD_of_ge a i (Nat.le_of_not_lt inside)]

theorem shlW_toNat (a : Word) (n : Nat) : (shlW a n).toNat = a.toNat * 2 ^ n % 2 ^ 32 := by
  unfold shlW
  split
  · rename_i out
    exact (Nat.mod_eq_zero_of_dvd (Dvd.dvd.mul_left (pow_dvd_pow 2 out) _)).symm
  · rw [BitVec.toNat_shiftLeft, Nat.shiftLeft_eq]

theorem shrW_toNat (a : Word) (n : Nat) : (shrW a n).toNat = a.toNat / 2 ^ n := by
  unfold shrW
  split
  · rename_i out
    exact (Nat.div_eq_of_lt (a.isLt.trans_le (Nat.pow_le_pow_right (by norm_num) out))).symm
  · rw [BitVec.toNat_ushiftRight, Nat.shiftRight_eq_div_pow]

theorem sar_toInt (a : Word) (n : Nat) :
    (if n ≥ 32 then (if a.msb then 0xFFFFFFFF else 0) else sarW a n).toInt = a.toInt / 2 ^ n := by
  split
  · rename_i out
    have low := BitVec.le_toInt a
    have high := BitVec.toInt_lt (x := a)
    have big : (2 : Int) ^ 32 ≤ 2 ^ n := pow_le_pow_right₀ (by norm_num) out
    split
    · rename_i neg
      have below : a.toInt < 0 := by rwa [BitVec.msb_eq_toInt, decide_eq_true_eq] at neg
      have quotient := (Int.ediv_emod_unique (a := a.toInt) (b := 2 ^ n) (r := a.toInt + 2 ^ n) (q := -1) (by omega)).2
        ⟨by omega, by omega, by omega⟩
      exact quotient.1.symm
    · rename_i pos
      have above : 0 ≤ a.toInt := by rwa [BitVec.msb_eq_toInt, decide_eq_true_eq, not_lt] at pos
      exact (Int.ediv_eq_zero_of_lt above (by omega)).symm
  · rename_i inside
    rw [sarW, BitVec.toInt_sshiftRight, Int.shiftRight_eq_div_pow, Nat.min_eq_left (by omega)]
    norm_cast

theorem rolW_bit (a : Word) (n i : Nat) (h : i < 32) : (rolW a n).getLsbD ((i + n) % 32) = a.getLsbD i := by
  rw [rolW, BitVec.getLsbD_rotateLeft_of_le (Nat.mod_lt _ (by norm_num)), Bool.cond_decide]
  split
  · congr 1
    omega
  · rw [decide_eq_true (by omega), Bool.true_and]
    congr 1
    omega

theorem bfxnW_bit (a b : Word) (i : Nat) :
    (bfxnW a b).getLsbD i = (decide (i < fieldLen b) && a.getLsbD (fieldPos b + i)) := by
  have short : fieldLen b ≤ 32 := by
    unfold fieldLen
    omega
  rw [bfxnW, BitVec.getLsbD_ofNat, bits, Nat.testBit_mod_two_pow, Nat.testBit_shiftRight]
  by_cases inside : i < fieldLen b
  · simp [inside, inside.trans_le short, BitVec.getLsbD]
  · simp [inside]

/-- The sign of the low bits of a number. -/
theorem sextNat_eq (n x : Nat) : sextNat n x = (BitVec.ofNat n x).toInt := by
  rw [← sextNat_toNat, sextNat, sextNat, BitVec.toNat_ofNat, Nat.mod_mod]

theorem bfxiW_bit (a b : Word) (i : Nat) (h : i < 32) : (bfxiW a b).getLsbD i =
    (decide (fieldLen b ≠ 0) && a.getLsbD (fieldPos b + min i (fieldLen b - 1))) := by
  unfold bfxiW
  split
  · rename_i none
    simp [none]
  · rename_i some
    have field (k : Nat) : (BitVec.ofNat (fieldLen b) (a.toNat >>> fieldPos b)).getLsbD k =
        (decide (k < fieldLen b) && a.getLsbD (fieldPos b + k)) := by
      rw [BitVec.getLsbD_ofNat, Nat.testBit_shiftRight, BitVec.getLsbD]
    rw [sextNat_eq, ← BitVec.signExtend, BitVec.getLsbD_signExtend, BitVec.msb_eq_getLsbD_last, field, field]
    rw [decide_eq_true h, decide_eq_true some, decide_eq_true (show fieldLen b - 1 < fieldLen b by omega)]
    split
    · rename_i inside
      rw [decide_eq_true inside, Nat.min_eq_left (by omega)]
      rfl
    · rw [Nat.min_eq_right (by omega)]
      rfl

/-! ### Divisions (R144) -/

theorem quotients_tdiv (a b : Int) : quotients a b (a.tdiv b) := by
  refine ⟨Int.natAbs_tdiv a b, ?_⟩
  rcases le_total 0 a with ha | ha <;> rcases le_total 0 b with hb | hb
  · exact mul_nonneg (Int.tdiv_nonneg ha hb) (mul_nonneg ha hb)
  · exact mul_nonneg_of_nonpos_of_nonpos (Int.tdiv_nonpos_of_nonneg_of_nonpos ha hb) (mul_nonpos_of_nonneg_of_nonpos ha hb)
  · have quotient : a.tdiv b ≤ 0 := by
      rw [← neg_neg a, Int.neg_tdiv]
      exact neg_nonpos.2 (Int.tdiv_nonneg (neg_nonneg.2 ha) hb)
    exact mul_nonneg_of_nonpos_of_nonpos quotient (mul_nonpos_of_nonpos_of_nonneg ha hb)
  · exact mul_nonneg (Int.tdiv_nonneg_of_nonpos_of_nonpos ha hb) (mul_nonneg_of_nonpos_of_nonpos ha hb)

/-- A quotient of two words lies in their range but for the overflow. -/
theorem toInt_tdiv {a b : Word} (h : ¬(a = 0x80000000 ∧ b = 0xFFFFFFFF)) :
    (BitVec.ofInt 32 (a.toInt.tdiv b.toInt)).toInt = a.toInt.tdiv b.toInt := by
  have low := BitVec.le_toInt a
  have high := BitVec.toInt_lt (x := a)
  obtain ⟨size, -⟩ := quotients_tdiv a.toInt b.toInt
  have small : (a.toInt.tdiv b.toInt).natAbs ≤ a.toInt.natAbs := size ▸ Nat.div_le_self _ _
  have below : a.toInt.tdiv b.toInt < 2 ^ 31 := by
    by_contra big
    have least : a.toInt = -2 ^ 31 := by omega
    have one : b.toInt.natAbs = 1 := by
      have whole : 2 ^ 31 / b.toInt.natAbs = 2 ^ 31 := by
        have quotient : (a.toInt.tdiv b.toInt).natAbs = 2 ^ 31 / b.toInt.natAbs := by
          rw [size, least]
          rfl
        omega
      rcases Nat.lt_trichotomy b.toInt.natAbs 1 with zero | one | more
      · rw [Nat.lt_one_iff.1 zero] at whole
        omega
      · exact one
      · exact absurd whole (Nat.div_lt_self (by norm_num) more).ne
    rcases Int.natAbs_eq b.toInt with pos | neg
    · rw [one] at pos
      rw [least, pos] at big
      exact big (by decide)
    · rw [one] at neg
      exact h ⟨BitVec.eq_of_toInt_eq least, BitVec.eq_of_toInt_eq neg⟩
  exact BitVec.toInt_ofInt_eq_self (by norm_num) (by omega) below

theorem toInt_tmod {a b : Word} (h : b ≠ 0) : (BitVec.ofInt 32 (a.toInt.tmod b.toInt)).toInt = a.toInt.tmod b.toInt := by
  have low := BitVec.le_toInt b
  have high := BitVec.toInt_lt (x := b)
  have nonzero : b.toInt ≠ 0 := fun e => h (BitVec.eq_of_toInt_eq e)
  have small : (a.toInt.tmod b.toInt).natAbs < b.toInt.natAbs := by
    rw [Int.natAbs_tmod]
    exact Nat.mod_lt _ (Int.natAbs_pos.2 nonzero)
  exact BitVec.toInt_ofInt_eq_self (by norm_num) (by omega) (by omega)

theorem divS_rule (a b : Word) :
    (b = 0 → (divS a b).1 = 0xFFFFFFFF ∧ (divS a b).2 = flagDZI) ∧
    (a = 0x80000000 → b = 0xFFFFFFFF → (divS a b).1 = 0x80000000 ∧ (divS a b).2 = flagDOV) ∧
    (b ≠ 0 → ¬(a = 0x80000000 ∧ b = 0xFFFFFFFF) → quotients a.toInt b.toInt (divS a b).1.toInt ∧ (divS a b).2 = 0) := by
  refine ⟨?_, ?_, fun nonzero within => ?_⟩
  · rintro rfl
    exact ⟨rfl, rfl⟩
  · rintro rfl rfl
    exact ⟨rfl, rfl⟩
  · simp only [divS, if_neg nonzero, if_neg within, toInt_tdiv within]
    exact ⟨quotients_tdiv _ _, trivial⟩

theorem divN_rule (a b : Word) :
    (b = 0 → (divN a b).1 = 0xFFFFFFFF ∧ (divN a b).2 = flagDZI) ∧
    (b ≠ 0 → (divN a b).1.toNat = a.toNat / b.toNat ∧ (divN a b).2 = 0) := by
  refine ⟨?_, fun nonzero => ?_⟩
  · rintro rfl
    exact ⟨rfl, rfl⟩
  · have small : a.toNat / b.toNat < 2 ^ 32 := (Nat.div_le_self _ _).trans_lt a.isLt
    simp only [divN, if_neg nonzero, BitVec.toNat_ofNat, Nat.mod_eq_of_lt small, and_self]

theorem remS_rule (a b : Word) :
    (b = 0 → (remS a b).1 = a ∧ (remS a b).2 = flagDZI) ∧
    (a = 0x80000000 → b = 0xFFFFFFFF → (remS a b).1 = 0 ∧ (remS a b).2 = flagDOV) ∧
    (b ≠ 0 → ¬(a = 0x80000000 ∧ b = 0xFFFFFFFF) →
      (∃ q, quotients a.toInt b.toInt q ∧ (remS a b).1.toInt = a.toInt - q * b.toInt) ∧ (remS a b).2 = 0) := by
  refine ⟨?_, ?_, fun nonzero within => ?_⟩
  · rintro rfl
    exact ⟨rfl, rfl⟩
  · rintro rfl rfl
    exact ⟨rfl, rfl⟩
  · simp only [remS, if_neg nonzero, if_neg within, toInt_tmod nonzero]
    exact ⟨⟨_, quotients_tdiv _ _, by rw [Int.tmod_def, mul_comm]⟩, trivial⟩

theorem remN_rule (a b : Word) :
    (b = 0 → (remN a b).1 = a ∧ (remN a b).2 = flagDZI) ∧
    (b ≠ 0 → (remN a b).1.toNat = a.toNat % b.toNat ∧ (remN a b).2 = 0) := by
  refine ⟨?_, fun nonzero => ?_⟩
  · rintro rfl
    exact ⟨rfl, rfl⟩
  · have small : a.toNat % b.toNat < 2 ^ 32 := (Nat.mod_le _ _).trans_lt a.isLt
    simp only [remN, if_neg nonzero, BitVec.toNat_ofNat, Nat.mod_eq_of_lt small, and_self]

/-! ### The two-source words -/

/-- The word `r` computes `op` of its sources, as its rule says. -/
structure TwoSource.Computes (r : TwoSource) (op : Word → Word → Word × IntFlags) : Prop where
  exec : ∀ f s, exec (r.op f) s = int2 f (r.op f).wf r.ta r.tb r.tag op s
  rule : ∀ a b, r.rule a b (op a b).1 (op a b).2

theorem integerArithmetic_computes : ∀ r ∈ integerArithmetic, ∃ op, r.Computes op := by
  simp only [integerArithmetic, List.forall_mem_cons]
  exact ⟨
    ⟨fun a b => (a + b, 0), fun _ _ => rfl, fun a b => ⟨BitVec.toNat_add a b, rfl⟩⟩,
    ⟨fun a b => (a - b, 0), fun _ _ => rfl, fun a b => ⟨by simp only [BitVec.toNat_sub]; omega, rfl⟩⟩,
    ⟨fun a b => clipS (a.toInt + b.toInt), fun _ _ => rfl, fun _ _ => clipS_clips _⟩,
    ⟨fun a b => clipN ((a.toNat : Int) + b.toNat), fun _ _ => rfl, fun _ _ => clipN_clips _⟩,
    ⟨fun a b => clipS (a.toInt - b.toInt), fun _ _ => rfl, fun _ _ => clipS_clips _⟩,
    ⟨fun a b => clipN ((a.toNat : Int) - b.toNat), fun _ _ => rfl, fun _ _ => clipN_clips _⟩,
    ⟨fun a b => (a * b, 0), fun _ _ => rfl, fun a b => ⟨BitVec.toNat_mul a b, rfl⟩⟩,
    ⟨fun a b => (BitVec.ofInt 32 (a.toInt * b.toInt / 2 ^ 32), 0), fun _ _ => rfl, fun a b => ⟨imulh_rule a b, rfl⟩⟩,
    ⟨fun a b => (BitVec.ofNat 32 (a.toNat * b.toNat / 2 ^ 32), 0), fun _ _ => rfl, fun a b => ⟨nmulh_rule a b, rfl⟩⟩,
    ⟨fun a b => (if a.slt b then a else b, 0), fun _ _ => rfl, fun a b => ⟨min_of_slt a b, rfl⟩⟩,
    ⟨fun a b => (if a.slt b then b else a, 0), fun _ _ => rfl, fun a b => ⟨max_of_slt a b, rfl⟩⟩,
    ⟨fun a b => (if a.ult b then a else b, 0), fun _ _ => rfl, fun a b => ⟨min_of_ult a b, rfl⟩⟩,
    ⟨fun a b => (if a.ult b then b else a, 0), fun _ _ => rfl, fun a b => ⟨max_of_ult a b, rfl⟩⟩,
    fun _ none => absurd none List.not_mem_nil⟩

theorem integerBits_computes : ∀ r ∈ integerBits, ∃ op, r.Computes op := by
  simp only [integerBits, List.forall_mem_cons]
  exact ⟨
    ⟨fun a b => (a &&& b, 0), fun _ _ => rfl, fun _ _ => ⟨fun _ => BitVec.getLsbD_and, rfl⟩⟩,
    ⟨fun a b => (a ||| b, 0), fun _ _ => rfl, fun _ _ => ⟨fun _ => BitVec.getLsbD_or, rfl⟩⟩,
    ⟨fun a b => (a ^^^ b, 0), fun _ _ => rfl, fun _ _ => ⟨fun _ => BitVec.getLsbD_xor, rfl⟩⟩,
    ⟨fun a b => (a &&& ~~~b, 0), fun _ _ => rfl, fun a b => ⟨andn_bit a b, rfl⟩⟩,
    ⟨fun a b => (shlW a b.toNat, 0), fun _ _ => rfl, fun a b => ⟨shlW_toNat a b.toNat, rfl⟩⟩,
    ⟨fun a b => (shrW a b.toNat, 0), fun _ _ => rfl, fun a b => ⟨shrW_toNat a b.toNat, rfl⟩⟩,
    ⟨fun a b => (if b.toNat ≥ 32 then (if a.msb then 0xFFFFFFFF else 0) else sarW a b.toNat, 0), fun _ _ => rfl, fun a b => ⟨sar_toInt a b.toNat, rfl⟩⟩,
    ⟨fun a b => (rolW a b.toNat, 0), fun _ _ => rfl, fun a b => ⟨rolW_bit a b.toNat, rfl⟩⟩,
    ⟨fun a b => (bfxnW a b, 0), fun _ _ => rfl, fun a b => ⟨bfxnW_bit a b, rfl⟩⟩,
    ⟨fun a b => (bfxiW a b, 0), fun _ _ => rfl, fun a b => ⟨bfxiW_bit a b, rfl⟩⟩,
    fun _ none => absurd none List.not_mem_nil⟩

theorem integerDivision_computes : ∀ r ∈ integerDivision, ∃ op, r.Computes op := by
  simp only [integerDivision, List.forall_mem_cons]
  exact ⟨
    ⟨divS, fun _ _ => rfl, divS_rule⟩,
    ⟨divN, fun _ _ => rfl, divN_rule⟩,
    ⟨remS, fun _ _ => rfl, remS_rule⟩,
    ⟨remN, fun _ _ => rfl, remN_rule⟩,
    fun _ none => absurd none List.not_mem_nil⟩

/-- The result of a two-source word. -/
def TwoSource.result (r : TwoSource) (op : Word → Word → Word × IntFlags) (f : A3) (c : Ctx) : XRes :=
  let x := op (c.rd (f.srcA c.iss r.ta)) (c.rd (f.srcB c.iss r.tb))
  { ws := [(x.1, r.tag (c.tag (f.srcA c.iss r.ta)))], ist := x.2 }

theorem TwoSource.result_local (r : TwoSource) (op : Word → Word → Word × IntFlags) (f : A3) : Local (r.result op f) := by
  intro c t sees
  simp only [TwoSource.result, Ctx.rd_of_sees sees, Ctx.tag_of_sees sees]

theorem A3.dst_vec (f : A3) {iss : Issue} (cls : iss.cls ≠ 0) : (f.dst iss).file = .vec := by
  simp only [A3.dst, Issue.reg, cls, if_false, Opnd.dst]

theorem TwoSource.Computes.writesEach {r : TwoSource} {op : Word → Word → Word × IntFlags} (h : r.Computes op) (f : A3) :
    WritesEach (r.op f) (r.form f) f.dst (r.gives f) := by
  refine regWord_writesEach (r.result op f) (h.exec f) (fun _ cls => A3.dst_vec f cls) ?_ (r.result_local op f)
    fun c => ⟨_, rfl, rfl, h.rule _ _⟩
  rintro iss c rfl
  rfl

theorem integerWordsWriteEach : ∀ r ∈ integerArithmetic ++ integerBits ++ integerDivision, ∀ f : A3,
    WritesEach (r.op f) (r.form f) f.dst (r.gives f) := by
  intro r hr f
  simp only [List.mem_append, or_assoc] at hr
  obtain ⟨op, computes⟩ : ∃ op, r.Computes op := by
    rcases hr with hr | hr | hr
    · exact integerArithmetic_computes r hr
    · exact integerBits_computes r hr
    · exact integerDivision_computes r hr
  exact computes.writesEach f

end Sys2Proof.Machine

namespace Sys2Proof.Machine

/-! ### The F32 words (R175 to R179) -/

/-- The effect of an F32 word. -/
def FpWord.result (r : FpWord) (f : A3) (c : Ctx) : XRes :=
  { ws := [(wordOf (r.res f c), .f32)], fl := (r.res f c).fl }

/-- The effect as exec forms it, with the operands of the word that issues. -/
def FpWord.run (r : FpWord) (f : A3) (iss : Issue) (c : Ctx) : Eff :=
  let x := r.val c.th.rm (c.rd (f.srcA iss tF)).toNat (c.rd (f.srcB iss tF)).toNat (c.rd (f.dst iss)).toNat
  { regs := [(f.dst iss, [(wordOf x, .f32)])], fl := x.fl }

theorem fpWords_run : ∀ r ∈ fpWords, ∀ f s, exec (r.op f) s = regWord (r.form f) (r.run f) s := by
  simp only [fpWords, List.forall_mem_cons]
  exact ⟨fun _ _ => rfl, fun _ _ => rfl, fun _ _ => rfl, fun _ _ => rfl, fun _ _ => rfl, fun _ _ => rfl, fun _ _ => rfl,
    fun _ _ => rfl, fun _ _ => rfl, fun _ _ => rfl, fun _ _ => rfl, fun _ _ => rfl, fun _ _ => rfl, fun _ _ => rfl,
    fun _ _ => rfl, fun _ _ => rfl, fun _ _ => rfl, fun _ _ => rfl, fun _ none => absurd none List.not_mem_nil⟩

theorem FpWord.result_local (r : FpWord) (f : A3) : Local (r.result f) := by
  intro c t sees
  simp only [FpWord.result, FpWord.res, Ctx.rd_of_sees sees, Ctx.th_of_sees sees]

theorem floatWordsWriteEach : ∀ r ∈ fpWords, ∀ f : A3, WritesEach (r.op f) (r.form f) f.dst (r.gives f) := by
  intro r hr f
  refine regWord_writesEach (r.result f) (fpWords_run r hr f) (fun _ cls => A3.dst_vec f cls) ?_ (r.result_local f)
    fun c => ⟨rfl, rfl, rfl⟩
  rintro iss c rfl
  rfl

/-! ### Results of a half (R139, R140) -/

/-- The bits of a format: its magnitudes lie below the sign. -/
structure Fmt.Fits (f : Fmt) : Prop where
  order : f.emin ≤ f.emax
  range : (f.emax - f.emin + 2) * 2 ^ f.fracBits ≤ (f.infBits : Int)
  inf : f.infBits < 2 ^ f.signBit
  nan : f.nanBits < 2 ^ f.signBit

theorem fmtF16_fits : fmtF16.Fits := ⟨by decide, by decide, by decide, by decide⟩
theorem fmtB16_fits : fmtB16.Fits := ⟨by decide, by decide, by decide, by decide⟩

theorem signed_lt {f : Fmt} {mag : Nat} (h : mag < 2 ^ f.signBit) (neg : Bool) : signed f neg mag < 2 ^ (f.signBit + 1) := by
  unfold signed
  split <;> omega

theorem roundAt_le {m sh k : Nat} (h : m < 2 ^ (sh + k)) (rm : Nat) (neg sticky : Bool) : (roundAt rm neg m sh sticky).1 ≤ 2 ^ k := by
  have low : m >>> sh < 2 ^ k := by
    rw [Nat.shiftRight_eq_div_pow]
    exact Nat.div_lt_of_lt_mul (by rwa [← pow_add])
  unfold roundAt
  simp only
  generalize roundsUp rm neg _ _ _ = up
  cases up
  · exact low.le
  · exact low

/-- A magnitude moved so that its leading bit is at `k` at most stays within `2 ^ (k + 1)`. -/
theorem aligned_le {m k : Nat} {sh : Int} (h : (Nat.log2 m : Int) ≤ sh + k) (rm : Nat) (neg sticky : Bool) :
    (if 0 ≤ sh then roundAt rm neg m sh.toNat sticky else (m <<< (-sh).toNat, sticky)).1 ≤ 2 ^ (k + 1) := by
  have top : m < 2 ^ (Nat.log2 m + 1) := Nat.lt_log2_self
  split
  · exact roundAt_le (top.trans_le (Nat.pow_le_pow_right (by norm_num) (by omega))) rm neg sticky
  · rw [Nat.shiftLeft_eq]
    calc m * 2 ^ (-sh).toNat ≤ 2 ^ (Nat.log2 m + 1) * 2 ^ (-sh).toNat := Nat.mul_le_mul_right _ top.le
      _ = 2 ^ (Nat.log2 m + 1 + (-sh).toNat) := (pow_add 2 _ _).symm
      _ ≤ 2 ^ (k + 1) := Nat.pow_le_pow_right (by norm_num) (by omega)

theorem overflowTo_lt {f : Fmt} (hf : f.Fits) (rm : Nat) (neg : Bool) : overflowTo f rm neg < 2 ^ (f.signBit + 1) := by
  have inf := hf.inf
  refine signed_lt ?_ neg
  split
  · exact inf
  · unfold Fmt.maxBits
    omega

theorem roundMag_lt {f : Fmt} (hf : f.Fits) (rm : Nat) (neg : Bool) (m : Nat) (e : Int) (sticky : Bool) :
    (roundMag f rm neg m e sticky).bits < 2 ^ (f.signBit + 1) := by
  have inf := hf.inf
  have range := hf.range
  have order := hf.order
  by_cases zero : m = 0
  · rw [roundMag, if_pos zero]
    exact signed_lt (Nat.two_pow_pos _) neg
  · rw [roundMag, if_neg zero]
    extract_lets lead shU unb leadU lsb sh
    have least : lead ≤ leadU := by
      simp only [leadU]
      split <;> omega
    split
    · exact overflowTo_lt hf rm neg
    · rename_i within
      have aligned := aligned_le (m := m) (k := f.fracBits) (sh := sh) (by simp only [sh, lsb, lead]; omega) rm neg sticky
      generalize (if 0 ≤ sh then roundAt rm neg m sh.toNat sticky else (m <<< (-sh).toNat, sticky)) = r at aligned ⊢
      have steps : ((lsb - (f.emin - f.fracBits)).toNat : Int) ≤ f.emax - f.emin := by
        simp only [lsb]
        omega
      generalize (lsb - (f.emin - f.fracBits)).toNat = k at steps ⊢
      have whole : (k + 2) * 2 ^ f.fracBits ≤ f.infBits := by
        have scaled := (mul_le_mul_of_nonneg_right (add_le_add_left steps 2) (by positivity : (0 : Int) ≤ 2 ^ f.fracBits)).trans range
        exact_mod_cast scaled
      refine signed_lt (lt_of_le_of_lt ?_ inf) neg
      calc (if lsb = f.emin - f.fracBits then r.1 else k * 2 ^ f.fracBits + r.1) ≤ k * 2 ^ f.fracBits + r.1 := by
            split
            · exact Nat.le_add_left _ _
            · exact le_rfl
        _ ≤ k * 2 ^ f.fracBits + 2 ^ (f.fracBits + 1) := Nat.add_le_add_left aligned _
        _ = (k + 2) * 2 ^ f.fracBits := by ring
        _ ≤ f.infBits := whole

theorem nanRes_lt {f : Fmt} (hf : f.Fits) (invalid : Bool) : (nanRes f invalid).bits < 2 ^ (f.signBit + 1) :=
  hf.nan.trans (Nat.pow_lt_pow_right (by norm_num) (Nat.lt_succ_self _))

theorem deliver_lt {f : Fmt} (hf : f.Fits) (rm : Nat) (x : Num) : (deliver f rm x).bits < 2 ^ (f.signBit + 1) := by
  cases x with
  | nan s => exact nanRes_lt hf s
  | inf neg => exact signed_lt hf.inf neg
  | fin neg m e => exact roundMag_lt hf rm neg m e false

theorem deliverOpt_lt {f : Fmt} (hf : f.Fits) (rm : Nat) (x : Option Num) : (deliverOpt f rm x).bits < 2 ^ (f.signBit + 1) := by
  cases x with
  | none => exact nanRes_lt hf true
  | some x => exact deliver_lt hf rm x

theorem fpFma_lt {f : Fmt} (hf : f.Fits) (rm a b c : Nat) : (fpFma f rm a b c).bits < 2 ^ (f.signBit + 1) := by
  unfold fpFma fmaNum
  split
  · exact nanRes_lt hf true
  · simp only
    split
    · exact deliverOpt_lt hf rm _
    · exact deliverOpt_lt hf rm _

/-- The smaller or the larger of two patterns is one of them or the canonical NaN. -/
theorem fpMinMax_bits (f : Fmt) (isMax : Bool) (a b : Nat) :
    (fpMinMax f isMax a b).bits = f.nanBits ∨ (fpMinMax f isMax a b).bits = a ∨ (fpMinMax f isMax a b).bits = b := by
  unfold fpMinMax
  simp only
  split
  · exact .inl rfl
  · split
    · exact .inr (.inr rfl)
    · split
      · exact .inr (.inl rfl)
      · simp only
        generalize (_ != isMax) = first
        cases first
        · exact .inr (.inr rfl)
        · exact .inr (.inl rfl)

theorem fpMinMax_lt {f : Fmt} (hf : f.Fits) (isMax : Bool) {a b : Nat} (ha : a < 2 ^ (f.signBit + 1))
    (hb : b < 2 ^ (f.signBit + 1)) : (fpMinMax f isMax a b).bits < 2 ^ (f.signBit + 1) := by
  rcases fpMinMax_bits f isMax a b with e | e | e
  · rw [e]
    exact nanRes_lt hf false
  · rwa [e]
  · rwa [e]

/-! ### The packed words (R180) -/

theorem loHalf_lt (w : Word) : loHalf w < 2 ^ 16 := Nat.mod_lt _ (by norm_num)

theorem hiHalf_lt (w : Word) : hiHalf w < 2 ^ 16 := Nat.div_lt_of_lt_mul w.isLt

theorem half_zero (w : Word) : half w 0 = loHalf w := rfl

theorem half_one (w : Word) : half w 1 = hiHalf w := by
  rw [half, bits, Nat.shiftRight_eq_div_pow]
  exact Nat.mod_eq_of_lt (hiHalf_lt w)

/-- The halves of a packed word are the results put there. -/
theorem halves_halves {lo hi : FpRes} (low : lo.bits < 2 ^ 16) (high : hi.bits < 2 ^ 16) :
    loHalf (halves lo hi) = lo.bits ∧ hiHalf (halves lo hi) = hi.bits := by
  simp only [loHalf, hiHalf, halves, BitVec.toNat_ofNat]
  omega

/-- The result of a packed word. -/
def PackedWord.result (r : PackedWord) (f : A3) (c : Ctx) : XRes :=
  { ws := [(halves (r.res f c loHalf) (r.res f c hiHalf), r.tag)], fl := (r.res f c loHalf).fl ||| (r.res f c hiHalf).fl }

/-- The effect as exec forms it, with the operands of the word that issues. -/
def PackedWord.run (r : PackedWord) (f : A3) (iss : Issue) (c : Ctx) : Eff :=
  let part (k : Nat) : FpRes :=
    r.val c.th.rm (half (c.rd (f.srcA iss none)) k) (half (c.rd (f.srcB iss none)) k) (half (c.rd (f.dst iss)) k)
  { regs := [(f.dst iss, [(halves (part 0) (part 1), r.tag)])], fl := (part 0).fl ||| (part 1).fl }

theorem packedWords_run : ∀ r ∈ packedWords, ∀ f s, exec (r.op f) s = regWord (r.form f) (r.run f) s := by
  simp only [packedWords, List.forall_mem_cons]
  exact ⟨fun _ _ => rfl, fun _ _ => rfl, fun _ _ => rfl, fun _ _ => rfl, fun _ _ => rfl, fun _ _ => rfl, fun _ _ => rfl,
    fun _ _ => rfl, fun _ none => absurd none List.not_mem_nil⟩

/-- What a packed word delivers of 16-bit elements is a 16-bit element. -/
theorem packedWords_lt : ∀ r ∈ packedWords, ∀ (rm : Nat) {a b d : Nat}, a < 2 ^ 16 → b < 2 ^ 16 → (r.val rm a b d).bits < 2 ^ 16 := by
  simp only [packedWords, List.forall_mem_cons]
  exact ⟨fun rm _ _ _ _ _ => deliverOpt_lt fmtF16_fits rm _, fun rm _ _ _ _ _ => deliverOpt_lt fmtF16_fits rm _,
    fun rm a b d _ _ => fpFma_lt fmtF16_fits rm a b d, fun _ _ _ _ ha hb => fpMinMax_lt fmtF16_fits false ha hb,
    fun _ _ _ _ ha hb => fpMinMax_lt fmtF16_fits true ha hb, fun rm _ _ _ _ _ => deliverOpt_lt fmtB16_fits rm _,
    fun rm _ _ _ _ _ => deliverOpt_lt fmtB16_fits rm _, fun rm a b d _ _ => fpFma_lt fmtB16_fits rm a b d,
    fun _ none => absurd none List.not_mem_nil⟩

theorem PackedWord.result_local (r : PackedWord) (f : A3) : Local (r.result f) := by
  intro c t sees
  simp only [PackedWord.result, PackedWord.res, Ctx.rd_of_sees sees, Ctx.th_of_sees sees]

theorem packedWordsWriteEach : ∀ r ∈ packedWords, ∀ f : A3, WritesEach (r.op f) (r.form f) f.dst (r.gives f) := by
  intro r hr f
  refine regWord_writesEach (r.result f) (packedWords_run r hr f) (fun _ cls => A3.dst_vec f cls) ?_ (r.result_local f)
    fun c => ?_
  · rintro iss c rfl
    simp only [PackedWord.run, half_zero, half_one]
    rfl
  · obtain ⟨low, high⟩ := halves_halves (packedWords_lt r hr c.th.rm (loHalf_lt _) (loHalf_lt _))
      (packedWords_lt r hr c.th.rm (hiHalf_lt _) (hiHalf_lt _))
    exact ⟨_, rfl, low, high, rfl, rfl⟩

/-! ### Active warps and bundles -/

theorem bundlesWriteThreadByThread : BundlesWriteThreadByThread :=
  ⟨integerWordsWriteEach, floatWordsWriteEach, packedWordsWriteEach⟩

/-- Settles O55: activation marks what the choice of leases names, a regroup period fills free slots with ready threads, and
the threads of a bundle act in turn, none seeing what another writes. -/
theorem activeWarpsFormBundles : Obligations.ActiveWarpsFormBundles :=
  ⟨warpsAreActivatedByLease, bundlesGatherReadyThreads, bundlesActThreadByThread, bundlesWriteThreadByThread⟩

end Sys2Proof.Machine

namespace Sys2Proof

/-! ### Fields of a word (R104) -/

/-- The field `x` stands in `w` from bit `s` on. -/
def FieldAt {k n : Nat} (w : BitVec k) (s : Nat) (x : BitVec n) : Prop := w.extractLsb' s n = x

theorem fieldAt_append {k m n : Nat} (w : BitVec k) (s : Nat) (x : BitVec m) (y : BitVec n) :
    FieldAt w s (@HAppend.hAppend _ _ (no_index _) _ x y) ↔ FieldAt w (s + n) x ∧ FieldAt w s y := by
  simp only [FieldAt, ← BitVec.extractLsb'_append_extractLsb'_eq_extractLsb' (x := w) (len₂ := m) (Eq.refl (s + n))]
  constructor
  · intro h
    have hx := congrArg (BitVec.extractLsb' n m) h
    have hy := congrArg (BitVec.extractLsb' 0 n) h
    simpa only [BitVec.extractLsb'_append_eq_left, BitVec.extractLsb'_append_eq_right] using And.intro hx hy
  · rintro ⟨rfl, rfl⟩
    rfl

/-- A word put together from fields is `w` when each of them stands in `w`. -/
theorem append_eq_word {m n : Nat} (x : BitVec m) (y : BitVec n) (w : BitVec (m + n)) :
    @Eq (no_index _) (@HAppend.hAppend _ _ (no_index _) _ x y) w ↔ FieldAt w n x ∧ FieldAt w 0 y := by
  have := fieldAt_append w 0 x y
  rw [FieldAt, BitVec.extractLsb'_eq_self, Nat.zero_add] at this
  rw [eq_comm, this]

/-- The mask of the `n` bits from bit `s` on. -/
def maskOf (s n : Nat) : Word := (BitVec.allOnes n).setWidth 32 <<< s

theorem and_maskOf (w : Word) {s n : Nat} (h : s + n ≤ 32) : w &&& maskOf s n = 0 ↔ FieldAt w s 0#n := by
  constructor
  · intro hw
    refine BitVec.eq_of_getLsbD_eq fun i hi => ?_
    have bit := congrArg (·.getLsbD (s + i)) hw
    simpa [maskOf, hi, show s + i < 32 by omega, show i < 32 by omega] using bit
  · intro hw
    refine BitVec.eq_of_getLsbD_eq fun i hi => ?_
    have bit := congrArg (·.getLsbD (i - s)) hw
    simp only [BitVec.getLsbD_extractLsb', BitVec.getLsbD_zero, Bool.and_eq_false_imp, decide_eq_true_eq] at bit
    simp only [maskOf, BitVec.getLsbD_and, BitVec.getLsbD_shiftLeft, BitVec.getLsbD_setWidth, BitVec.getLsbD_allOnes,
      hi]
    by_cases hs : s ≤ i ∧ i - s < n
    · simp [show s + (i - s) = i by omega] at bit
      simp [bit hs.2]
    · simp
      omega

theorem reserved_field (w : Word) (s n : Nat) {m : Word} (h : m = maskOf s n) (hn : s + n ≤ 32 := by decide) :
    w &&& m = 0 ↔ FieldAt w s 0#n := by
  rw [h, and_maskOf w hn]

theorem reserved_fields (w : Word) (s n s' n' : Nat) {m : Word} (h : m = maskOf s n ||| maskOf s' n')
    (hn : s + n ≤ 32 := by decide) (hn' : s' + n' ≤ 32 := by decide) :
    w &&& m = 0 ↔ FieldAt w s 0#n ∧ FieldAt w s' 0#n' := by
  rw [h, BitVec.and_or_distrib_left]
  exact BitVec.or_eq_zero_iff.trans (and_congr (and_maskOf w hn) (and_maskOf w hn'))

/-- The reserved fields of the opcode map, each by its mask (R104). -/
theorem reserved_bits (w : Word) :
    (w &&& 0x1 = 0 ↔ FieldAt w 0 0#1) ∧ (w &&& 0x3 = 0 ↔ FieldAt w 0 0#2) ∧ (w &&& 0x4 = 0 ↔ FieldAt w 2 0#1) ∧
    (w &&& 0x7 = 0 ↔ FieldAt w 0 0#3) ∧ (w &&& 0x1F = 0 ↔ FieldAt w 0 0#5) ∧ (w &&& 0x3F = 0 ↔ FieldAt w 0 0#6) ∧
    (w &&& 0xFF = 0 ↔ FieldAt w 0 0#8) ∧ (w &&& 0x1FF = 0 ↔ FieldAt w 0 0#9) ∧
    (w &&& 0x3F9 = 0 ↔ FieldAt w 3 0#7 ∧ FieldAt w 0 0#1) ∧ (w &&& 0x3FF = 0 ↔ FieldAt w 0 0#10) ∧
    (w &&& 0x7FF = 0 ↔ FieldAt w 0 0#11) ∧ (w &&& 0x1EFF = 0 ↔ FieldAt w 9 0#4 ∧ FieldAt w 0 0#8) ∧
    (w &&& 0x1FFF = 0 ↔ FieldAt w 0 0#13) ∧ (w &&& 0x3FFF = 0 ↔ FieldAt w 0 0#14) ∧ (w &&& 0x7C00 = 0 ↔ FieldAt w 10 0#5) ∧
    (w &&& 0xFFFF = 0 ↔ FieldAt w 0 0#16) ∧ (w &&& 0x1FFFF = 0 ↔ FieldAt w 0 0#17) ∧ (w &&& 0x3FFFF = 0 ↔ FieldAt w 0 0#18) ∧
    (w &&& 0x70000 = 0 ↔ FieldAt w 16 0#3) ∧ (w &&& 0x7FFFF = 0 ↔ FieldAt w 0 0#19) ∧
    (w &&& 0xFFFFF = 0 ↔ FieldAt w 0 0#20) ∧ (w &&& 0x1FFFFF = 0 ↔ FieldAt w 0 0#21) ∧
    (w &&& 0x3FFFFF = 0 ↔ FieldAt w 0 0#22) ∧ (w &&& 0x7E03FF = 0 ↔ FieldAt w 17 0#6 ∧ FieldAt w 0 0#10) ∧
    (w &&& 0x7FFFFF = 0 ↔ FieldAt w 0 0#23) ∧ (w &&& 0x80FFFF = 0 ↔ FieldAt w 23 0#1 ∧ FieldAt w 0 0#16) ∧
    (w &&& 0xFE0000 = 0 ↔ FieldAt w 17 0#7) ∧ (w &&& 0xFE0003 = 0 ↔ FieldAt w 17 0#7 ∧ FieldAt w 0 0#2) ∧
    (w &&& 0xFE0007 = 0 ↔ FieldAt w 17 0#7 ∧ FieldAt w 0 0#3) ∧ (w &&& 0xFE03FF = 0 ↔ FieldAt w 17 0#7 ∧ FieldAt w 0 0#10) ∧
    (w &&& 0xFFFFF0 = 0 ↔ FieldAt w 4 0#20) ∧ (w &&& 0xFFFFFF = 0 ↔ FieldAt w 0 0#24) ∧
    (w &&& 0xFFFFFFC0 = 0 ↔ FieldAt w 6 0#26) :=
  ⟨reserved_field w 0 1 rfl, reserved_field w 0 2 rfl, reserved_field w 2 1 rfl, reserved_field w 0 3 rfl,
    reserved_field w 0 5 rfl, reserved_field w 0 6 rfl, reserved_field w 0 8 rfl, reserved_field w 0 9 rfl,
    reserved_fields w 3 7 0 1 rfl, reserved_field w 0 10 rfl, reserved_field w 0 11 rfl, reserved_fields w 9 4 0 8 rfl,
    reserved_field w 0 13 rfl, reserved_field w 0 14 rfl, reserved_field w 10 5 rfl, reserved_field w 0 16 rfl,
    reserved_field w 0 17 rfl, reserved_field w 0 18 rfl, reserved_field w 16 3 rfl, reserved_field w 0 19 rfl,
    reserved_field w 0 20 rfl, reserved_field w 0 21 rfl, reserved_field w 0 22 rfl, reserved_fields w 17 6 0 10 rfl,
    reserved_field w 0 23 rfl, reserved_fields w 23 1 0 16 rfl, reserved_field w 17 7 rfl, reserved_fields w 17 7 0 2 rfl,
    reserved_fields w 17 7 0 3 rfl, reserved_fields w 17 7 0 10 rfl, reserved_field w 4 20 rfl, reserved_field w 0 24 rfl,
    reserved_field w 6 26 rfl⟩

theorem fieldAt_iff {k n : Nat} (w : BitVec k) (s : Nat) (x : BitVec n) :
    w.extractLsb' s n = x ↔ FieldAt w s x := Iff.rfl

/-- WAITT's form bit is set (R135). -/
theorem form_bit (w : Word) : w &&& 0x800000 = 0x800000 ↔ FieldAt w 23 1#1 := by
  have bit : w &&& 0x800000 = if w.getLsbD 23 then 0x800000 else 0 := BitVec.and_twoPow w 23
  rw [bit, BitVec.getLsbD_eq_extractLsb', FieldAt]
  by_cases h : w.extractLsb' 23 1 = 1#1 <;> simp [h]

/-! ### Layouts (R104, R106) -/

/-- The opcode stands in `w` when its two halves do, by which the map has its rows and columns (R108). -/
theorem opcode_at (w : Word) (op : BitVec 8) : FieldAt w 24 op ↔
    (w.extractLsb' 28 4).toNat = op.toNat / 16 ∧ (w.extractLsb' 24 4).toNat = op.toNat % 16 := by
  have halves : _ ↔ FieldAt w 28 _ ∧ _ := fieldAt_append w 24 (op.extractLsb' 4 4) (op.extractLsb' 0 4)
  rw [BitVec.extractLsb'_append_extractLsb'] at halves
  rw [halves, FieldAt, FieldAt, ← BitVec.toNat_inj, ← BitVec.toNat_inj, BitVec.extractLsb'_toNat _ _ op, BitVec.extractLsb'_toNat _ _ op]
  have := op.isLt
  omega

theorem ite_eq_ok {p : Prop} [Decidable p] {α β : Type} {a b : α} {e : β} :
    ((if p then Except.ok a else .error e) = .ok b) ↔ p ∧ a = b := by
  split <;> simp [*]

theorem A3.toBits_eq (op : BitVec 8) (f : A3) (w : Word) : f.toBits op = w ↔ FieldAt w 24 op ∧ A3.ofBits w = f := by
  cases f
  simp only [A3.toBits, A3.ofBits, append_eq_word, fieldAt_append, Nat.reduceAdd, and_assoc]
  simp only [FieldAt, A3.mk.injEq]

theorem AI.toBits_eq (op : BitVec 8) (f : AI) (w : Word) : f.toBits op = w ↔ FieldAt w 24 op ∧ AI.ofBits w = f := by
  cases f
  simp only [AI.toBits, AI.ofBits, append_eq_word, fieldAt_append, Nat.reduceAdd, and_assoc]
  simp only [FieldAt, AI.mk.injEq]

theorem AW.toBits_eq (op : BitVec 8) (f : AW) (w : Word) : f.toBits op = w ↔ FieldAt w 24 op ∧ AW.ofBits w = f := by
  cases f
  simp only [AW.toBits, AW.ofBits, append_eq_word, fieldAt_append, Nat.reduceAdd, and_assoc]
  simp only [FieldAt, AW.mk.injEq]

theorem P3.toBits_eq (op : BitVec 8) (f : P3) (w : Word) : f.toBits op = w ↔ FieldAt w 24 op ∧ P3.ofBits w = f := by
  cases f
  simp only [P3.toBits, P3.ofBits, append_eq_word, fieldAt_append, Nat.reduceAdd, and_assoc]
  simp only [FieldAt, P3.mk.injEq]

theorem PI.toBits_eq (op : BitVec 8) (f : PI) (w : Word) : f.toBits op = w ↔ FieldAt w 24 op ∧ PI.ofBits w = f := by
  cases f
  simp only [PI.toBits, PI.ofBits, append_eq_word, fieldAt_append, Nat.reduceAdd, and_assoc]
  simp only [FieldAt, PI.mk.injEq]

theorem PS.toBits_eq (op : BitVec 8) (f : PS) (w : Word) : f.toBits op = w ↔ FieldAt w 24 op ∧ PS.ofBits w = f := by
  cases f
  simp only [PS.toBits, PS.ofBits, append_eq_word, fieldAt_append, Nat.reduceAdd, and_assoc]
  simp only [FieldAt, PS.mk.injEq]

theorem CV.toBits_eq (op : BitVec 8) (f : CV) (w : Word) : f.toBits op = w ↔ FieldAt w 24 op ∧ CV.ofBits w = f := by
  cases f
  simp only [CV.toBits, CV.ofBits, append_eq_word, fieldAt_append, Nat.reduceAdd, and_assoc]
  simp only [FieldAt, CV.mk.injEq]

theorem CQ.toBits_eq (op : BitVec 8) (f : CQ) (w : Word) : f.toBits op = w ↔ FieldAt w 24 op ∧ CQ.ofBits w = f := by
  cases f
  simp only [CQ.toBits, CQ.ofBits, append_eq_word, fieldAt_append, Nat.reduceAdd, and_assoc]
  simp only [FieldAt, CQ.mk.injEq]

theorem M2.toBits_eq (op : BitVec 8) (f : M2) (w w2 : Word) :
    f.toBits op = [w, w2] ↔ FieldAt w 24 op ∧ M2.ofBits w w2 = .ok f := by
  cases f
  simp only [M2.toBits, M2.ofBits, List.cons.injEq, and_true, append_eq_word, fieldAt_append, Nat.reduceAdd,
    and_assoc, Except.ok.injEq]
  simp only [FieldAt, M2.mk.injEq]

theorem CopyF.toBits_eq (op : BitVec 8) (f : CopyF) (w w2 : Word) :
    f.toBits op = [w, w2] ↔ FieldAt w 24 op ∧ CopyF.ofBits op w w2 = .ok f := by
  cases f
  simp only [CopyF.toBits, CopyF.ofBits, List.cons.injEq, and_true, append_eq_word, fieldAt_append, Nat.reduceAdd,
    ite_eq_ok, reserved_bits]
  simp only [FieldAt, CopyF.mk.injEq, and_assoc, and_left_comm, and_comm]

theorem MemolF.toBits_eq (f : MemolF) (w w2 : Word) :
    f.toBits 0xE4 = [w, w2] ↔ FieldAt w 24 (0xE4 : BitVec 8) ∧ MemolF.ofBits w w2 = .ok f := by
  cases f
  simp only [MemolF.toBits, MemolF.ofBits, List.cons.injEq, and_true, append_eq_word, fieldAt_append, Nat.reduceAdd,
    ite_eq_ok, reserved_bits]
  simp only [FieldAt, MemolF.mk.injEq, and_assoc, and_left_comm, and_comm]

theorem MemosF.toBits_eq (f : MemosF) (w w2 : Word) :
    f.toBits 0xE5 = [w, w2] ↔ FieldAt w 24 (0xE5 : BitVec 8) ∧ MemosF.ofBits w w2 = .ok f := by
  cases f
  simp only [MemosF.toBits, MemosF.ofBits, List.cons.injEq, and_true, append_eq_word, fieldAt_append, Nat.reduceAdd,
    ite_eq_ok, reserved_bits]
  simp only [FieldAt, MemosF.mk.injEq, and_assoc, and_left_comm, and_comm]

theorem EmitF.toBits_eq (f : EmitF) (w w2 : Word) :
    f.toBits 0xEC = [w, w2] ↔ FieldAt w 24 (0xEC : BitVec 8) ∧ EmitF.ofBits w w2 = .ok f := by
  cases f
  simp only [EmitF.toBits, EmitF.ofBits, List.cons.injEq, and_true, append_eq_word, fieldAt_append, Nat.reduceAdd,
    ite_eq_ok, reserved_bits]
  simp only [FieldAt, EmitF.mk.injEq, and_assoc, and_left_comm, and_comm]

/-- Each layout is a word, or a pair of words, exactly when it is read from there. -/
theorem layouts (w w2 : Word) :
    (∀ op (f : A3), f.toBits op = w ↔ FieldAt w 24 op ∧ A3.ofBits w = f) ∧
    (∀ op (f : AI), f.toBits op = w ↔ FieldAt w 24 op ∧ AI.ofBits w = f) ∧
    (∀ op (f : AW), f.toBits op = w ↔ FieldAt w 24 op ∧ AW.ofBits w = f) ∧
    (∀ op (f : P3), f.toBits op = w ↔ FieldAt w 24 op ∧ P3.ofBits w = f) ∧
    (∀ op (f : PI), f.toBits op = w ↔ FieldAt w 24 op ∧ PI.ofBits w = f) ∧
    (∀ op (f : PS), f.toBits op = w ↔ FieldAt w 24 op ∧ PS.ofBits w = f) ∧
    (∀ op (f : CV), f.toBits op = w ↔ FieldAt w 24 op ∧ CV.ofBits w = f) ∧
    (∀ op (f : CQ), f.toBits op = w ↔ FieldAt w 24 op ∧ CQ.ofBits w = f) ∧
    (∀ op (f : M2), f.toBits op = [w, w2] ↔ FieldAt w 24 op ∧ M2.ofBits w w2 = .ok f) ∧
    (∀ op (f : CopyF), f.toBits op = [w, w2] ↔ FieldAt w 24 op ∧ CopyF.ofBits op w w2 = .ok f) ∧
    (∀ f : MemolF, f.toBits 0xE4 = [w, w2] ↔ FieldAt w 24 (0xE4 : BitVec 8) ∧ MemolF.ofBits w w2 = .ok f) ∧
    (∀ f : MemosF, f.toBits 0xE5 = [w, w2] ↔ FieldAt w 24 (0xE5 : BitVec 8) ∧ MemosF.ofBits w w2 = .ok f) ∧
    ∀ f : EmitF, f.toBits 0xEC = [w, w2] ↔ FieldAt w 24 (0xEC : BitVec 8) ∧ EmitF.ofBits w w2 = .ok f :=
  ⟨(A3.toBits_eq · · w), (AI.toBits_eq · · w), (AW.toBits_eq · · w), (P3.toBits_eq · · w), (PI.toBits_eq · · w),
    (PS.toBits_eq · · w), (CV.toBits_eq · · w), (CQ.toBits_eq · · w), (M2.toBits_eq · · w w2), (CopyF.toBits_eq · · w w2),
    (MemolF.toBits_eq · w w2), (MemosF.toBits_eq · w w2), (EmitF.toBits_eq · w w2)⟩

/-! ### A word that encodes an instruction is decoded to it

The opcode's halves choose the row and the column of the map, the fields below them the operands. -/

theorem decodeWord_of_encode_one {i : Instr} {w : Word} (h : encode i = some [w]) (w2? : Option Word) :
    decodeWord w w2? = .ok i := by
  cases i <;>
    simp only [encode, Option.some.injEq, List.cons.injEq, and_true, layouts w w, append_eq_word, fieldAt_append,
      Nat.reduceAdd, opcode_at, BitVec.reduceToNat, Nat.reduceDiv, Nat.reduceMod, and_assoc, reduceCtorEq] at h <;>
    obtain ⟨row, column, fields⟩ := h
  all_goals
    simp only [decodeWord, row]
    simp only [decodeRow0, decodeRow1, decodeRow2, decodeRow3, decodeRow4, decodeRow5, decodeRow6, decodeRow7,
      decodeRow8, decodeRow9, decodeRowA, decodeRowB, decodeRowC, decodeRowD, decodeRowE, decodeRowF, column,
      form_bit, reserved_bits, fields, and_self, if_true]
  case waittD =>
    have long : ¬ w &&& 0x80FFFF = 0 := by
      simp only [reserved_bits]
      exact fun ⟨short, _⟩ => absurd (fields.1.symm.trans short) (by decide)
    rw [if_neg long, ← fields.2]
  all_goals simp [fieldAt_iff, fields]

theorem decodeWord_of_encode_two {i : Instr} {w w2 : Word} (h : encode i = some [w, w2]) :
    decodeWord w (some w2) = .ok i := by
  cases i <;>
    simp only [encode, Option.some.injEq, List.cons.injEq, layouts w w2, append_eq_word, fieldAt_append,
      Nat.reduceAdd, opcode_at, BitVec.reduceToNat, Nat.reduceDiv, Nat.reduceMod, reduceCtorEq, and_false] at h <;>
    simp only [decodeWord, h] <;>
    simp only [decodeRowA, decodeRowB, decodeRowC, decodeRowE, second, Except.map, h]

theorem encode_length {i : Instr} {ws : List Word} (h : encode i = some ws) : ws.length = 1 ∨ ws.length = 2 := by
  cases i <;> simp only [encode, Option.some.injEq, reduceCtorEq] at h <;> subst h <;>
    simp [M2.toBits, CopyF.toBits, MemolF.toBits, MemosF.toBits, EmitF.toBits]

/-! ### A decoded word is an encoding, row by row of the opcode map (R108) -/

/-! Each row of the map has one lemma, by its sixteen columns: what the guards of the column let through has, as an encoding, the
fields that were read, zero where the guards check zero. -/

theorem column_cases (w : Word) : ∃ k < 16, (w.extractLsb' 24 4).toNat = k := ⟨_, (w.extractLsb' 24 4).isLt, rfl⟩

/-- What holds of every instruction that a guarded decoder gives, read off its guards. -/
theorem decoded_iff {Q : Instr → Prop} :
    (∀ a, (∀ i, (Except.ok a : Except DecodeErr Instr) = .ok i → Q i) ↔ Q a) ∧
    (∀ e, (∀ i, (Except.error e : Except DecodeErr Instr) = .ok i → Q i) ↔ True) ∧
    (∀ (p : Prop) [Decidable p] a (x : Except DecodeErr Instr),
      (∀ i, (if p then .ok a else x) = .ok i → Q i) ↔ (p → Q a) ∧ (¬p → ∀ i, x = .ok i → Q i)) ∧
    (∀ {α : Type} (x : Except DecodeErr α) (f : α → Instr), (∀ i, x.map f = .ok i → Q i) ↔ ∀ a, x = .ok a → Q (f a)) := by
  refine ⟨by simp, by simp, fun p _ a x => ?_, fun x f => ?_⟩
  · split <;> simp [*]
  · cases x <;> simp [Except.map]

theorem encode_of_decodeRow0 {w : Word} (row : (w.extractLsb' 28 4).toNat = 0) :
    ∀ i, decodeRow0 w = .ok i → i ≠ .illegalOpcode → encode i = some [w] := by
  obtain ⟨k, hk, column⟩ := column_cases w
  interval_cases k <;>
    simp only [decodeRow0, column, decoded_iff, ne_eq, reduceCtorEq, not_false_eq_true, forall_const]
  all_goals simp only [encode]
  all_goals simp only [layouts w w, opcode_at, row, column, Option.some.injEq, List.cons.injEq, and_true]
  all_goals simp

theorem encode_of_decodeRow1 {w : Word} (row : (w.extractLsb' 28 4).toNat = 1) :
    ∀ i, decodeRow1 w = .ok i → i ≠ .illegalOpcode → encode i = some [w] := by
  obtain ⟨k, hk, column⟩ := column_cases w
  interval_cases k <;>
    simp only [decodeRow1, column, decoded_iff, ne_eq, reduceCtorEq, not_false_eq_true, forall_const]
  all_goals simp only [encode]
  all_goals simp only [layouts w w, opcode_at, row, column, Option.some.injEq, List.cons.injEq, and_true]
  all_goals simp

theorem encode_of_decodeRow2 {w : Word} (row : (w.extractLsb' 28 4).toNat = 2) :
    ∀ i, decodeRow2 w = .ok i → i ≠ .illegalOpcode → encode i = some [w] := by
  obtain ⟨k, hk, column⟩ := column_cases w
  interval_cases k <;>
    simp only [decodeRow2, column, decoded_iff, ne_eq, reduceCtorEq, not_false_eq_true, forall_const]
  all_goals simp only [encode]
  all_goals simp only [layouts w w, opcode_at, row, column, Option.some.injEq, List.cons.injEq, and_true]
  all_goals simp

theorem encode_of_decodeRow3 {w : Word} (row : (w.extractLsb' 28 4).toNat = 3) :
    ∀ i, decodeRow3 w = .ok i → i ≠ .illegalOpcode → encode i = some [w] := by
  obtain ⟨k, hk, column⟩ := column_cases w
  interval_cases k <;>
    simp only [decodeRow3, column, decoded_iff, ne_eq, reduceCtorEq, not_true_eq_false, not_false_eq_true,
      false_implies, forall_const]
  all_goals simp only [encode]
  all_goals simp only [layouts w w, opcode_at, row, column, Option.some.injEq, List.cons.injEq, and_true]
  all_goals simp

theorem encode_of_decodeRow4 {w : Word} (row : (w.extractLsb' 28 4).toNat = 4) :
    ∀ i, decodeRow4 w = .ok i → i ≠ .illegalOpcode → encode i = some [w] := by
  obtain ⟨k, hk, column⟩ := column_cases w
  interval_cases k <;>
    simp only [decodeRow4, column, decoded_iff, ne_eq, reduceCtorEq, not_false_eq_true, forall_const]
  all_goals simp only [encode]
  all_goals simp only [layouts w w, opcode_at, row, column, Option.some.injEq, List.cons.injEq, and_true]
  all_goals simp

theorem encode_of_decodeRow5 {w : Word} (row : (w.extractLsb' 28 4).toNat = 5) :
    ∀ i, decodeRow5 w = .ok i → i ≠ .illegalOpcode → encode i = some [w] := by
  obtain ⟨k, hk, column⟩ := column_cases w
  interval_cases k <;>
    simp only [decodeRow5, column, decoded_iff, ne_eq, reduceCtorEq, not_false_eq_true, forall_const]
  all_goals simp only [encode]
  all_goals simp only [layouts w w, opcode_at, row, column, Option.some.injEq, List.cons.injEq, and_true]
  all_goals simp

theorem encode_of_decodeRow6 {w : Word} (row : (w.extractLsb' 28 4).toNat = 6) :
    ∀ i, decodeRow6 w = .ok i → i ≠ .illegalOpcode → encode i = some [w] := by
  obtain ⟨k, hk, column⟩ := column_cases w
  interval_cases k <;>
    simp only [decodeRow6, column, decoded_iff, ne_eq, reduceCtorEq, not_true_eq_false, not_false_eq_true,
      false_implies, forall_const]
  all_goals simp only [encode]
  all_goals simp only [layouts w w, opcode_at, row, column, Option.some.injEq, List.cons.injEq, and_true]
  all_goals simp

theorem encode_of_decodeRow7 {w : Word} (row : (w.extractLsb' 28 4).toNat = 7) :
    ∀ i, decodeRow7 w = .ok i → i ≠ .illegalOpcode → encode i = some [w] := by
  obtain ⟨k, hk, column⟩ := column_cases w
  interval_cases k <;>
    simp only [decodeRow7, column, decoded_iff, ne_eq, reduceCtorEq, not_true_eq_false, not_false_eq_true,
      false_implies, forall_const]
  all_goals simp only [encode]
  all_goals simp only [layouts w w, opcode_at, row, column, Option.some.injEq, List.cons.injEq, and_true]
  all_goals simp

theorem encode_of_decodeRow8 {w : Word} (row : (w.extractLsb' 28 4).toNat = 8) :
    ∀ i, decodeRow8 w = .ok i → i ≠ .illegalOpcode → encode i = some [w] := by
  obtain ⟨k, hk, column⟩ := column_cases w
  interval_cases k <;>
    simp only [decodeRow8, column, decoded_iff, ne_eq, reduceCtorEq, not_true_eq_false, not_false_eq_true,
      false_implies, forall_const]
  all_goals simp only [encode]
  all_goals simp only [layouts w w, opcode_at, row, column, Option.some.injEq, List.cons.injEq, and_true]
  all_goals simp

theorem encode_of_decodeRow9 {w : Word} (row : (w.extractLsb' 28 4).toNat = 9) :
    ∀ i, decodeRow9 w = .ok i → i ≠ .illegalOpcode → encode i = some [w] := by
  obtain ⟨k, hk, column⟩ := column_cases w
  interval_cases k <;>
    simp only [decodeRow9, column, decoded_iff, ne_eq, reduceCtorEq, not_true_eq_false, not_false_eq_true,
      false_implies, forall_const]
  all_goals simp only [encode]
  all_goals simp only [layouts w w, opcode_at, row, column, Option.some.injEq, List.cons.injEq, and_true]
  all_goals simp

theorem encode_of_decodeRowA {w : Word} (w2 : Word) (row : (w.extractLsb' 28 4).toNat = 10) :
    ∀ i, decodeRowA w (some w2) = .ok i → i ≠ .illegalOpcode → encode i = some [w] ∨ encode i = some [w, w2] := by
  obtain ⟨k, hk, column⟩ := column_cases w
  interval_cases k <;>
    simp only [decodeRowA, column, second, decoded_iff, reserved_bits, ne_eq, reduceCtorEq, not_false_eq_true,
      false_implies, implies_true, forall_const, and_true]
  all_goals simp only [encode]
  all_goals simp only [layouts w w2, append_eq_word, opcode_at, row, column, Nat.reduceAdd, Option.some.injEq,
    List.cons.injEq, and_true]
  all_goals simp [FieldAt]
  all_goals exact fun _ => Or.inr

theorem encode_of_decodeRowB {w : Word} (w2 : Word) (row : (w.extractLsb' 28 4).toNat = 11) :
    ∀ i, decodeRowB w (some w2) = .ok i → i ≠ .illegalOpcode → encode i = some [w] ∨ encode i = some [w, w2] := by
  obtain ⟨k, hk, column⟩ := column_cases w
  interval_cases k <;>
    simp only [decodeRowB, column, second, decoded_iff, reserved_bits, ne_eq, reduceCtorEq, not_true_eq_false,
      not_false_eq_true, false_implies, implies_true, forall_const, and_true]
  all_goals simp only [encode]
  all_goals simp only [layouts w w2, append_eq_word, fieldAt_append, opcode_at, row, column, Nat.reduceAdd,
    Option.some.injEq, List.cons.injEq, and_true]
  all_goals simp [FieldAt]
  all_goals exact fun _ => Or.inr

theorem encode_of_decodeRowC {w : Word} (w2 : Word) (row : (w.extractLsb' 28 4).toNat = 12) :
    ∀ i, decodeRowC w (some w2) = .ok i → i ≠ .illegalOpcode → encode i = some [w] ∨ encode i = some [w, w2] := by
  obtain ⟨k, hk, column⟩ := column_cases w
  interval_cases k <;>
    simp only [decodeRowC, column, second, decoded_iff, reserved_bits, ne_eq, reduceCtorEq, not_true_eq_false,
      not_false_eq_true, false_implies, implies_true, forall_const, and_true]
  all_goals simp only [encode]
  all_goals simp only [layouts w w2, append_eq_word, fieldAt_append, opcode_at, row, column, Nat.reduceAdd,
    Option.some.injEq, List.cons.injEq, and_true]
  all_goals simp [FieldAt]
  all_goals exact fun _ => Or.inr

theorem encode_of_decodeRowD {w : Word} (row : (w.extractLsb' 28 4).toNat = 13) :
    ∀ i, decodeRowD w = .ok i → i ≠ .illegalOpcode → encode i = some [w] := by
  obtain ⟨k, hk, column⟩ := column_cases w
  interval_cases k <;>
    simp only [decodeRowD, column, decoded_iff, reserved_bits, ne_eq, reduceCtorEq, not_true_eq_false,
      not_false_eq_true, false_implies, implies_true, forall_const, and_true]
  all_goals simp only [encode]
  all_goals simp only [append_eq_word, fieldAt_append, opcode_at, row, column, Nat.reduceAdd, Option.some.injEq,
    List.cons.injEq, and_true]
  all_goals simp [FieldAt]

theorem encode_of_decodeRowE {w : Word} (w2 : Word) (row : (w.extractLsb' 28 4).toNat = 14) :
    ∀ i, decodeRowE w (some w2) = .ok i → i ≠ .illegalOpcode → encode i = some [w] ∨ encode i = some [w, w2] := by
  obtain ⟨k, hk, column⟩ := column_cases w
  interval_cases k <;>
    simp only [decodeRowE, column, second, decoded_iff, reserved_bits, ne_eq, reduceCtorEq, not_true_eq_false,
      not_false_eq_true, false_implies, implies_true, forall_const, and_true]
  all_goals simp only [encode]
  all_goals simp only [layouts w w2, append_eq_word, fieldAt_append, opcode_at, row, column, Nat.reduceAdd,
    Option.some.injEq, List.cons.injEq, and_true]
  all_goals simp [FieldAt]
  all_goals exact fun _ => Or.inr

theorem encode_of_decodeRowF {w : Word} (row : (w.extractLsb' 28 4).toNat = 15) :
    ∀ i, decodeRowF w = .ok i → i ≠ .illegalOpcode → encode i = some [w] := by
  obtain ⟨k, hk, column⟩ := column_cases w
  interval_cases k <;>
    simp only [decodeRowF, column, decoded_iff, reserved_bits, form_bit, ne_eq, reduceCtorEq, not_false_eq_true,
      false_implies, implies_true, forall_const, and_true]
  all_goals simp only [encode]
  all_goals simp only [append_eq_word, fieldAt_append, opcode_at, row, column, Nat.reduceAdd, Option.some.injEq,
    List.cons.injEq, and_true]
  all_goals simp [FieldAt]

theorem encode_of_decodeWord {w w2 : Word} {i : Instr} (h : decodeWord w (some w2) = .ok i) (hi : i ≠ .illegalOpcode) :
    encode i = some [w] ∨ encode i = some [w, w2] := by
  obtain ⟨k, hk, row⟩ : ∃ k < 16, (w.extractLsb' 28 4).toNat = k := ⟨_, (w.extractLsb' 28 4).isLt, rfl⟩
  simp only [decodeWord, row] at h
  interval_cases k
  · exact .inl (encode_of_decodeRow0 row i h hi)
  · exact .inl (encode_of_decodeRow1 row i h hi)
  · exact .inl (encode_of_decodeRow2 row i h hi)
  · exact .inl (encode_of_decodeRow3 row i h hi)
  · exact .inl (encode_of_decodeRow4 row i h hi)
  · exact .inl (encode_of_decodeRow5 row i h hi)
  · exact .inl (encode_of_decodeRow6 row i h hi)
  · exact .inl (encode_of_decodeRow7 row i h hi)
  · exact .inl (encode_of_decodeRow8 row i h hi)
  · exact .inl (encode_of_decodeRow9 row i h hi)
  · exact encode_of_decodeRowA w2 row i h hi
  · exact encode_of_decodeRowB w2 row i h hi
  · exact encode_of_decodeRowC w2 row i h hi
  · exact .inl (encode_of_decodeRowD row i h hi)
  · exact encode_of_decodeRowE w2 row i h hi
  · exact .inl (encode_of_decodeRowF row i h hi)

/-! ### Commands (R38) -/

theorem fieldAt_bool {k : Nat} {w : BitVec k} {s : Nat} {b : Bool} : FieldAt w s (BitVec.ofBool b) ↔ w.getLsbD s = b := by
  rw [FieldAt, ← BitVec.toNat_inj, BitVec.getLsbD, Nat.testBit, BitVec.extractLsb'_toNat]
  cases b <;> simp

theorem toNat_lt_of_fieldAt_zero {w : BitVec 64} {s n : Nat} (h : FieldAt w s 0#n) (hs : s + n = 64) : w.toNat < 2 ^ s := by
  have high := congrArg BitVec.toNat h
  rw [BitVec.extractLsb'_toNat, Nat.shiftRight_eq_div_pow, Nat.mod_eq_of_lt] at high
  · exact (Nat.div_eq_zero_iff.mp high).resolve_left (Nat.two_pow_pos s).ne'
  · rw [Nat.div_lt_iff_lt_mul (Nat.two_pow_pos s), ← Nat.pow_add, Nat.add_comm, hs]
    exact w.isLt

/-- A command's first word: its operation and the header fields. -/
theorem CmdHead.word_fields (h : CmdHead) (op : BitVec 8) :
    (h.word op).toNat / 2 ^ 11 = 0 ∧ (h.word op).getLsbD 10 = h.after ∧ (h.word op).getLsbD 9 = h.fence ∧
    (h.word op).getLsbD 8 = h.irq ∧ (h.word op).extractLsb' 0 8 = op := by
  have fields : h.word op = h.word op := rfl
  rw (occs := .pos [1]) [CmdHead.word] at fields
  simp only [append_eq_word, fieldAt_append, Nat.reduceAdd, fieldAt_bool, and_assoc] at fields
  obtain ⟨zero, flags⟩ := fields
  exact ⟨Nat.div_eq_of_lt (toNat_lt_of_fieldAt_zero zero rfl), flags⟩

/-- SET_DOMAIN's second word: the domain and its share bit. -/
theorem setDomain_fields (share : Bool) (dom : BitVec 12) {w : BitVec 64} (hw : 0#51 ++ BitVec.ofBool share ++ dom = w) :
    w.toNat < 2 ^ 13 ∧ w.getLsbD 12 = share ∧ w.extractLsb' 0 12 = dom := by
  simp only [append_eq_word, fieldAt_append, Nat.reduceAdd, fieldAt_bool, and_assoc] at hw
  obtain ⟨zero, fields⟩ := hw
  exact ⟨toNat_lt_of_fieldAt_zero zero rfl, fields⟩

/-- PARTITION's second word: the slice, EXCL, the cluster mask and the context. -/
theorem partition_fields (slice : BitVec 7) (excl : Bool) (mask ctx : BitVec 8) {w : BitVec 64}
    (hw : 0#40 ++ slice ++ BitVec.ofBool excl ++ mask ++ ctx = w) :
    w.toNat < 2 ^ 24 ∧ w.extractLsb' 17 7 = slice ∧ w.getLsbD 16 = excl ∧ w.extractLsb' 8 8 = mask ∧
    w.extractLsb' 0 8 = ctx := by
  simp only [append_eq_word, fieldAt_append, Nat.reduceAdd, fieldAt_bool, and_assoc] at hw
  obtain ⟨zero, fields⟩ := hw
  exact ⟨toNat_lt_of_fieldAt_zero zero rfl, fields⟩

theorem key_halves (key : BitVec 128) : key.extractLsb' 64 64 ++ key.extractLsb' 0 64 = key :=
  BitVec.extractLsb'_append_extractLsb'

theorem commandOf_encodeCommand {i : Instr} {h : CmdHead} {ws : List (BitVec 64)} (hi : i.head? = some h)
    (hws : encodeCommand i = some ws) (after : h.after = true → ∃ va, i = .timestamp h va) : commandOf h.q ws = some i := by
  obtain ⟨q, chained, fence, irq⟩ := h
  cases i <;> simp only [Instr.head?, reduceCtorEq, Option.some.injEq] at hi <;> subst hi <;>
    simp only [encodeCommand, Option.some.injEq] at hws <;> subst hws
  case timestamp =>
    simp only [commandOf, CmdHead.word_fields]
    simp
  all_goals
    obtain rfl : chained = false := Bool.eq_false_iff.mpr fun chain => by simpa using after chain
  case setDomain dom share key =>
    have second := setDomain_fields share dom rfl
    simp only [commandOf, CmdHead.word_fields, second, key_halves]
    simp
  case partition ctx mask excl slice _ _ _ =>
    have second := partition_fields slice excl mask ctx rfl
    simp only [commandOf, CmdHead.word_fields, second]
    simp
  all_goals
    simp only [commandOf, CmdHead.word_fields]
    simp

theorem decodeCommand_encodeCommand {i : Instr} {h : CmdHead} {ws : List (BitVec 64)} (hi : i.head? = some h)
    (hws : encodeCommand i = some ws) (sound : commandErr true i = none)
    (after : h.after = true → ∃ va, i = .timestamp h va) : decodeCommand h.q true ws = .ok i := by
  simp only [decodeCommand, commandOf_encodeCommand hi hws after, sound]

/-- Settles O21: the opcode map by its rows and columns, each layout by its fields, and a command by its eight words. -/
theorem encodingsRoundTrip : Obligations.EncodingsRoundTrip :=
  ⟨fun _ _ h w2? => decodeWord_of_encode_one h w2?, fun _ _ _ h => decodeWord_of_encode_two h, fun _ _ h => encode_length h,
    fun _ _ _ h hi => encode_of_decodeWord h hi,
    fun _ _ _ hi hws sound after => decodeCommand_encodeCommand hi hws sound after⟩

end Sys2Proof

namespace Sys2Proof

/-- Settles O22: the decoder evaluated on each word. -/
theorem decodingReadsTheWorkedWords : Obligations.DecodingReadsTheWorkedWords := by
  unfold Obligations.DecodingReadsTheWorkedWords
  decide

end Sys2Proof

namespace Sys2Proof.Machine

theorem predField_eq_false {x : BitVec 7} (h : 8 ≤ x.toNat) : predField x = false := decide_eq_false (Nat.not_lt.mpr h)

/-! ### The common checks of a word (R102) -/

/-- The word stands where its clause does not take it: the class, the place or the room is wrong. -/
def Form.misplaced (fm : Form) (iss : Issue) : Bool :=
  !fm.grp.accepts iss.cls || (fm.last && iss.word != hdrN iss.header) || (fm.coll && !hdrCollective iss.header)
    || iss.word + fm.len > hdrN iss.header + 1

theorem Form.precheck_eq (fm : Form) (iss : Issue) (t : Team) : fm.precheck iss t =
    if fm.grp.needsMemo && !t.prog.memo then some 0x01 else if fm.priv && !t.priv then some 0x16
    else if fm.misplaced iss then some 0x02 else if !fm.wf then some 0x03 else if fm.past then some 0x04 else none := rfl

theorem Form.precheck_of_not_wf {fm : Form} (h : fm.wf = false) (iss : Issue) (t : Team) :
    fm.precheck iss t = some 0x01 ∨ fm.precheck iss t = some 0x16 ∨ fm.precheck iss t = some 0x02 ∨
      fm.precheck iss t = some 0x03 := by
  rw [Form.precheck_eq, h]
  split
  · exact .inl rfl
  split
  · exact .inr (.inl rfl)
  split
  · exact .inr (.inr (.inl rfl))
  · exact .inr (.inr (.inr rfl))

/-- Settles O27: the constant cells, a new thread's predicates, and the field check before the other checks of a word. -/
theorem predicateSevenReadsTrue : Obligations.PredicateSevenReadsTrue := by
  refine ⟨fun _ => ⟨rfl, rfl, rfl, rfl⟩, fun _ _ _ _ => ⟨rfl, rfl⟩,
    fun _ _ => ⟨rfl, rfl, rfl⟩, fun _ _ _ => rfl, fun f high => ?_, fun f high => ?_, fun f high => ?_,
    fun fm iss t h => Form.precheck_of_not_wf h iss t⟩
  · simp [Instr.wf, predField_eq_false high]
  · simp [Instr.wf, predField_eq_false high]
  · rcases high with high | high <;> simp [Instr.wf, predField_eq_false high]

end Sys2Proof.Machine

namespace Sys2Proof.Machine

/-! ### A bundle whose threads stand at one word -/

/-- The threads of a bundle are live, stand at `pos` and wait for nothing that holds the bundle. -/
def Bundle.Ready (b : Bundle) (t : Team) (pos : Pos) : Prop :=
  ∀ m ∈ b.members, (t.thread m.1 m.2).exited = false ∧ (t.thread m.1 m.2).pos = pos ∧
    ((t.thread m.1 m.2).wait = .none ∨ (t.thread m.1 m.2).wait = .stream ∨
      (b.together = true ∧ (t.thread m.1 m.2).wait.polled = true))

theorem Bundle.live_of_ready {b : Bundle} {t : Team} {pos : Pos} (h : b.Ready t pos) : b.live t = b.members :=
  List.filter_eq_self.mpr fun m hm => by simp [(h m hm).1]

theorem Wait.polled_not_paired {w : Wait} (h : w.polled = true) : w.paired = false := by
  cases w <;> simp_all [Wait.polled, Wait.paired]

theorem Bundle.able_of_ready {b : Bundle} {t : Team} {pos : Pos} (h : b.Ready t pos) : b.able t = b.members := by
  simp only [Bundle.able, Bundle.live_of_ready h]
  cases together : b.together
  · refine List.filter_eq_self.mpr fun m hm => ?_
    obtain ⟨-, -, wait | wait | ⟨kept, -⟩⟩ := h m hm
    · simp [wait]
    · simp [wait]
    · simp [together] at kept
  · have free : ∀ m ∈ b.members, (t.thread m.1 m.2).wait = .none ∨ (t.thread m.1 m.2).wait.polled = true := by
      intro m hm
      obtain ⟨-, -, wait | wait | ⟨-, wait⟩⟩ := h m hm
      · exact .inl wait
      · exact .inr (by rw [wait]; rfl)
      · exact .inr wait
    have unpaired : ∀ m ∈ b.members, (t.thread m.1 m.2).wait.paired = false := by
      intro m hm
      rcases free m hm with wait | wait
      · rw [wait]; rfl
      · exact Wait.polled_not_paired wait
    have level : ∀ m ∈ b.members, ∀ x ∈ b.members, (t.thread m.1 m.2).pos.step ≤ (t.thread x.1 x.2).pos.step := by
      intro m hm x hx
      rw [(h m hm).2.1, (h x hx).2.1]
    rw [if_pos rfl, if_pos (List.all_eq_true.mpr fun m hm => by rcases free m hm with wait | wait <;> simp [wait])]
    exact List.filter_eq_self.mpr fun m hm => by simpa [unpaired m hm] using fun a b hx => level m hm (a, b) hx

theorem Pos.first_iff (p : Pos) : p.first = true ↔ p.word = 1 ∧ p.rep = none := by
  simp [Pos.first]

theorem State.issueBundle_of_ready {s : State} {cl co slot : Nat} {b : Bundle} {t : Team} {pos : Pos} {h : Word}
    (ready : b.Ready t pos) (occupied : b.members ≠ []) (header : b.header = some h) :
    s.issueBundle cl co slot t b =
      ((s.slotTurn b t).setBundle cl co slot (some b)).atWord cl co slot (((s.slotTurn b t).team? t.id).getD t) b pos h
        b.members := by
  have one : ∀ w l rest, b.members = (w, l) :: rest → (t.thread w l).pos = pos := fun w l rest members =>
    (ready (w, l) (members ▸ List.mem_cons_self)).2.1
  have all : b.members.filter (fun m => (t.thread m.1 m.2).pos == pos) = b.members :=
    List.filter_eq_self.mpr fun m hm => by simp [(ready m hm).2.1]
  have same : ({ team := b.team, members := if b.together then b.live t else b.members, header := some h } : Bundle) = b := by
    rw [Bundle.live_of_ready ready, ite_self, ← header]
  simp only [State.issueBundle, Bundle.able_of_ready ready]
  split
  next none => exact absurd none occupied
  next w l rest members =>
    simp only [one w l rest members, ← members, all, header]
    rw [same]
    rfl

theorem State.hdrWaits_of_none {s : State} {t : Team} {h : Word} {ms : List (Nat × Nat)}
    (free : ∀ m ∈ ms, s.hdrWait t.id h m.1 m.2 = none) : s.hdrWaits t h ms = (s, ms) := by
  have none_waits : (ms.filterMap fun m => (s.hdrWait t.id h m.1 m.2).map fun w => (m, w)) = [] :=
    List.filterMap_eq_nil_iff.mpr fun m hm => by simp [free m hm]
  simp [State.hdrWaits, none_waits]

theorem State.atWord_of_go {s : State} {cl co slot : Nat} {b : Bundle} {t0 t : Team} {pos : Pos} {h : Word}
    {ms : List (Nat × Nat)} {s1 : State} (at_ : AtWord s cl co slot b t0 t pos h ms s1) :
    ((s.slotTurn b t0).setBundle cl co slot (some b)).atWord cl co slot t b pos h b.members =
      (issueOf cl co ms t pos h).fetchWord t pos ms ((issueOf cl co ms t pos h).noteClause t s1) := by
  obtain ⟨-, -, -, -, -, -, sound, threads, go, begins, goes⟩ := at_
  obtain ⟨s0, issuers⟩ : ∃ s0, (s.slotTurn b t0).issuers cl co slot b t pos h = (s0, ms) := ⟨_, Prod.ext rfl threads⟩
  rw [issuers] at begins goes
  simp only [State.issuers] at issuers
  have some_go : ms.isEmpty = false := by simpa using go
  simp only [State.atWord, sound, ← Pos.first_iff, issuers, some_go]
  cases first : pos.first
  · obtain rfl := goes first
    simp [go, issueOf]
  · obtain ⟨due, shut, clause, free⟩ := begins first
    have no_due : b.members.filter t.pendingRecord = [] := List.filter_eq_nil_iff.mpr fun m hm => by simp [due m hm]
    simp [go, issueOf, no_due, clause, State.hdrWaits_of_none free]
    exact fun user out => absurd (shut user) out

/-- A slot whose threads stand at a word fetches it there. -/
theorem State.issueSlot_of_atWord {s : State} {cl co slot : Nat} {b : Bundle} {t0 t : Team} {pos : Pos} {h : Word}
    {ms : List (Nat × Nat)} {s1 : State} (at_ : AtWord s cl co slot b t0 t pos h ms s1) {s2 : State} {iss : Issue} {i : Instr}
    (word : (issueOf cl co ms t pos h).fetchWord t pos ms ((issueOf cl co ms t pos h).noteClause t s1) =
      ({ s2 with issue := some iss }, some i)) :
    s.issueSlot cl co slot = (s2.taken iss cl co slot t0, some i) := by
  have bundle : s.issueBundle cl co slot t0 b = ({ s2 with issue := some iss }, some i) := by
    rw [State.issueBundle_of_ready at_.ready at_.some at_.header, at_.now, State.atWord_of_go at_, word]
  simp only [State.issueSlot, at_.holds, at_.team, bundle, State.taken]

theorem step_of_issue {s : State} {cl co slot : Nat} {rest : List Turn} (turn : s.agenda = .issue cl co slot :: rest) {s' : State}
    {i : Instr} (slot_ : ({ s with agenda := rest } : State).issueSlot cl co slot = (s', some i)) : step s = exec i s' := by
  simp only [step, turn, runTurn, slot_]

/-! ### What a fetch gives, and what a vector pipe keeps of an issue -/

theorem ofNat_leNat_wordBytes (w : Word) : BitVec.ofNat 32 (leNat (wordBytes w)) = w := by
  have bytes : leNat (wordBytes w) = w.toNat := by
    simp only [wordBytes, leNat, BitVec.extractLsb'_toNat, Nat.shiftRight_eq_div_pow]
    have := w.isLt
    omega
  rw [bytes, BitVec.ofNat_toNat, BitVec.setWidth_eq]

theorem State.fetch_of_word {s s1 : State} {cl co : Nat} {t : Team} {va : Nat} {x : Xlat} {w : Word}
    (inside : fetchable t.prog.hdr va = true) (found : s.translate cl co t.ctx t.priv .exec va = (s1, .ok x))
    (sound : s1.pathBad cl co x 4 = false) (bytes : s1.readPath cl co x 4 = wordBytes w) :
    s.fetch cl co t va = (s1, .word w) := by
  simp [State.fetch, inside, found, sound, bytes, ofNat_leNat_wordBytes]

theorem State.taken_scalar {iss : Issue} (scalar : iss.cls = 0) (s : State) (cl co slot : Nat) (t : Team) :
    s.taken iss cl co slot t = { s with issue := some iss } := by
  simp [State.taken, State.notePipe, scalar]

theorem State.core_updCore_of_lt {s : State} {cl co : Nat} (hcl : cl < s.clusters.length) (hco : co < (s.cluster cl).cores.length)
    (f : Core → Core) : (s.updCore cl co f).core cl co = f (s.core cl co) := by
  rw [State.core, State.updCore, State.cluster_updCluster hcl, State.core, updAt_getD, if_pos ⟨rfl, hco⟩]

/-- A note that the cluster's pipe issued for a user; a privileged team's word leaves the cluster as it was. -/
def State.noteUser (s : State) (cl : Nat) (priv : Bool) : State :=
  if priv then s else s.updCluster cl fun c => { c with issued := true }

theorem State.noteUser_cluster {s : State} {cl : Nat} (hcl : cl < s.clusters.length) (priv : Bool) :
    (s.noteUser cl priv).cluster cl = { s.cluster cl with issued := (s.cluster cl).issued || !priv } := by
  cases priv
  · simp [State.noteUser, State.cluster_updCluster hcl]
  · simp [State.noteUser]

theorem State.taken_vector {iss : Issue} (vector : iss.cls ≠ 0) (s : State) (cl co slot : Nat) (t : Team) :
    s.taken iss cl co slot t = (({ s with issue := some iss } : State).noteUser cl t.priv).updCore cl co fun k => { k with
      lastIssue := setAt k.lastIssue (slot / 2) ((s.cluster cl).r.clk + 1), gated := setAt k.gated (slot / 2) false } := by
  simp [State.taken, State.notePipe, State.noteUser, vector, State.cluster]

theorem State.taken_vector_spec {iss : Issue} (vector : iss.cls ≠ 0) {s : State} {cl co slot : Nat} (t : Team)
    (hcl : cl < s.clusters.length) (hco : co < (s.cluster cl).cores.length) (gated : slot / 2 < (s.core cl co).gated.length)
    (last : slot / 2 < (s.core cl co).lastIssue.length) :
    (s.taken iss cl co slot t).issue = some iss ∧ ((s.taken iss cl co slot t).core cl co).gated[slot / 2]? = some false ∧
    ((s.taken iss cl co slot t).core cl co).lastIssue[slot / 2]? = some ((s.cluster cl).r.clk + 1) ∧
    ((s.taken iss cl co slot t).cluster cl).issued = ((s.cluster cl).issued || !t.priv) ∧
    (s.taken iss cl co slot t).teams = s.teams ∧ (s.taken iss cl co slot t).mem = s.mem := by
  rw [State.taken_vector vector]
  generalize hu : ({ s with issue := some iss } : State).noteUser cl t.priv = u
  have ucl : u.cluster cl = { s.cluster cl with issued := (s.cluster cl).issued || !t.priv } := by
    rw [← hu]
    exact State.noteUser_cluster (s := { s with issue := some iss }) hcl t.priv
  have ulen : cl < u.clusters.length := by
    rw [← hu, State.noteUser]
    split <;> simpa [State.updCluster] using hcl
  have ucore : u.core cl co = s.core cl co := by simp only [State.core, ucl]
  have rest : u.issue = some iss ∧ u.teams = s.teams ∧ u.mem = s.mem := by
    rw [← hu, State.noteUser]
    split <;> exact ⟨rfl, rfl, rfl⟩
  rw [State.core_updCore_of_lt ulen (by rw [ucl]; exact hco), ucore]
  refine ⟨rest.1, ?_, ?_, ?_, rest.2.1, rest.2.2⟩
  · rw [setAt_getElem?, if_pos ⟨rfl, gated⟩]
  · rw [setAt_getElem?, if_pos ⟨rfl, last⟩]
  · rw [State.updCore, State.cluster_updCluster ulen, ucl]

/-! ### The word that a step fetches

The four shapes of a word: with its second word or without, under a REP word or not. -/

section
variable {iss : Issue} {t : Team} {pos : Pos} {ms : List (Nat × Nat)} {s s2 s3 s4 : State} {w w2 r : Word} {n : Nat}
  {i : Instr}

theorem Issue.fetchWord_one (fetched : s.fetch iss.cl iss.co t ((pos.hdr + 4 * pos.word) % 2 ^ 64) = (s2, .word w))
    (one : wantsNext w = false) (alone : pos.rep = none) 
    (single : iss.has2 = false) (decoded : decodeWord w none = .ok i) :
    iss.fetchWord t pos ms s = ({ s2 with issue := some ({ iss with raw := w }) }, some i) := by
  simp only [Issue.fetchWord, fetched, one, alone, Bool.false_and, Bool.false_eq_true, if_false, Issue.decode, single,
    decoded]

theorem Issue.fetchWord_two (fetched : s.fetch iss.cl iss.co t ((pos.hdr + 4 * pos.word) % 2 ^ 64) = (s2, .word w))
    (two : wantsNext w = true) (room : pos.word < hdrN iss.header) (alone : pos.rep = none)
    (next : s2.fetch iss.cl iss.co t ((pos.hdr + 4 * (pos.word + 1)) % 2 ^ 64) = (s3, .word w2)) 
    (decoded : decodeWord w (some w2) = .ok i) :
    iss.fetchWord t pos ms s = ({ s3 with issue := some ({ iss with raw := w, raw2 := w2, has2 := true }) }, some i) := by
  simp only [Issue.fetchWord, fetched, two, room, alone, next, decide_true, Bool.and_self, if_true, Issue.decode, decoded]

theorem Issue.fetchWord_one_repeated
    (fetched : s.fetch iss.cl iss.co t ((pos.hdr + 4 * pos.word) % 2 ^ 64) = (s2, .word w))
    (one : wantsNext w = false) (rep : pos.rep = some n)
    (before : s2.fetch iss.cl iss.co t ((pos.hdr + 4 * (pos.word - 1)) % 2 ^ 64) = (s3, .word r)) 
    (single : iss.has2 = false) (decoded : decodeWord w none = .ok i) :
    iss.fetchWord t pos ms s = ({ s3 with issue := some (Issue.under { iss with raw := w } n r) }, some i) := by
  simp only [Issue.fetchWord, fetched, one, rep, before, Bool.false_and, Bool.false_eq_true, if_false, Issue.decode,
    Issue.under, single, decoded]

theorem Issue.fetchWord_two_repeated
    (fetched : s.fetch iss.cl iss.co t ((pos.hdr + 4 * pos.word) % 2 ^ 64) = (s2, .word w))
    (two : wantsNext w = true) (room : pos.word < hdrN iss.header) (rep : pos.rep = some n)
    (next : s2.fetch iss.cl iss.co t ((pos.hdr + 4 * (pos.word + 1)) % 2 ^ 64) = (s3, .word w2))
    (before : s3.fetch iss.cl iss.co t ((pos.hdr + 4 * (pos.word - 1)) % 2 ^ 64) = (s4, .word r)) 
    (decoded : decodeWord w (some w2) = .ok i) :
    iss.fetchWord t pos ms s = ({ s4 with issue := some (Issue.under { iss with raw := w, raw2 := w2, has2 := true } n r) }, some i) := by
  simp only [Issue.fetchWord, fetched, two, room, rep, next, before, decide_true, Bool.and_self, if_true, Issue.decode,
    Issue.under, decoded]

end

/-- Settles O18: the slot's turn is the fetch of its word (`State.issueSlot_of_atWord`), which has one of four shapes. -/
theorem stepRunsTheFetchedWord : Obligations.StepRunsTheFetchedWord := by
  refine ⟨fun s i tg rest turn => ?_, fun s n rest turn => ?_, fun s iss cl co slot t => ⟨fun scalar => ?_, fun vector => ?_⟩,
    fun s cl co t va s1 x inside found sound w bytes => State.fetch_of_word inside found sound bytes, ?_⟩
  · simp only [step, turn, runTurn]
  · simp only [step, turn, runTurn]
  · exact State.taken_scalar scalar s cl co slot t
  · exact fun hcl hco gated last => State.taken_vector_spec vector t hcl hco gated last
  intro s cl co slot rest b t0 t pos h ms s1 s2 w turn at_ iss at' fetched
  have run : ∀ {s' : State} {iss' : Issue} {i : Instr},
      iss.fetchWord t pos ms (iss.noteClause t s1) = ({ s' with issue := some iss' }, some i) →
      step s = exec i (s'.taken iss' cl co slot t0) := fun word => step_of_issue turn (State.issueSlot_of_atWord at_ word)
  exact ⟨fun _ one alone decoded => run (Issue.fetchWord_one fetched one alone rfl decoded),
    fun _ _ _ two room alone next decoded => run (Issue.fetchWord_two fetched two room alone next decoded),
    fun _ _ _ _ one rep before decoded => run (Issue.fetchWord_one_repeated fetched one rep before rfl decoded),
    fun _ _ _ _ _ _ two room rep next before decoded =>
      run (Issue.fetchWord_two_repeated fetched two room rep next before decoded)⟩

end Sys2Proof.Machine

namespace Sys2Proof.Machine

/-! ### A thread that takes a trap (R377) -/

/-- A live thread has its place in its team. -/
theorem Team.bounds_of_live {t : Team} {w l : Nat} (live : (t.thread w l).exited = false) :
    w < t.warps.length ∧ l < (t.warp w).threads.length := by
  have lane : l < (t.warp w).threads.length := by
    by_contra out
    rw [Team.thread, Warp.thread, List.getD_eq_default _ _ (Nat.not_lt.mp out)] at live
    cases live
  refine ⟨?_, lane⟩
  by_contra out
  rw [Team.warp, List.getD_eq_default _ _ (Nat.not_lt.mp out)] at lane
  cases lane

/-- The save registers as a trap writes them. -/
def Thread.reports (th : Thread) (ti : TrapInfo) : Thread :=
  { th with
    tinfo0 := BitVec.ofNat 32 (ti.rep.getD 0 % 64 * 2 ^ 12 + ti.word % 16 * 2 ^ 8 + ti.cause)
    tinfo1 := if ti.word = 0 ∧ ti.cause ≠ 0x0D then 0 else ti.raw
    tinfo2 := ti.mask, tinfo3 := ti.data, tret := BitVec.ofNat 64 ti.hdr, trapRep := ti.rep.isSome, tretWritten := false }

/-- A thread that has entered the handler, its region ended or lapsed. -/
def Thread.enters (th : Thread) (pos : Pos) : Thread :=
  { th.unpark with
    handler := true, relDone := false, behind := [], sent := false, replay := none, ab := th.ab.trapped, pos := pos }

/-- Its warp: the meeting groups are tested, and the warp's region ends or lapses. -/
def Warp.entersHandler (wp : Warp) (l : Nat) (pos : Pos) : Warp :=
  { (wp.updThread l (·.enters pos)).settleMeetings with ab := wp.ab.trapped }

theorem State.takeTrap_enters {s : State} {tm : Nat} {t : Team} {w l : Nat} {ti : TrapInfo} (found : s.team? tm = some t)
    (precise : ti.cause ≠ 0x11 ∧ ti.cause ≠ 0x18) (user : (t.thread w l).handler = false) (handler : t.prog.handler ≠ 0) :
    s.takeTrap tm w l ti = ((s.updThread tm w l (·.reports ti)).unbundle tm w l).updWarp tm w
      (·.entersHandler l { hdr := t.prog.hdr + t.prog.handler }) := by
  simp only [State.takeTrap, found, precise, user, or_self, if_false, Bool.false_or, beq_iff_eq, handler]
  rfl

theorem State.takeTrap_enters_ops {s : State} {tm : Nat} {t : Team} {w l : Nat} {ti : TrapInfo} (found : s.team? tm = some t)
    (precise : ti.cause ≠ 0x11 ∧ ti.cause ≠ 0x18) (user : (t.thread w l).handler = false) (handler : t.prog.handler ≠ 0) :
    (s.takeTrap tm w l ti).mem = s.mem ∧ (s.takeTrap tm w l ti).loads = s.loads ∧ (s.takeTrap tm w l ti).stores = s.stores := by
  have data := State.unbundle_data (s.updThread tm w l (·.reports ti)) tm w l
  rw [State.takeTrap_enters found precise user handler]
  have mem := congrArg State.mem data
  have loads := congrArg State.loads data
  have stores := congrArg State.stores data
  exact ⟨mem, loads, stores⟩

theorem Warp.settleMeetings_thread_data (wp : Warp) (l : Nat) : (wp.settleMeetings.thread l).data = (wp.thread l).data := by
  have same (x : Warp) : x.data.thread l = (x.thread l).data := by
    simp only [Warp.thread, Warp.data, List.getD_eq_getElem?_getD, List.getElem?_map]
    cases x.threads[l]? <;> rfl
  rw [← same, wp.settleMeetings_data, same]

/-- The trapping thread: its save registers written, in handler mode, everything else of it as before. -/
theorem State.takeTrap_thread {s : State} {tm : Nat} {t : Team} {w l : Nat} {ti : TrapInfo} (found : s.team? tm = some t)
    (live : (t.thread w l).exited = false) (precise : ti.cause ≠ 0x11 ∧ ti.cause ≠ 0x18)
    (user : (t.thread w l).handler = false) (handler : t.prog.handler ≠ 0) (pos : Pos) :
    ((s.takeTrap tm w l ti).thread tm w l).data = (((t.thread w l).reports ti).enters pos).data := by
  obtain ⟨hw, hl⟩ := Team.bounds_of_live live
  obtain ⟨warps, threads⟩ := t.updThread_lengths w l (·.reports ti)
  have reported : ((s.updThread tm w l (·.reports ti)).unbundle tm w l).team? tm = some (t.updThread w l (·.reports ti)) :=
    (State.team?_of_teams (State.unbundle_teams _ tm w l) tm).trans (State.team?_updThread found w l _)
  rw [State.takeTrap_enters found precise user handler, State.thread_of_team? (State.team?_updWarp reported w _), Team.thread,
    Team.warp_updWarp (warps ▸ hw)]
  calc ((((t.updThread w l (·.reports ti)).warp w).entersHandler l _).thread l).data
      = (((((t.updThread w l (·.reports ti)).warp w).updThread l (·.enters _)).settleMeetings).thread l).data := rfl
    _ = (((t.updThread w l (·.reports ti)).thread w l).enters _).data := by
      rw [Warp.settleMeetings_thread_data, Warp.thread_updThread (threads w ▸ hl)]
      rfl
    _ = _ := by
      rw [Team.thread_updThread hw hl]
      rfl


theorem Thread.reports_tinfo0 (th : Thread) {ti : TrapInfo} (cause : ti.cause < 256) (word : ti.word < 16) :
    (th.reports ti).tinfo0.toNat % 256 = ti.cause ∧ (th.reports ti).tinfo0.toNat / 256 % 16 = ti.word := by
  have small : ti.rep.getD 0 % 64 * 2 ^ 12 + ti.word % 16 * 2 ^ 8 + ti.cause < 2 ^ 32 := by omega
  have value : (th.reports ti).tinfo0.toNat = ti.rep.getD 0 % 64 * 2 ^ 12 + ti.word % 16 * 2 ^ 8 + ti.cause := by
    simp only [Thread.reports, BitVec.toNat_ofNat]
    exact Nat.mod_eq_of_lt small
  omega

/-! ### A word that fails a check -/

theorem Issue.pairTrap_of_not_protected {iss : Issue} {s : State} {t : Team} (found : s.team? iss.team = some t)
    (single : s.isProtected t = false) (traps : List ((Nat × Nat) × Nat × Word)) (m : Nat × Nat) (cause : Nat) :
    iss.pairTrap traps m cause s = s := by
  simp [Issue.pairTrap, found, single]

theorem Issue.deliverTraps_one {iss : Issue} {s : State} {t : Team} {w l : Nat} (found : s.team? iss.team = some t)
    (single : s.isProtected t = false) (live : (t.thread w l).exited = false) (cause : Nat) (data : Word) :
    iss.deliverTraps [((w, l), cause, data)] s = s.takeTrap iss.team w l (iss.trapInfo cause (laneMask [l]) data) := by
  simp [Issue.deliverTraps, State.thread_of_team? found, live, Issue.pairTrap_of_not_protected found single]

section
variable {fm : Form} {value : Ctx → Option Nat} {act : State → Ctx → State × LaneRes} {s : State} {iss : Issue} {t : Team}
  {w l k : Nat}

theorem Issue.lanes_of_vector (vector : iss.cls ≠ 0) (t : Team) (m : Nat × Nat) : iss.lanes t m = [m] := if_neg vector

/-- A word that fails a check in its one thread does nothing but trap. -/
theorem Form.perform_traps (found : s.team? iss.team = some t) (one : iss.actors t = [(w, l)]) (vector : iss.cls ≠ 0)
    (fails : fm.precheck iss t = some k ∨
      fm.precheck iss t = none ∧ Ctx.checks ⟨t, w, l, iss⟩ fm.os (value ⟨t, w, l, iss⟩) fm.pure = some (.trap k)) :
    ∃ data, fm.perform iss value act s = iss.deliverTraps [((w, l), k, data)] s := by
  rcases fails with early | ⟨clear, check⟩
  · refine ⟨0, ?_⟩
    simp [Form.perform, found, early, one, Issue.lanes_of_vector vector]
  · refine ⟨(fm.data.map (Ctx.rd ⟨t, w, l, iss⟩)).getD 0, ?_⟩
    simp [Form.perform, found, clear, one, check, Form.lane, Issue.finish, Issue.lanes_of_vector vector,
      Issue.holdMates_of_not_mshr]

/-- A word whose check holds it parks its threads and does nothing else. -/
theorem Form.perform_holds (found : s.team? iss.team = some t) (one : iss.actors t = [(w, l)]) (clear : fm.precheck iss t = none)
    (check : Ctx.checks ⟨t, w, l, iss⟩ fm.os (value ⟨t, w, l, iss⟩) fm.pure = some .hold) :
    fm.perform iss value act s = (if iss.together then iss.lanes t (w, l) else [(w, l)]).foldl
      (fun s m => s.holdLane iss.team (!iss.together) .regs m) s := by
  cases together : iss.together
  · have parked := State.holdLane_team? found true .regs (w, l)
    simp [Form.perform, found, clear, one, check, together, Form.lane, Issue.finish, parked, Issue.deliverTraps, Issue.holdMates]
  · simp [Form.perform, found, clear, one, check, together]

end

/-! ### The order of the checks (R86, R102) -/

theorem Ctx.none_outOfRange {c : Ctx} {os : List Opnd} (within : ∀ p ∈ os, c.outOfRange p = false) : os.any c.outOfRange = false :=
  List.any_eq_false.mpr fun p hp => by simp [within p hp]

theorem Ctx.checks_hold {c : Ctx} {os : List Opnd} {value : Option Nat} (within : ∀ p ∈ os, c.outOfRange p = false)
    (sound : value ≠ some 0x03) (blocked : c.blocked os = true) (pure : Bool) : c.checks os value pure = some .hold := by
  simp [Ctx.checks, sound, Ctx.none_outOfRange within, blocked]

theorem Ctx.blocked_of_empty {c : Ctx} {os : List Opnd} {o : Opnd} (ho : o ∈ os) (blocks : o.wr = true ∨ (o.rd = true ∧ o.pol = false))
    (empty : c.anyEmpty o = true) : c.blocked os = true := by
  refine List.any_eq_true.mpr ⟨o, ho, ?_⟩
  rcases blocks with dst | ⟨rd, pol⟩
  · simp [dst, empty]
  · simp [rd, pol, empty]

theorem Ctx.checks_empty {c : Ctx} {os : List Opnd} {o : Opnd} (ho : o ∈ os) (within : ∀ p ∈ os, c.outOfRange p = false)
    (free : c.blocked os = false) (rd : o.rd = true) (pol : o.pol = true) (empty : c.anyEmpty o = true) (pure : Bool) :
    c.checks os none pure = some (.trap 0x06) := by
  have traps : (os.any fun o => o.rd && o.pol && c.anyEmpty o) = true := List.any_eq_true.mpr ⟨o, ho, by simp [rd, pol, empty]⟩
  simp only [Ctx.checks, Ctx.none_outOfRange within, free, traps]
  simp

/-- Settles O20: what the checks answer (`Ctx.checks_hold`, `Ctx.checks_empty`, `Form.precheck_eq`), and what becomes of a word
that they stop (`Form.perform_traps`, `Form.perform_holds`). -/
theorem wordsTrapOrWaitWhole : Obligations.WordsTrapOrWaitWhole := by
  refine ⟨fun fm value act s iss t w l k found one vector live user handler single word _ fails h11 h18 cause => ?_,
    fun fm value act s iss t w l found one live clear check => ⟨?_, ?_⟩,
    fun c os value pure o ho within sound blocks empty =>
      Ctx.checks_hold within sound (Ctx.blocked_of_empty ho blocks empty) pure,
    fun c os pure o ho within free rd pol empty => Ctx.checks_empty ho within free rd pol empty pure,
    fun fm iss t => ⟨fun memo absent => ?_, fun present priv user => ?_, fun h01 h16 refused => ?_, fun h03 => ?_, fun clear => ?_⟩⟩
  · obtain ⟨data, traps⟩ := Form.perform_traps (act := act) found one vector fails
    rw [traps, Issue.deliverTraps_one found single live]
    have precise : (iss.trapInfo k (laneMask [l]) data).cause ≠ 0x11 ∧ (iss.trapInfo k (laneMask [l]) data).cause ≠ 0x18 :=
      ⟨h11, h18⟩
    have th' := State.takeTrap_thread found live precise user handler {}
    obtain ⟨mem, loads, stores⟩ := State.takeTrap_enters_ops found precise user handler
    obtain ⟨info, place⟩ := (t.thread w l).reports_tinfo0 (ti := iss.trapInfo k (laneMask [l]) data) cause word
    have field {α : Type} (g : Thread → α) := congrArg g th'
    refine ⟨field Thread.handler, ?_, ?_, field Thread.tret, field Thread.v, field Thread.p, field Thread.fpst, field Thread.ist,
      mem, loads, stores⟩
    · exact (field fun th => th.tinfo0.toNat % 256).trans info
    · exact (field fun th => th.tinfo0.toNat / 256 % 16).trans place
  · rw [Form.perform_holds found one clear check]
    exact foldl_of_step State.data _ (fun s m => s.holdLane_data _ _ _ m) _ s
  · obtain ⟨t', found', same⟩ := foldl_updThread_keeps Thread.pos
      (fun s m t h => ⟨_, State.holdLane_team? h (!iss.together) .regs m, fun _ => rfl⟩)
      (if iss.together then iss.lanes t (w, l) else [(w, l)]) found w l
    rw [Form.perform_holds found one clear check, State.thread_of_team? found', same]
  · simp [Form.precheck_eq, memo, absent]
  · rcases present with plain | memo
    · simp [Form.precheck_eq, plain, priv, user]
    · simp [Form.precheck_eq, memo, priv, user]
  · have misplaced : fm.misplaced iss = true := by simp [Form.misplaced, refused]
    rw [Form.precheck_eq] at h01 h16 ⊢
    have has_memo : ¬(fm.grp.needsMemo && !t.prog.memo) = true := fun absent => h01 (if_pos absent)
    rw [if_neg has_memo] at h16 ⊢
    have allowed : ¬(fm.priv && !t.priv) = true := fun denied => h16 (if_pos denied)
    rw [if_neg allowed, if_pos misplaced]
  · refine Bool.eq_false_iff.mpr fun wf => ?_
    rw [Form.precheck_eq, wf, Bool.not_true, if_neg Bool.false_ne_true] at h03
    split_ifs at h03 <;> simp at h03
  · rw [Form.precheck_eq] at clear
    split_ifs at clear with _ _ _ bad past
    exact ⟨by simpa using bad, by simpa using past⟩

end Sys2Proof.Machine

namespace Sys2Proof.Machine

/-! ### Words that set the positions of their threads -/

theorem Issue.finish_moved {iss : Issue} {s : State} {w l : Nat} (free : ∀ x, (s.thread iss.team w l).mustTrap ≠ some x)
    (len : Nat) (d : Word) : iss.finish len [((w, l), .moved, d)] s = s := by
  unfold Issue.finish
  split
  · rfl
  · simp only [List.foldl_cons, List.foldl_nil, List.flatMap_cons, List.flatMap_nil, List.append_nil, Issue.deliverTraps]
    rw [Issue.holdMates_of_not_mshr (by simp)]
    simp [Issue.missedTrap, free]

theorem goes_of_moved {i : Instr} {fm : Issue → Form} {value : Issue → Ctx → Option Nat}
    {act : Issue → State → Ctx → State × LaneRes} {cond : State → Ctx → Prop} {eff : Ctx → State → State}
    (run : ∀ s, exec i s = withIssue s fun iss => (fm iss).perform iss (value iss) (act iss))
    (moves : ∀ iss c s, c.iss = iss → cond s c → act iss s c = (eff c s, .moved)) : Goes i fm value cond eff := by
  intro s iss t w l ha hc hcond free
  rw [run, withIssue_of ha.issue, Form.perform_clear ha hc, moves iss _ _ rfl hcond, Issue.finish_moved free]

/-! ### Returning from a trap (R382 to R384) -/

def rttForm (_ : Issue) : Form := { grp := .ctl, last := true }

/-- What RTT of a form does in its threads. -/
def rttAct (form : BitVec 2) (iss : Issue) (s : State) (c : Ctx) : State × LaneRes :=
  if iss.cls = 0 then s.rttAll iss c.t form.toNat ((c.t.warp c.w).live.map fun l => (c.w, l))
  else s.rttThread iss c.t form.toNat c.l (c.w, c.l)

theorem exec_rtt (form : BitVec 2) (s : State) :
    exec (.rtt form) s = withIssue s fun iss => (rttForm iss).perform iss (noValue iss) (rttAct form iss) := rfl

section
variable {s : State} {iss : Issue} {t : Team} {m : Nat × Nat}

/-- Where sr.tret was written, or the header itself trapped, RTT of any form goes to the header. -/
theorem State.rttThread_header {form : Nat} (known : form ≠ 3) (handler : (t.thread m.1 m.2).handler = true)
    (header : (t.thread m.1 m.2).tretWritten = true ∨ (t.thread m.1 m.2).tinfo0.toNat / 2 ^ 8 % 16 = 0) (wl : Nat) :
    s.rttThread iss t form wl m = (s.resumeAt t.id m.1 m.2 { hdr := (t.thread m.1 m.2).tret.toNat }, .moved) := by
  simp only [Nat.reducePow] at header
  simp [State.rttThread, handler, known, bits, Nat.shiftRight_eq_div_pow, header]

theorem State.rttThread_plain (handler : (t.thread m.1 m.2).handler = true) (wl : Nat) :
    s.rttThread iss t 0 wl m = (s.resumeAt t.id m.1 m.2 (rttPos (t.thread m.1 m.2)), .moved) := by
  by_cases header : (t.thread m.1 m.2).tretWritten = true ∨ (t.thread m.1 m.2).tinfo0.toNat / 2 ^ 8 % 16 = 0
  · rw [State.rttThread_header (by decide) handler header, rttPos, if_pos header]
  · simp only [Nat.reducePow] at header
    simp [State.rttThread, rttPos, handler, bits, Nat.shiftRight_eq_div_pow, header]

/-- Past the trapping word, when it has been read again. -/
theorem State.rttThread_skips {form : Nat} (skips : form = 1 ∨ form = 2) (handler : (t.thread m.1 m.2).handler = true)
    (kept : (t.thread m.1 m.2).tretWritten = false) (word : (t.thread m.1 m.2).tinfo0.toNat / 2 ^ 8 % 16 ≠ 0) (wl : Nat)
    {hdr raw : Word} {rep : Option Word}
    (read : (s.reread iss t (t.thread m.1 m.2).tret.toNat ((t.thread m.1 m.2).tinfo0.toNat / 2 ^ 8 % 16)
      (t.thread m.1 m.2).trapRep).2 = .ok hdr raw rep) :
    s.rttThread iss t form wl m = ((s.reread iss t (t.thread m.1 m.2).tret.toNat
      ((t.thread m.1 m.2).tinfo0.toNat / 2 ^ 8 % 16) (t.thread m.1 m.2).trapRep).1.skipTrapped t.id m.1 m.2 (form == 2) t
        hdr raw rep, .moved) := by
  have known : form ≠ 3 ∧ form ≠ 0 := by omega
  obtain ⟨s', again⟩ : ∃ s', s.reread iss t (t.thread m.1 m.2).tret.toNat ((t.thread m.1 m.2).tinfo0.toNat / 2 ^ 8 % 16)
      (t.thread m.1 m.2).trapRep = (s', .ok hdr raw rep) := ⟨_, Prod.ext rfl read⟩
  rw [again]
  simp only [Nat.reducePow] at word again
  simp [State.rttThread, handler, kept, known, bits, Nat.shiftRight_eq_div_pow, word, again]

/-- In class 0 every live thread resumes, each where its own sr.tret says. -/
theorem State.rttAll_plain {ms : List (Nat × Nat)} (handler : ∀ m ∈ ms, (t.thread m.1 m.2).handler = true) :
    s.rttAll iss t 0 ms = (ms.foldl (fun s m => s.resumeAt t.id m.1 m.2 (rttPos (t.thread m.1 m.2))) s, .moved) := by
  have each : ∀ m ∈ ms, ∀ s : State, s.rttThread iss t 0 32 m = (s.resumeAt t.id m.1 m.2 (rttPos (t.thread m.1 m.2)), .moved) :=
    fun m hm s => State.rttThread_plain (handler m hm) 32
  have outs : ms.map (fun m => s.rttThread iss t 0 32 m) =
      ms.map fun m => (s.resumeAt t.id m.1 m.2 (rttPos (t.thread m.1 m.2)), .moved) :=
    List.map_congr_left fun m hm => each m hm s
  have quiet : (((ms.map fun m => (s.resumeAt t.id m.1 m.2 (rttPos (t.thread m.1 m.2)), LaneRes.moved)).find? (·.2.isTrap)).or
      ((ms.map fun m => (s.resumeAt t.id m.1 m.2 (rttPos (t.thread m.1 m.2)), LaneRes.moved)).find? (·.2.isStay))) = none := by
    simp [List.find?_map, LaneRes.isTrap, LaneRes.isStay]
  simp only [State.rttAll, outs, quiet]
  refine Prod.ext (List.foldl_ext _ _ s fun s m hm => ?_) rfl
  rw [each m hm s]

end

theorem rttAct_plain {iss : Issue} {s : State} {c : Ctx} (own : c.iss = iss)
    (handler : ∀ m ∈ c.all, (c.t.thread m.1 m.2).handler = true) :
    rttAct 0 iss s c = (c.all.foldl (fun s m => s.resumeAt c.t.id m.1 m.2 (rttPos (c.t.thread m.1 m.2))) s, .moved) := by
  subst own
  unfold rttAct
  by_cases scalar : c.iss.cls = 0
  · have all : c.all = (c.t.warp c.w).live.map fun l => (c.w, l) := if_pos scalar
    rw [if_pos scalar, ← all]
    exact State.rttAll_plain handler
  · have all : c.all = [(c.w, c.l)] := if_neg scalar
    rw [all] at handler ⊢
    rw [if_neg scalar]
    exact State.rttThread_plain (handler _ List.mem_cons_self) _

theorem State.resumeAt_thread {s : State} {t : Team} {w l : Nat} (found : s.team? t.id = some t)
    (live : (t.thread w l).exited = false) (pos : Pos) :
    ∃ t', (s.resumeAt t.id w l pos).team? t.id = some t' ∧ (t'.thread w l).handler = false ∧ (t'.thread w l).pos = pos ∧
      (t'.thread w l).wait = .none := by
  obtain ⟨hw, hl⟩ := Team.bounds_of_live live
  refine ⟨_, State.team?_updThread ((State.team?_of_teams (s.unbundle_teams t.id w l) _).trans found) w l _, ?_⟩
  rw [Team.thread_updThread hw hl]
  exact ⟨rfl, rfl, rfl⟩

theorem exec_illegalOpcode {s : State} {iss : Issue} {t : Team} (issue : s.issue = some iss) (found : s.team? iss.team = some t) :
    exec .illegalOpcode s = .next (iss.deliverTraps (((iss.actors t).flatMap (iss.lanes t)).map fun m => (m, 0x01, (0 : Word)))
      { s with issue := none }) := by
  have found' : ({ s with issue := none } : State).team? iss.team = some t := found
  have run : exec .illegalOpcode s = execIllegalOpcode s := rfl
  rw [run, execIllegalOpcode, withIssue_of issue]
  simp only [found']

/-- Settles O13: what RTT does in its threads (`rttAct_plain`, `State.rttThread_skips`, `State.rttThread_header`) moves them. -/
theorem illegalOpcodesTrapAndRttResumes : Obligations.IllegalOpcodesTrapAndRttResumes := by
  refine ⟨fun s iss t issue found => ?_, ⟨?_, fun form hdr raw r skips => ⟨?_, ?_⟩⟩, fun s t w l pos found live =>
    State.resumeAt_thread found live pos⟩
  · exact exec_illegalOpcode issue found
  · exact goes_of_moved (exec_rtt 0) fun iss c s own handler => rttAct_plain own handler
  all_goals
    have known : form.toNat = 1 ∨ form.toNat = 2 := by rcases skips with rfl | rfl <;> decide
    have two : (form.toNat == 2) = (form == 2) := by rcases skips with rfl | rfl <;> rfl
    refine goes_of_moved (exec_rtt form) fun iss c s own cond => ?_
    subst own
  · obtain ⟨vector, handler, kept, word, read⟩ := cond
    exact (if_neg vector).trans (two ▸ State.rttThread_skips (m := (c.w, c.l)) known handler kept word c.l read)
  · obtain ⟨vector, handler, header⟩ := cond
    rw [rttAct, if_neg vector, State.rttThread_header (by omega) handler header]

end Sys2Proof.Machine

namespace Sys2Proof.Machine

/-! ### Special registers as they are read (R90 to R94) -/

theorem State.readSr_high {id : Nat} (high : srHigh id = true) (s : State) (c : Ctx) : s.readSr c id = (s, c.th.latch) := by
  simp [State.readSr, high]

theorem State.readSr_low {id : Nat} (low : srLow id = true) (s : State) (c : Ctx) :
    s.readSr c id = (s.setLatch c (s.srPair c id), BitVec.ofNat 32 (s.srPair c id)) := by
  have plain : srHigh id = false := by
    simp only [srLow, List.contains_iff_mem, List.mem_cons, List.not_mem_nil, or_false] at low
    rcases low with rfl | rfl | rfl | rfl | rfl | rfl | rfl <;> rfl
  simp [State.readSr, plain, low]

theorem State.readSr_word {id : Nat} (high : srHigh id = false) (low : srLow id = false) (s : State) (c : Ctx) :
    s.readSr c id = (s, BitVec.ofNat 32 (s.srWord c id)) := by
  simp [State.readSr, high, low]

theorem State.readSr_threadSr (s : State) (c : Ctx) : ∀ x ∈ threadSr c.th, s.readSr c x.1 = (s, x.2) := by
  simp only [threadSr, List.forall_mem_cons, List.not_mem_nil, false_implies, implies_true, and_true]
  refine ⟨?_, ?_, ?_, ?_, ?_, ?_, ?_, ?_, ?_, ?_, ?_, ?_, ?_, ?_⟩
  all_goals
    rw [State.readSr_word rfl rfl]
    simp [State.srWord, apply_ite (BitVec.ofNat 32)]

/-- The low bits of a word, written to a register of that many bits and read back. -/
theorem ofNat_low (v : Word) (n : Nat) :
    BitVec.ofNat 32 (v.extractLsb' 0 n).toNat = v &&& (BitVec.allOnes n).setWidth 32 := by
  refine BitVec.eq_of_getLsbD_eq fun i hi => ?_
  simp only [BitVec.getLsbD_ofNat, BitVec.extractLsb'_toNat, Nat.shiftRight_zero, Nat.testBit_mod_two_pow, BitVec.testBit_toNat,
    BitVec.getLsbD_and, BitVec.getLsbD_setWidth, BitVec.getLsbD_allOnes, hi, decide_true, Bool.true_and, Bool.and_comm]

theorem bit_zero (v : Word) : (if v.getLsbD 0 then (1 : Word) else 0) = v &&& 1 := by
  rw [show v &&& 1 = if v.getLsbD 0 then 1 else 0 from BitVec.and_twoPow v 0]

/-- What is written to a register that a thread holds reads back, but for the bits that are not writable. -/
theorem Thread.setSr_threadSr (th : Thread) (v : Word) : ∀ x ∈ threadMask, (x.1, v &&& x.2) ∈ threadSr (th.setSr x.1 v) := by
  have low5 : v &&& 0x1F = BitVec.ofNat 32 (v.extractLsb' 0 5).toNat := (ofNat_low v 5).symm
  have low8 : v &&& 0xFF = BitVec.ofNat 32 (v.extractLsb' 0 8).toNat := (ofNat_low v 8).symm
  have low3 : v &&& 7 = BitVec.ofNat 32 (v.extractLsb' 0 3).toNat := (ofNat_low v 3).symm
  have low16 : v &&& 0xFFFF = BitVec.ofNat 32 (v.extractLsb' 0 16).toNat := (ofNat_low v 16).symm
  have low24 : v &&& 0xFFFFFF = BitVec.ofNat 32 (v.extractLsb' 0 24).toNat := (ofNat_low v 24).symm
  have whole : v &&& 0xFFFFFFFF = v := BitVec.and_allOnes
  simp only [threadMask, List.forall_mem_cons, List.not_mem_nil, false_implies, implies_true, and_true]
  rw [low5, low8, low3, ← bit_zero, whole, low16, low24]
  simp [threadSr, Thread.setSr]

theorem State.setLatch_team? {s : State} {c : Ctx} (vector : c.iss.cls ≠ 0) (found : s.team? c.t.id = some c.t) (x : Nat) :
    (s.setLatch c x).team? c.t.id = some (c.t.updThread c.w c.l fun th => { th with latch := BitVec.ofNat 32 (x / 2 ^ 32) }) := by
  rw [State.setLatch, Issue.lanes_of_vector vector, List.foldl_cons, List.foldl_nil]
  exact State.team?_updThread found c.w c.l _

theorem srHigh_of_srLow {id : Nat} (low : srLow id = true) : srHigh (id + 1) = true := by
  simp only [srLow, List.contains_iff_mem, List.mem_cons, List.not_mem_nil, or_false] at low
  rcases low with rfl | rfl | rfl | rfl | rfl | rfl | rfl <;> rfl

theorem pairReadsLatchTheHighHalf : PairReadsLatchTheHighHalf := by
  intro s c id low vector found live
  obtain ⟨hw, hl⟩ := Team.bounds_of_live live
  rw [State.readSr_low low]
  refine ⟨_, State.setLatch_team? vector found _, rfl, ?_⟩
  rw [State.readSr_high (srHigh_of_srLow low)]
  exact congrArg Thread.latch (Team.thread_updThread hw hl _)

theorem specialRegistersReadTheirState : SpecialRegistersReadTheirState :=
  fun s c => ⟨s.readSr_threadSr c, fun x hx v => c.th.setSr_threadSr v x hx, rfl, rfl, rfl, rfl, rfl, rfl, rfl, rfl⟩

/-- Settles O46: a thread's registers read as they stand, and a pair's low half latches the high one. -/
theorem specialRegistersReadAndLatch : Obligations.SpecialRegistersReadAndLatch :=
  ⟨specialRegistersReadTheirState, pairReadsLatchTheHighHalf⟩

end Sys2Proof.Machine

namespace Sys2Proof.Machine

/-! ### SPRW (R90 to R94, R385) -/

/-- The register that SPRW names, read by a write and written by a read. -/
def sprwOpnd (wr : Bool) (reg : BitVec 7) (iss : Issue) : Opnd :=
  if wr then (iss.reg reg.toNat).src none else (iss.reg reg.toNat).dst

theorem exec_sprw_read (reg : BitVec 7) (id : BitVec 8) (s : State) : exec (.sprw 0 reg id) s = withIssue s fun iss =>
    (sprwForm false reg id iss).perform iss (noValue iss) (sprwAct false (sprwOpnd false reg iss) id.toNat) := rfl

theorem exec_sprw_write (reg : BitVec 7) (id : BitVec 8) (s : State) : exec (.sprw 1 reg id) s = withIssue s fun iss =>
    (sprwForm true reg id iss).perform iss (fun c => srBad c id.toNat (c.rd ((iss.reg reg.toNat).src none)).toNat)
      (sprwAct true (sprwOpnd true reg iss) id.toNat) := rfl

theorem State.writeGate_none {s : State} {c : Ctx} (settled : s.loadsSettled c.t.id c.w c.own = true)
    (free : s.acquiring c.t.id c.w c.own = false) (scope : Nat) : s.writeGate c 0 scope = none := by
  simp [State.writeGate, State.memGate, settled, free]

theorem sprwAct_off {o : Opnd} {id : Nat} {s : State} {c : Ctx} (off : isOffWrite id (c.rd o) = true) :
    sprwAct true o id s c = (s.offWrite c (c.rd o), .moved) := by
  simp [sprwAct, off]

theorem sprwAct_write {o : Opnd} {id : Nat} {s : State} {c : Ctx} (plain : isOffWrite id (c.rd o) = false)
    (gate : id = 0x28 → s.writeGate c 0 0 = none) : sprwAct true o id s c = (s.writeSr c id (c.rd o), .done) := by
  by_cases pop : id = 0x28
  · simp only [sprwAct, plain, if_pos pop, gate pop, if_true, Bool.false_eq_true, if_false]
  · simp [sprwAct, plain, pop]

theorem State.popSf_team? {s : State} {t : Team} {r : SfRecord} {rs : List SfRecord} (found : s.team? t.id = some t)
    (queue : t.sfq = r :: rs) (d : Nat) : ∃ t', (s.popSf t.id d).team? t.id = some t' ∧ t'.sfq = rs ∧
      t'.owed = (if r.delivered then t.owed else t.owed ++ [r]) ∧
      t'.scratch = Memory.writeBytes t.scratch d (t.mask d (r.bytes t.index)) := by
  have popped := State.team?_updTeam_self found
    (fun t => { t with sfq := rs, owed := if r.delivered then t.owed else t.owed ++ [r] }) fun _ => rfl
  simp only [State.popSf, found, queue]
  refine ⟨_, State.team?_updTeam_self popped _ ?_, ?_⟩
  · exact fun _ => rfl
  · exact ⟨rfl, rfl, rfl⟩

/-- Settles O14: what SPRW does in its thread (`sprwAct_write`, `sprwAct_off`), and the pop of the store-fault queue. -/
theorem sprwReadsAndWrites : Obligations.SprwReadsAndWrites := by
  refine fun reg id => ⟨?_, ?_, ?_, fun s c r rs found queue d _ => State.popSf_team? found queue d⟩
  · refine effects_of_done (exec_sprw_read reg id) fun iss c s own _ _ => ?_
    subst own
    exact ⟨rfl, rfl⟩
  · refine effects_of_done (exec_sprw_write reg id) fun iss c s own _ ⟨plain, free⟩ => ?_
    subst own
    have act := sprwAct_write (o := sprwOpnd true reg c.iss) plain fun pop =>
      have ⟨settled, idle⟩ := free (BitVec.eq_of_toNat_eq pop)
      State.writeGate_none settled idle 0
    rw [act]
    exact ⟨rfl, rfl⟩
  · refine goes_of_moved (exec_sprw_write reg id) fun iss c s own off => ?_
    subst own
    exact sprwAct_off off

end Sys2Proof.Machine

namespace Sys2Proof.Machine

/-! ### A fill of a line of this chip (R201, R202, R272, R458) -/

/-- The home's watermark covers the lease of a copy that may be cached. -/
def State.leases (s : State) (m : Miss) : State :=
  if m.cls != 2 && !m.ldk then s.raiseMark m.key (s.time + leaseNs m.lclass) else s

/-- The home once it has granted a copy of the sector. -/
def State.grants (s : State) (m : Miss) : State := { s.leases m with sysCache := (s.leases m).useLines false m.key 64 }

/-- The copy that the home gives of the sector, seen through the core's path. -/
def State.copyOf (s : State) (m : Miss) (cl co : Nat) : Sector :=
  { key := m.key, data := s.readPath cl co { home := .own, pa := m.key } 64, grant := s.time
    expiry := some (s.time + leaseNs m.lclass), used := s.nextId, cls := m.cls, slot := m.slot
    bad := [m.key, m.key + 32].filter fun g => s.badGranules.contains g && !s.covered cl co g }

theorem State.grants_keeps (s : State) (m : Miss) : (s.grants m).mem = s.mem ∧ (s.grants m).loads = s.loads ∧
    (s.grants m).stores = s.stores ∧ (s.grants m).clusters = s.clusters ∧ (s.grants m).queues = s.queues := by
  unfold State.grants State.leases
  split <;> exact ⟨rfl, rfl, rfl, rfl, rfl⟩

theorem State.readPath_of_keeps {s s' : State} (mem : s'.mem = s.mem) (stores : s'.stores = s.stores) (queues : s'.queues = s.queues)
    (cl co : Nat) (x : Xlat) (n : Nat) : s'.readPath cl co x n = s.readPath cl co x n := by
  simp only [State.readPath, State.homeBytes, State.throughPath, State.doorbellByte, mem, stores, queues]

theorem State.grant_own {m : Miss} (own : m.home = .own) (s : State) (cl co tacq : Nat) :
    s.grant m cl co tacq = (s.grants m, s.copyOf m cl co) := by
  obtain ⟨mem, -, stores, -, queues⟩ := s.grants_keeps m
  have line := State.readPath_of_keeps mem stores queues cl co { home := .own, pa := m.key } 64
  simp only [State.copyOf, ← line]
  simp [State.grant, own, Home.key, State.grants, State.leases]

/-- The copy with the miss's policy, as it enters the L1. -/
def State.filled (s : State) (m : Miss) (cl co : Nat) : Sector :=
  { s.copyOf m cl co with expiry := if m.ldk then none else (s.copyOf m cl co).expiry }

/-- A load that waits for the miss. -/
def Miss.waiting (m : Miss) (cl co : Nat) (o : LoadOp) : Bool :=
  o.cl == cl && o.co == co && o.st == .missed && sectorKey o.xl.key == m.key

/-- What a load that waited takes from the copy. -/
def LoadOp.takes (o : LoadOp) (y : Sector) : LoadOp := o.bind ((y.data.drop (o.xl.key - y.key)).take o.bytes) (y.badAt o.xl.key o.bytes)

/-- The L1 once the copy has come. -/
def Core.fills (k : Core) (dirty : Nat → Bool) (m : Miss) (y : Sector) : Core :=
  if m.cls == 2 then { k with l1 := k.l1.filter fun (z : Sector) => z.key != m.key || z.data == y.data }
  else k.insert dirty (if m.cls == 1 then { y with used := 0 } else y)

/-- The state in which the loads that wait bind. -/
def State.stored (s : State) (cl co : Nat) (m : Miss) : State :=
  (s.grants m).updCore cl co fun k => k.fills ((s.grants m).dirtyLine cl co) m (s.filled m cl co)

/-- The state once they have bound. -/
def State.answered (s : State) (cl co : Nat) (m : Miss) : State :=
  { s.stored cl co m with
    loads := (s.stored cl co m).bindWaiting (m.waiting cl co) (·.takes (s.filled m cl co)) [] (s.stored cl co m).loads }

theorem State.fill_own {m : Miss} (own : m.home = .own) (s : State) (cl co : Nat) : s.fill cl co m =
    if (s.answered cl co m).loads.any (m.waiting cl co) then s.answered cl co m
    else (s.answered cl co m).updCore cl co fun k => { k with misses := k.misses.erase m } := by
  unfold State.fill
  simp only [own, Bool.false_eq_true, if_false, State.grant_own own]
  rfl

/-! #### What the core keeps, and the copy in its L1 -/

theorem Core.insert_misses (k : Core) (dirty : Nat → Bool) (y : Sector) : (k.insert dirty y).misses = k.misses := by
  simp only [Core.insert]
  split
  · rfl
  · split <;> rfl

theorem Core.fills_misses (k : Core) (dirty : Nat → Bool) (m : Miss) (y : Sector) : (k.fills dirty m y).misses = k.misses := by
  unfold Core.fills
  split
  · rfl
  · exact k.insert_misses dirty _

theorem Core.mem_insert_of_room {k : Core} {y : Sector}
    (room : ((k.l1.filter fun z => z.key ≠ y.key ∧ setOf z.key = setOf y.key).map fun z => z.key / 128).eraseDups.length < 16)
    (dirty : Nat → Bool) : y ∈ (k.insert dirty y).l1 := by
  have lines : ((k.l1.filter fun z => z.key != y.key).filter fun z => setOf z.key == setOf y.key) =
      k.l1.filter fun z => z.key ≠ y.key ∧ setOf z.key = setOf y.key := by
    rw [List.filter_filter]
    refine List.filter_congr fun z _ => ?_
    rw [Bool.eq_iff_iff]
    simp [and_comm]
  simp only [Core.insert, lines, room, decide_true, Bool.or_true, if_true]
  exact List.mem_cons_self

theorem Core.fills_of_room {k : Core} {m : Miss} {y : Sector} (key : y.key = m.key) (cached : m.cls ≠ 2)
    (room : ((k.l1.filter fun z => z.key ≠ m.key ∧ setOf z.key = setOf m.key).map fun z => z.key / 128).eraseDups.length < 16)
    (dirty : Nat → Bool) : ∃ z ∈ (k.fills dirty m y).l1, z.key = y.key ∧ z.data = y.data ∧ z.grant = y.grant ∧ z.expiry = y.expiry := by
  rw [← key] at room
  simp only [Core.fills, beq_iff_eq, cached, if_false]
  split
  · exact ⟨{ y with used := 0 }, Core.mem_insert_of_room (y := { y with used := 0 }) room dirty, rfl, rfl, rfl, rfl⟩
  · exact ⟨y, Core.mem_insert_of_room room dirty, rfl, rfl, rfl, rfl⟩

theorem State.answered_core {s : State} {cl co : Nat} (hcl : cl < s.clusters.length) (hco : co < (s.cluster cl).cores.length)
    (m : Miss) : (s.answered cl co m).core cl co =
      (s.core cl co).fills ((s.grants m).dirtyLine cl co) m (s.filled m cl co) := by
  obtain ⟨-, -, -, clusters, -⟩ := s.grants_keeps m
  have cluster : (s.grants m).cluster cl = s.cluster cl := by simp only [State.cluster, clusters]
  have core : (s.grants m).core cl co = s.core cl co := by simp only [State.core, cluster]
  rw [← core]
  exact State.core_updCore_of_lt (by rw [clusters]; exact hcl) (by rw [cluster]; exact hco) _

theorem State.answered_clusters_length (s : State) (cl co : Nat) (m : Miss) :
    (s.answered cl co m).clusters.length = s.clusters.length := by
  obtain ⟨-, -, -, clusters, -⟩ := s.grants_keeps m
  exact (updAt_length _ _ _).trans (congrArg _ clusters)

theorem State.answered_cores_length (s : State) (cl co : Nat) (m : Miss) :
    ((s.answered cl co m).cluster cl).cores.length = (s.cluster cl).cores.length := by
  obtain ⟨-, -, -, clusters, -⟩ := s.grants_keeps m
  have same : (s.answered cl co m).cluster cl = (s.stored cl co m).cluster cl := rfl
  rw [same, State.stored, State.updCore, State.cluster_updCluster_of (fun c => c.cores.length) fun c => updAt_length _ _ _]
  simp only [State.cluster, clusters]

/-! #### The loads that wait -/

theorem Miss.awaited_iff (m : Miss) (s : State) (cl co : Nat) (o : LoadOp) :
    m.awaited s cl co o ↔ o ∈ s.loads ∧ m.waiting cl co o = true := by
  simp [Miss.awaited, Miss.waiting, and_assoc]

/-- Loads that bind first hold no later load back. -/
theorem State.mayBind_of_bound {s s' : State} {o : LoadOp} (may : s.mayBind o = true) (stores : s'.stores = s.stores)
    (loads : ∀ x ∈ s'.loads, x ∈ s.loads ∨ x.bound? = true) : s'.mayBind o = true := by
  simp only [State.mayBind, Bool.and_eq_true, Bool.not_eq_true', List.any_eq_false] at may ⊢
  refine ⟨fun x hx => may.1 x (stores ▸ hx), fun x hx => ?_⟩
  rcases loads x hx with old | bound
  · exact may.2 x old
  · simp [bound]

theorem State.mem_bindWaiting_of_done {s : State} {waits : LoadOp → Bool} {bind : LoadOp → LoadOp} {o : LoadOp}
    (rest : List LoadOp) {done : List LoadOp} (h : o ∈ done) : o ∈ s.bindWaiting waits bind done rest := by
  induction rest generalizing done with
  | nil => exact h
  | cons x rest ih => exact ih (List.mem_append_left _ h)

/-- A load that waits and may bind does, among the loads that have bound before it. -/
theorem State.mem_bindWaiting {s s0 : State} {waits : LoadOp → Bool} {bind : LoadOp → LoadOp} {o : LoadOp} (waiting : waits o = true)
    (may : s0.mayBind o = true) (stores : s.stores = s0.stores) (bound : ∀ x, (bind x).bound? = true) {rest : List LoadOp}
    {done : List LoadOp} (before : ∀ x ∈ done, x ∈ s0.loads ∨ x.bound? = true) (after : ∀ x ∈ rest, x ∈ s0.loads) (ho : o ∈ rest) :
    bind o ∈ s.bindWaiting waits bind done rest := by
  induction rest generalizing done with
  | nil => cases ho
  | cons x rest ih =>
    have all : ∀ z ∈ done ++ x :: rest, z ∈ s0.loads ∨ z.bound? = true := fun z hz =>
      (List.mem_append.mp hz).elim (before z) fun h => .inl (after z h)
    simp only [State.bindWaiting]
    rcases List.mem_cons.mp ho with rfl | later
    · have now : ({ s with loads := done ++ o :: rest } : State).mayBind o = true := State.mayBind_of_bound may stores all
      refine State.mem_bindWaiting_of_done rest ?_
      simp [waiting, now]
    · refine ih (fun z hz => ?_) (fun z hz => after z (List.mem_cons_of_mem x hz)) later
      rcases List.mem_append.mp hz with old | new
      · exact before z old
      · obtain rfl := List.mem_singleton.mp new
        split
        · exact .inr (bound x)
        · exact .inl (after x List.mem_cons_self)

theorem State.answered_binds {s : State} {cl co : Nat} {m : Miss} {o : LoadOp} (awaited : m.awaited s cl co o)
    (may : s.mayBind o = true) : o.takes (s.filled m cl co) ∈ (s.answered cl co m).loads := by
  obtain ⟨-, loads, stores, -, -⟩ := s.grants_keeps m
  obtain ⟨ho, waiting⟩ := (m.awaited_iff s cl co o).mp awaited
  have same : (s.stored cl co m).loads = s.loads := loads
  exact State.mem_bindWaiting (s := s.stored cl co m) (bind := fun o => o.takes (s.filled m cl co)) waiting may (s0 := s) stores (fun _ => rfl)
    (fun _ h => absurd h List.not_mem_nil) (fun x hx => same ▸ hx) (same ▸ ho)

/-- The watermark of the line covers the lease of the copy. -/
theorem State.answered_watermark {s : State} {cl co : Nat} {m : Miss} (cached : m.cls ≠ 2) (ldk : m.ldk = false) :
    s.time + leaseNs m.lclass ≤ (s.answered cl co m).watermark m.key := by
  have marks : (s.answered cl co m).watermark m.key = (s.leases m).watermark m.key := rfl
  rw [marks, State.leases]
  simp [cached, ldk, State.raiseMark, State.watermark]

theorem exec_fillReturn {s : State} {m : Miss} (found : s.thisCore.misses.find? (fun x => x.key == s.target.addr) = some m) :
    exec .fillReturn s = .next (s.fill s.target.cl s.target.co m) := by
  have run : exec .fillReturn s = execFillReturn s := rfl
  have there : (s.core s.target.cl s.target.co).misses.find? (fun x => x.key == s.target.addr) = some m := found
  rw [run, execFillReturn, there]

theorem State.fill_keeps {m : Miss} (own : m.home = .own) (s : State) (cl co : Nat) : (s.fill cl co m).mem = s.mem ∧
    (s.fill cl co m).loads = (s.answered cl co m).loads ∧
    (s.fill cl co m).watermark m.key = (s.answered cl co m).watermark m.key := by
  obtain ⟨mem, -⟩ := s.grants_keeps m
  rw [State.fill_own own]
  split <;> exact ⟨mem, rfl, rfl⟩

/-- The core after a fill: the copy, and the entry gone once no load waits for it. -/
theorem State.fill_core {s : State} {cl co : Nat} {m : Miss} (own : m.home = .own) (hcl : cl < s.clusters.length)
    (hco : co < (s.cluster cl).cores.length) :
    ((s.fill cl co m).core cl co).l1 = ((s.core cl co).fills ((s.grants m).dirtyLine cl co) m (s.filled m cl co)).l1 ∧
    ((s.fill cl co m).core cl co).misses =
      if (s.fill cl co m).loads.any (m.waiting cl co) then (s.core cl co).misses else (s.core cl co).misses.erase m := by
  obtain ⟨-, loads, -⟩ := s.fill_keeps own cl co
  have core := State.answered_core hcl hco m
  rw [loads, State.fill_own own]
  split
  · rw [core]
    exact ⟨rfl, Core.fills_misses _ _ _ _⟩
  · have hcl' : cl < (s.answered cl co m).clusters.length := s.answered_clusters_length cl co m ▸ hcl
    rw [State.core_updCore_of_lt hcl' (s.answered_cores_length cl co m ▸ hco), core]
    exact ⟨rfl, congrArg (·.erase m) (Core.fills_misses _ _ _ _)⟩

/-- What a fill of a line of this chip leaves. -/
theorem fillsAnswerTheLoads : FillsAnswerTheLoads := by
  refine fun m s ⟨hcl, hco, found, own⟩ => ⟨_, exec_fillReturn found, ?_⟩
  obtain ⟨mem, loads, watermark⟩ := s.fill_keeps own s.target.cl s.target.co
  obtain ⟨l1, misses⟩ := State.fill_core own hcl hco
  refine ⟨mem, fun free => ?_, fun ⟨o, waits⟩ => ?_, fun o waits may => ?_, fun cached room => ?_⟩
  · refine misses.trans (if_neg fun waits => ?_)
    obtain ⟨o, ho, waiting⟩ := List.any_eq_true.mp waits
    exact free o ((m.awaited_iff _ _ _ o).mpr ⟨ho, waiting⟩)
  · exact misses.trans (if_pos (List.any_eq_true.mpr ⟨o, (m.awaited_iff _ _ _ o).mp waits⟩))
  · rw [loads]
    have binds := State.answered_binds waits may
    have bad : (s.filled m s.target.cl s.target.co).badAt o.xl.key o.bytes = [m.key, m.key + 32].any fun g =>
        s.badGranules.contains g && !s.covered s.target.cl s.target.co g && overlap g 32 o.xl.key o.bytes := List.any_filter
    rw [LoadOp.takes, bad] at binds
    exact binds
  · obtain ⟨z, hz, key, data, grant, expiry⟩ := Core.fills_of_room (k := s.thisCore)
      (y := s.filled m s.target.cl s.target.co) rfl cached room ((s.grants m).dirtyLine s.target.cl s.target.co)
    refine ⟨z, l1 ▸ hz, key, data, grant, fun ldk => ⟨expiry.trans ?_, ?_⟩⟩
    · simp [State.filled, ldk, State.copyOf]
    · rw [watermark]
      exact State.answered_watermark cached ldk

end Sys2Proof.Machine

namespace Sys2Proof.Machine

/-! ### Write-backs (R86, R236)

A write-back sets the registers of its group that it has words for, then marks every register of the group full. -/

theorem updAt_getElem? {α : Type} (l : List α) (i j : Nat) (f : α → α) :
    (updAt l i f)[j]? = if i = j then l[j]?.map f else l[j]? := by
  induction l generalizing i j with
  | nil => simp [updAt]
  | cons h t ih => cases i <;> cases j <;> simp [updAt, ih]

theorem foldl_updAt_getElem? {α : Type} (f : α → α) (n j : Nat) (v : List α) (cnt : Nat) :
    ((List.range cnt).foldl (fun v k => updAt v (n + k) f) v)[j]? = if n ≤ j ∧ j < n + cnt then v[j]?.map f else v[j]? := by
  induction cnt with
  | zero => simp [show ¬(n ≤ j ∧ j < n) by omega]
  | succ cnt ih =>
    rw [List.range_succ, List.foldl_append, List.foldl_cons, List.foldl_nil, updAt_getElem?, ih]
    by_cases last : n + cnt = j
    · simp [← last]
    · have same : (n ≤ j ∧ j < n + (cnt + 1)) ↔ n ≤ j ∧ j < n + cnt := by omega
      simp [last, same]

theorem foldl_setAt_getElem? {α β : Type} (f : α → β) (n j : Nat) (ws : List α) (k : Nat) (v : List β) :
    ((ws.zipIdx k).foldl (fun v x => setAt v (n + x.2) (f x.1)) v)[j]? =
      if n + k ≤ j ∧ j < n + k + ws.length then v[j]?.bind fun _ => ws[j - (n + k)]?.map f else v[j]? := by
  induction ws generalizing k v with
  | nil => simp [show ¬(n + k ≤ j ∧ j < n + k) by omega]
  | cons w ws ih =>
    rw [List.zipIdx_cons, List.foldl_cons, ih, setAt_getElem?]
    rcases Nat.lt_trichotomy j (n + k) with below | rfl | above
    · simp [show ¬n + (k + 1) ≤ j by omega, show ¬n + k ≤ j by omega, show n + k ≠ j by omega]
    · by_cases there : n + k < v.length
      · simp [show ¬n + (k + 1) ≤ n + k by omega, there]
      · simp [show ¬n + (k + 1) ≤ n + k by omega, there]
    · have next : j - (n + k) = j - (n + (k + 1)) + 1 := by omega
      have same : (n + k ≤ j ∧ j < n + k + (ws.length + 1)) ↔ n + (k + 1) ≤ j ∧ j < n + (k + 1) + ws.length := by omega
      simp [show n + k ≠ j by omega, next, same]

section
variable {wp : Warp} {l : Nat}

/-- The register that a word of a write-back makes in lane `l`. -/
def Warp.landed (wp : Warp) (l : Nat) (x : Word × Tag) : Reg :=
  { val := x.1, tag := x.2, full := true, signed := (wp.thread l).ab.region == .opened || wp.ab.region == .opened }

theorem Warp.foldl_setCell_vec (n : Nat) (xs : List ((Word × Tag) × Nat)) (hl : l < wp.threads.length) :
    let wp' := xs.foldl (fun wp x => wp.setCell l .vec (n + x.2) x.1.1 x.1.2) wp
    wp'.threads.length = wp.threads.length ∧ wp'.ab = wp.ab ∧ wp'.thread l =
      { wp.thread l with v := xs.foldl (fun v x => setAt v (n + x.2) (wp.landed l x.1)) (wp.thread l).v } := by
  induction xs generalizing wp with
  | nil => exact ⟨rfl, rfl, rfl⟩
  | cons x xs ih =>
    have one : (wp.setCell l .vec (n + x.2) x.1.1 x.1.2).thread l =
        { wp.thread l with v := setAt (wp.thread l).v (n + x.2) (wp.landed l x.1) } := Warp.thread_updThread hl _
    have length := wp.setCell_threads_length l .vec (n + x.2) x.1.1 x.1.2
    obtain ⟨length', ab, thread⟩ := ih (wp := wp.setCell l .vec (n + x.2) x.1.1 x.1.2) (length ▸ hl)
    refine ⟨length'.trans length, ab, thread.trans ?_⟩
    have reg : (wp.setCell l .vec (n + x.2) x.1.1 x.1.2).landed l = wp.landed l := by
      funext y
      simp only [Warp.landed, one]
      rfl
    rw [one, reg]
    rfl

theorem Warp.foldl_fillCell_vec (n : Nat) (ks : List Nat) (hl : l < wp.threads.length) :
    let wp' := ks.foldl (fun wp k => wp.fillCell l .vec (n + k)) wp
    wp'.threads.length = wp.threads.length ∧ wp'.thread l =
      { wp.thread l with v := ks.foldl (fun v k => updAt v (n + k) fun r => { r with full := true }) (wp.thread l).v } := by
  induction ks generalizing wp with
  | nil => exact ⟨rfl, rfl⟩
  | cons k ks ih =>
    have length : (wp.fillCell l .vec (n + k)).threads.length = wp.threads.length := updAt_length _ _ _
    have one : (wp.fillCell l .vec (n + k)).thread l =
        { wp.thread l with v := updAt (wp.thread l).v (n + k) fun r => { r with full := true } } := Warp.thread_updThread hl _
    obtain ⟨length', thread⟩ := ih (wp := wp.fillCell l .vec (n + k)) (length ▸ hl)
    refine ⟨length'.trans length, thread.trans ?_⟩
    rw [one]
    rfl

/-- The predicate of a probe leaves the rest of its thread. -/
theorem Warp.setCell_pred_thread (hl : l < wp.threads.length) (n : Nat) (v : Word) (g : Tag) :
    ∃ p, (wp.setCell l .pred n v g).thread l = { wp.thread l with p := p } := by
  by_cases seven : n = 7
  · subst seven
    exact ⟨(wp.thread l).p, rfl⟩
  · have write : wp.setCell l .pred n v g = wp.updThread l _ := if_neg seven
    rw [write, Warp.thread_updThread hl]
    exact ⟨_, rfl⟩

theorem Warp.fillCell_pred_thread (hl : l < wp.threads.length) (n : Nat) :
    ∃ p, (wp.fillCell l .pred n).thread l = { wp.thread l with p := p } :=
  ⟨_, Warp.thread_updThread hl _⟩

/-- The registers of a thread once a write-back has landed. -/
def Warp.landedRegs (wp : Warp) (d : Dest) (ws : List (Word × Tag)) : List Reg :=
  (List.range d.cnt).foldl (fun v k => updAt v (d.n + k) fun r => { r with full := true })
    (ws.zipIdx.foldl (fun v x => setAt v (d.n + x.2) (wp.landed d.lane x.1)) (wp.thread d.lane).v)

theorem Warp.landGroup_thread {d : Dest} (lane : d.lane < 32) (hl : d.lane < wp.threads.length) (ws : List (Word × Tag))
    (pv : Option Bool) : ∃ p, (wp.landGroup d ws pv).thread d.lane = { wp.thread d.lane with v := wp.landedRegs d ws, p := p } := by
  have vec : d.opnd.file = .vec := if_neg (by omega)
  have pred (p : Nat) : (d.pred p).file = .pred := if_neg (by omega)
  obtain ⟨length, -, set⟩ := Warp.foldl_setCell_vec d.n ws.zipIdx hl
  obtain ⟨length', fill⟩ := Warp.foldl_fillCell_vec d.n (List.range d.cnt) (length ▸ hl)
  simp only [Warp.landGroup, vec, pred, Warp.setGroup]
  have group := fill.trans (congrArg (fun th : Thread => { th with
    v := (List.range d.cnt).foldl (fun v k => updAt v (d.n + k) fun r => { r with full := true }) th.v }) set)
  rw [length] at length'
  split
  · exact ⟨_, group⟩
  · split
    · obtain ⟨p, same⟩ := Warp.setCell_pred_thread (length' ▸ hl) _ _ _
      exact ⟨p, same.trans (congrArg (fun th : Thread => { th with p := p }) group)⟩
    · obtain ⟨p, same⟩ := Warp.fillCell_pred_thread (length' ▸ hl) _
      exact ⟨p, same.trans (congrArg (fun th : Thread => { th with p := p }) group)⟩

end

end Sys2Proof.Machine

namespace Sys2Proof.Machine

section
variable {s : State} {tm w l : Nat}

theorem State.team_of_live (live : (s.thread tm w l).exited = false) :
    ∃ t, s.team? tm = some t ∧ w < t.warps.length ∧ l < (t.warp w).threads.length := by
  cases found : s.team? tm with
  | none =>
    simp only [State.thread, found, Option.map_none, Option.getD_none] at live
    cases live
  | some t =>
    rw [State.thread_of_team? found] at live
    obtain ⟨hw, hl⟩ := Team.bounds_of_live live
    exact ⟨t, rfl, hw, hl⟩

theorem State.thread_updWarp_of_live (live : (s.thread tm w l).exited = false) (f : Warp → Warp) :
    (s.updWarp tm w f).thread tm w l = (f (s.warp tm w)).thread l := by
  obtain ⟨t, found, hw, -⟩ := State.team_of_live live
  rw [State.thread_of_team? (State.team?_updWarp found w f), Team.thread, Team.warp_updWarp hw, State.warp, found]
  rfl

theorem State.thread_updThread_of_live (live : (s.thread tm w l).exited = false) (f : Thread → Thread) :
    (s.updThread tm w l f).thread tm w l = f (s.thread tm w l) := by
  obtain ⟨t, found, hw, hl⟩ := State.team_of_live live
  rw [State.thread_of_team? (State.team?_updThread found w l f), State.thread_of_team? found, Team.thread_updThread hw hl]

theorem State.acquire_lane (lane : l ≠ 32) :
    s.acquire tm w l = s.updThread tm w l fun th => { th with tacq := max th.tacq s.time } := by
  rw [State.acquire, State.lanesOf, if_neg lane]
  rfl

end

theorem Warp.landedRegs_getElem? (wp : Warp) (d : Dest) (ws : List (Word × Tag)) (k : Nat) (hk : k < d.cnt) :
    (wp.landedRegs d ws)[d.n + k]? = (wp.thread d.lane).v[d.n + k]?.bind fun r =>
      some { (ws[k]?.map (wp.landed d.lane)).getD r with full := true } := by
  rw [Warp.landedRegs, foldl_updAt_getElem?, if_pos (by omega), foldl_setAt_getElem?]
  cases reg : (wp.thread d.lane).v[d.n + k]? with
  | none => simp
  | some r =>
    by_cases brought : k < ws.length
    · rw [if_pos (by omega)]
      simp [brought]
    · rw [if_neg (by omega)]
      simp [List.getElem?_eq_none (Nat.not_lt.mp brought)]

theorem Warp.landedRegs_outside (wp : Warp) (d : Dest) (ws : List (Word × Tag)) {n : Nat}
    (out : n < d.n ∨ d.n + max d.cnt ws.length ≤ n) : (wp.landedRegs d ws)[n]? = (wp.thread d.lane).v[n]? := by
  rw [Warp.landedRegs, foldl_updAt_getElem?, if_neg (by omega), foldl_setAt_getElem?, if_neg (by omega)]

section
variable {s : State} {o : LoadOp} {ws : List (Word × Tag)} {pv : Option Bool}

theorem State.mem_dropLoad {id : Nat} (x : LoadOp) : x ∈ (s.dropLoad id).loads ↔ x ∈ s.loads ∧ x.id ≠ id := by
  simp [State.dropLoad]

/-- A load that still takes its data writes its registers, and its acquire takes effect. -/
theorem State.landLoad_taken (taken : o.taken s) : s.landLoad o ws pv =
    let s' := (s.dropLoad o.id).updWarp o.dst.team o.dst.warp fun wp => wp.landGroup o.dst ws pv
    match o.acq with
    | some (_ + 1) => s'.updThread o.dst.team o.dst.warp o.dst.lane fun th => { th with tacq := max th.tacq s.time }
    | _ => s' := by
  obtain ⟨kept, lane, live⟩ := taken
  have live' : ((s.dropLoad o.id).thread o.dst.team o.dst.warp o.dst.lane).exited = false := live
  have lane' : o.dst.lane ≠ 32 := by omega
  simp only [State.landLoad, kept, lane', live', if_false, Bool.not_false, Bool.not_true, Bool.or_self, Bool.false_eq_true,
    State.acquire_lane lane']
  rfl

theorem State.landLoad_dropped (dropped : o.dropped = true) :
    s.landLoad o ws pv = (s.dropLoad o.id).releaseSlot o.dst.team o.dst.warp := by
  simp [State.landLoad, dropped]

theorem exec_loadWriteback (here : s.loadIs o) (plain : o.refill = none) (bound : o.st = .bound ws pv) :
    exec .loadWriteback s = .next (s.landLoad o ws pv) := by
  have run : exec .loadWriteback s = execLoadWriteback s := rfl
  simp only [State.loadIs] at here
  simp [run, execLoadWriteback, here, plain, State.loadStep, bound]

theorem exec_refillLand {e : Nat} (here : s.loadIs o) (refill : o.refill = some e) (bound : o.st = .bound ws pv) :
    exec .refillLand s = .next (s.landRefill o ws) := by
  have run : exec .refillLand s = execRefillLand s := rfl
  simp only [State.loadIs] at here
  simp [run, execRefillLand, here, refill, State.loadStep, bound]

/-- The thread of a load that has landed. -/
theorem State.landLoad_thread (taken : o.taken s) :
    ∃ p, (s.landLoad o ws pv).thread o.dst.team o.dst.warp o.dst.lane =
      { s.thread o.dst.team o.dst.warp o.dst.lane with
        v := (s.warp o.dst.team o.dst.warp).landedRegs o.dst ws
        p := p
        tacq := match o.acq with
          | some (_ + 1) => max (s.thread o.dst.team o.dst.warp o.dst.lane).tacq s.time
          | _ => (s.thread o.dst.team o.dst.warp o.dst.lane).tacq } := by
  rw [State.landLoad_taken taken]
  obtain ⟨-, lane, live⟩ := taken
  obtain ⟨t, found, -, hl⟩ := State.team_of_live live
  have warp : s.warp o.dst.team o.dst.warp = t.warp o.dst.warp := by rw [State.warp, found]; rfl
  have thread : s.thread o.dst.team o.dst.warp o.dst.lane = (s.warp o.dst.team o.dst.warp).thread o.dst.lane :=
    (State.thread_of_team? found _ _).trans (by rw [warp]; rfl)
  obtain ⟨p, group⟩ := Warp.landGroup_thread lane (warp ▸ hl) ws pv
  have live' : ((s.dropLoad o.id).thread o.dst.team o.dst.warp o.dst.lane).exited = false := live
  have landed := (State.thread_updWarp_of_live live' fun wp => wp.landGroup o.dst ws pv).trans group
  rw [← thread] at landed
  refine ⟨p, ?_⟩
  split
  · rw [State.thread_updThread_of_live (by rw [landed]; exact live), landed]
  · exact landed

theorem State.landLoad_keeps (taken : o.taken s) :
    (s.landLoad o ws pv).mem = s.mem ∧ (s.landLoad o ws pv).loads = (s.dropLoad o.id).loads := by
  rw [State.landLoad_taken taken]
  split <;> exact ⟨rfl, rfl⟩

end

end Sys2Proof.Machine

namespace Sys2Proof.Machine

theorem Warp.live_updWarp_same {t : Team} {w : Nat} (f : Warp → Warp) (threads : ∀ wp, (f wp).threads = wp.threads) (k : Nat) :
    ((t.updWarp w f).warp k).live = (t.warp k).live := by
  have same : ((t.updWarp w f).warp k).threads = (t.warp k).threads := by
    simp only [Team.warp, Team.updWarp, updAt_getD]
    split
    · exact threads _
    · rfl
  simp only [Warp.live, Warp.thread, same]

theorem Team.live_updWarp_same {t : Team} {w : Nat} (f : Warp → Warp) (threads : ∀ wp, (f wp).threads = wp.threads) :
    (t.updWarp w f).live = t.live := by
  have length : (t.updWarp w f).warps.length = t.warps.length := updAt_length _ _ _
  simp only [Team.live, length, Warp.live_updWarp_same f threads]

/-- The team once its warp `w` has given up its slot. -/
def Team.freesSlot (t : Team) (w : Nat) : Team :=
  { (t.updWarp w fun wp => { wp with decl := 0, boostLines := 0, boostExp := 0 }) with slots := setAt t.slots w 64 }

theorem Team.freesSlot_live (t : Team) (w : Nat) : (t.freesSlot w).live = t.live := Team.live_updWarp_same _ fun _ => rfl

theorem State.releaseSlot_team? {s : State} {t : Team} {w : Nat} (found : s.team? t.id = some t) (dead : (t.warp w).live = [])
    (idle : s.writebackOut t.id w = false) (slot : t.slots.getD w 64 ≠ 64) :
    (s.releaseSlot t.id w).team? t.id = some (t.freesSlot w) := by
  have freed := State.team?_updTeam_self found (fun t => t.freesSlot w) fun _ => rfl
  simp only [State.releaseSlot, found, dead, idle, List.isEmpty_nil, Bool.not_false, Bool.true_and, bne_iff_ne, ne_eq, slot,
    not_false_eq_true, if_true]
  split
  · exact freed
  · exact freed

/-- A warp that no lane and no write-back needs any more has no slot. -/
theorem State.releaseSlot_frees {s : State} {t : Team} {w : Nat} (found : s.team? t.id = some t) (hw : w < t.slots.length)
    (dead : (t.warp w).live = []) (idle : s.writebackOut t.id w = false) :
    ∃ t', (s.releaseSlot t.id w).team? t.id = some t' ∧ t'.slots[w]? = some 64 ∧ (∀ k, k ≠ w → t'.slots[k]? = t.slots[k]?) ∧
      t'.live = t.live ∧ t'.scratch = t.scratch := by
  by_cases slot : t.slots.getD w 64 = 64
  · have same : s.releaseSlot t.id w = s := by simp only [State.releaseSlot, found, slot]; simp
    refine ⟨t, (congrArg (·.team? t.id) same).trans found, ?_, fun _ _ => rfl, rfl, rfl⟩
    rw [List.getElem?_eq_getElem hw, ← slot, List.getD_eq_getElem _ _ hw]
  · refine ⟨t.freesSlot w, State.releaseSlot_team? found dead idle slot, ?_, fun k other => ?_, t.freesSlot_live w, rfl⟩
    · exact (setAt_getElem? _ _ _ _).trans (if_pos ⟨rfl, hw⟩)
    · exact (setAt_getElem? _ _ _ _).trans (if_neg fun h => other h.1.symm)

theorem State.releaseSlot_keeps {s : State} {t : Team} {w : Nat} (found : s.team? t.id = some t)
    (needed : (t.warp w).live ≠ [] ∨ s.writebackOut t.id w = true) : s.releaseSlot t.id w = s := by
  simp only [State.releaseSlot, found]
  rcases needed with live | out
  · simp [live]
  · simp [out]

theorem State.landRefill_clean {s : State} {o : LoadOp} {ws : List (Word × Tag)} (clean : ∀ w ∈ ws, w.2 ≠ .poison) :
    s.landRefill o ws = (s.dropLoad o.id).updThread o.dst.team o.dst.warp o.dst.lane fun th =>
      { th with held := th.held.map fun (h : Held) =>
          if some h.e == o.refill then { h with ready := true, val := leNat (ofWords (ws.map (·.1))) } else h } := by
  have clear : (ws.any fun w => w.2 == .poison) = false := by simpa using clean
  simp only [State.landRefill, clear, Bool.false_eq_true, if_false]

theorem loadsAreWrittenBack : LoadsAreWrittenBack := by
  refine ⟨fun o ws pv s ⟨here, plain, bound, taken⟩ => ?_, fun o ws pv s ⟨here, plain, bound, dropped⟩ => ?_,
    fun s t w found hw => ⟨State.releaseSlot_frees found hw, State.releaseSlot_keeps found⟩,
    fun o ws e s ⟨here, refill, bound, clean, live⟩ => ?_⟩
  · obtain ⟨mem, loads⟩ := State.landLoad_keeps (ws := ws) (pv := pv) taken
    obtain ⟨p, thread⟩ := State.landLoad_thread (ws := ws) (pv := pv) taken
    obtain ⟨-, -, live⟩ := taken
    have regs : (s.thread o.dst.team o.dst.warp o.dst.lane).v =
        ((s.warp o.dst.team o.dst.warp).thread o.dst.lane).v := by
      obtain ⟨t, found, -, -⟩ := State.team_of_live live
      rw [State.thread_of_team? found, State.warp, found]
      rfl
    refine ⟨_, exec_loadWriteback here plain bound, mem, fun x => loads ▸ State.mem_dropLoad x, fun k hk r reg => ?_,
      fun n out => ?_, (congrArg Thread.tacq thread).trans rfl⟩
    · rw [regs] at reg
      rw [thread]
      refine ⟨_, (Warp.landedRegs_getElem? _ _ ws k hk).trans (by rw [reg]; rfl), rfl, fun w g word => ?_⟩
      rw [word]
      exact ⟨rfl, rfl⟩
    · rw [thread, regs]
      exact Warp.landedRegs_outside _ _ _ out
  · exact ⟨_, exec_loadWriteback here plain bound, State.landLoad_dropped dropped⟩
  · have live' : ((s.dropLoad o.id).thread o.dst.team o.dst.warp o.dst.lane).exited = false := live
    refine ⟨_, exec_refillLand here refill bound, ?_⟩
    rw [State.landRefill_clean clean]
    refine ⟨rfl, State.mem_dropLoad, ?_⟩
    rw [State.thread_updThread_of_live live']
    refine List.map_congr_left fun h _ => ?_
    simp [refill]

/-- Settles O56: what lands is the load's own group of registers (`Warp.landGroup_thread`), a slot goes once nothing needs it
(`State.releaseSlot_frees`), and a fill binds the loads that wait in their order (`fillsAnswerTheLoads`). -/
theorem loadsAndFillsLand : Obligations.LoadsAndFillsLand := ⟨loadsAreWrittenBack, fillsAnswerTheLoads⟩

end Sys2Proof.Machine

namespace Sys2Proof.Machine

/-! ### A word in one place that goes on, waits or traps: its whole next state -/

/-- States of equal data differ in no thread's data. -/
theorem State.thread_of_data {s s' : State} (h : s'.data = s.data) (tm w l : Nat) :
    (s'.thread tm w l).data = (s.thread tm w l).data := by
  cases found : s.team? tm with
  | some t =>
    obtain ⟨t', found', same⟩ := State.team?_of_data h found
    rw [State.thread_of_team? found, State.thread_of_team? found', Team.thread_of_data same]
  | none =>
    cases found' : s'.team? tm with
    | some t' =>
      obtain ⟨t, other, -⟩ := State.team?_of_data h.symm found'
      cases found.symm.trans other
    | none => simp only [State.thread, found, found']

/-- Which threads of a warp have exited, and which must trap where their partner trapped (R399). -/
def Warp.duties (wp : Warp) : List (Bool × Option Pos) := wp.threads.map fun th => (th.exited, th.mustTrap)

theorem Warp.duties_thread (wp : Warp) (l : Nat) :
    ((wp.thread l).exited, (wp.thread l).mustTrap) = wp.duties.getD l (true, none) := by
  simp only [Warp.thread, Warp.duties, List.getD_eq_getElem?_getD, List.getElem?_map]
  cases wp.threads[l]? <;> rfl

theorem Warp.thread_of_duties {wp wp' : Warp} (h : wp'.duties = wp.duties) (l : Nat) :
    (wp'.thread l).exited = (wp.thread l).exited ∧ (wp'.thread l).mustTrap = (wp.thread l).mustTrap := by
  have same := wp'.duties_thread l
  rw [h, ← wp.duties_thread l] at same
  exact ⟨congrArg Prod.fst same, congrArg Prod.snd same⟩

theorem Warp.live_of_duties {wp wp' : Warp} (h : wp'.duties = wp.duties) : wp'.live = wp.live := by
  have count : wp'.threads.length = wp.threads.length := by simpa [Warp.duties] using congrArg List.length h
  simp only [Warp.live, count, Warp.thread_of_duties h]

theorem Team.duties_updThread {f : Thread → Thread} (hf : ∀ th, ((f th).exited, (f th).mustTrap) = (th.exited, th.mustTrap))
    (t : Team) (w l w' : Nat) : ((t.updThread w l f).warp w').duties = (t.warp w').duties := by
  simp only [Team.warp, Team.updThread, Team.updWarp, updAt_getD]
  split
  · exact updAt_map_of _ f hf _ l
  · rfl

/-- A state in which the duties of the warp's threads are those that the word met. -/
def Ctx.Owes (c : Ctx) (s : State) : Prop := ∃ t, s.team? c.iss.team = some t ∧ (t.warp c.w).duties = (c.t.warp c.w).duties

theorem Ctx.lanes_of_duties (c : Ctx) {t : Team} (same : (t.warp c.w).duties = (c.t.warp c.w).duties) :
    c.iss.lanes t (c.w, c.l) = c.all := by
  simp only [Ctx.all, Issue.lanes, Warp.live_of_duties same]

/-- No thread that a word concerns has exited. -/
theorem Acts.all_live {s : State} {iss : Issue} {t : Team} {w l : Nat} (ha : Acts s iss t w l) :
    ∀ m ∈ Ctx.all ⟨t, w, l, iss⟩, (t.thread m.1 m.2).exited = false := by
  unfold Ctx.all Issue.lanes
  intro m hm
  split at hm
  · obtain ⟨l', hl', rfl⟩ := List.mem_map.1 hm
    exact (Warp.mem_live.1 hl').2
  · obtain rfl := List.mem_singleton.1 hm
    exact ha.live

/-- Threads that are live and owe their partners no trap go on one after another. -/
theorem Issue.foldl_goOn (iss : Issue) (len : Nat) (ms : List (Nat × Nat)) {s : State}
    (free : ∀ m ∈ ms, (s.thread iss.team m.1 m.2).exited = false ∧ (s.thread iss.team m.1 m.2).mustTrap = none) :
    ms.foldl (fun s x => if (s.thread iss.team x.1 x.2).exited then s
      else iss.missedTrap x (s.advance iss.team x.1 x.2 len iss.cnt)) s =
    ms.foldl (fun s x => s.advance iss.team x.1 x.2 len iss.cnt) s := by
  induction ms generalizing s with
  | nil => rfl
  | cons m ms ih =>
    have keep (x : Nat × Nat) : ((s.advance iss.team m.1 m.2 len iss.cnt).thread iss.team x.1 x.2).data =
        (s.thread iss.team x.1 x.2).data := State.thread_of_data (s.advance_data _ _ _ _ _) _ _ _
    obtain ⟨live, owes⟩ := free m List.mem_cons_self
    have none : ((s.advance iss.team m.1 m.2 len iss.cnt).thread iss.team m.1 m.2).mustTrap = none :=
      (congrArg Thread.mustTrap (keep m)).trans owes
    have once : iss.missedTrap m (s.advance iss.team m.1 m.2 len iss.cnt) = s.advance iss.team m.1 m.2 len iss.cnt := by
      simp [Issue.missedTrap, none]
    simp only [List.foldl_cons, live, Bool.false_eq_true, if_false, once]
    refine ih fun x hx => ?_
    obtain ⟨live', owes'⟩ := free x (List.mem_cons_of_mem _ hx)
    exact ⟨(congrArg Thread.exited (keep x)).trans live', (congrArg Thread.mustTrap (keep x)).trans owes'⟩

/-- A word that is done lets every thread it concerns go on. -/
theorem Issue.finish_done {iss : Issue} {s : State} {t : Team} {m : Nat × Nat} (found : s.team? iss.team = some t)
    (free : ∀ x ∈ iss.lanes t m, (t.thread x.1 x.2).exited = false ∧ (t.thread x.1 x.2).mustTrap = none) (len : Nat) (d : Word) :
    iss.finish len [(m, .done, d)] s = (iss.lanes t m).foldl (fun s x => s.advance iss.team x.1 x.2 len iss.cnt) s := by
  simp only [Issue.finish, found, List.foldl_cons, List.foldl_nil, List.flatMap_cons, List.flatMap_nil, List.append_nil,
    Issue.deliverTraps]
  rw [Issue.holdMates_of_not_mshr (by simp), Issue.foldl_goOn]
  simpa only [State.thread_of_team? found] using free

/-- A word that traps is not done in any thread it concerns. -/
theorem Issue.finish_trap {iss : Issue} {s : State} {t : Team} (found : s.team? iss.team = some t) (len : Nat) (m : Nat × Nat)
    (k : Nat) (d : Word) :
    iss.finish len [(m, .trap k, d)] s = iss.deliverTraps ((iss.lanes t m).map fun x => (x, k, d)) s := by
  simp only [Issue.finish, found, List.foldl_cons, List.foldl_nil, List.flatMap_cons, List.flatMap_nil, List.append_nil]
  exact Issue.holdMates_of_not_mshr (by simp) d _

section
variable {i : Instr} {fm : Issue → Form} {value : Issue → Ctx → Option Nat} {act : Issue → State → Ctx → State × LaneRes}
  {cond : State → Ctx → Prop}

/-- A word whose action is done and leaves the duties of its warp's threads: they go on. -/
theorem Form.perform_proceeds {s s1 : State} {iss : Issue} {t : Team} {w l : Nat} {fm : Form} {value : Ctx → Option Nat}
    {act : State → Ctx → State × LaneRes} (ha : Acts s iss t w l) (hc : fm.clear value ⟨t, w, l, iss⟩) (len : fm.len = 1)
    (owes : ∀ m ∈ Ctx.all ⟨t, w, l, iss⟩, (t.thread m.1 m.2).mustTrap = none)
    (done : act { s with issue := none } ⟨t, w, l, iss⟩ = (s1, .done)) (still : Ctx.Owes ⟨t, w, l, iss⟩ s1) :
    fm.perform iss value act { s with issue := none } = goOn ⟨t, w, l, iss⟩ s1 := by
  obtain ⟨t1, found, same⟩ := still
  have lanes : iss.lanes t1 (w, l) = Ctx.all ⟨t, w, l, iss⟩ := Ctx.lanes_of_duties ⟨t, w, l, iss⟩ same
  rw [Form.perform_clear ha hc, done, len, Issue.finish_done found, lanes, goOn]
  intro m hm
  rw [lanes] at hm
  have here : m.1 = w := by
    unfold Ctx.all Issue.lanes at hm
    split at hm
    · obtain ⟨l', -, rfl⟩ := List.mem_map.1 hm
      rfl
    · obtain rfl := List.mem_singleton.1 hm
      rfl
  obtain ⟨exited, must⟩ := Warp.thread_of_duties same m.2
  subst here
  exact ⟨exited.trans (ha.all_live m hm), must.trans (owes m hm)⟩

/-- A word whose action is done in a state that keeps the duties of its warp's threads. -/
theorem proceeds_of_done {eff : Ctx → State → State}
    (run : ∀ s, exec i s = withIssue s fun iss => (fm iss).perform iss (value iss) (act iss)) (len : ∀ iss, (fm iss).len = 1)
    (done : ∀ iss c s, c.iss = iss → c.t.id = iss.team → cond s c → act iss s c = (eff c s, .done))
    (keeps : ∀ (c : Ctx) (s : State), s.team? c.iss.team = some c.t → c.Owes (eff c s)) : Proceeds i fm value cond eff := by
  intro s iss t w l ha c hc hcond owes
  rw [run, withIssue_of ha.issue, Form.perform_proceeds ha hc (len iss) owes (done iss c _ rfl ha.team_id hcond) (keeps c _ ha.team)]

/-- A word that changes nothing but where its threads stand. -/
theorem proceeds_of_idle (run : ∀ s, exec i s = withIssue s fun iss => (fm iss).perform iss (value iss) (act iss))
    (len : ∀ iss, (fm iss).len = 1) (done : ∀ iss c s, c.iss = iss → cond s c → act iss s c = (s, .done)) :
    Proceeds i fm value cond fun _ s => s :=
  proceeds_of_done run len (fun iss c s own _ hcond => done iss c s own hcond) fun c _ found => ⟨c.t, found, rfl⟩

/-- A word that a cause stops before it acts traps in every thread it concerns. -/
theorem exec_stopped (run : ∀ s, exec i s = withIssue s fun iss => (fm iss).perform iss (value iss) (act iss)) {s : State}
    {iss : Issue} {t : Team} {w l k : Nat} (ha : Acts s iss t w l) (clear : (fm iss).precheck iss t = none)
    (data : (fm iss).data = none)
    (fails : Ctx.checks ⟨t, w, l, iss⟩ (fm iss).os (value iss ⟨t, w, l, iss⟩) (fm iss).pure = some (.trap k)) :
    exec i s = .next (trapAll ⟨t, w, l, iss⟩ k { s with issue := none }) := by
  have found : ({ s with issue := none } : State).team? iss.team = some t := ha.team
  have one : (fm iss).perform iss (value iss) (act iss) { s with issue := none } =
      iss.finish (fm iss).len [((w, l), .trap k, 0)] { s with issue := none } := by
    simp [Form.perform, found, clear, ha.actor, fails, Form.lane, data]
  rw [run, withIssue_of ha.issue, one, Issue.finish_trap found]
  rfl

end

/-! ### Transfers (R127 to R131) -/

theorem Issue.target_eq_relative (iss : Issue) (off : BitVec 20) : iss.target 20 off.toNat = iss.relative off := by
  simp only [Issue.target, Issue.relative, sextNat_toNat]

theorem Ctx.goTo_eq {c : Ctx} {s : State} (owes : c.Owes s) (hdr : Nat) : c.goTo s hdr = (arriveAll c hdr s, .moved) := by
  obtain ⟨t, found, same⟩ := owes
  simp only [Ctx.goTo, Issue.transferTo, found, c.lanes_of_duties same]
  rfl

/-- A thread that has pushed `x` upon a stack of `d` entries. -/
def Thread.pushed (th : Thread) (d x : Nat) : Thread :=
  { th with rsd := d + 1, held := { e := d, val := x } :: th.held.filter fun (h : Held) => h.e + 8 != d && h.e != d }

/-- A thread that has popped its stack to `d` entries. -/
def Thread.popped (th : Thread) (d : Nat) : Thread := { th with rsd := d, held := th.held.filter fun (h : Held) => h.e != d }

theorem State.push_team? {s : State} {t t' : Team} (found : s.team? t.id = some t') (iss : Issue) (m : Nat × Nat) (x : Nat) :
    (s.push iss t m x).team? t.id = some (t'.updThread m.1 m.2 (·.pushed (t'.thread m.1 m.2).rsd x)) := by
  simp only [State.push, State.thread_of_team? found]
  split
  · exact State.team?_updThread (s := { s with nextId := _, stores := _ }) found _ _ _
  · exact State.team?_updThread found _ _ _

theorem Ctx.pushes_owes {c : Ctx} (own : c.t.id = c.iss.team) (x : Nat) (ms : List (Nat × Nat)) {s : State} (owes : c.Owes s) :
    c.Owes (ms.foldl (fun s m => s.push c.iss c.t m x) s) := by
  induction ms generalizing s with
  | nil => exact owes
  | cons m ms ih =>
    obtain ⟨t, found, same⟩ := owes
    rw [← own] at found
    refine ih ⟨_, own ▸ State.push_team? found c.iss m x, Eq.trans (Team.duties_updThread ?_ t m.1 m.2 c.w) same⟩
    exact fun _ => rfl

theorem Ctx.pushStop_of_mayCall {c : Ctx} (may : mayCall c) : c.pushStop = none := by
  have none : (c.iss.lanes c.t (c.w, c.l)).filterMap (fun m => (c.t.thread m.1 m.2).pushStop c.t.prog.tls) = [] :=
    List.filterMap_eq_nil_iff.2 may
  simp [Ctx.pushStop, none]

theorem Ctx.call_eq {c : Ctx} {s : State} (own : c.t.id = c.iss.team) (found : s.team? c.iss.team = some c.t) (may : mayCall c)
    (hdr : Nat) : c.call s hdr = (callAll c hdr s, .moved) := by
  simp only [Ctx.call, Ctx.pushStop_of_mayCall may]
  exact Ctx.goTo_eq (Ctx.pushes_owes own _ _ ⟨c.t, found, rfl⟩) hdr

/-- A word that has put its threads in their places leaves the state of its action, when its thread owes its partner no trap. -/
theorem Form.perform_moved {fm : Form} {value : Ctx → Option Nat} {act : State → Ctx → State × LaneRes} {s s1 : State}
    {iss : Issue} {t : Team} {w l : Nat} (ha : Acts s iss t w l) (hc : fm.clear value ⟨t, w, l, iss⟩)
    (moved : act { s with issue := none } ⟨t, w, l, iss⟩ = (s1, .moved))
    (free : ∀ x, (s1.thread iss.team w l).mustTrap ≠ some x) : fm.perform iss value act { s with issue := none } = s1 := by
  rw [Form.perform_clear ha hc, moved, Issue.finish_moved free]

/-- A word that moves its threads itself, as its action shows in the state where its team is found. -/
theorem goes_of_moving {i : Instr} {fm : Issue → Form} {value : Issue → Ctx → Option Nat}
    {act : Issue → State → Ctx → State × LaneRes} {cond : State → Ctx → Prop} {eff : Ctx → State → State}
    (run : ∀ s, exec i s = withIssue s fun iss => (fm iss).perform iss (value iss) (act iss))
    (moves : ∀ c s, c.t.id = c.iss.team → s.team? c.iss.team = some c.t → cond s c → act c.iss s c = (eff c s, .moved)) :
    Goes i fm value cond eff := by
  intro s iss t w l ha hc hcond free
  rw [run, withIssue_of ha.issue, Form.perform_moved ha hc (moves _ _ ha.team_id ha.team hcond) free]

section
variable (p : BitVec 3) (neg : BitVec 1)

/-- What BR, JMP, CALL and CALLR do in their threads: `go` when the predicate holds, nothing else. -/
def transferAct (go : State → Ctx → State × LaneRes) (s : State) (c : Ctx) : State × LaneRes :=
  if c.taken p neg then go s c else (s, .done)

theorem exec_br (off : BitVec 20) (s : State) : exec (.br p neg off) s = withIssue s fun iss =>
    (transferForm iss p true []).perform iss (noValue iss) (transferAct p neg fun s c => c.goTo s (iss.target 20 off.toNat)) := rfl

theorem exec_jmp (a : BitVec 7) (s : State) : exec (.jmp p neg a) s = withIssue s fun iss =>
    (transferForm iss p true [iss.jumpA a]).perform iss (fun c => c.jumpCheck p neg a)
      (transferAct p neg fun s c => c.goTo s (c.pair (iss.jumpA a))) := rfl

theorem exec_call (off : BitVec 20) (s : State) : exec (.call p neg off) s = withIssue s fun iss =>
    (transferForm iss p true []).perform iss (noValue iss) (transferAct p neg fun s c => c.call s (iss.target 20 off.toNat)) := rfl

theorem exec_callr (a : BitVec 7) (s : State) : exec (.callr p neg a) s = withIssue s fun iss =>
    (transferForm iss p true [{ iss.jumpA a with tags := none }]).perform iss (fun c => c.callCheck p neg a)
      (transferAct p neg fun s c => c.call s (c.pair (iss.jumpA a))) := rfl

/-- RET's action, when its predicate holds. -/
def retAct (iss : Issue) (s : State) (c : Ctx) : State × LaneRes :=
  let ms := iss.lanes c.t (c.w, c.l)
  let stops := ms.filterMap fun m => (c.t.thread m.1 m.2).popStop
  match stops.find? (· != .wait), stops with
  | some (.cause k), _ => (s, .trap k)
  | _, _ :: _ => (s, .stay .retry)
  | _, [] => if topsDiffer c.t ms then (s, .trap 0x13) else
    (ms.foldl (fun s m => match s.pop iss c.t m with
      | (s, x) => s.arrive iss.team m.1 m.2 x) s, .moved)

theorem exec_ret (s : State) : exec (.ret p neg) s = withIssue s fun iss =>
    (transferForm iss p true []).perform iss (noValue iss)
      fun s c => if !c.taken p neg then (s, .done) else retAct iss s c := rfl

variable {p neg}

theorem transferAct_goes {i : Instr} {fm : Issue → Form} {value : Issue → Ctx → Option Nat} {cond : Ctx → Prop}
    {go : Issue → State → Ctx → State × LaneRes} {eff : Ctx → State → State}
    (run : ∀ s, exec i s = withIssue s fun iss => (fm iss).perform iss (value iss) (transferAct p neg (go iss)))
    (taken : ∀ c, cond c → c.taken p neg = true)
    (goes : ∀ c s, c.t.id = c.iss.team → s.team? c.iss.team = some c.t → cond c → go c.iss s c = (eff c s, .moved)) :
    Goes i fm value (fun _ c => cond c) eff :=
  goes_of_moving run fun c s own found h => (if_pos (taken c h)).trans (goes c s own found h)

theorem transferAct_proceeds {i : Instr} {fm : Issue → Form} {value : Issue → Ctx → Option Nat}
    {go : Issue → State → Ctx → State × LaneRes} (len : ∀ iss, (fm iss).len = 1)
    (run : ∀ s, exec i s = withIssue s fun iss => (fm iss).perform iss (value iss) (transferAct p neg (go iss))) :
    Proceeds i fm value (fun _ c => c.taken p neg = false) fun _ s => s :=
  proceeds_of_idle run len fun _ _ _ _ untaken => if_neg (by simp [untaken])

theorem retAct_eq {c : Ctx} (may : mayReturn c) (s : State) : retAct c.iss s c =
    (c.all.foldl (fun s m => (s.pop c.iss c.t m).1.arrive c.iss.team m.1 m.2 (s.pop c.iss c.t m).2) s, .moved) := by
  obtain ⟨pops, tops⟩ := may
  have none : c.all.filterMap (fun m => (c.t.thread m.1 m.2).popStop) = [] := List.filterMap_eq_nil_iff.2 pops
  simp only [Ctx.all] at none tops
  simp [retAct, none, tops, Ctx.all]

end

/-- The checks of a word whose operands are in range and full answer the cause of its value first. -/
theorem Ctx.checks_value {c : Ctx} {os : List Opnd} (within : os.any c.outOfRange = false) (full : c.blocked os = false) (k : Nat)
    (pure : Bool) : c.checks os (some k) pure = some (.trap k) := by
  by_cases k3 : k = 3
  · simp [Ctx.checks, k3, full]
  · simp [Ctx.checks, k3, full, within]

/-- A transfer's pair of another tag, when its value has no cause. -/
theorem Ctx.checks_badTag {c : Ctx} {p : BitVec 3} {a : BitVec 7} {os : List Opnd}
    (ops : os = (transferForm c.iss p true [c.iss.jumpA a]).os) (within : os.any c.outOfRange = false)
    (full : c.blocked os = false) (bad : c.badTag (c.iss.jumpA a) = true) : c.checks os none false = some (.trap 0x05) := by
  have polls : (os.any fun o => o.rd && o.pol && c.anyEmpty o) = false := by
    have regs : (c.iss.reg a.toNat).pol = false := by
      unfold Issue.reg
      split <;> rfl
    subst ops
    simp [transferForm, Issue.cond, Issue.prd, Issue.jumpA, Opnd.src, Opnd.grp, regs]
  have tags : os.any c.badTag = true := by
    subst ops
    exact List.any_eq_true.2 ⟨c.iss.jumpA a, by simp [transferForm], bad⟩
  simp [Ctx.checks, within, full, polls, tags]

theorem transfersGoWhereTheyName : TransfersGoWhereTheyName := by
  refine fun p neg => ⟨fun off => ⟨?_, ?_, ?_, ?_⟩, fun a => ⟨⟨?_, ?_⟩, ⟨?_, ?_⟩, ?_⟩, ⟨?_, ?_⟩⟩
  · exact transferAct_goes (exec_br p neg off) (fun _ h => h) fun c s _ found _ => by
      rw [Issue.target_eq_relative, Ctx.goTo_eq ⟨c.t, found, rfl⟩]
  · exact transferAct_proceeds (fun _ => rfl) (exec_br p neg off)
  · exact transferAct_goes (exec_call p neg off) (fun _ h => h.1) fun c s own found may => by
      rw [Issue.target_eq_relative, Ctx.call_eq own found may.2]
  · exact transferAct_proceeds (fun _ => rfl) (exec_call p neg off)
  · exact transferAct_goes (exec_jmp p neg a) (fun _ h => h) fun c s _ found _ => Ctx.goTo_eq ⟨c.t, found, rfl⟩ _
  · exact transferAct_proceeds (fun _ => rfl) (exec_jmp p neg a)
  · exact transferAct_goes (exec_callr p neg a) (fun _ h => h.1) fun c s own found may => Ctx.call_eq own found may.2 _
  · exact transferAct_proceeds (fun _ => rfl) (exec_callr p neg a)
  · intro i hi s iss t w l ha c fm clear untaken within full bad
    have within' := Ctx.none_outOfRange within
    rcases List.mem_cons.1 hi with rfl | hi
    · have none : c.jumpCheck p neg a = none := by simp [Ctx.jumpCheck, untaken]
      exact exec_stopped (exec_jmp p neg a) ha clear rfl ((congrArg (c.checks _ · _) none).trans
        (Ctx.checks_badTag rfl within' full bad))
    · obtain rfl := List.mem_singleton.1 hi
      have cause : c.callCheck p neg a = some 0x05 := by simp [Ctx.callCheck, untaken, c, bad]
      exact exec_stopped (exec_callr p neg a) ha clear rfl ((congrArg (c.checks _ · _) cause).trans
        (Ctx.checks_value within' full _ false))
  · exact goes_of_moving (exec_ret p neg) fun c s _ _ ⟨taken, may⟩ => by
      rw [taken]
      exact retAct_eq may s
  · exact proceeds_of_idle (exec_ret p neg) (fun _ => rfl) fun iss c s _ untaken => by simp [untaken]

theorem callsPushBeforeTheyLook : CallsPushBeforeTheyLook := by
  intro p neg a s iss t w l ha vector c fm clear within full taken deep
  have stop : (t.thread w l).pushStop t.prog.tls = some (.cause 0x04) := by
    simp only [Thread.pushStop]
    exact if_pos (by omega)
  have cause : c.callCheck p neg a = some 0x04 := by
    have pushes : c.pushStop = some (.cause 0x04) := by
      simp [Ctx.pushStop, c, Issue.lanes_of_vector vector, stop]
    simp [Ctx.callCheck, taken, pushes]
  exact exec_stopped (exec_callr p neg a) ha clear rfl ((congrArg (c.checks _ · _) cause).trans
    (Ctx.checks_value (Ctx.none_outOfRange within) full _ false))

/-! ### The return stack (R127) -/

theorem Thread.pushed_popStop {d : Nat} (shallow : d < 8) (th : Thread) (x : Nat) : (th.pushed d x).popStop = none := by
  have ready : (th.pushed d x).entryStop d = none := by simp [Thread.entryStop, Thread.entry, Thread.pushed]
  have depth : (th.pushed d x).rsd = d + 1 := rfl
  simp only [Thread.popStop, depth, Nat.add_sub_cancel, ready, if_neg (Nat.succ_ne_zero d), if_neg (show ¬d + 1 ≥ 9 by omega),
    Option.or_none]

/-- A push and a pop within the held entries touch their thread alone. -/
theorem State.push_shallow {s : State} {t : Team} {m : Nat × Nat} (found : s.team? t.id = some t)
    (shallow : (t.thread m.1 m.2).rsd < 8) (iss : Issue) (x : Nat) :
    s.push iss t m x = s.updThread t.id m.1 m.2 (·.pushed (t.thread m.1 m.2).rsd x) := by
  simp only [State.push, State.thread_of_team? found, if_neg (Nat.not_le.2 shallow)]
  rfl

theorem State.pop_shallow {s : State} {t : Team} {m : Nat × Nat} {d : Nat} (found : s.team? t.id = some t)
    (depth : (t.thread m.1 m.2).rsd = d + 1) (shallow : d < 8) (iss : Issue) :
    s.pop iss t m = (s.updThread t.id m.1 m.2 (·.popped d), ((t.thread m.1 m.2).entry d).val) := by
  simp only [State.pop, State.thread_of_team? found, depth, Nat.add_sub_cancel, if_neg (Nat.not_le.2 shallow)]
  rfl

theorem returnsUndoCalls : ReturnsUndoCalls := by
  intro s iss t w l x found live shallow s1
  obtain ⟨hw, hl⟩ := Team.bounds_of_live live
  have plain : s1 = s.updThread t.id w l (·.pushed (t.thread w l).rsd x) := State.push_shallow (m := (w, l)) found shallow iss x
  have top := Team.thread_updThread hw hl (·.pushed (t.thread w l).rsd x)
  obtain ⟨warps, threads⟩ := t.updThread_lengths w l (·.pushed (t.thread w l).rsd x)
  have pushed : s1.team? t.id = some (t.updThread w l (·.pushed (t.thread w l).rsd x)) :=
    State.push_team? found iss (w, l) x
  have popped := State.pop_shallow (m := (w, l)) (t := t.updThread w l (·.pushed (t.thread w l).rsd x)) pushed
    (congrArg Thread.rsd top) shallow iss
  refine ⟨_, pushed, congrArg Thread.rsd top, ?_, plain ▸ rfl, ?_, ⟨(t.updThread w l (·.pushed (t.thread w l).rsd x)).updThread w l
    (·.popped (t.thread w l).rsd), ?_, ?_⟩, ?_⟩
  · exact (congrArg Thread.popStop top).trans (Thread.pushed_popStop shallow _ x)
  · rw [popped, top]
    simp [Thread.entry, Thread.pushed]
  · rw [popped]
    exact State.team?_updThread pushed w l _
  · rw [Team.thread_updThread (warps ▸ hw) (threads w ▸ hl)]
    rfl
  · rw [popped, plain]
    rfl

/-- Settles O45: a taken transfer moves its threads (`goes_of_moving`), an untaken one lets them go on (`proceeds_of_idle`), and a
cause stops it before it acts (`exec_stopped`). -/
theorem transfersGoAndReturn : Obligations.TransfersGoAndReturn :=
  ⟨transfersGoWhereTheyName, callsPushBeforeTheyLook, returnsUndoCalls⟩

end Sys2Proof.Machine

namespace Sys2Proof.Machine

/-! ### Control words that hold their threads or write their warp -/

/-- A word that waits for something else than the rest of its tile holds its threads, in their bundle where that stays together. -/
theorem Issue.finish_holds {iss : Issue} {s : State} {t : Team} {wt : Wait} (found : s.team? iss.team = some t) (short : wt ≠ .mshr)
    (tile : wt ≠ .crossLane) (len : Nat) (m : Nat × Nat) (d : Word) : iss.finish len [(m, .stay wt, d)] s =
      (iss.lanes t m).foldl (fun s x => s.holdLane iss.team (!iss.together) wt x) s := by
  have leaves : iss.leaves wt = !iss.together := by simp [Issue.leaves, tile]
  rw [Issue.finish_stay found short, leaves]

/-- A word that holds its threads leaves nothing else to do. -/
theorem goes_of_waiting {i : Instr} {fm : Issue → Form} {value : Issue → Ctx → Option Nat}
    {act : Issue → State → Ctx → State × LaneRes} {cond : State → Ctx → Prop} {d : State → Ctx → Nat}
    (run : ∀ s, exec i s = withIssue s fun iss => (fm iss).perform iss (value iss) (act iss))
    (waits : ∀ iss c s, c.iss = iss → cond s c → act iss s c = (s, .stay (.time (d s c)))) :
    Goes i fm value cond fun c s => c.all.foldl (fun s' m => s'.holdLane c.iss.team (!c.iss.together) (.time (d s c)) m) s := by
  intro s iss t w l ha hc hcond _
  have found : ({ s with issue := none } : State).team? iss.team = some t := ha.team
  rw [run, withIssue_of ha.issue, Form.perform_clear ha hc, waits iss _ _ rfl hcond, Issue.finish_holds found (by simp)
    (by simp)]
  rfl

theorem Warp.duties_updThread {f : Thread → Thread} (hf : ∀ th, ((f th).exited, (f th).mustTrap) = (th.exited, th.mustTrap))
    (wp : Warp) (l : Nat) : (wp.updThread l f).duties = wp.duties := updAt_map_of _ f hf _ l

theorem Warp.duties_of_data {wp wp' : Warp} (h : wp'.data = wp.data) : wp'.duties = wp.duties := by
  have keep (wp : Warp) : wp.data.duties = wp.duties := by simp only [Warp.duties, Warp.data, List.map_map]; rfl
  rw [← keep, h, keep]

theorem Warp.setCell_duties (wp : Warp) (l : Nat) (f : RFile) (n : Nat) (v : Word) (tag : Tag) :
    (wp.setCell l f n v tag).duties = wp.duties := by
  unfold Warp.setCell
  split
  · refine Warp.duties_updThread ?_ wp l
    exact fun _ => rfl
  · rfl
  · split
    · rfl
    · refine Warp.duties_updThread ?_ wp l
      exact fun _ => rfl
  · split <;> rfl

theorem Warp.setGroup_duties (wp : Warp) (l : Nat) (o : Opnd) (ws : List (Word × Tag)) :
    (wp.setGroup l o ws).duties = wp.duties :=
  foldl_of_step Warp.duties _ (fun wp _ => wp.setCell_duties _ _ _ _ _) _ wp

/-- An update of the word's own warp that keeps its threads' duties. -/
theorem Ctx.Owes.updWarp {c : Ctx} {s : State} (owes : c.Owes s) (own : c.t.id = c.iss.team) {f : Warp → Warp}
    (keeps : ∀ wp, (f wp).duties = wp.duties) : c.Owes (s.updWarp c.t.id c.w f) := by
  obtain ⟨t, found, same⟩ := owes
  rw [own]
  refine ⟨_, State.team?_updWarp found c.w f, Eq.trans ?_ same⟩
  simp only [Team.warp, Team.updWarp, updAt_getD]
  split
  · exact keeps _
  · rfl


theorem meetOffset_eq (iss : Issue) (prog : Nat) (off : BitVec 17) :
    meetOffset iss prog off = (iss.hdr : Int) - prog + 4 * off.toInt := by rw [meetOffset, sextNat_toNat]

theorem meetsAt_owes {c : Ctx} {s : State} (owes : c.Owes s) (own : c.t.id = c.iss.team) (x : Word) : c.Owes (meetsAt c x s) := by
  refine Ctx.Owes.updWarp (Ctx.Owes.updWarp owes own (f := fun wp => wp.updThread c.l fun th => { th with mr := x }) fun wp => ?_)
    own fun wp => Warp.duties_of_data wp.settleMeetings_data
  refine Warp.duties_updThread ?_ wp c.l
  exact fun _ => rfl

theorem meet_proceeds (d : BitVec 7) (off : BitVec 17) :
    let offset (iss : Issue) (c : Ctx) : Int := (iss.hdr : Int) - c.t.prog.hdr + 4 * off.toInt
    Proceeds (.meet d off) (fun iss => { grp := .meet, os := [(iss.reg d.toNat).dst] })
      (fun iss c => if offset iss c < 0 ∨ offset iss c ≥ 2 ^ 32 then some 0x04 else none) (fun _ _ => True)
      (fun c s => meetsAt c (BitVec.ofInt 32 (offset c.iss c))
        (s.updWarp c.t.id c.w fun wp => wp.setGroup c.l (c.iss.reg d.toNat).dst [(c.th.mr, .n32)])) := by
  simp only [← meetOffset_eq]
  refine proceeds_of_done (act := fun iss s c => ((s.updWarp c.t.id c.w fun wp =>
    wp.setGroup c.l (iss.reg d.toNat).dst [(c.th.mr, .n32)]).setMr c.t.id [(c.w, c.l)]
      (BitVec.ofInt 32 (meetOffset iss c.t.prog.hdr off)), .done)) (fun s => rfl) (fun _ => rfl) ?_ fun c s found => ?_
  · rintro _ c s rfl - -
    rfl
  · have own := State.team?_id found
    exact meetsAt_owes (Ctx.Owes.updWarp ⟨c.t, found, rfl⟩ own fun wp => wp.setGroup_duties _ _ _) own _

theorem meetr_proceeds (a : BitVec 7) :
    let src (iss : Issue) : Opnd := (iss.reg a.toNat).src (some [.n32])
    Proceeds (.meetr a) (fun iss => { grp := .meet, os := [src iss] }) (fun iss c => mrCheck (c.rd (src iss)))
      (fun _ _ => True) (fun c => meetsAt c (c.rd (src c.iss))) := by
  refine proceeds_of_done (act := fun iss s c => (s.setMr c.t.id [(c.w, c.l)] (c.rd ((iss.reg a.toNat).src (some [.n32]))), .done))
    (fun s => rfl) (fun _ => rfl) ?_ fun c s found => meetsAt_owes ⟨c.t, found, rfl⟩ (State.team?_id found) _
  rintro _ c s rfl - -
  rfl

/-- A word that updates its warp and nothing else goes on. -/
theorem proceeds_of_updWarp {i : Instr} {fm : Issue → Form} {value : Issue → Ctx → Option Nat} (f : State → Ctx → Warp → Warp)
    (run : ∀ s, exec i s = withIssue s fun iss => (fm iss).perform iss (value iss) fun s c =>
      (s.updWarp c.t.id c.w (f s { c with iss := iss }), .done)) (len : ∀ iss, (fm iss).len = 1)
    (keeps : ∀ s c wp, (f s c wp).duties = wp.duties) :
    Proceeds i fm value (fun _ _ => True) fun c s => s.updWarp c.t.id c.w (f s c) := by
  refine proceeds_of_done run len ?_ fun c s found => Ctx.Owes.updWarp ⟨c.t, found, rfl⟩ (State.team?_id found) (keeps s c)
  rintro _ c s rfl - -
  rfl

theorem lease_proceeds (a : BitVec 7) (lines : BitVec 10) :
    let on (os : Issue → List Opnd) (g : Group) (form : BitVec 2) (iss : Issue) : Form :=
      { grp := g, wf := (Instr.lease form a lines).wf, os := os iss, pure := true }
    let src (iss : Issue) : Opnd := (iss.reg a.toNat).src (some [.n32])
    Proceeds (.lease 0 a lines) (on (fun _ => []) .lease 0) noValue (fun _ _ => True)
      (fun c s => s.updWarp c.t.id c.w fun wp => { wp with decl := lines.toNat }) ∧
    Proceeds (.lease 1 a lines) (on (fun iss => [src iss]) .lease 1)
      (fun iss c => if (c.rd (src iss)).toNat > 4194303 then some 0x04 else none) (fun _ _ => True)
      (fun c s => s.updWarp c.t.id c.w fun wp =>
        if c.rd (src c.iss) = 0 then { wp with boostLines := 0, boostExp := 0 }
        else { wp with boostLines := lines.toNat, boostExp := s.time + (c.rd (src c.iss)).toNat }) ∧
    Proceeds (.lease 2 a lines) (on (fun _ => []) .lease 2) noValue (fun _ _ => True)
      (fun c s => s.updWarp c.t.id c.w fun wp => { wp with boostLines := 0, boostExp := 0 }) ∧
    Proceeds (.lease 3 a lines) (on (fun iss => [(iss.reg a.toNat).dst]) .ctl 3) noValue (fun _ _ => True)
      (fun c s => s.updWarp c.t.id c.w fun wp => wp.setGroup c.l (c.iss.reg a.toNat).dst
        [(BitVec.ofNat 32 (wp.boostLive s.time * 2 ^ 12 + wp.effLease c.t.prog s.time), .n32)]) := by
  refine ⟨proceeds_of_updWarp (fun _ _ wp => { wp with decl := lines.toNat }) (fun _ => rfl) (fun _ => rfl) fun _ _ _ => rfl,
    proceeds_of_updWarp (fun s c wp => if c.rd ((c.iss.reg a.toNat).src (some [.n32])) = 0 then
        { wp with boostLines := 0, boostExp := 0 }
      else { wp with boostLines := lines.toNat, boostExp := s.time + (c.rd ((c.iss.reg a.toNat).src (some [.n32]))).toNat })
      (fun _ => rfl) (fun _ => rfl) fun _ _ _ => ?_,
    proceeds_of_updWarp (fun _ _ wp => { wp with boostLines := 0, boostExp := 0 }) (fun _ => rfl) (fun _ => rfl) fun _ _ _ => rfl,
    proceeds_of_updWarp (fun s c wp => wp.setGroup c.l (c.iss.reg a.toNat).dst
      [(BitVec.ofNat 32 (wp.boostLive s.time * 2 ^ 12 + wp.effLease c.t.prog s.time), .n32)]) (fun _ => rfl) (fun _ => rfl)
      fun _ _ _ => Warp.setGroup_duties _ _ _ _⟩
  split <;> rfl

theorem waitt_goes (a : BitVec 7) :
    let src (iss : Issue) : Opnd := ((iss.reg a.toNat).grp 2 2).src (some [.addr, .n32])
    Proceeds (.waitt a) (ctlForm fun iss => [src iss]) noValue (fun s c => c.pair (src c.iss) ≤ s.time) (fun _ s => s) ∧
    Goes (.waitt a) (ctlForm fun iss => [src iss]) noValue (fun s c => s.time < c.pair (src c.iss))
      (fun c s => c.all.foldl (fun s m => s.holdLane c.iss.team (!c.iss.together) (.time (c.pair (src c.iss))) m) s) := by
  refine ⟨proceeds_of_idle (fun _ => rfl) (fun _ => rfl) ?_, goes_of_waiting (fun _ => rfl) ?_⟩
  · rintro _ c s rfl come
    exact if_pos come
  · rintro _ c s rfl later
    exact if_neg (Nat.not_le.2 later)

theorem waittD_goes (delay : BitVec 23) :
    Proceeds (.waittD delay) (ctlForm fun _ => []) noValue (fun _ _ => delay = 0) (fun _ s => s) ∧
    Goes (.waittD delay) (ctlForm fun _ => []) noValue (fun _ _ => delay ≠ 0)
      (fun c s => c.all.foldl (fun s' m => s'.holdLane c.iss.team (!c.iss.together) (.time (s.time + delay.toNat)) m) s) := by
  refine ⟨proceeds_of_idle (fun _ => rfl) (fun _ => rfl) ?_, goes_of_waiting (fun _ => rfl) ?_⟩
  · rintro _ c s rfl rfl
    exact if_pos (Nat.le_refl _)
  · rintro _ c s rfl later
    have some : 0 < delay.toNat := Nat.pos_of_ne_zero fun e => later (BitVec.eq_of_toNat_eq e)
    exact if_neg (by omega)

theorem trap_goes (p : BitVec 3) (neg brk : BitVec 1) (code : BitVec 16) :
    (∀ (s : State) (iss : Issue) (t : Team) (w l : Nat), Acts s iss t w l →
      (ctlForm (fun iss => [iss.cond p]) iss).clear (fun _ => none) ⟨t, w, l, iss⟩ →
      Ctx.taken ⟨t, w, l, iss⟩ p neg = true →
      exec (.trap p neg brk code) s =
        .next (trapAll ⟨t, w, l, iss⟩ (if brk = 1 then 0x15 else 0x14) { s with issue := none })) ∧
    Proceeds (.trap p neg brk code) (ctlForm fun iss => [iss.cond p]) noValue (fun _ c => c.taken p neg = false)
      (fun _ s => s) := by
  have run (s : State) : exec (.trap p neg brk code) s = withIssue s fun iss =>
      (ctlForm (fun iss => [iss.cond p]) iss).perform iss (noValue iss) fun s c =>
        if c.taken p neg then (s, .trap (if brk = 1 then 0x15 else 0x14)) else (s, .done) := rfl
  refine ⟨fun s iss t w l ha clear taken => ?_,
    proceeds_of_idle run (fun _ => rfl) fun _ _ _ _ untaken => if_neg (by simp [untaken])⟩
  have found : ({ s with issue := none } : State).team? iss.team = some t := ha.team
  rw [run, withIssue_of ha.issue, Form.perform_clear (value := noValue iss) ha clear, if_pos taken,
    Issue.finish_trap found]
  rfl

end Sys2Proof.Machine

namespace Sys2Proof.Machine

/-! ### BAR and REP (R134, R281) -/

/-- What BAR does in its threads. -/
def barAct (mode : BitVec 1) (iss : Issue) (s : State) (c : Ctx) : State × LaneRes :=
  let arrived (t : Team) : List (Nat × Nat) := if mode == 1 then t.arrC else t.arrT
  if (iss.lanes c.t (c.w, c.l)).all ((arrived c.t).contains ·) then (s, .stay (.barrier (mode == 1))) else
  match s.releaseGate c (if mode == 1 then 1 else 0) false with
  | some w => (s, .stay w)
  | none => (s.updTeam c.t.id fun t =>
      let new := (iss.lanes c.t (c.w, c.l)).filter fun m => !(arrived t).contains m
      if mode == 1 then { t with arrC := t.arrC ++ new } else { t with arrT := t.arrT ++ new }, .stay (.barrier (mode == 1)))

/-- A team with the threads of a word among those that have arrived. -/
def Team.arrives (t : Team) (mode : BitVec 1) (ms : List (Nat × Nat)) : Team :=
  if mode = 1 then { t with arrC := t.arrC ++ ms.filter (!t.arrC.contains ·) }
  else { t with arrT := t.arrT ++ ms.filter (!t.arrT.contains ·) }

theorem Team.arrives_id (t : Team) (mode : BitVec 1) (ms : List (Nat × Nat)) : (t.arrives mode ms).id = t.id := by
  unfold Team.arrives
  split <;> rfl

theorem Team.arrives_warp (t : Team) (mode : BitVec 1) (ms : List (Nat × Nat)) (w : Nat) :
    (t.arrives mode ms).warp w = t.warp w := by
  unfold Team.arrives
  split <;> rfl

theorem exec_bar (mode : BitVec 1) (s : State) : exec (.bar mode) s = withIssue s fun iss s =>
    (((({ grp := .ctl } : Form).perform iss (noValue iss) (barAct mode iss) s).settleBarT iss.team).settleBarC iss.team).noteMixed
      iss.team := rfl

theorem barAct_arrives {mode : BitVec 1} {iss : Issue} {s : State} {c : Ctx} (own : c.iss = iss)
    (fresh : ∃ m ∈ c.all, m ∉ if mode = 1 then c.t.arrC else c.t.arrT)
    (free : s.releaseGate c (if mode = 1 then 1 else 0) false = none) :
    barAct mode iss s c = (s.updTeam c.t.id (·.arrives mode c.all), .stay (.barrier (mode == 1))) := by
  subst own
  obtain ⟨m, hm, new⟩ := fresh
  have some : (c.iss.lanes c.t (c.w, c.l)).all ((if mode == 1 then c.t.arrC else c.t.arrT).contains ·) = false := by
    refine Bool.eq_false_iff.2 fun all => new ?_
    simpa only [beq_iff_eq, List.contains_iff_mem] using List.all_eq_true.1 all m hm
  have free' : s.releaseGate c (if mode == 1 then 1 else 0) false = none := by simpa only [beq_iff_eq] using free
  simp only [barAct, some, Bool.false_eq_true, if_false, free']
  refine Prod.ext (congrArg (s.updTeam c.t.id) (funext fun t => ?_)) rfl
  unfold Team.arrives
  by_cases cohort : mode = 1 <;> simp only [cohort, beq_iff_eq, if_true, if_false] <;> rfl

theorem bar_arrives (mode : BitVec 1) (s : State) (iss : Issue) (t : Team) (w l : Nat) (ha : Acts s iss t w l)
    (clear : Form.clear { grp := .ctl } (fun _ => none) ⟨t, w, l, iss⟩)
    (fresh : ∃ m ∈ Ctx.all ⟨t, w, l, iss⟩, m ∉ if mode = 1 then t.arrC else t.arrT)
    (free : s.releaseGate ⟨t, w, l, iss⟩ (if mode = 1 then 1 else 0) false = none) :
    exec (.bar mode) s = .next (((((Ctx.all ⟨t, w, l, iss⟩).foldl (waitsAtBar iss (mode == 1))
      (({ s with issue := none } : State).updTeam t.id (·.arrives mode (Ctx.all ⟨t, w, l, iss⟩)))).settleBarT
        iss.team).settleBarC iss.team).noteMixed iss.team) := by
  have act := barAct_arrives (c := ⟨t, w, l, iss⟩) (s := { s with issue := none }) rfl fresh free
  have found : (({ s with issue := none } : State).updTeam iss.team (·.arrives mode (Ctx.all ⟨t, w, l, iss⟩))).team? iss.team =
      some (t.arrives mode (Ctx.all ⟨t, w, l, iss⟩)) := State.team?_updTeam_self (s := { s with issue := none }) ha.team _
        fun t => t.arrives_id mode _
  have lanes : iss.lanes (t.arrives mode (Ctx.all ⟨t, w, l, iss⟩)) (w, l) = Ctx.all ⟨t, w, l, iss⟩ := by
    simp only [Ctx.all, Issue.lanes, Team.arrives_warp]
  have held (s : State) (m : Nat × Nat) : s.holdLane iss.team (!iss.together) (.barrier (mode == 1)) m =
      waitsAtBar iss (mode == 1) s m := by
    simp only [State.holdLane, waitsAtBar]
    cases iss.together <;> rfl
  rw [exec_bar, withIssue_of ha.issue, Form.perform_clear (value := noValue iss) ha clear, act]
  simp only [ha.team_id]
  rw [Issue.finish_holds found (by simp) (by simp), lanes]
  simp only [held]

/-- REP puts every thread it concerns at the word after it, at repetition 0. -/
theorem rep_moves (count : BitVec 6) (mask : BitVec 3) (stride : BitVec 2) (s : State) (iss : Issue) (t : Team) (w l : Nat)
    (d a b : Bool) (ha : Acts s iss t w l) (clear : Form.clear { grp := .repeat_ } (fun _ => none) ⟨t, w, l, iss⟩)
    (next : iss.has2 = true) (fields : repFields (iss.raw2.toNat / 2 ^ 24) = some (d, a, b)) (hd : mask.getLsbD 2 = true → d = true)
    (haF : mask.getLsbD 1 = true → a = true) (hb : mask.getLsbD 0 = true → b = true) (owes : (t.thread w l).mustTrap = none) :
    exec (.rep count mask stride) s = .next ((Ctx.all ⟨t, w, l, iss⟩).foldl (fun s m =>
      s.updThread iss.team m.1 m.2 fun th => { th with pos := { hdr := iss.hdr, word := iss.word + 1, rep := some 0 } })
        { s with issue := none }) := by
  have follows : (if iss.has2 then repFields (bits iss.raw2.toNat 24 8) else none) = some (d, a, b) := by
    rw [if_pos next, bits_opcode, fields]
  have all : (mask.getLsbD 2 && !d || mask.getLsbD 1 && !a || mask.getLsbD 0 && !b) = false := by
    simp only [Bool.or_eq_false_iff, Bool.and_eq_false_imp, Bool.not_eq_false']
    exact ⟨⟨hd, haF⟩, hb⟩
  have run : exec (.rep count mask stride) s = .next (({ grp := .repeat_ } : Form).perform iss (fun _ => none)
      (fun s c => ((iss.lanes c.t (c.w, c.l)).foldl (fun s m => s.updThread iss.team m.1 m.2 fun th =>
        { th with pos := { hdr := iss.hdr, word := iss.word + 1, rep := some 0 } }) s, .moved)) { s with issue := none }) := by
    have whole : exec (.rep count mask stride) s = execRep count mask stride s := rfl
    rw [whole, execRep, withIssue_of ha.issue]
    simp only [follows, all, Option.isSome_some, if_true, Bool.not_false]
  obtain ⟨t', found, kept⟩ := foldl_updThread_keeps (tm := iss.team) Thread.mustTrap
    (fun s m t h => ⟨_, State.team?_updThread h m.1 m.2 fun th =>
      { th with pos := { hdr := iss.hdr, word := iss.word + 1, rep := some 0 } }, fun _ => rfl⟩)
    (Ctx.all ⟨t, w, l, iss⟩) (s := { s with issue := none }) ha.team w l
  have none := (congrArg Thread.mustTrap (State.thread_of_team? found w l)).trans (kept.trans owes)
  exact run.trans (congrArg Host.Outcome.next
    (Form.perform_moved ha clear rfl fun x some => nomatch none.symm.trans some))

/-! ### EXIT (R132) -/

/-- The launch of each team, and where its threads must trap with their partners (R399): what no control word but a trap
changes. -/
def Team.kin (t : Team) : Nat × Nat × List (List (Option Pos)) :=
  (t.id, t.launch, t.warps.map fun w => w.threads.map Thread.mustTrap)
def State.kin (s : State) : List Launch × List (Nat × Nat × List (List (Option Pos))) := (s.launches, s.teams.map Team.kin)

theorem State.kin_of_data {s s' : State} (h : s'.data = s.data) : s'.kin = s.kin := by
  have keep (s : State) : s.data.kin = s.kin := by
    simp only [State.kin, State.data, List.map_map]
    refine Prod.ext rfl (List.map_congr_left fun t _ => ?_)
    simp only [Function.comp_apply, Team.kin, Team.data, List.map_map]
    refine Prod.ext rfl (Prod.ext rfl (List.map_congr_left fun w _ => ?_))
    exact List.map_map
  rw [← keep, h, keep]

theorem State.updTeam_kin (s : State) (id : Nat) {f : Team → Team} (h : ∀ t, (f t).kin = t.kin) :
    (s.updTeam id f).kin = s.kin := by
  simp only [State.kin, State.updTeam, List.map_map]
  refine Prod.ext rfl (List.map_congr_left fun t _ => ?_)
  simp only [Function.comp_apply]
  split
  · exact h t
  · rfl

theorem State.updWarp_kin (s : State) (tm w : Nat) {f : Warp → Warp}
    (h : ∀ wp, (f wp).threads.map Thread.mustTrap = wp.threads.map Thread.mustTrap) : (s.updWarp tm w f).kin = s.kin :=
  s.updTeam_kin tm fun t => Prod.ext rfl (Prod.ext rfl (updAt_map_of _ f h t.warps w))

theorem State.updThread_kin (s : State) (tm w l : Nat) {f : Thread → Thread} (h : ∀ th, (f th).mustTrap = th.mustTrap) :
    (s.updThread tm w l f).kin = s.kin :=
  s.updWarp_kin tm w fun wp => updAt_map_of _ f h wp.threads l

theorem State.releaseBarrier_kin (s : State) (tm : Nat) (cohort : Bool) : (s.releaseBarrier tm cohort).kin = s.kin := by
  unfold State.releaseBarrier
  split
  · rfl
  · refine foldl_of_step State.kin _ (fun s m => ?_) _ s
    simp only
    split
    · refine (State.kin_of_data (State.advance_data _ _ _ _ _ _)).trans (s.updThread_kin _ _ _ ?_)
      exact fun _ => rfl
    · rfl

theorem State.settleBarT_kin (s : State) (tm : Nat) : (s.settleBarT tm).kin = s.kin := by
  unfold State.settleBarT
  split
  · rfl
  · split
    · refine (State.updTeam_kin _ tm ?_).trans (s.releaseBarrier_kin tm false)
      exact fun _ => rfl
    · rfl

theorem State.settleBarC_kin (s : State) (tm : Nat) : (s.settleBarC tm).kin = s.kin := by
  unfold State.settleBarC
  split
  · rfl
  · simp only
    split
    · refine foldl_of_step State.kin _ (fun s u => ?_) _ s
      refine (State.updTeam_kin _ _ ?_).trans (s.releaseBarrier_kin u.id true)
      exact fun _ => rfl
    · rfl

theorem State.closeStream_kin (s : State) (tm q : Nat) : (s.closeStream tm q).kin = s.kin := by
  have closed : (s.updStream tm q Stream.close).kin = s.kin := by
    refine s.updTeam_kin tm ?_
    exact fun _ => rfl
  unfold State.closeStream
  simp only
  split
  · exact closed
  · exact closed

theorem Warp.settleMeetings_mustTrap (wp : Warp) :
    wp.settleMeetings.threads.map Thread.mustTrap = wp.threads.map Thread.mustTrap := by
  simp only [Warp.settleMeetings, List.map_map]
  refine List.map_congr_left fun th _ => ?_
  simp only [Function.comp_apply]
  split <;> rfl

theorem State.exitThread_kin (s : State) (tm w l : Nat) : (s.exitThread tm w l).kin = s.kin := by
  unfold State.exitThread
  extract_lets clk s1 s2 last s3 s4
  have left : s2.kin = s.kin := by
    refine (s1.updWarp_kin tm w fun wp => ?_).trans (State.kin_of_data (s.unbundle_data tm w l))
    refine (Warp.settleMeetings_mustTrap _).trans (updAt_map_of _ _ ?_ wp.threads l)
    exact fun _ => rfl
  have settled : s4.kin = s2.kin := by
    refine (State.updTeam_kin _ tm ?_).trans ((State.settleBarC_kin _ tm).trans (State.settleBarT_kin s3 tm))
    exact fun _ => rfl
  have closed : ((List.range 8).foldl (fun s q => s.closeStream tm q) s4).kin = s4.kin :=
    foldl_of_step State.kin _ (fun s q => s.closeStream_kin tm q) _ s4
  split
  · exact closed.trans (settled.trans left)
  · exact settled.trans left

theorem State.releaseSlot_kin (s : State) (tm w : Nat) : (s.releaseSlot tm w).kin = s.kin := by
  have freed : (s.updTeam tm (·.freesSlot w)).kin = s.kin := by
    refine s.updTeam_kin tm fun t => Prod.ext rfl (Prod.ext rfl (updAt_map_of _ _ ?_ t.warps w))
    exact fun _ => rfl
  unfold State.releaseSlot
  split
  · rfl
  · simp only
    split
    · split
      · exact freed
      · exact freed
    · rfl

theorem State.killTeam_kin (s : State) (tm : Nat) : (s.killTeam tm).kin = s.kin := by
  unfold State.killTeam
  split
  · rfl
  · rename_i t found
    extract_lets s1 s2 s3 s4
    have dropped : s1.kin = s.kin := by
      have dissolved := State.kin_of_data (s.dissolve_data tm)
      simp only [s1, State.dropVictims]
      split
      · exact dissolved
      · exact dissolved
    have killed : s4.kin = s3.kin := s3.updTeam_kin tm fun t => by
      simp only [Team.kin, List.map_map]
      refine Prod.ext rfl (Prod.ext rfl (List.map_congr_left fun w _ => ?_))
      simp only [Function.comp_apply, List.map_map]
      rfl
    exact (foldl_of_step State.kin _ (fun s (u : Team) => s.settleBarC_kin u.id) _ s4).trans (killed.trans dropped)

/-- A team of states of equal kin is in a protected launch in both or in neither, and its threads owe the same traps. -/
theorem State.team?_of_kin {s s' : State} (h : s'.kin = s.kin) {tm : Nat} {t : Team} (found : s.team? tm = some t) :
    ∃ t', s'.team? tm = some t' ∧ s'.isProtected t' = s.isProtected t ∧
      ∀ w l, (t'.thread w l).mustTrap = (t.thread w l).mustTrap := by
  have named : ((·.1 == tm) ∘ Team.kin) = fun t : Team => t.id == tm := rfl
  have look (s : State) : (s.kin.2.find? fun x => x.1 == tm) = (s.team? tm).map Team.kin := by
    simp only [State.kin, List.find?_map, named, State.team?]
  have same := look s'
  rw [h, look s, found] at same
  obtain ⟨t', found', kin⟩ := Option.map_eq_some_iff.1 same.symm
  have launches : s'.launches = s.launches := congrArg Prod.fst h
  have launch : t'.launch = t.launch := congrArg (fun k => k.2.1) kin
  have read (t : Team) (w l : Nat) : (t.thread w l).mustTrap = (t.kin.2.2.getD w []).getD l none := by
    simp only [Team.thread, Team.warp, Warp.thread, Team.kin, List.getD_eq_getElem?_getD, List.getElem?_map]
    cases t.warps[w]? with
    | none => rfl
    | some wp =>
      simp only [Option.map_some, Option.getD_some, List.getElem?_map]
      cases wp.threads[l]? <;> rfl
  refine ⟨t', found', ?_, fun w l => by rw [read t' w l, kin, read t w l]⟩
  simp only [State.isProtected, State.launch?, launches, launch]

/-- In a launch that is not protected, and in class 0, no exit breaks a pair. -/
theorem Issue.pairExits_alone {iss : Issue} {s s' : State} {t : Team} (kin : s'.kin = s.kin) (found : s.team? iss.team = some t)
    (single : s.isProtected t = false ∨ iss.cls = 0) : iss.pairExits s' = s' := by
  obtain ⟨t', found', prot, -⟩ := State.team?_of_kin kin found
  simp only [Issue.pairExits, found', prot]
  rcases single with single | scalar
  · simp [single]
  · simp [scalar]

/-- What EXIT does in its threads. -/
def exitAct (p : BitVec 3) (neg : BitVec 1) (mode : BitVec 2) (iss : Issue) (s : State) (c : Ctx) : State × LaneRes :=
  if !c.taken p neg then (s, .done)
  else if mode = 1 then (s.killTeam iss.team, .moved)
  else
    let s := if iss.cls = 0 then s.updWarp iss.team c.w fun wp => { wp with ab := wp.ab.pend (s.clkOf iss.team) } else s
    ((((iss.lanes c.t (c.w, c.l)).foldl (fun s m => s.exitThread iss.team m.1 m.2) s).releaseSlot iss.team c.w), .moved)

theorem exec_exit (p : BitVec 3) (neg : BitVec 1) (mode : BitVec 2) (s : State) :
    exec (.exit p neg mode) s = withIssue s fun iss s => iss.pairExits
      ((transferForm iss p (Instr.exit p neg mode).wf []).perform iss (noValue iss) (exitAct p neg mode iss) s) := rfl

/-- The threads that a word concerns exit; in class 0 the warp's own region ends with them (R132, R354). -/
def exitAll (c : Ctx) (s : State) : State :=
  (c.all.foldl (fun s m => s.exitThread c.iss.team m.1 m.2)
    (if c.iss.cls = 0 then s.updWarp c.iss.team c.w fun wp => { wp with ab := wp.ab.pend (s.clkOf c.iss.team) }
      else s)).releaseSlot c.iss.team c.w

theorem exitAll_kin (c : Ctx) (s : State) : (exitAll c s).kin = s.kin := by
  refine (State.releaseSlot_kin _ _ _).trans ((foldl_of_step State.kin _ (fun s m => s.exitThread_kin _ _ _) _ _).trans ?_)
  split
  · refine s.updWarp_kin _ _ ?_
    exact fun _ => rfl
  · rfl

section
variable {p : BitVec 3} {neg : BitVec 1} {mode : BitVec 2}

theorem exitAct_exits (mode1 : mode ≠ 1) {c : Ctx} (taken : c.taken p neg = true) (s : State) :
    exitAct p neg mode c.iss s c = (exitAll c s, .moved) := by
  simp only [exitAct, taken, Bool.not_true, Bool.false_eq_true, if_false, if_neg mode1]
  rfl

theorem exitAct_kills {c : Ctx} (taken : c.taken p neg = true) (s : State) :
    exitAct p neg 1 c.iss s c = (s.killTeam c.iss.team, .moved) := by
  simp [exitAct, taken]

theorem exitAct_stays {iss : Issue} {c : Ctx} (untaken : c.taken p neg = false) (s : State) :
    exitAct p neg mode iss s c = (s, .done) := by
  simp [exitAct, untaken]

/-- An EXIT that breaks no pair leaves what its action leaves. -/
theorem exit_goes {eff : Ctx → State → State}
    (moves : ∀ (c : Ctx) (s : State), c.taken p neg = true → exitAct p neg mode c.iss s c = (eff c s, .moved))
    (kin : ∀ (c : Ctx) (s : State), (eff c s).kin = s.kin) :
    Goes (.exit p neg mode) (fun iss => transferForm iss p (Instr.exit p neg mode).wf []) noValue
      (fun s c => c.taken p neg = true ∧ (s.isProtected c.t = false ∨ c.iss.cls = 0)) eff := by
  intro s iss t w l ha hc ⟨taken, single⟩ free
  rw [exec_exit, withIssue_of ha.issue, 
    Form.perform_moved (value := noValue iss) ha hc (moves ⟨t, w, l, iss⟩ _ taken) free, 
    Issue.pairExits_alone (s := { s with issue := none }) (kin _ _) ha.team single]

theorem exit_proceeds : Proceeds (.exit p neg mode) (fun iss => transferForm iss p (Instr.exit p neg mode).wf []) noValue
    (fun s c => c.taken p neg = false ∧ (s.isProtected c.t = false ∨ c.iss.cls = 0)) fun _ s => s := by
  intro s iss t w l ha c hc ⟨untaken, single⟩ owes
  have stays : (goOn c { s with issue := none }).kin = ({ s with issue := none } : State).kin :=
    State.kin_of_data (foldl_of_step State.data _ (fun s m => s.advance_data _ _ _ _ _) _ _)
  rw [exec_exit, withIssue_of ha.issue, Form.perform_proceeds (value := noValue iss) ha hc rfl owes (exitAct_stays untaken _)
    ⟨t, ha.team, rfl⟩, 
    Issue.pairExits_alone (s := { s with issue := none }) stays ha.team single]

end

theorem State.releaseSlot_ends (s : State) (tm w : Nat) : (s.releaseSlot tm w).ends = s.ends := by
  have freed : (s.updTeam tm (·.freesSlot w)).ends = s.ends := by
    refine s.updTeam_ends tm _ fun t => Prod.ext rfl (updAt_map_of _ _ ?_ t.warps w)
    exact fun _ => rfl
  unfold State.releaseSlot
  split
  · rfl
  · simp only
    split
    · split
      · exact freed
      · exact freed
    · rfl

/-- A thread of a protected launch that exits while its partner is live breaks the pair (R399). -/
theorem exit_breaks_pair {p : BitVec 3} {neg : BitVec 1} {mode : BitVec 2} (mode1 : mode ≠ 1) (s : State) (iss : Issue) (t : Team)
    (w l : Nat) (ha : Acts s iss t w l) (alone : iss.members = [(w, l)]) (hw : w < t.warps.length)
    (hl : l < (t.warp w).threads.length) (prot : s.isProtected t = true) (vector : iss.cls ≠ 0)
    (hc : (transferForm iss p (Instr.exit p neg mode).wf []).clear (fun _ => none) ⟨t, w, l, iss⟩)
    (taken : Ctx.taken ⟨t, w, l, iss⟩ p neg = true) (owes : (t.thread w l).mustTrap = none) :
    let s1 := (({ s with issue := none } : State).exitThread iss.team w l).releaseSlot iss.team w
    exec (.exit p neg mode) s = .next (if (t.thread w (l ^^^ 1)).exited then s1 else
      { s1 with agenda := .event .shadowMismatch { team := iss.team, warp := w, lane := l } :: s1.agenda }) := by
  intro s1
  have found : ({ s with issue := none } : State).team? iss.team = some t := ha.team
  have exits : exitAll ⟨t, w, l, iss⟩ { s with issue := none } = s1 := by
    simp [exitAll, Ctx.all, Issue.lanes_of_vector vector, vector, s1]
  have kin : s1.kin = ({ s with issue := none } : State).kin := exits ▸ exitAll_kin _ _
  have ends : s1.ends = (({ s with issue := none } : State).updThread iss.team w l fun th =>
      { th with exited := true, rsd := 0 }).ends := (State.releaseSlot_ends _ _ _).trans (State.exitThread_ends _ _ _ _)
  obtain ⟨t1, found1, prot1, must1⟩ := State.team?_of_kin kin found
  obtain ⟨t2, found2, same⟩ := State.thread_ends ends (State.team?_updThread found w l _)
  obtain rfl : t2 = t1 := Option.some.inj (found2.symm.trans found1)
  have partner : l ≠ l ^^^ 1 := fun e => by
    have := congrArg (· ^^^ l) e
    simp [Nat.xor_comm l 1] at this
  have gone : (t2.thread w l).exited = true := (congrArg Prod.fst (same w l)).trans
    (congrArg Thread.exited (Team.thread_updThread hw hl _))
  have other : (t2.thread w (l ^^^ 1)).exited = (t.thread w (l ^^^ 1)).exited := by
    refine (congrArg Prod.fst (same w (l ^^^ 1))).trans ?_
    rw [Team.thread, Team.updThread, Team.warp_updWarp hw, Warp.thread_updThread_of_ne partner]
    rfl
  have free (x : Pos) : (s1.thread iss.team w l).mustTrap ≠ some x := by
    rw [State.thread_of_team? found1, must1, owes]
    exact nofun
  have prot1' : s1.isProtected t2 = true := prot1.trans prot
  rw [exec_exit, withIssue_of ha.issue, 
    Form.perform_moved (value := noValue iss) ha hc ((exitAct_exits mode1 (c := ⟨t, w, l, iss⟩) taken _).trans (by rw [exits])) free]
  cases live : (t.thread w (l ^^^ 1)).exited <;>
    simp [Issue.pairExits, found1, prot1', vector, alone, gone, other, live]

/-- Settles O11: each word's action and what becomes of its threads after it: they go on (`proceeds_of_done`), wait
(`goes_of_waiting`, `bar_arrives`), trap (`trap_goes`), or stand where the action put them (`exit_goes`, `rep_moves`). -/
theorem controlWordsHaveTheirEffect : Obligations.ControlWordsHaveTheirEffect :=
  ⟨fun _ _ _ => ⟨fun mode1 => exit_goes (fun _ s taken => exitAct_exits mode1 taken s) exitAll_kin,
      fun mode1 => by subst mode1; exact exit_goes (fun _ s taken => exitAct_kills taken s) fun c s => s.killTeam_kin c.iss.team,
      fun mode1 => exit_breaks_pair mode1, exit_proceeds⟩,
    meet_proceeds, meetr_proceeds, bar_arrives,
    fun count mask stride s iss t w l d a b ha clear next fields hd haF hb owes =>
      rep_moves count mask stride s iss t w l d a b ha clear next fields hd haF hb owes,
    lease_proceeds, waitt_goes, waittD_goes, trap_goes⟩

end Sys2Proof.Machine

namespace Sys2Proof.Machine

/-! ### Threads whose wait is over (R121, R135, R201, R278, R383) -/

section
variable {s : State} {tm w l : Nat}

/-- A thread that waits for something has its place in its team. -/
theorem State.team_of_waiting (waits : (s.thread tm w l).wait ≠ .none) :
    ∃ t, s.team? tm = some t ∧ w < t.warps.length ∧ l < (t.warp w).threads.length := by
  cases found : s.team? tm with
  | none => simp [State.thread, found, Thread.gone] at waits
  | some t =>
    rw [State.thread_of_team? found] at waits
    have lane : l < (t.warp w).threads.length := by
      by_contra out
      rw [Team.thread, Warp.thread, List.getD_eq_default _ _ (Nat.not_lt.mp out)] at waits
      exact waits rfl
    refine ⟨t, rfl, ?_, lane⟩
    by_contra out
    rw [Team.warp, List.getD_eq_default _ _ (Nat.not_lt.mp out)] at lane
    cases lane

theorem State.thread_updThread_of_waiting (waits : (s.thread tm w l).wait ≠ .none) (f : Thread → Thread) :
    (s.updThread tm w l f).thread tm w l = f (s.thread tm w l) := by
  obtain ⟨t, found, hw, hl⟩ := State.team_of_waiting waits
  rw [State.thread_of_team? (State.team?_updThread found w l f), State.thread_of_team? found, Team.thread_updThread hw hl]

/-- An update that changes nothing the second time, made in threads of a warp: each of them has it at the end. -/
theorem State.foldl_updThread_thread {t : Team} (found : s.team? tm = some t) {f : Thread → Thread}
    (once : ∀ th, f (f th) = f th) {ls : List Nat} (live : (t.thread w l).exited = false) (mem : l ∈ ls) :
    (ls.foldl (fun s x => s.updThread tm w x f) s).thread tm w l = f (t.thread w l) := by
  obtain ⟨hw, hl⟩ := Team.bounds_of_live live
  have step (s : State) (m : Nat × Nat) (t : Team) (h : s.team? tm = some t) := State.team?_updThread h m.1 m.2 f
  have pairs : ls.foldl (fun s x => s.updThread tm w x f) s =
      (ls.map fun x => (w, x)).foldl (fun s m => s.updThread tm m.1 m.2 f) s := by rw [List.foldl_map]
  obtain ⟨t1, found1, has⟩ := foldl_updThread_spec (Q := fun th => f th = th) (fun s m t h => ⟨f, step s m t h, once⟩)
    (ls.map fun x => (w, x)) found hw hl (.inl (List.mem_map_of_mem mem))
  obtain ⟨t2, found2, same⟩ := foldl_updThread_keeps f (fun s m t h => ⟨f, step s m t h, once⟩) (ls.map fun x => (w, x))
    found w l
  obtain rfl : t2 = t1 := Option.some.inj (found2.symm.trans found1)
  rw [pairs, State.thread_of_team? found2, ← has, same]

end

/-- The warp whose due meeting groups have been released (R121). -/
def Warp.releasesDue (wp : Warp) (clk : Nat) : Warp :=
  { wp with threads := wp.threads.map fun (th : Thread) =>
      if !th.exited && th.atMeeting && wp.groupDue clk th.mr then th.unpark else th }

theorem Warp.releasesDue_thread (wp : Warp) (clk l : Nat) : (wp.releasesDue clk).thread l =
    if (wp.thread l).exited = false ∧ (wp.thread l).atMeeting = true ∧ wp.groupDue clk (wp.thread l).mr = true
    then { wp.thread l with wait := .none, waitSince := none } else wp.thread l := by
  simp only [Warp.thread, Warp.releasesDue, List.getD_eq_getElem?_getD, List.getElem?_map]
  cases wp.threads[l]? with
  | none => simp [Thread.gone]
  | some th => simp [Thread.unpark, and_assoc]

theorem meetingTimeout_releases (s : State) {t : Team} (found : s.team? s.target.team = some t) (l : Nat) :
    (s.updWarp s.target.team s.target.warp fun wp => wp.releasesDue (s.clkOf s.target.team)).thread s.target.team s.target.warp l =
      ((t.warp s.target.warp).releasesDue (s.clkOf s.target.team)).thread l := by
  rw [State.thread_of_team? (State.team?_updWarp found _ _), Team.thread]
  by_cases hw : s.target.warp < t.warps.length
  · rw [Team.warp_updWarp hw]
  · have none : t.warp s.target.warp = {} := List.getD_eq_default _ _ (Nat.not_lt.1 hw)
    have none' : (t.updWarp s.target.warp fun wp => wp.releasesDue (s.clkOf s.target.team)).warp s.target.warp = {} :=
      List.getD_eq_default _ _ (by simpa [Team.updWarp] using hw)
    rw [none, none']
    rfl

/-- A thread whose release is complete (R278). -/
def Thread.released (th : Thread) : Thread := { th.unpark with relDone := true }

section
variable {s : State} {tm w l : Nat}

theorem State.foldl_updThread_mem (f : Thread → Thread) (ls : List Nat) :
    (ls.foldl (fun s x => s.updThread tm w x f) s).mem = s.mem := by
  refine foldl_of_step State.mem _ ?_ ls s
  exact fun _ _ => rfl

theorem State.completeRelease_done {scope : Nat} {whole : Bool} (waits : (s.thread tm w l).wait = .release scope whole)
    (ready : s.relReady tm w (if whole then 32 else l) scope = true) :
    s.completeRelease tm w l =
      (s.lanesOf tm w (if whole then 32 else l)).foldl (fun s x => s.updThread tm w x (·.released)) s := by
  simp only [State.completeRelease, waits, ready, if_true]
  rfl

theorem State.completeRelease_out {scope : Nat} (waits : (s.thread tm w l).wait = .release scope false)
    (out : s.relReady tm w l scope = false) : s.completeRelease tm w l = s := by
  simp only [State.completeRelease, waits, Bool.false_eq_true, if_false, out]

theorem State.endTimeWait_time {d : Nat} (waits : (s.thread tm w l).wait = .time d) (come : d ≤ s.time) :
    s.endTimeWait tm w l = s.advance tm w l 1 := by
  simp only [State.endTimeWait, waits, come, if_true]

theorem State.endTimeWait_horizon {d : Nat} (waits : (s.thread tm w l).wait = .horizon d) (come : d ≤ s.time) :
    s.endTimeWait tm w l = s.updThread tm w l fun th => { th with wait := .none } := by
  simp only [State.endTimeWait, waits, come, if_true]

theorem State.endTimeWait_early {d : Nat} (waits : (s.thread tm w l).wait = .time d ∨ (s.thread tm w l).wait = .horizon d)
    (later : s.time < d) : s.endTimeWait tm w l = s := by
  have early : ¬d ≤ s.time := Nat.not_le.2 later
  rcases waits with waits | waits <;> simp only [State.endTimeWait, waits, early, if_false]

/-- A release of one thread, and of a warp, marks the threads it was for. -/
theorem State.completeRelease_one {scope : Nat} (waits : (s.thread tm w l).wait = .release scope false) (lane : l < 32)
    (ready : s.relReady tm w l scope = true) : s.completeRelease tm w l = s.updThread tm w l (·.released) := by
  have one : s.lanesOf tm w l = [l] := if_neg (Nat.ne_of_lt lane)
  have done := State.completeRelease_done (whole := false) waits ready
  simp only [Bool.false_eq_true, if_false, one, List.foldl_cons, List.foldl_nil] at done
  exact done

theorem State.completeRelease_warp {scope : Nat} (waits : (s.thread tm w l).wait = .release scope true)
    (ready : s.relReady tm w 32 scope = true) {k : Nat} (hk : k ∈ (s.warp tm w).live) :
    (s.completeRelease tm w l).thread tm w k = (s.thread tm w k).released := by
  obtain ⟨t, found, -, -⟩ := State.team_of_waiting (s := s) (tm := tm) (w := w) (l := l) (by rw [waits]; simp)
  have warp : s.warp tm w = t.warp w := by rw [State.warp, found]; rfl
  have all : s.lanesOf tm w 32 = (s.warp tm w).live := if_pos rfl
  have done := State.completeRelease_done (whole := true) waits ready
  simp only [if_true, all] at done
  rw [done, State.foldl_updThread_thread (f := Thread.released) found (fun _ => rfl) (Warp.mem_live.1 (warp ▸ hk)).2 hk,
    State.thread_of_team? found]

end

/-- A write of sr.tret that is aligned, or of its high half, is made (R383). -/
theorem exec_tretWrite {s : State} {x : Word} (value : s.target.value = x.toNat)
    (fits : s.target.id = 1 ∨ x.toNat % 4 = 0) :
    exec .tretWrite s = .next (s.updThread s.target.team s.target.warp s.target.lane (·.setTret (s.target.id == 1) x)) := by
  have run : exec .tretWrite s = execTretWrite s := rfl
  have made : ¬(s.target.id ≠ 1 ∧ x.toNat % 4 ≠ 0) := by tauto
  rw [run, execTretWrite]
  simp only [value, if_neg made, BitVec.ofNat_toNat, BitVec.setWidth_eq]

theorem exec_mshrReplay {s : State} (waits : s.me.wait = .mshr) :
    exec .mshrReplay s = .next (s.updThread s.target.team s.target.warp s.target.lane (·.unpark)) := by
  have run : exec .mshrReplay s = execMshrReplay s := rfl
  have here : (s.thread s.target.team s.target.warp s.target.lane).wait = .mshr := waits
  rw [run, execMshrReplay]
  simp only [here, beq_self_eq_true, if_true]

theorem parkedThreadsGoOn : ParkedThreadsGoOn := by
  have next {a b : State} (h : a = b) : Host.Outcome.next (φ := Fault) (ρ := Refusal) a = .next b := congrArg _ h
  refine ⟨fun s is => ?_, fun d s ⟨waits, come⟩ => next (State.endTimeWait_time waits come), fun d s ⟨waits, come⟩ => ?_,
    fun d s ⟨waits, later⟩ => next (State.endTimeWait_early waits later), fun scope s ⟨waits, lane, ready⟩ => ?_,
    fun scope s ⟨waits, ready⟩ => ?_, fun scope s ⟨waits, out⟩ => next (State.completeRelease_out waits out),
    fun s waits => ?_, fun x s ⟨live, value, fits⟩ => ?_⟩
  · obtain ⟨t, found⟩ := Option.isSome_iff_exists.1 is
    have warp : s.warp s.target.team s.target.warp = t.warp s.target.warp := by rw [State.warp, found]; rfl
    refine ⟨_, rfl, rfl, fun l => ?_⟩
    rw [warp]
    exact (meetingTimeout_releases s found l).trans (Warp.releasesDue_thread _ _ l)
  · refine ⟨_, next (State.endTimeWait_horizon waits come), State.thread_updThread_of_waiting ?_ _, rfl⟩
    exact fun none => nomatch none.symm.trans waits
  · refine ⟨_, next (State.completeRelease_one waits lane ready), State.thread_updThread_of_waiting ?_ _, rfl⟩
    exact fun none => nomatch none.symm.trans waits
  · refine ⟨_, rfl, ?_, fun l hl => State.completeRelease_warp waits ready hl⟩
    exact (congrArg State.mem (State.completeRelease_done waits ready)).trans (State.foldl_updThread_mem _ _)
  · refine ⟨_, exec_mshrReplay waits, State.thread_updThread_of_waiting ?_ _, rfl⟩
    exact fun none => nomatch none.symm.trans waits
  · refine ⟨_, exec_tretWrite value fits, (State.thread_updThread_of_live live _).trans ?_, rfl⟩
    simp only [Thread.setTret, beq_iff_eq]
    rfl

end Sys2Proof.Machine

namespace Sys2Proof.Machine

/-! ### Accesses of protected pairs (R399) -/

/-- The visible thread of a pair has the even lane. -/
theorem visible_lane (l : Nat) : (if l % 2 = 0 then l else l ^^^ 1) = l - l % 2 := by
  split
  case isTrue even => omega
  case isFalse odd =>
    rw [Nat.xor_one_of_odd (Nat.odd_iff.2 (by omega))]
    omega

section
variable {s : State} {c : Ctx} {len : Nat} {access : List Nat} {go : State → Ctx → State × LaneRes}

theorem State.pairGate_first (prot : s.isProtected c.t = true) (cls : c.iss.cls ≠ 0)
    (first : (s.thread c.t.id c.w (c.l ^^^ 1)).wait ≠ .partner ∧ ∀ x a, (s.thread c.t.id c.w (c.l ^^^ 1)).wait ≠ .pair x a) :
    s.pairGate c len access go =
      (s.updThread c.t.id c.w c.l fun th => th.park s.time (.pair (s.clkOf c.t.id) access), .moved) := by
  obtain ⟨nopartner, nopair⟩ := first
  simp only [State.pairGate, prot, cls, Bool.not_true, decide_false, Bool.or_false, Bool.false_eq_true, if_false]

theorem State.pairGate_differs (prot : s.isProtected c.t = true) (cls : c.iss.cls ≠ 0) {x : Nat} {a : List Nat}
    (is : (s.thread c.t.id c.w (c.l ^^^ 1)).wait = .pair x a) (ne : a ≠ access) :
    s.pairGate c len access go =
      ({ s.updThread c.t.id c.w c.l fun th => th.park s.time (.pair (s.clkOf c.t.id) access) with
         agenda := .event .shadowMismatch { team := c.t.id, warp := c.w, lane := c.l } :: s.agenda }, .moved) := by
  simp only [State.pairGate, prot, cls, is, bne_iff_ne.2 ne, Bool.not_true, decide_false, Bool.or_false, Bool.false_eq_true,
    if_false, if_true]
  rfl

end

/-- What both members of a pair do once they have issued the same access: the visible one makes it, or waits, and its partner
with it. -/
def State.pairBoth (s : State) (c : Ctx) (len : Nat) (go : State → Ctx → State × LaneRes) : State × LaneRes :=
  let v := c.l - c.l % 2
  let p := c.l ^^^ 1
  match go s { c with l := v } with
  | (s, .done) => ((s.updThread c.t.id c.w p Thread.unpark).advance c.t.id c.w p len, .done)
  | (s, .stay w) =>
    let hold (l : Nat) (s : State) : State := s.updThread c.t.id c.w l fun th => th.park s.time (if l = v then w else .partner)
    (hold p (hold c.l s), .moved)
  | (s, .trap k) => (c.iss.deliverTraps [((c.w, p), k, 0), ((c.w, c.l), k, 0)] s, .moved)
  | (s, .moved) => (s, .moved)

section
variable {s : State} {c : Ctx} {len : Nat} {access : List Nat} {go : State → Ctx → State × LaneRes}

theorem State.pairGate_both (prot : s.isProtected c.t = true) (cls : c.iss.cls ≠ 0)
    (issued : (s.thread c.t.id c.w (c.l ^^^ 1)).wait = .partner ∨ ∃ x, (s.thread c.t.id c.w (c.l ^^^ 1)).wait = .pair x access) :
    s.pairGate c len access go = s.pairBoth c len go := by
  rcases issued with is | ⟨x, is⟩ <;>
    simp only [State.pairGate, prot, cls, is, Bool.not_true, decide_false, Bool.or_false, Bool.false_eq_true, if_false,
      bne_self_eq_false, visible_lane] <;> rfl

theorem State.updThread_park_data (s : State) (tm w l now : Nat) (wt : Wait) :
    (s.updThread tm w l fun th => th.park now wt).data = s.data :=
  State.updThread_data _ _ _ _ _ fun th => th.park_data now wt

theorem State.pairBoth_done {s1 : State} (run : go s { c with l := c.l - c.l % 2 } = (s1, .done)) :
    s.pairBoth c len go = ((s1.updThread c.t.id c.w (c.l ^^^ 1) Thread.unpark).advance c.t.id c.w (c.l ^^^ 1) len, .done) := by
  simp only [State.pairBoth, run]

theorem State.pairBoth_done_data {s1 : State} (run : go s { c with l := c.l - c.l % 2 } = (s1, .done)) :
    ∃ s2, s.pairBoth c len go = (s2, .done) ∧ s2.data = s1.data :=
  ⟨_, State.pairBoth_done run, (State.advance_data _ _ _ _ _ _).trans (State.updThread_data _ _ _ _ _ fun _ => rfl)⟩

theorem State.pairBoth_stay {s1 : State} {wt : Wait} (run : go s { c with l := c.l - c.l % 2 } = (s1, .stay wt)) :
    ∃ s2, s.pairBoth c len go = (s2, .moved) ∧ s2.data = s1.data := by
  simp only [State.pairBoth, run]
  refine ⟨_, rfl, ?_⟩
  exact (State.updThread_park_data ..).trans (State.updThread_park_data ..)

end

/-- What STG does for the thread that makes its store; `n` is the number of its group. -/
def stgGo (f : M2) (n : Nat) (s : State) (c : Ctx) : State × LaneRes :=
  let s' := (s.noteLine c.t.id c.w (f.addr64 c)).fresh
  (s'.1.pushStore c f n s'.2 (f.addr64 c) (.store (f.storeBytes c)), .done)

theorem stgGo_eq (f : M2) (s : State) (c : Ctx) : stgGo f s.nextId s c = (storeSent f c s, .done) := by
  simp only [stgGo, storeSent, State.fresh, State.pushStore, State.noteLine, State.updWarp, State.updTeam]

/-- What STG does where it acts. -/
def stgAct (f : M2) (n : Nat) (s : State) (c : Ctx) : State × LaneRes :=
  if !canonical (f.addr64 c) then (s, .trap 0x0C) else storeAct f (fun c => [f.addr64 c]) (stgGo f n) s c

theorem exec_stg (f : M2) (s : State) : exec (.stg f) s = withIssue s fun iss =>
    (storeForm .mem0 (.stg f) f [f.pairA iss] iss).perform iss (fun c => alignCheck (f.addr64 c) f.bytes) (stgAct f s.nextId) := rfl

theorem State.memGate_none {f : M2} {s : State} {c : Ctx} (may : mayAccess f s c) (cls : c.iss.cls ≠ 0) :
    s.memGate c f.order.toNat f.scope.toNat = none := by
  obtain ⟨free, done⟩ := may
  have own : c.own = c.l := if_neg cls
  rw [own] at done
  simp only [State.memGate, free, Bool.false_eq_true, if_false, ite_eq_right_iff]
  intro releases
  have late : ¬f.order.toNat ≤ 1 := by omega
  simp only [State.releaseGate, cls, or_self, Bool.false_eq_true, if_false, ite_eq_left_iff]
  simp only [late, false_or] at done
  simp [done]

theorem stgAct_pairs {f : M2} {s : State} {c : Ctx} (canon : canonical (f.addr64 c) = true) (may : mayAccess f s c)
    (cls : c.iss.cls ≠ 0) (n : Nat) : stgAct f n s c = s.pairGate c 2 (f.access c [f.addr64 c]) (stgGo f n) := by
  simp only [stgAct, canon, storeAct, State.memGate_none may cls, Bool.not_true, Bool.false_eq_true, if_false]

/-- Holding a thread leaves it the trap that it owes its partner. -/
theorem State.park_mustTrap {s : State} {t : Team} {w l : Nat} (found : s.team? t.id = some t) (now : Nat) (wt : Wait) :
    ((s.updThread t.id w l fun th => th.park now wt).thread t.id w l).mustTrap = (t.thread w l).mustTrap := by
  rw [State.thread_of_team? (State.team?_updThread found w l _)]
  have same := Team.duties_updThread (f := fun th => th.park now wt) (fun _ => rfl) t w l w
  exact (Warp.thread_of_duties same l).2

theorem protectedAccessesGoInPairs : ProtectedAccessesGoInPairs := by
  refine ⟨fun s c len access go prot cls => ⟨State.pairGate_first prot cls,
    fun x a is ne => State.pairGate_differs prot cls is ne, fun issued => ?_⟩, fun f s iss t w l acts prot cls => ?_⟩
  · rw [State.pairGate_both prot cls issued]
    exact ⟨fun s1 run => State.pairBoth_done run, fun s1 wt run => State.pairBoth_stay run⟩
  · intro c access other clear canon may free
    have found : ({ s with issue := none } : State).team? t.id = some t := acts.team_id ▸ acts.team
    have partner : ({ s with issue := none } : State).thread t.id w (l ^^^ 1) = t.thread w (l ^^^ 1) :=
      State.thread_of_team? found ..
    have act := stgAct_pairs (s := { s with issue := none }) (c := c) canon may cls ({ s with issue := none } : State).nextId
    have run := (exec_stg f s).trans (withIssue_of acts.issue _)
    constructor
    · intro first
      have waits := act.trans (State.pairGate_first (s := { s with issue := none }) (c := c) prot cls (partner.symm ▸ first))
      rw [run, Form.perform_moved acts clear waits]
      · rfl
      · rw [← acts.team_id]
        exact fun x owed => nomatch ((State.park_mustTrap found _ _).trans free).symm.trans owed
    · intro issued
      obtain ⟨s2, both, data⟩ := State.pairBoth_done_data (s := { s with issue := none }) (c := c) (len := 2)
        (stgGo_eq f _ { c with l := l - l % 2 })
      have gate := State.pairGate_both (s := { s with issue := none }) (c := c) (len := 2) (access := access)
        (go := stgGo f s.nextId) prot cls (partner.symm ▸ issued)
      have done := act.trans (gate.trans both)
      exact ⟨_, run, (Form.perform_done acts clear done).trans data⟩

end Sys2Proof.Machine

namespace Sys2Proof.Machine

/-! ### Threads that take the traps they owe (R126, R220, R282, R378) -/

theorem Thread.reports_cause (th : Thread) {ti : TrapInfo} (cause : ti.cause < 256) :
    (th.reports ti).tinfo0.toNat % 256 = ti.cause := by
  simp only [Thread.reports, BitVec.toNat_ofNat]
  omega

/-- The thread is in its handler, for a cause. -/
def Thread.tookTrap (th : Thread) (k : Nat) : Prop := th.handler = true ∧ th.tinfo0.toNat % 256 = k

theorem Thread.keeps_of_data {α : Type} (g : Thread → α) (hg : ∀ th : Thread, g th.data = g th) {th th' : Thread}
    (same : th'.data = th.data) : g th' = g th := by
  rw [← hg, same, hg]

theorem Thread.tookTrap_of_data {th th' : Thread} (same : th'.data = th.data) {k : Nat} (took : th.tookTrap k) :
    th'.tookTrap k := by
  have handler := Thread.keeps_of_data (·.handler) (fun _ => rfl) same
  have info := Thread.keeps_of_data (·.tinfo0) (fun _ => rfl) same
  exact ⟨handler.trans took.1, (congrArg (·.toNat % 256) info).trans took.2⟩

theorem trapped_of_team? {s : State} {tm : Nat} {t : Team} (found : s.team? tm = some t) {w l k : Nat}
    (took : (t.thread w l).tookTrap k) : Trapped s tm w l k := by
  unfold Trapped
  rw [State.thread_of_team? found]
  exact took

theorem Team.mem_live {t : Team} {m : Nat × Nat} : m ∈ t.live ↔ (t.thread m.1 m.2).exited = false := by
  simp only [Team.live, List.mem_flatMap, List.mem_range, List.mem_map, Warp.mem_live]
  constructor
  · rintro ⟨w, -, l, ⟨-, live⟩, rfl⟩
    exact live
  · intro live
    obtain ⟨hw, hl⟩ := Team.bounds_of_live live
    exact ⟨m.1, hw, m.2, ⟨hl, live⟩, rfl⟩

theorem Warp.live_nodup (wp : Warp) : wp.live.Nodup := List.nodup_range.filter _

theorem Team.live_nodup (t : Team) : t.live.Nodup := by
  refine List.nodup_flatMap.2 ⟨fun w _ => (Warp.live_nodup _).map fun _ _ h => (Prod.ext_iff.1 h).2, ?_⟩
  refine List.nodup_range.imp fun {w w'} ne => ?_
  simp only [Function.onFun, List.disjoint_left, List.mem_map]
  rintro _ ⟨l, -, rfl⟩ ⟨l', -, same⟩
  exact ne (Prod.ext_iff.1 same).1.symm

/-- The team once a thread has entered its handler. -/
def Team.takesTrap (t : Team) (w l : Nat) (ti : TrapInfo) : Team :=
  (t.updThread w l (·.reports ti)).updWarp w (·.entersHandler l { hdr := t.prog.hdr + t.prog.handler })

section
variable {s : State} {tm w l : Nat} {t : Team} {ti : TrapInfo}

theorem State.takeTrap_team? (found : s.team? tm = some t) (precise : ti.cause ≠ 0x11 ∧ ti.cause ≠ 0x18)
    (user : (t.thread w l).handler = false) (handler : t.prog.handler ≠ 0) :
    (s.takeTrap tm w l ti).team? tm = some (t.takesTrap w l ti) := by
  rw [State.takeTrap_enters found precise user handler]
  have reported := State.team?_updThread found w l (·.reports ti)
  exact State.team?_updWarp ((State.team?_of_teams (State.unbundle_teams ..) tm).trans reported) w _

theorem State.takeTrap_target (found : s.team? tm = some t) (precise : ti.cause ≠ 0x11 ∧ ti.cause ≠ 0x18)
    (user : (t.thread w l).handler = false) (handler : t.prog.handler ≠ 0) : (s.takeTrap tm w l ti).target = s.target := by
  have target := congrArg State.target (State.unbundle_data (s.updThread tm w l (·.reports ti)) tm w l)
  rw [State.takeTrap_enters found precise user handler]
  exact target

/-- The thread that traps is in its handler for the cause. -/
theorem State.takeTrap_took (found : s.team? tm = some t) (live : (t.thread w l).exited = false)
    (precise : ti.cause ≠ 0x11 ∧ ti.cause ≠ 0x18) (small : ti.cause < 256) (user : (t.thread w l).handler = false)
    (handler : t.prog.handler ≠ 0) : ((s.takeTrap tm w l ti).thread tm w l).tookTrap ti.cause :=
  Thread.tookTrap_of_data (State.takeTrap_thread found live precise user handler {}) ⟨rfl, Thread.reports_cause (t.thread w l) small⟩

/-- The other threads of its team keep their data. -/
theorem Team.takesTrap_thread_of_ne (live : (t.thread w l).exited = false) {w' l' : Nat} (ne : (w, l) ≠ (w', l')) :
    ((t.takesTrap w l ti).thread w' l').data = (t.thread w' l').data := by
  obtain ⟨hw, -⟩ := Team.bounds_of_live live
  obtain ⟨warps, -⟩ := t.updThread_lengths w l (·.reports ti)
  rw [Team.thread, Team.takesTrap]
  by_cases same : w = w'
  · subst same
    have lane : l ≠ l' := fun h => ne (h ▸ rfl)
    rw [Team.warp_updWarp (warps ▸ hw)]
    refine (Warp.settleMeetings_thread_data _ l').trans ?_
    rw [Warp.thread_updThread_of_ne lane, Team.updThread, Team.warp_updWarp hw, Warp.thread_updThread_of_ne lane]
    rfl
  · rw [Team.warp_updWarp_of_ne same, Team.updThread, Team.warp_updWarp_of_ne same]
    rfl

end

/-- Traps of the threads of a team, one after another, each as the state then says. -/
def State.takeTraps (s : State) (tm : Nat) (ti : State → Nat × Nat → TrapInfo) (ms : List (Nat × Nat)) : State :=
  ms.foldl (fun s m => if (s.thread tm m.1 m.2).exited then s else s.takeTrap tm m.1 m.2 (ti s m)) s

theorem State.takeTraps_cons {s : State} {tm : Nat} {m : Nat × Nat} (live : (s.thread tm m.1 m.2).exited = false)
    (ti : State → Nat × Nat → TrapInfo) (ms : List (Nat × Nat)) :
    s.takeTraps tm ti (m :: ms) = (s.takeTrap tm m.1 m.2 (ti s m)).takeTraps tm ti ms := by
  simp only [State.takeTraps, List.foldl_cons, live, Bool.false_eq_true, if_false]

/-- Traps taken one after another by different threads of a team: each of them is in its handler at the end, and the other
threads have their data. -/
theorem State.takeTraps_took {tm : Nat} {ti : State → Nat × Nat → TrapInfo} (cause : ∀ s m, (ti s m).cause = 0x13)
    {ms : List (Nat × Nat)} (nodup : ms.Nodup) {s : State} {t : Team} (found : s.team? tm = some t)
    (handler : t.prog.handler ≠ 0)
    (able : ∀ m ∈ ms, (t.thread m.1 m.2).exited = false ∧ (t.thread m.1 m.2).handler = false) :
    (s.takeTraps tm ti ms).mem = s.mem ∧ ∃ t', (s.takeTraps tm ti ms).team? tm = some t' ∧ t'.arrT = t.arrT ∧
      (∀ m ∈ ms, (t'.thread m.1 m.2).tookTrap 0x13) ∧
      ∀ m, m ∉ ms → (t'.thread m.1 m.2).data = (t.thread m.1 m.2).data := by
  induction ms generalizing s t with
  | nil => exact ⟨rfl, t, found, rfl, fun m hm => absurd hm List.not_mem_nil, fun _ _ => rfl⟩
  | cons m ms ih =>
    obtain ⟨alone, nodup⟩ := List.nodup_cons.1 nodup
    obtain ⟨live, user⟩ := able m List.mem_cons_self
    have here : (s.thread tm m.1 m.2).exited = false := State.thread_of_team? found .. ▸ live
    have precise : (ti s m).cause ≠ 0x11 ∧ (ti s m).cause ≠ 0x18 := by simp [cause s m]
    have entered := State.takeTrap_team? found precise user handler
    have others : ∀ x, x ≠ m → ((t.takesTrap m.1 m.2 (ti s m)).thread x.1 x.2).data = (t.thread x.1 x.2).data :=
      fun x ne => Team.takesTrap_thread_of_ne live fun same => ne same.symm
    have took : ((t.takesTrap m.1 m.2 (ti s m)).thread m.1 m.2).tookTrap 0x13 := by
      rw [← State.thread_of_team? entered, ← cause s m]
      exact State.takeTrap_took found live precise (by simp [cause s m]) user handler
    have able' : ∀ x ∈ ms, ((t.takesTrap m.1 m.2 (ti s m)).thread x.1 x.2).exited = false ∧
        ((t.takesTrap m.1 m.2 (ti s m)).thread x.1 x.2).handler = false := by
      intro x hx
      have same := others x fun is => alone (is ▸ hx)
      obtain ⟨xlive, xuser⟩ := able x (List.mem_cons_of_mem _ hx)
      exact ⟨(Thread.keeps_of_data (·.exited) (fun _ => rfl) same).trans xlive,
        (Thread.keeps_of_data (·.handler) (fun _ => rfl) same).trans xuser⟩
    obtain ⟨mem, t', found', arr, trapped, kept⟩ := ih nodup entered handler able'
    rw [State.takeTraps_cons here]
    refine ⟨mem.trans (State.takeTrap_enters_ops found precise user handler).1, t', found', arr, fun x hx => ?_, fun x hx => ?_⟩
    · rcases List.mem_cons.1 hx with rfl | later
      · exact Thread.tookTrap_of_data (kept x alone) took
      · exact trapped x later
    · obtain ⟨ne, later⟩ := not_or.1 (mt List.mem_cons.2 hx)
      exact (kept x later).trans (others x ne)

/-! ### Mismatched warps and mixed barriers (R126, R282) -/

/-- What the trap of a thread of a mismatched warp reports. -/
def State.mismatchTrap (cl co : Nat) (t : Team) (wp : Warp) (s : State) (m : Nat × Nat) : TrapInfo :=
  let th := wp.thread m.2
  let at_ := s.parkedWord cl co t th
  { cause := 0x13, word := at_.1, rep := th.pos.rep, hdr := th.pos.hdr, raw := at_.2, mask := laneMask wp.live }

theorem exec_collectiveMismatchTimeout {s : State} {t : Team} {cl co x : Nat} (found : s.team? s.target.team = some t)
    (stands : t.at? = some (cl, co)) (since : (t.warp s.target.warp).mismatchSince = some x)
    (due : x + (t.warp s.target.warp).mto ≤ s.clkOf s.target.team) (mixed : (t.warp s.target.warp).mismatched = true)
    (met : (t.warp s.target.warp).meetingDue (s.clkOf s.target.team) = false) :
    exec .collectiveMismatchTimeout s = .next ((s.takeTraps t.id (fun s' m => s'.mismatchTrap cl co t (t.warp s.target.warp) m)
      ((t.warp s.target.warp).live.map fun l => (s.target.warp, l))).noteMismatch t.id) := by
  have run : exec .collectiveMismatchTimeout s = execCollectiveMismatchTimeout s := rfl
  rw [run, execCollectiveMismatchTimeout, State.takeTraps, List.foldl_map]
  simp only [found, stands, since, due, mixed, met, Option.bind_some, Option.map_some, decide_true, Bool.not_true, Bool.or_self,
    Bool.false_eq_true, if_false]
  rfl

/-- Noting which warps are mismatched changes no thread. -/
theorem State.noteMismatch_thread {s : State} {tm : Nat} {t : Team} (found : s.team? tm = some t) (w l : Nat) :
    (s.noteMismatch tm).thread tm w l = t.thread w l := by
  have noted : (s.noteMismatch tm).team? tm = _ := State.team?_updTeam_self found _ fun _ => rfl
  rw [State.thread_of_team? noted]
  simp only [Team.thread, Team.warp, Warp.thread, List.getD_eq_getElem?_getD, List.getElem?_map]
  cases t.warps[w]? <;> rfl

theorem collectiveMismatch_traps (t : Team) (x : Nat) : Leaves .collectiveMismatchTimeout
    (fun s => s.team? s.target.team = some t ∧ t.at?.isSome ∧ t.calm ∧ (t.warp s.target.warp).mismatchSince = some x ∧
      x + (t.warp s.target.warp).mto ≤ s.clkOf s.target.team ∧ (t.warp s.target.warp).mismatched = true ∧
      (t.warp s.target.warp).meetingDue (s.clkOf s.target.team) = false)
    fun s s' => s'.mem = s.mem ∧ ∀ l ∈ (t.warp s.target.warp).live, Trapped s' s.target.team s.target.warp l 0x13 := by
  intro s ⟨found, stands, ⟨handler, calm⟩, since, due, mixed, met⟩
  obtain ⟨⟨cl, co⟩, stands⟩ := Option.isSome_iff_exists.1 stands
  have own : t.id = s.target.team := State.team?_id found
  obtain ⟨mem, t', found', -, trapped, -⟩ := State.takeTraps_took (tm := t.id)
    (ti := fun s' m => s'.mismatchTrap cl co t (t.warp s.target.warp) m) (fun _ _ => rfl)
    ((Warp.live_nodup (t.warp s.target.warp)).map (f := fun l => (s.target.warp, l)) fun _ _ h => (Prod.ext_iff.1 h).2)
    (own ▸ found) handler fun m hm => by
      obtain ⟨l, hl, rfl⟩ := List.mem_map.1 hm
      exact ⟨(Warp.mem_live.1 hl).2, calm _ (Team.mem_live.2 (Warp.mem_live.1 hl).2)⟩
  have ran := exec_collectiveMismatchTimeout found stands since due mixed met
  refine ⟨_, ran, mem, fun l hl => ?_⟩
  rw [← own, Trapped, State.noteMismatch_thread found']
  exact trapped _ (List.mem_map_of_mem hl)

theorem State.noteMixed_mem (s : State) (tm : Nat) : (s.noteMixed tm).mem = s.mem := by
  unfold State.noteMixed
  split <;> rfl

theorem State.noteMixed_team? {s : State} {tm : Nat} {t : Team} (found : s.team? tm = some t) :
    ∃ y, (s.noteMixed tm).team? tm = some { t with mixedSince := y } := by
  simp only [State.noteMixed, found]
  exact ⟨_, State.team?_updTeam_self found _ fun _ => rfl⟩

theorem State.team?_of_noteMixed {s : State} {tm : Nat} {t : Team} (noted : (s.noteMixed tm).team? tm = some t) :
    ∃ u y, s.team? tm = some u ∧ t = { u with mixedSince := y } := by
  cases found : s.team? tm with
  | none => simp [State.noteMixed, found] at noted
  | some u =>
    obtain ⟨y, same⟩ := State.noteMixed_team? found
    exact ⟨u, y, rfl, Option.some.inj (noted.symm.trans same)⟩

/-- The threads at BAR.T whose timeout has passed since the team's barriers were mixed. -/
def Team.lateAtBarT (t : Team) (x clk : Nat) : List (Nat × Nat) :=
  t.live.filter fun m => (t.thread m.1 m.2).wait == .barrier false && x + (t.warp m.1).mto ≤ clk

theorem Team.mem_lateAtBarT {t : Team} {x clk : Nat} {m : Nat × Nat} : m ∈ t.lateAtBarT x clk ↔
    m ∈ t.live ∧ (t.thread m.1 m.2).wait = .barrier false ∧ x + (t.warp m.1).mto ≤ clk := by
  simp [Team.lateAtBarT]

/-- What the trap of a thread at BAR.T reports, when the threads `ms` trap with it. -/
def State.mixedTrap (cl co : Nat) (t : Team) (ms : List (Nat × Nat)) (s : State) (m : Nat × Nat) : TrapInfo :=
  let th := t.thread m.1 m.2
  let raw := match s.fetch cl co t ((th.pos.hdr + 4 * th.pos.word) % 2 ^ 64) with
    | (_, .word w) => w
    | _ => 0
  { cause := 0x13, word := th.pos.word, rep := th.pos.rep, hdr := th.pos.hdr, raw := raw
    mask := laneMask ((ms.filter (·.1 == m.1)).map (·.2)) }

/-- The team without the arrivals of `ms` at BAR.T. -/
def Team.withoutArrivals (t : Team) (ms : List (Nat × Nat)) : Team := { t with arrT := t.arrT.filter fun m => !ms.contains m }

theorem exec_barMixedTimeout {s : State} {t : Team} {cl co x : Nat}
    (noted : (s.noteMixed s.target.team).team? s.target.team = some t) (stands : t.at? = some (cl, co))
    (since : t.mixedSince = some x) {ms : List (Nat × Nat)} (late : t.lateAtBarT x (s.clkOf s.target.team) = ms) :
    exec .barMixedTimeout s = .next (if ms.isEmpty then s
      else ((s.updTeam t.id (·.withoutArrivals ms)).takeTraps t.id (fun s' m => s'.mixedTrap cl co t ms m) ms).noteMixed
        t.id) := by
  have run : exec .barMixedTimeout s = execBarMixedTimeout s := rfl
  subst late
  rw [run, execBarMixedTimeout]
  simp only [noted, stands, since, Option.bind_some, Option.map_some]
  rfl

theorem barMixed_traps (t : Team) (x : Nat) : Leaves .barMixedTimeout
    (fun s => (s.noteMixed s.target.team).team? s.target.team = some t ∧ t.at?.isSome ∧ t.calm ∧ t.mixedSince = some x)
    fun s s' => s'.mem = s.mem ∧ ∀ m ∈ t.live, x + (t.warp m.1).mto ≤ s.clkOf s.target.team →
      if (t.thread m.1 m.2).wait = .barrier false
      then Trapped s' s.target.team m.1 m.2 0x13 ∧ ∀ t', s'.team? s.target.team = some t' → m ∉ t'.arrT
      else (s'.thread s.target.team m.1 m.2).handler = false := by
  intro s ⟨noted, stands, ⟨handler, calm⟩, since⟩
  obtain ⟨⟨cl, co⟩, stands⟩ := Option.isSome_iff_exists.1 stands
  have ran := exec_barMixedTimeout noted stands since rfl
  have own : t.id = s.target.team := State.team?_id noted
  obtain ⟨u, y, found, plain⟩ := State.team?_of_noteMixed noted
  have threads (m : Nat × Nat) : u.thread m.1 m.2 = t.thread m.1 m.2 := by rw [plain]; rfl
  set ms := t.lateAtBarT x (s.clkOf s.target.team) with late
  by_cases empty : ms = []
  · rw [if_pos (List.isEmpty_iff.2 empty)] at ran
    refine ⟨_, ran, rfl, fun m hm due => ?_⟩
    split
    case isTrue waits => exact absurd (Team.mem_lateAtBarT.2 ⟨hm, waits, due⟩) (by rw [← late, empty]; exact List.not_mem_nil)
    case isFalse => rw [State.thread_of_team? found, threads, calm m hm]
  · rw [if_neg (by simpa using empty), own] at ran
    have left := State.team?_updTeam_self found (·.withoutArrivals ms) fun _ => rfl
    obtain ⟨mem, t', found', arr, trapped, kept⟩ := State.takeTraps_took (ti := fun s' m => s'.mixedTrap cl co t ms m)
      (fun _ _ => rfl) (ms := ms) (t.live_nodup.filter _) left (by rw [plain] at handler; exact handler) fun m hm => by
        have hm := (Team.mem_lateAtBarT.1 hm).1
        have same : (u.withoutArrivals ms).thread m.1 m.2 = t.thread m.1 m.2 := threads m
        exact same ▸ ⟨Team.mem_live.1 hm, calm m hm⟩
    obtain ⟨y', found'⟩ := State.noteMixed_team? found'
    refine ⟨_, ran, (State.noteMixed_mem ..).trans mem, fun m hm due => ?_⟩
    split
    case isTrue waits =>
      have here : m ∈ ms := Team.mem_lateAtBarT.2 ⟨hm, waits, due⟩
      refine ⟨trapped_of_team? found' (trapped m here), fun t2 found2 => ?_⟩
      obtain rfl := Option.some.inj (found'.symm.trans found2)
      simp [arr, Team.withoutArrivals, here]
    case isFalse passes =>
      have apart : m ∉ ms := fun h => passes (Team.mem_lateAtBarT.1 h).2.1
      rw [State.thread_of_team? found']
      exact (Thread.keeps_of_data (·.handler) (fun _ => rfl) (kept m apart)).trans ((congrArg _ (threads m)).trans (calm m hm))

end Sys2Proof.Machine

namespace Sys2Proof.Machine

/-! ### Store-fault records (R93, R220) -/

/-- The record is the thread's, and still to be delivered. -/
def SfRecord.awaits (w l : Nat) (r : SfRecord) : Bool := !r.delivered && r.warp == w && r.lane == l

theorem markDelivered_cons (w l : Nat) (r : SfRecord) (rs : List SfRecord) : markDelivered w l (r :: rs) =
    if r.awaits w l then { r with delivered := true } :: rs else r :: markDelivered w l rs := rfl

/-- Marking a thread's oldest undelivered record leaves one undelivered record fewer. -/
theorem markDelivered_countP {w l : Nat} {rs : List SfRecord} (some : (rs.find? (·.awaits w l)).isSome) :
    (markDelivered w l rs).countP (fun r => !r.delivered) + 1 = rs.countP fun r => !r.delivered := by
  induction rs with
  | nil => simp at some
  | cons r rs ih =>
    by_cases here : r.awaits w l
    · have due : r.delivered = false := by simp only [SfRecord.awaits, Bool.and_eq_true, Bool.not_eq_true'] at here; exact here.1.1
      rw [markDelivered_cons, if_pos here, List.countP_cons_of_neg (by simp), List.countP_cons_of_pos (by simp [due])]
    · rw [List.find?_cons_of_neg here] at some
      rw [markDelivered_cons, if_neg here, List.countP_cons, List.countP_cons, ← ih some]
      omega

/-- The team once the oldest record of a thread is marked: it looks among the popped ones first. -/
def Team.marksDelivered (w l : Nat) (t : Team) : Team :=
  if t.owed.any fun r => r.warp == w && r.lane == l then { t with owed := markDelivered w l t.owed }
  else { t with sfq := markDelivered w l t.sfq }

/-- The team without the popped records that have been delivered. -/
def Team.dropsDelivered (t : Team) : Team := { t with owed := t.owed.filter fun (r : SfRecord) => !r.delivered }

theorem Team.marksDelivered_rest (t : Team) (w l : Nat) :
    (t.marksDelivered w l).warps = t.warps ∧ (t.marksDelivered w l).prog = t.prog ∧ (t.marksDelivered w l).id = t.id := by
  unfold Team.marksDelivered
  split <;> exact ⟨rfl, rfl, rfl⟩

/-- The records of a team that are still to be delivered. -/
def Team.undelivered (t : Team) : Nat := (t.owed ++ t.sfq).countP fun q => !q.delivered

theorem Team.dropsDelivered_undelivered (t : Team) : t.dropsDelivered.undelivered = t.undelivered := by
  simp only [Team.undelivered, Team.dropsDelivered, List.countP_append, List.countP_filter, Bool.and_self]

theorem Team.marksDelivered_undelivered {t : Team} {w l : Nat} (due : ∀ q ∈ t.owed, q.delivered = false)
    (some : ((t.owed ++ t.sfq).find? (·.awaits w l)).isSome) : (t.marksDelivered w l).undelivered + 1 = t.undelivered := by
  have owes : (t.owed.any fun r => r.warp == w && r.lane == l) = (t.owed.find? (·.awaits w l)).isSome := by
    rw [List.isSome_find?, Bool.eq_iff_iff, List.any_eq_true, List.any_eq_true]
    exact exists_congr fun q => and_congr_right fun hq => by simp [SfRecord.awaits, due q hq]
  simp only [Team.undelivered, Team.marksDelivered, owes, List.countP_append]
  split
  case isTrue popped =>
    have marked := markDelivered_countP popped
    simp only
    omega
  case isFalse queued =>
    rw [List.find?_append, Option.not_isSome_iff_eq_none.1 queued, Option.none_or] at some
    have marked := markDelivered_countP some
    simp only
    omega

/-- What the trap of a store fault reports. -/
def Thread.deliveryTrap (th : Thread) (l : Nat) (r : SfRecord) : TrapInfo :=
  { cause := 0x0D, word := 0, rep := none, hdr := th.pos.hdr, raw := r.raw, mask := laneMask [l], data := BitVec.ofNat 32 r.data }

theorem exec_storeFaultDelivery {s : State} {t : Team} {r : SfRecord} (found : s.team? s.target.team = some t)
    (stands : t.at?.isSome) (started : t.started = true) (live : s.me.exited = false) (user : s.me.handler = false)
    (header : s.me.atHeader = true) (record : (t.owed ++ t.sfq).find? (·.awaits s.target.warp s.target.lane) = some r) :
    exec .storeFaultDelivery s = .next ((((s.updTeam t.id (·.marksDelivered s.target.warp s.target.lane)).updTeam t.id
      (·.dropsDelivered))).takeTrap t.id s.target.warp s.target.lane (s.me.deliveryTrap s.target.lane r)) := by
  have run : exec .storeFaultDelivery s = execStoreFaultDelivery s := rfl
  have me : s.me = t.thread s.target.warp s.target.lane := State.thread_of_team? found ..
  have there : t.at?.isNone = false := by simpa using stands
  rw [me] at live user header
  unfold SfRecord.awaits at record
  rw [run, execStoreFaultDelivery]
  simp only [found, record, live, user, header, started, there, Bool.not_true, Bool.or_self, Bool.false_eq_true, if_false, me]
  rfl

theorem storeFault_delivered (t : Team) (r : SfRecord) : Leaves .storeFaultDelivery
    (fun s => s.team? s.target.team = some t ∧ t.at?.isSome ∧ t.started = true ∧ t.calm ∧ s.me.exited = false ∧
      s.me.atHeader = true ∧ (∀ q ∈ t.owed, q.delivered = false) ∧
      (t.owed ++ t.sfq).find? (fun q => !q.delivered && q.warp == s.target.warp && q.lane == s.target.lane) = some r)
    fun s s' => Trapped s' s.target.team s.target.warp s.target.lane 0x0D ∧ s'.me.tinfo1 = r.raw ∧
      s'.me.tinfo3 = BitVec.ofNat 32 r.data ∧ s'.me.tret = BitVec.ofNat 64 s.me.pos.hdr ∧ s'.mem = s.mem ∧
      ∃ t', s'.team? s.target.team = some t' ∧
        (t'.owed ++ t'.sfq).countP (fun q => !q.delivered) + 1 = (t.owed ++ t.sfq).countP fun q => !q.delivered := by
  intro s ⟨found, stands, started, ⟨handler, calm⟩, live, header, due, record⟩
  have me : s.me = t.thread s.target.warp s.target.lane := State.thread_of_team? found ..
  have own : t.id = s.target.team := State.team?_id found
  have tlive : (t.thread s.target.warp s.target.lane).exited = false := me ▸ live
  have user : s.me.handler = false := me ▸ calm (s.target.warp, s.target.lane) (Team.mem_live.2 tlive)
  obtain ⟨warps, prog, -⟩ := t.marksDelivered_rest s.target.warp s.target.lane
  have left := State.team?_updTeam_self (State.team?_updTeam_self found (·.marksDelivered s.target.warp s.target.lane)
    fun t => (t.marksDelivered_rest _ _).2.2) (·.dropsDelivered) fun _ => rfl
  have same : ((t.marksDelivered s.target.warp s.target.lane).dropsDelivered).thread s.target.warp s.target.lane = s.me := by
    rw [me, Team.thread, Team.warp, Team.thread, Team.warp, ← warps]
    rfl
  have precise : (s.me.deliveryTrap s.target.lane r).cause ≠ 0x11 ∧ (s.me.deliveryTrap s.target.lane r).cause ≠ 0x18 := by
    simp [Thread.deliveryTrap]
  have handler' : ((t.marksDelivered s.target.warp s.target.lane).dropsDelivered).prog.handler ≠ 0 := prog.symm ▸ handler
  have ran := exec_storeFaultDelivery found stands started live user header record
  rw [own] at ran
  have data := State.takeTrap_thread left (same ▸ live) precise (same ▸ user) handler' {}
  have target := State.takeTrap_target left precise (same ▸ user) handler'
  have entered := State.takeTrap_team? left precise (same ▸ user) handler'
  have mem := (State.takeTrap_enters_ops left precise (same ▸ user) handler').1
  have took := State.takeTrap_took left (same ▸ live) precise (by simp [Thread.deliveryTrap]) (same ▸ user) handler'
  refine ⟨_, ran, took, ?_, ?_, ?_, mem, _, entered, ?_⟩
  · rw [State.me, target]
    exact Thread.keeps_of_data (·.tinfo1) (fun _ => rfl) data
  · rw [State.me, target]
    exact Thread.keeps_of_data (·.tinfo3) (fun _ => rfl) data
  · rw [State.me, target]
    exact Thread.keeps_of_data (·.tret) (fun _ => rfl) data
  · have fewer := Team.marksDelivered_undelivered due (Option.isSome_iff_exists.2 ⟨r, record⟩)
    rw [← Team.dropsDelivered_undelivered] at fewer
    exact fewer

/-! ### A record popped into the scratchpad (R93) -/

theorem SfRecord.bytes_length (r : SfRecord) (team : Nat) : (r.bytes team).length = 32 := by
  simp [SfRecord.bytes]

/-- Patterning bytes of a scratchpad twice gives the bytes again. -/
theorem Team.mask_mask (t : Team) (a : Nat) (bs : List Byte) : t.mask a (t.mask a bs) = bs := by
  unfold Team.mask
  split
  · rfl
  · refine List.ext_getElem (by simp) fun i hi hi' => ?_
    simp

theorem Team.mask_length (t : Team) (a : Nat) (bs : List Byte) : (t.mask a bs).length = bs.length := by
  unfold Team.mask
  split <;> simp

theorem Memory.readBytes_eq_map (m : Memory) (x n : Nat) :
    Memory.readBytes m x n = (List.range n).map fun i => Memory.read m (x + i) := by
  induction n generalizing x with
  | zero => rfl
  | succ n ih =>
    rw [Memory.readBytes, ih, List.range_succ_eq_map, List.map_cons, List.map_map]
    exact congrArg _ (List.map_congr_left fun i _ => congrArg _ (by simp; omega))

theorem Memory.readBytes_writeBytes {m : Memory} (hm : Memory.wf m = true) (a : Nat) (bs : List Byte) :
    Memory.readBytes (Memory.writeBytes m a bs) a bs.length = bs := by
  refine List.ext_getElem (by simp) fun i hi hi' => ?_
  simp only [Memory.readBytes_eq_map, List.getElem_map, List.getElem_range, Memory.read_writeBytes bs hm]
  rw [if_pos (by omega), Nat.add_sub_cancel_left, List.getD_eq_getElem _ _ hi']

/-- The team once its oldest record is popped: it is still owed when nobody has taken it, and its bytes stand in the scratchpad. -/
def Team.popsRecord (t : Team) (r : SfRecord) (rest : List SfRecord) (d : Nat) : Team :=
  let bs := r.bytes t.index
  { t with
    sfq := rest, owed := if r.delivered then t.owed else t.owed ++ [r]
    scratch := Memory.writeBytes t.scratch d (t.mask d bs)
    scratchBad := t.scratchBad.filter fun g => !(d ≤ g && g + 32 ≤ d + bs.length) }

section
variable {t : Team} {r : SfRecord} {rest : List SfRecord} {d : Nat}

theorem State.popSf_pops {s : State} {tm : Nat} (found : s.team? tm = some t) (queue : t.sfq = r :: rest) :
    (s.popSf tm d).team? tm = some (t.popsRecord r rest d) ∧ (s.popSf tm d).mem = s.mem := by
  have popped := State.team?_updTeam_self found
    (fun t => { t with sfq := rest, owed := if r.delivered then t.owed else t.owed ++ [r] }) fun _ => rfl
  simp only [State.popSf, found, queue]
  refine ⟨(State.team?_updTeam_self popped _ ?_).trans rfl, rfl⟩
  exact fun _ => rfl

theorem Team.popsRecord_read (hm : Memory.wf t.scratch = true) : (t.popsRecord r rest d).readScratch d 32 = r.bytes t.index := by
  have written := Memory.readBytes_writeBytes hm d (t.mask d (r.bytes t.index))
  rw [Team.mask_length, SfRecord.bytes_length] at written
  calc (t.popsRecord r rest d).readScratch d 32
      = t.mask d (Memory.readBytes (Memory.writeBytes t.scratch d (t.mask d (r.bytes t.index))) d 32) := rfl
    _ = r.bytes t.index := by rw [written, Team.mask_mask]

theorem Team.popsRecord_frame (hm : Memory.wf t.scratch = true) {a : Nat} (apart : a < d ∨ d + 32 ≤ a) :
    (t.popsRecord r rest d).readScratch a 1 = t.readScratch a 1 := by
  have outside : ¬(d ≤ a ∧ a < d + (t.mask d (r.bytes t.index)).length) := by
    rw [Team.mask_length, SfRecord.bytes_length]
    omega
  have same : Memory.read (t.popsRecord r rest d).scratch a = Memory.read t.scratch a :=
    (Memory.read_writeBytes _ hm d a).trans (if_neg outside)
  calc (t.popsRecord r rest d).readScratch a 1 = t.mask a [Memory.read (t.popsRecord r rest d).scratch a] := rfl
    _ = t.readScratch a 1 := by rw [same]; rfl

end

theorem exec_storeFaultPop {s : State} {t : Team} (found : s.team? s.target.team = some t) (low : s.target.value < 2 ^ 18)
    (aligned : s.target.value % 16 = 0) (fits : s.target.value + 32 ≤ t.prog.scratch) :
    exec .storeFaultPop s = .next (s.popSf s.target.team s.target.value) := by
  have run : exec .storeFaultPop s = execStoreFaultPop s := rfl
  have offset : bits s.target.value 0 18 = s.target.value := by
    rw [bits, Nat.shiftRight_zero, Nat.mod_eq_of_lt low]
  rw [run, execStoreFaultPop, offset]
  simp only [found, aligned, fits, and_self, if_true, State.team?_id found]

theorem storeFault_popped (t : Team) (r : SfRecord) (rest : List SfRecord) : Leaves .storeFaultPop
    (fun s => s.team? s.target.team = some t ∧ t.sfq = r :: rest ∧ s.target.value < 2 ^ 18 ∧ s.target.value % 16 = 0 ∧
      s.target.value + 32 ≤ t.prog.scratch ∧ s.MemOk)
    fun s s' => s'.mem = s.mem ∧ ∃ t', s'.team? s.target.team = some t' ∧ t'.sfq = rest ∧ t'.warps = t.warps ∧
      t'.readScratch s.target.value 32 = r.bytes t.index ∧
      ∀ a, a < s.target.value ∨ s.target.value + 32 ≤ a → t'.readScratch a 1 = t.readScratch a 1 := by
  intro s ⟨found, queue, low, aligned, fits, _, scratch⟩
  obtain ⟨popped, mem⟩ := State.popSf_pops (d := s.target.value) found queue
  have hm := scratch t (List.mem_of_find?_eq_some found)
  exact ⟨_, exec_storeFaultPop found low aligned fits, mem, _, popped, rfl, rfl, Team.popsRecord_read hm,
    fun a apart => Team.popsRecord_frame hm apart⟩

/-! ### Broken pairs (R399) -/

/-- A thread that waits for its partner's access, beside a partner at the same word, is no broken pair. -/
theorem pairBroken_false {s : State} {tm w l since : Nat} {x : List Nat} (waits : (s.thread tm w l).wait = .pair since x)
    (live : (s.thread tm w l).exited = false) (partner : (s.thread tm w (l ^^^ 1)).exited = false)
    (beside : (s.thread tm w (l ^^^ 1)).pos = (s.thread tm w l).pos)
    (agree : ∀ z y, (s.thread tm w (l ^^^ 1)).wait = .pair z y → y = x) : s.pairBroken tm w l = false := by
  obtain ⟨t, found, -, -⟩ := State.team_of_waiting (s := s) (tm := tm) (w := w) (l := l) (by rw [waits]; simp)
  have threads (k : Nat) : (s.warp tm w).thread k = s.thread tm w k := by
    rw [State.warp, State.thread, found]
    rfl
  have late : s.pairLate tm w l = false := by simp [State.pairLate, threads, waits, partner, beside]
  simp only [State.pairBroken, late, threads, live, partner, waits, bne_self_eq_false, Bool.false_or]
  cases wait : (s.thread tm w (l ^^^ 1)).wait
  case pair z y => simp [agree z y wait]
  all_goals rfl

theorem exec_shadowMismatch {s : State} {t : Team} (found : s.team? s.target.team = some t) :
    exec .shadowMismatch s = .next (if s.isProtected t && !t.killed && s.pairBroken s.target.team s.target.warp s.target.lane
      then s.machineCheck t.launch 0x11 else s) := by
  have run : exec .shadowMismatch s = execShadowMismatch s := rfl
  rw [run, execShadowMismatch]
  simp only [found]

theorem threadsTakeWhatIsOwed : ThreadsTakeWhatIsOwed := by
  refine ⟨collectiveMismatch_traps, barMixed_traps, storeFault_delivered, storeFault_popped,
    fun s tm w l since x waits live partner beside agree => pairBroken_false waits live partner beside agree,
    fun t s ⟨found, sound⟩ => ?_, fun t s ⟨found, prot, alive, broken⟩ => ?_⟩
  · rw [exec_shadowMismatch found, if_neg]
    · rfl
    · rcases sound with single | killed | whole
      · simp [single]
      · simp [killed]
      · simp [whole]
  · rw [exec_shadowMismatch found, if_pos (by simp [prot, alive, broken])]
    rfl

/-- Settles O52: waits that end (`parkedThreadsGoOn`), the traps, records and mismatches that a thread or its pair is owed
(`threadsTakeWhatIsOwed`), and the gate at which a pair meets (`protectedAccessesGoInPairs`). -/
theorem waitingThreadsGoOnOrTrap : Obligations.WaitingThreadsGoOnOrTrap :=
  ⟨parkedThreadsGoOn, threadsTakeWhatIsOwed, protectedAccessesGoInPairs⟩

end Sys2Proof.Machine

namespace Sys2Proof.Machine

/-! ### Register words in one place: what they write, and the traps of their flags (R142, R144) -/

/-- The duties of threads are their own whatever flags are set (R399). -/
theorem Ctx.Owes.setFlags {c : Ctx} {s : State} (owes : c.Owes s) (m : Nat × Nat) (fl : FpFlags) (ist : IntFlags) :
    c.Owes (c.iss.setFlags m fl ist s) := by
  unfold Issue.setFlags
  split
  · exact owes
  · obtain ⟨t, found, same⟩ := owes
    simp only [found]
    generalize c.iss.lanes t m = ms
    induction ms generalizing s t with
    | nil => exact ⟨t, found, same⟩
    | cons m ms ih =>
      refine ih _ (State.team?_updThread found _ _ _) (Eq.trans (Team.duties_updThread ?_ t m.1 m.2 c.w) same)
      exact fun _ => rfl

/-- An effect that writes one operand: its flags, and no trap of its own. -/
structure Eff.Writes (e : Eff) (c : Ctx) (o : Opnd) (r : XRes) : Prop where
  trap : e.trap = none
  fl : e.fl = r.fl
  ist : e.ist = r.ist
  apply : ∀ s, e.apply c.iss (c.w, c.l) s = c.write o r.ws r.fl r.ist s

theorem XRes.eff_writes (r : XRes) (c : Ctx) (o : Opnd) : (r.eff o).Writes c o r := ⟨rfl, rfl, rfl, fun _ => rfl⟩

/-- What an effect that raises an enabled floating-point flag comes to. -/
theorem effAct_of_fl {run : Ctx → Eff} {c : Ctx} (plain : (run c).trap = none) (raised : (run c).fl &&& c.th.fpTraps ≠ 0)
    (iss : Issue) (s : State) : effAct iss run s c = (iss.setFlags (c.w, c.l) (run c).fl 0 s, .trap 0x07) := by
  have cause : (run c).cause c.th = some 0x07 := by
    simp only [Eff.cause, plain]
    exact if_pos raised
  simp only [effAct, cause]

/-- What an effect that raises a division flag comes to under IDTE. -/
theorem effAct_of_ist {run : Ctx → Eff} {c : Ctx} (plain : (run c).trap = none) (quiet : (run c).fl &&& c.th.fpTraps = 0)
    (idte : c.th.idte = true) (raised : (run c).ist &&& 3 ≠ 0) (iss : Issue) (s : State) :
    effAct iss run s c = (iss.setFlags (c.w, c.l) 0 (run c).ist s, .trap 0x08) := by
  have cause : (run c).cause c.th = some 0x08 := by
    simp only [Eff.cause, plain, quiet, idte, ne_eq, raised, not_true_eq_false, not_false_eq_true, Bool.true_and, decide_true,
      if_false, if_true]
  simp only [effAct, cause]

/-- A word that writes one operand: its thread takes the results, or the flags of its trap. -/
theorem effAct_of_writes {run : Ctx → Eff} {c : Ctx} {o : Opnd} {r : XRes} (h : (run c).Writes c o r) (s : State) :
    effAct c.iss run s c = (r.take c o s, c.th.outcome r) := by
  obtain ⟨plain, fl, ist, apply⟩ := h
  by_cases float : r.fl &&& c.th.fpTraps = 0
  · by_cases int : c.th.idte = true ∧ r.ist &&& 3 ≠ 0
    · have trap : c.th.outcome r = .trap 0x08 := by rw [Thread.outcome, if_neg (not_not.2 float), if_pos int]
      rw [effAct_of_ist plain (fl ▸ float) int.1 (ist ▸ int.2), XRes.take, trap, ist]
      rfl
    · have done : c.th.outcome r = .done := by rw [Thread.outcome, if_neg (not_not.2 float), if_neg int]
      have cause : (run c).cause c.th = none :=
        Eff.cause_none_of_untrapped plain (by rw [fl, ist]; exact ⟨float, fun idte => by_contra fun raised => int ⟨idte, raised⟩⟩)
      simp only [effAct, cause, XRes.take, done, apply]
  · have trap : c.th.outcome r = .trap 0x07 := by rw [Thread.outcome, if_pos float]
    rw [effAct_of_fl plain (fl ▸ float), XRes.take, trap, fl]
    rfl

section
variable {i : Instr} {fm : Issue → Form} {value : Issue → Ctx → Option Nat} {run : Issue → Ctx → Eff}
  (hx : ∀ s, exec i s = withIssue s fun iss => (fm iss).perform iss (value iss) (effAct iss (run iss)))
include hx

/-- A register word that traps once it has passed its checks leaves the state of its action, and traps in every thread that it
concerns. -/
theorem exec_of_trap {s s1 : State} {iss : Issue} {t : Team} {w l k : Nat} (ha : Acts s iss t w l)
    (clear : (fm iss).clear (value iss) ⟨t, w, l, iss⟩) (data : (fm iss).data = none)
    (traps : effAct iss (run iss) { s with issue := none } ⟨t, w, l, iss⟩ = (s1, .trap k)) (still : Ctx.Owes ⟨t, w, l, iss⟩ s1) :
    exec i s = .next (iss.deliverTraps ((iss.lanes t (w, l)).map fun m => (m, k, (0 : Word))) s1) := by
  obtain ⟨t1, found, same⟩ := still
  rw [hx, withIssue_of ha.issue, Form.perform_clear ha clear, traps, data, Issue.finish_trap found,
    Ctx.lanes_of_duties ⟨t, w, l, iss⟩ same]
  rfl

/-- A register word whose enabled floating-point flags trap. -/
theorem flagTraps_of_run {flags : Ctx → FpFlags} (data : ∀ iss, (fm iss).data = none) (fl : ∀ c, (run c.iss c).fl = flags c)
    (plain : ∀ c, flags c ≠ 0 → (run c.iss c).trap = none) : FlagTraps i fm value flags := by
  intro s iss t w l ha c clear raised
  have some_flag : flags c ≠ 0 := fun none => raised (by rw [none]; exact BitVec.zero_and)
  have traps := effAct_of_fl (run := run iss) (plain c some_flag) ((fl c).symm ▸ raised) iss { s with issue := none }
  rw [fl c] at traps
  have still : c.Owes { s with issue := none } := ⟨t, ha.team, rfl⟩
  exact exec_of_trap hx ha clear (data iss) traps (still.setFlags _ _ _)

end

/-- A register word that writes one operand, in the one place where it acts. -/
theorem writesOne_of_run {i : Instr} {fm : Issue → Form} {run : Issue → Ctx → Eff} {o : Issue → Opnd}
    {rule : Ctx → List (Word × Tag) → FpFlags → IntFlags → Prop} (res : Ctx → XRes) (hx : ∀ s, exec i s = regWord fm run s)
    (writes : ∀ c, (run c.iss c).Writes c (o c.iss) (res c)) (rules : ∀ c, rule c (res c).ws (res c).fl (res c).ist) :
    WritesOne i fm o rule := by
  intro s iss t w l ha clear
  refine ⟨_, _, _, rules ⟨t, w, l, iss⟩, fun free => ?_⟩
  have acts := writes ⟨t, w, l, iss⟩
  have cause : (run iss ⟨t, w, l, iss⟩).cause (t.thread w l) = none :=
    Eff.cause_none_of_untrapped acts.trap (by rw [acts.fl, acts.ist]; exact free)
  obtain ⟨s', next, data⟩ := regWord_clear ha clear cause
  exact ⟨s', (hx s).trans next, data.trans (congrArg State.data (acts.apply _))⟩

/-! ### Divisions complete or trap (R144) -/

theorem TwoSource.Computes.writes {r : TwoSource} {op : Word → Word → Word × IntFlags} (h : r.Computes op) : r.writes := fun f =>
  writesOne_of_run (r.result op f) (h.exec f) (fun c => (r.result op f c).eff_writes c _) fun _ => ⟨_, rfl, rfl, h.rule _ _⟩

/-- What the rule of a signed division says of its flags decides them. -/
theorem signed_division_flags {a b : Word} {p q u p' q' u' : Prop} {ist ist' : IntFlags}
    (h : (b = 0 → p ∧ ist = flagDZI) ∧ (a = 0x80000000 → b = 0xFFFFFFFF → q ∧ ist = flagDOV) ∧
      (b ≠ 0 → ¬(a = 0x80000000 ∧ b = 0xFFFFFFFF) → u ∧ ist = 0))
    (h' : (b = 0 → p' ∧ ist' = flagDZI) ∧ (a = 0x80000000 → b = 0xFFFFFFFF → q' ∧ ist' = flagDOV) ∧
      (b ≠ 0 → ¬(a = 0x80000000 ∧ b = 0xFFFFFFFF) → u' ∧ ist' = 0)) : ist = ist' := by
  obtain ⟨byZero, least, plain⟩ := h
  obtain ⟨byZero', least', plain'⟩ := h'
  by_cases zero : b = 0
  · rw [(byZero zero).2, (byZero' zero).2]
  · by_cases corner : a = 0x80000000 ∧ b = 0xFFFFFFFF
    · rw [(least corner.1 corner.2).2, (least' corner.1 corner.2).2]
    · rw [(plain zero corner).2, (plain' zero corner).2]

/-- What the rule of an unsigned division says of its flags decides them. -/
theorem unsigned_division_flags {b : Word} {p q p' q' : Prop} {ist ist' : IntFlags}
    (h : (b = 0 → p ∧ ist = flagDZI) ∧ (b ≠ 0 → q ∧ ist = 0)) (h' : (b = 0 → p' ∧ ist' = flagDZI) ∧ (b ≠ 0 → q' ∧ ist' = 0)) :
    ist = ist' := by
  by_cases zero : b = 0
  · rw [(h.1 zero).2, (h'.1 zero).2]
  · rw [(h.2 zero).2, (h'.2 zero).2]

theorem integerDivision_flags : ∀ r ∈ integerDivision, ∀ a b x x' ist ist', r.rule a b x ist → r.rule a b x' ist' → ist = ist' := by
  simp only [integerDivision, List.forall_mem_cons]
  exact ⟨fun _ _ _ _ _ _ => signed_division_flags, fun _ _ _ _ _ _ => unsigned_division_flags,
    fun _ _ _ _ _ _ => signed_division_flags, fun _ _ _ _ _ _ => unsigned_division_flags,
    fun _ none => absurd none List.not_mem_nil⟩

theorem divisionTrapsWhenEnabled : DivisionTrapsWhenEnabled := by
  intro r hr f s iss t w l ha clear idte x ist raised rule
  obtain ⟨op, computes⟩ := integerDivision_computes r hr
  obtain rfl : ((r.result op f ⟨t, w, l, iss⟩).eff (f.dst iss)).ist = ist :=
    integerDivision_flags r hr _ _ _ _ _ _ (computes.rule _ _) rule
  have traps := effAct_of_ist (run := fun c => (r.result op f c).eff (f.dst iss)) (c := ⟨t, w, l, iss⟩) rfl BitVec.zero_and
    idte raised iss { s with issue := none }
  have still : Ctx.Owes ⟨t, w, l, iss⟩ { s with issue := none } := ⟨t, ha.team, rfl⟩
  exact exec_of_trap (fm := r.form f) (computes.exec f) ha clear rfl traps (still.setFlags _ _ _)

/-- Settles O2: the four divisions compute their tabled results (`integerDivision_computes`), and a flag under IDTE ends the
word in its trap (`exec_of_trap`). -/
theorem divisionGivesTheTabledResults : Obligations.DivisionGivesTheTabledResults := by
  refine ⟨fun r hr => ?_, divisionTrapsWhenEnabled⟩
  obtain ⟨op, computes⟩ := integerDivision_computes r hr
  exact computes.writes

end Sys2Proof.Machine

namespace Sys2Proof.Machine

/-! ### Welford words (R160 to R162, R187) -/

theorem welfordWordsUpdateTriples : WelfordWordsUpdateTriples := by
  refine ⟨fun f => ?_, fun f => ?_, fun f => ?_, fun t count => ⟨?_, fun some => ?_⟩⟩
  · exact writesOne_of_run (fun c => let r := welfordAdd (tripleAt c (f.dst c.iss)) (c.rd (f.srcA c.iss none)).toNat
      ⟨r.t.words, r.fl, r.ist⟩) (fun _ => rfl) (fun c => ⟨rfl, rfl, rfl, fun _ => rfl⟩) fun c => ⟨rfl, rfl, rfl⟩
  · exact writesOne_of_run (fun c => let r := welfordMerge (tripleAt c (f.dst c.iss)) (tripleAt c (f.srcA c.iss none))
      ⟨r.t.words, r.fl, r.ist⟩) (fun _ => rfl) (fun c => ⟨rfl, rfl, rfl, fun _ => rfl⟩) fun c => ⟨rfl, rfl, rfl⟩
  · exact writesOne_of_run (fun c => let r := welfordFinish (f.b == 1) (tripleAt c (f.srcA c.iss none))
      ⟨[(wordOf r, .f32)], r.fl, 0⟩) (fun _ => rfl) (fun c => ⟨rfl, rfl, rfl, fun _ => rfl⟩) fun c => ⟨rfl, rfl, rfl⟩
  · have sign : t.n.msb = false := by rw [BitVec.msb_eq_toInt]; exact decide_eq_false (not_lt.2 count)
    simp [welfordMerge, sign]
  · have sign : t.n.msb = false := by rw [BitVec.msb_eq_toInt]; exact decide_eq_false (not_lt.2 count)
    have nonzero : ¬t.n = 0#32 := some
    simp [welfordMerge, sign, nonzero]

/-! ### Predicates, tags and moves (R186, R193, R194) -/

theorem oneBit_ite (b : Bool) {p : Prop} (h : b = true ↔ p) : oneBit [(if b then 1 else 0, .raw)] p := by
  refine ⟨_, rfl, ?_, ?_⟩
  · cases b
    · exact .inr rfl
    · exact .inl rfl
  · rw [← h]
    cases b <;> decide

/-- Setting one bit for each number of a list that satisfies `p`. -/
theorem getLsbD_foldl_bit (p : Nat → Bool) (l : List Nat) (m : Word) {j : Nat} (h : j < 32) :
    (l.foldl (fun m i => if p i then m ||| BitVec.ofNat 32 (2 ^ i) else m) m).getLsbD j =
      (m.getLsbD j || decide (j ∈ l) && p j) := by
  induction l generalizing m with
  | nil => simp
  | cons i l ih =>
    have bit : (BitVec.ofNat 32 (2 ^ i)).getLsbD j = decide (i = j) := by
      rw [BitVec.getLsbD_ofNat, Nat.testBit_two_pow, decide_eq_true h, Bool.true_and]
    have head : (if p i then m ||| BitVec.ofNat 32 (2 ^ i) else m).getLsbD j = (m.getLsbD j || decide (i = j) && p i) := by
      cases p i
      · simp
      · rw [if_pos rfl, BitVec.getLsbD_or, bit, Bool.and_true]
    rw [List.foldl_cons, ih, head]
    by_cases same : i = j
    · subst same
      cases p i <;> simp
    · simp [same, Ne.symm same]

/-- p7 and sp7 read as true (R87). -/
theorem Ctx.isTrue_seven (c : Ctx) : c.isTrue (c.iss.prd 7) = true := by
  unfold Ctx.isTrue Ctx.rd Issue.prd
  split <;> rfl

theorem predMask_getLsbD (c : Ctx) (i : Nat) :
    (predMask c c.iss).getLsbD i = (decide (i = 7) || (decide (i < 7) && c.isTrue (c.iss.prd i))) := by
  by_cases h : i < 32
  · rw [predMask, getLsbD_foldl_bit (fun i => c.isTrue (c.iss.prd i)) _ 0 h]
    rcases Nat.lt_trichotomy i 7 with low | rfl | high
    · simp [low, low.ne, show i < 8 by omega]
    · simp [c.isTrue_seven]
    · simp [show ¬i < 8 by omega, show ¬i < 7 by omega, show ¬i = 7 by omega]
  · rw [BitVec.getLsbD_of_ge _ _ (Nat.le_of_not_lt h)]
    simp [show ¬i < 7 by omega, show ¬i = 7 by omega]

theorem bitAt_toNat {n : Nat} (x : BitVec n) (i : Nat) : bitAt x.toNat i = x.getLsbD i := by
  rw [bitAt, BitVec.getLsbD, Nat.testBit_eq_decide_div_mod_eq, Nat.shiftRight_eq_div_pow]
  rfl

theorem predicateTagAndMoveWords : PredicateTagAndMoveWords := by
  refine ⟨fun f => ?_, fun f => ?_, fun f => ?_, fun f => ?_, fun f => ?_, fun f => ?_, fun f => ?_, fun f => ?_⟩
  · exact writesOne_of_run (fun c => ⟨[(c.rd (AI.src f c.iss), Tag.ofCode f.imm.toNat)], 0, 0⟩) (fun _ => rfl)
      (fun c => ⟨rfl, rfl, rfl, fun _ => rfl⟩) fun c => ⟨rfl, rfl, rfl⟩
  · exact writesOne_of_run (fun c => ⟨[(BitVec.ofNat 32 (c.tag (f.srcA c.iss none)).code, .n32)], 0, 0⟩) (fun _ => rfl)
      (fun c => ⟨rfl, rfl, rfl, fun _ => rfl⟩) fun c => ⟨rfl, rfl, rfl⟩
  · exact writesOne_of_run (fun c =>
      let x := if c.isTrue (c.iss.prd f.p.toNat) then c.iss.reg (c.iss.aF f.a) else c.iss.reg (c.iss.bF f.b)
      ⟨[(c.rd x, c.tag x)], 0, 0⟩) (fun _ => rfl)
      (fun c => ⟨rfl, rfl, rfl, fun _ => rfl⟩) fun c => ⟨rfl, rfl, rfl⟩
  · refine writesOne_of_run (fun c => ⟨(predRes (f.pdst c.iss)
      (plogOp f.cond.toNat (c.isTrue (c.iss.predA f.a f.ea)) (c.isTrue (c.iss.predB f.b f.eb)))).2, 0, 0⟩) (fun _ => rfl)
      (fun c => ⟨rfl, rfl, rfl, fun _ => rfl⟩) fun c => ⟨rfl, rfl, oneBit_ite _ ?_⟩
    generalize c.isTrue (c.iss.predA f.a f.ea) = a
    generalize c.isTrue (c.iss.predB f.b f.eb) = b
    rcases f.cond.toNat with _ | _ | _ | _ | _ | cond
    · exact Bool.and_eq_true_iff
    · exact Bool.or_eq_true_iff
    · show (a != b) = true ↔ ¬(a = true ↔ b = true)
      cases a <;> cases b <;> decide
    · show (a && !b) = true ↔ a = true ∧ ¬b = true
      cases a <;> cases b <;> decide
    · show (!a) = true ↔ ¬a = true
      cases a <;> decide
    · exact Iff.rfl
  · exact writesOne_of_run (fun c => ⟨[(predMask c c.iss, .mask)], 0, 0⟩) (fun _ => rfl)
      (fun c => ⟨rfl, rfl, rfl, fun _ => rfl⟩) fun c => ⟨rfl, rfl, _, rfl, predMask_getLsbD c⟩
  · refine writesOne_of_run (fun c => ⟨(List.range 7).map fun i =>
      (if bitAt (c.rd (f.srcA c.iss none)).toNat i then 1 else 0, .raw), 0, 0⟩) (fun _ => rfl)
      (fun c => ⟨rfl, rfl, rfl, fun _ => rfl⟩) fun c => ⟨rfl, rfl, rfl, fun i h => ?_⟩
    rw [List.getElem?_map, List.getElem?_range h, Option.map_some, bitAt_toNat]
  · exact writesOne_of_run (fun c => ⟨[(c.rd (f.srcA c.iss none), c.tag (f.srcA c.iss none))], 0, 0⟩) (fun _ => rfl)
      (fun c => ⟨rfl, rfl, rfl, fun _ => rfl⟩) fun c => ⟨rfl, rfl, rfl⟩
  · exact writesOne_of_run (fun c => ⟨[(c.rd (f.srcB c.iss none), .raw)], 0, 0⟩) (fun _ => rfl)
      (fun c => ⟨rfl, rfl, rfl, fun _ => rfl⟩) fun c => ⟨rfl, rfl, rfl⟩

/-- Settles O35: each word writes one operand with the result its entry gives (`writesOne_of_run`). -/
theorem statisticsPredicateAndTagWords : Obligations.StatisticsPredicateAndTagWords :=
  ⟨welfordWordsUpdateTriples, predicateTagAndMoveWords⟩

end Sys2Proof.Machine

namespace Sys2Proof.Machine

/-! ### Words with flags that trap (R142) -/

theorem floatTrapsWhenEnabled : FloatTrapsWhenEnabled := by
  intro r hr f
  exact flagTraps_of_run (fpWords_run r hr f) (fun _ => rfl) (fun _ => rfl) fun _ _ => rfl

/-- CVTQ raises no flag where it has a trap of its own. -/
theorem cvtqEff_plain (f : CQ) (c : Ctx) : (cvtqEff f c).fl = 0 ∨ (cvtqEff f c).trap = none := by
  unfold cvtqEff quantise
  simp only
  split
  · exact .inl rfl
  · exact .inr rfl

/-- DEQ raises no flag where it has a trap of its own. -/
theorem dequantEff_plain (f : CQ) (c : Ctx) : (dequantEff f c).fl = 0 ∨ (dequantEff f c).trap = none := by
  unfold dequantEff deqAll
  simp only
  split
  · exact .inl rfl
  · exact .inr rfl

/-- A missing slot comes before a side list that leaves the scratchpad. -/
theorem sideValue_eq (slot : BitVec 4) (eff : Ctx → Eff) (iss : Issue) (c : Ctx) :
    sideValue slot eff iss c = if slot.toNat ≥ c.t.prog.slots then some 0x04 else (eff c).bound := by
  unfold sideValue slotValue Eff.bound
  split <;> rfl

theorem exec_cvtq (f : CQ) (s : State) : exec (.cvtq f) s = withIssue s fun iss =>
    (cvtqForm f iss).perform iss (sideValue f.slot (cvtqEff f) iss) (effAct iss (cvtqEff f)) := by
  have value (iss : Issue) : sideValue f.slot (cvtqEff f) iss = quantValue f := funext fun c => sideValue_eq _ _ iss c
  simp only [value]
  rfl

theorem exec_deq (f : CQ) (s : State) : exec (.deq f) s = withIssue s fun iss =>
    (deqForm f iss).perform iss (sideValue f.slot (dequantEff f) iss) (effAct iss (dequantEff f)) := by
  have value (iss : Issue) : sideValue f.slot (dequantEff f) iss = deqValue f := funext fun c => sideValue_eq _ _ iss c
  simp only [value]
  rfl

theorem otherFlagsTrapWhenEnabled : OtherFlagsTrapWhenEnabled := by
  refine ⟨fun r hr f => ?_, fun f => ?_, fun f => ?_, fun f => ?_, fun f => ?_, fun f => ?_, fun f => ?_, fun f => ?_, fun f => ?_,
    fun f => ?_, fun f => ?_, fun f => ?_⟩
  · refine flagTraps_of_run (packedWords_run r hr f) (fun _ => rfl) (fun c => ?_) fun _ _ => rfl
    simp only [PackedWord.run, half_zero, half_one]
    rfl
  · exact flagTraps_of_run (value := noValue) (fun _ => rfl) (fun _ => rfl) (fun _ => rfl) fun _ _ => rfl
  · exact flagTraps_of_run (value := noValue) (fun _ => rfl) (fun _ => rfl) (fun _ => rfl) fun _ _ => rfl
  · exact flagTraps_of_run (value := noValue) (fun _ => rfl) (fun _ => rfl) (fun _ => rfl) fun _ _ => rfl
  · exact flagTraps_of_run (value := noValue) (fun _ => rfl) (fun _ => rfl) (fun _ => rfl) fun _ _ => rfl
  · exact flagTraps_of_run (value := packValueCause f) (fun _ => rfl) (fun _ => rfl) (fun _ => rfl) fun _ _ => rfl
  · exact flagTraps_of_run (fun _ => rfl) (fun _ => rfl) (fun _ => rfl) fun _ _ => rfl
  · exact flagTraps_of_run (run := fun _ => cvtqEff f) (exec_cvtq f) (fun _ => rfl) (fun _ => rfl) fun c => (cvtqEff_plain f c).resolve_left
  · exact flagTraps_of_run (run := fun _ => dequantEff f) (exec_deq f) (fun _ => rfl) (fun _ => rfl) fun c => (dequantEff_plain f c).resolve_left
  · exact flagTraps_of_run (value := noValue) (fun _ => rfl) (fun _ => rfl) (fun _ => rfl) fun _ _ => rfl
  · exact flagTraps_of_run (value := noValue) (fun _ => rfl) (fun _ => rfl) (fun _ => rfl) fun _ _ => rfl
  · exact flagTraps_of_run (value := noValue) (fun _ => rfl) (fun _ => rfl) (fun _ => rfl) fun _ _ => rfl

/-! ### Cross-lane words whose tiles are complete: their whole next state (R188, R191, R192) -/

/-- A fold over a list that collects one result for each element, whatever the state is. -/
theorem foldl_collects {α : Type} {f : State × List ((Nat × Nat) × LaneRes × Word) → α → State × List ((Nat × Nat) × LaneRes × Word)}
    {g : State → α → State} {out : α → (Nat × Nat) × LaneRes × Word} {l : List α}
    (h : ∀ s rs, ∀ a ∈ l, f (s, rs) a = (g s a, rs ++ [out a])) (s : State) (rs : List ((Nat × Nat) × LaneRes × Word)) :
    l.foldl f (s, rs) = (l.foldl g s, rs ++ l.map out) := by
  induction l generalizing s rs with
  | nil => simp
  | cons a l ih =>
    rw [List.foldl_cons, h s rs a List.mem_cons_self, ih fun s rs b hb => h s rs b (List.mem_cons_of_mem _ hb)]
    simp

/-- A cross-lane word whose tiles are complete, in every thread of its bundle: it takes its results there, or the flags of its
trap alone. -/
theorem Form.performTiles_eq {fm : Form} {iss : Issue} {value : Ctx → Option Nat} {run : XTile → Ctx → Eff} {s : State} {t : Team}
    {o : Opnd} {res : Nat × Nat → XRes} (hg : Gathers s iss t fm value)
    (writes : ∀ m ∈ iss.actors t, (run (iss.tile s t m) ⟨t, m.1, m.2, iss⟩).Writes ⟨t, m.1, m.2, iss⟩ o (res m)) :
    fm.performTiles iss value run { s with issue := none } =
      iss.finish fm.len ((iss.actors t).map fun m => (m, (t.thread m.1 m.2).outcome (res m), (0 : Word)))
        ((iss.actors t).foldl (fun s' m => (res m).take ⟨t, m.1, m.2, iss⟩ o (s'.rejoin iss m (iss.tile s t m)))
          { s with issue := none }) := by
  have found : State.team? { s with issue := none } iss.team = some t := hg.team
  have prot : State.isProtected { s with issue := none } t = s.isProtected t := rfl
  have ready : (iss.actors t).filter (fun m => Ctx.checks ⟨t, m.1, m.2, iss⟩ fm.os (value ⟨t, m.1, m.2, iss⟩) fm.pure == none)
      = iss.actors t := filter_all _ _ fun m hm => by simp [hg.ready m hm]
  have held : (iss.actors t).filter
      (fun m => Ctx.checks ⟨t, m.1, m.2, iss⟩ fm.os (value ⟨t, m.1, m.2, iss⟩) fm.pure == some Stop.hold) = [] :=
    List.filter_eq_nil_iff.2 fun m hm => by simp [hg.ready m hm]
  unfold Form.performTiles
  simp only [found, hg.pre, prot, ready, held, List.isEmpty_nil, Bool.not_true, Bool.and_false, Bool.false_eq_true, if_false,
    List.foldl_nil]
  rw [foldl_collects (g := fun s' m => (res m).take ⟨t, m.1, m.2, iss⟩ o (s'.rejoin iss m (iss.tile s t m)))
    (out := fun m => (m, (t.thread m.1 m.2).outcome (res m), 0))]
  · rfl
  · intro s' rs m hm
    have whole : (hdrCollective iss.header || ((iss.awaited t (s.isProtected t) m).contains m.2 &&
        (iss.awaited t (s.isProtected t) m).all fun l => (iss.actors t).contains (m.1, l))) = true := by
      rcases hg.whole m hm with h | h
      · simp [h]
      · simp only [Bool.or_eq_true, Bool.and_eq_true, List.all_eq_true, List.contains_iff_mem]
        exact .inr h
    have acts := effAct_of_writes (run := run (iss.tile s t m)) (writes m hm) (s'.rejoin iss m (iss.tile s t m))
    simp only [hg.ready m hm, whole, if_true]
    simp only [Issue.tile, State.rejoin, Issue.at_] at acts ⊢
    rw [acts]

/-- A cross-lane word that writes one operand, whole. -/
theorem crossTraps_of_run {i : Instr} {fm : Issue → Form} {value : Issue → Ctx → Option Nat} {run : Issue → XTile → Ctx → Eff}
    {o : Issue → Opnd} {rule : XTile → Ctx → XRes → Prop} (res : XTile → Ctx → XRes) (hx : ∀ s, exec i s = crossWord fm value run s)
    (writes : ∀ x c, (run c.iss x c).Writes c (o c.iss) (res x c)) (rules : ∀ x c, rule x c (res x c)) :
    CrossTraps i fm value o rule := by
  intro s iss t hg
  refine ⟨fun m => res (iss.tile s t m) ⟨t, m.1, m.2, iss⟩, fun m _ => rules _ _, ?_⟩
  rw [hx, crossWord, withIssue_of hg.issue, Form.performTiles_eq (o := o iss) hg fun m _ => writes _ ⟨t, m.1, m.2, iss⟩]

/-! ### Scans (R164, R165, R191) -/

/-- One value taken into a scan's accumulation. -/
def scanNext (ty op rm : Nat) (acc : Option Word) (v : Word) : Word :=
  match acc with
  | none => (scanFirst ty v).1
  | some a => (redStep ty op rm a v).1

/-- The accumulation of a list of values into an earlier one, those without a thread left out. -/
def scanned (ty op rm : Nat) (acc : Option Word) (vs : List (Option Word)) : Option Word :=
  (vs.filterMap id).foldl (fun acc v => some (scanNext ty op rm acc v)) acc

theorem scanAll_some (ty op rm : Nat) (acc : Option Word) (v : Word) (vs : List (Option Word)) :
    (scanAll ty op rm acc (some v :: vs)).1 =
      some (scanNext ty op rm acc v) :: (scanAll ty op rm (some (scanNext ty op rm acc v)) vs).1 := by
  cases acc <;> rfl

/-- A scan's value at a place is the accumulation of the places up to it. -/
theorem scanAll_getD (ty op rm : Nat) (vs : List (Option Word)) (acc : Option Word) {k : Nat} (h : k < vs.length) :
    (scanAll ty op rm acc vs).1.getD k none = scanned ty op rm acc (vs.take (k + 1)) := by
  induction vs generalizing acc k with
  | nil => exact absurd h (Nat.not_lt_zero k)
  | cons v vs ih =>
    cases v with
    | none =>
      cases k with
      | zero => rfl
      | succ k => exact ih acc (Nat.lt_of_succ_lt_succ h)
    | some v =>
      rw [scanAll_some]
      cases k with
      | zero => rfl
      | succ k => exact ih _ (Nat.lt_of_succ_lt_succ h)

theorem foldl_scanNext (ty op rm : Nat) (a : Word) (vs : List Word) :
    vs.foldl (fun acc v => some (scanNext ty op rm acc v)) (some a) =
      some (vs.foldl (fun acc v => (redStep ty op rm acc v).1) a) := by
  induction vs generalizing a with
  | nil => rfl
  | cons v vs ih => exact ih _

theorem scanFirst_eq (ty : Nat) (v : Word) :
    (scanFirst ty v).1 = if ty = 2 ∧ (unpack fmtF32 v.toNat).isNan then 0x7FC00000 else v := by
  unfold scanFirst
  split <;> rfl

/-- What a scan has accumulated from its start, the identity where no thread stood. -/
theorem scanned_combined (ty op rm : Nat) (vs : List (Option Word)) :
    (scanned ty op rm none vs).getD (redIdentity ty op) = combined ty op rm vs := by
  unfold scanned combined
  cases vs.filterMap id with
  | nil => rfl
  | cons v vs =>
    rw [List.foldl_cons, foldl_scanNext]
    simp only [scanNext, scanFirst_eq, Option.getD_some]

/-- The value of a scan at place `k`, the earlier places alone where it is exclusive. -/
theorem scan_value (ty op rm : Nat) (exclusive : Bool) (vs : List (Option Word)) {k : Nat} (h : k < vs.length) :
    (if exclusive then (none :: (scanAll ty op rm none vs).1).getD k none else (scanAll ty op rm none vs).1.getD k none).getD
      (redIdentity ty op) = combined ty op rm (vs.take (if exclusive then k else k + 1)) := by
  rw [← scanned_combined]
  cases exclusive with
  | false => rw [if_neg Bool.false_ne_true, if_neg Bool.false_ne_true, scanAll_getD ty op rm vs none h]
  | true =>
    rw [if_pos rfl, if_pos rfl]
    cases k with
    | zero => rfl
    | succ k => rw [List.getD_cons_succ, scanAll_getD ty op rm vs none (Nat.lt_of_succ_lt h)]

/-! ### Reductions, scans and merges (R163 to R165, R191, R192) -/

/-- What RED writes in one thread. -/
def redResult (f : AI) (x : XTile) (c : Ctx) : XRes :=
  let v := redTree (redType f.imm.toNat) (redOp f.imm.toNat) (x.rm c)
    (tileValues x c (c.iss.reg (c.iss.aF f.a)) (redIdentity (redType f.imm.toNat) (redOp f.imm.toNat)))
  { ws := [(v.1, redTag f.imm.toNat (c.tag (c.iss.reg (c.iss.aF f.a))))], fl := v.2 }

/-- What SCAN writes in one thread. -/
def scanResult (f : AI) (x : XTile) (c : Ctx) : XRes :=
  let ty := redType f.imm.toNat
  let op := redOp f.imm.toNat
  let r := scanAll ty op (x.rm c) none (tilePlaces x c (c.iss.reg (c.iss.aF f.a)))
  let k := laneIndex x.prot c.l - x.base
  let v := (if bitAt f.imm.toNat 5 then (none :: r.1).getD k none else r.1.getD k none).getD (redIdentity ty op)
  { ws := [(v, redTag f.imm.toNat (c.tag (c.iss.reg (c.iss.aF f.a))))], fl := r.2 }

/-- What WRED writes in one thread. -/
def wredResult (f : A3) (x : XTile) (c : Ctx) : XRes :=
  let vs := x.values c.l ({ t := {} } : TripleRes) fun l => { t := tripleAt (c.at l) (f.srcA c.iss none) }
  let v := ((treeOf (fun p q : TripleRes =>
    let m := welfordMerge p.t q.t
    { m with fl := p.fl ||| q.fl ||| m.fl, ist := p.ist ||| q.ist ||| m.ist }) 5 vs).head?).getD { t := {} }
  { ws := v.t.words, fl := v.fl, ist := v.ist }

theorem scanResult_rule (f : AI) (x : XTile) (c : Ctx) : scanRule f x c (scanResult f x c) := by
  refine ⟨rfl, rfl, fun inside => ?_⟩
  have place : laneIndex x.prot c.l - x.base < (tilePlaces x c (c.iss.reg (c.iss.aF f.a))).length := by
    rwa [tilePlaces, List.length_map, List.length_range]
  simp only [scanResult, bitAt_toNat, scan_value _ _ _ _ _ place]

theorem reductionsTrapThreadByThread : ReductionsTrapThreadByThread := by
  refine ⟨fun f => ?_, fun f => ?_, fun f => ?_⟩
  · exact crossTraps_of_run (redResult f) (fun _ => rfl) (fun x c => ⟨rfl, rfl, rfl, fun _ => rfl⟩) fun x c => ⟨rfl, rfl, rfl⟩
  · exact crossTraps_of_run (scanResult f) (fun _ => rfl) (fun x c => ⟨rfl, rfl, rfl, fun _ => rfl⟩) (scanResult_rule f)
  · exact crossTraps_of_run (wredResult f) (fun _ => rfl) (fun x c => ⟨rfl, rfl, rfl, fun _ => rfl⟩) fun x c => ⟨rfl, rfl, rfl⟩

/-- Settles O31: a word in one place whose flags trap leaves its flags and its trap (`flagTraps_of_run`), and the threads of a
reduction each take their results or their trap (`crossTraps_of_run`). -/
theorem enabledFlagsTrap : Obligations.EnabledFlagsTrap :=
  ⟨floatTrapsWhenEnabled, otherFlagsTrapWhenEnabled, reductionsTrapThreadByThread⟩

end Sys2Proof.Machine

namespace Sys2Proof.Machine

/-! ### Two teams of one id: SMAX folds into the slot of each (R151, R185) -/

/-- A team of one thread, its one scale slot as given. -/
def slotTeam (k : ScaleSlot) : Team :=
  { id := 1, launch := 0, prog := { hdr := 0, vregs := 1, slots := 1 }, place := .resident 0 0
    warps := [{ threads := [{ v := [{}] }], slots := [k] }] }

/-- Word 1 of a clause of class 1 with one word, in the one thread. -/
def slotIssue : Issue := { team := 1, members := [(0, 0)], hdr := 0, header := 0xC1200000, word := 1 }

/-- A state in which two teams have the id of the word's team: the first, whose slot has folded nothing, and one whose slot has
folded a magnitude. -/
def twinTeams : State := { teams := [slotTeam {}, slotTeam { cm := 1 }], issue := some slotIssue }

/-- What the slots of the teams have folded. -/
def State.slotMags (s : State) : List Nat := s.teams.map fun t => ((t.warp 0).slots.getD 0 {}).cm

theorem State.slotMags_data (s : State) : s.data.slotMags = s.slotMags := by
  simp only [State.slotMags, State.data, List.map_map, Function.comp_def, Team.warp_data]
  rfl

/-- SMAX folds what its register holds into each of the two slots. -/
theorem exec_smax_twinTeams : ∃ s', exec (.smax ⟨0, 0, 0, 0, 0, 0⟩) twinTeams = .next s' ∧ s'.slotMags = [0, 1] :=
  ⟨_, rfl, by decide⟩

/-- Refutes O34: its clause on SMAX puts the folded slot of the word's team into every team of that id, and SMAX folds into the
slot that each of them has. The clause speaks of every state, also of one in which two teams have one id. -/
theorem not_packingQuantisingAndScaleWords : ¬ Obligations.PackingQuantisingAndScaleWords := by
  rintro ⟨-, ⟨-, -, smax, -⟩, -⟩
  have clear : Form.clear (aluForm (.smax ⟨0, 0, 0, 0, 0, 0⟩) (fun iss => iss.past (iss.dF 0) (iss.aF 0) 0)
      (fun iss => [(iss.reg (iss.aF 0)).src (some [.f32])]) slotIssue) (slotValue 0 slotIssue) ⟨slotTeam {}, 0, 0, slotIssue⟩ := by
    unfold Form.clear
    decide
  obtain ⟨s1, next, data⟩ := smax ⟨0, 0, 0, 0, 0, 0⟩ twinTeams slotIssue (slotTeam {}) 0 0 ⟨rfl, rfl, rfl, rfl⟩ clear trivial
  obtain ⟨s2, next', folded⟩ := exec_smax_twinTeams
  obtain rfl : s1 = s2 := Host.Outcome.next.inj (next.symm.trans next')
  rw [← State.slotMags_data, data, State.slotMags_data] at folded
  exact absurd folded (by decide)

end Sys2Proof.Machine

namespace Sys2Proof.Machine

/-! ### One rounding to an integer (R93, R140, R149) -/

/-- The modes that drop what lies beyond the integer part of a magnitude. -/
abbrev TowardZero (rm : Nat) (neg : Bool) : Prop := rm = 1 ∨ (rm = 2 ∧ neg = false) ∨ (rm = 3 ∧ neg = true)

/-- The integer `q` is the magnitude `y` rounded once: nearest with ties to even, toward zero or away from it. -/
def RoundsTo (rm : Nat) (neg : Bool) (y : ℚ) (q : Nat) : Prop :=
  if rm = 0 then |y - q| ≤ 1 / 2 ∧ (|y - q| = 1 / 2 → q % 2 = 0)
  else if TowardZero rm neg then (q : ℚ) ≤ y ∧ y < q + 1
  else y ≤ q ∧ (q : ℚ) < y + 1

theorem roundsTo_self (rm : Nat) (neg : Bool) (q : Nat) : RoundsTo rm neg q q := by
  unfold RoundsTo
  split_ifs <;> norm_num

theorem RoundsTo.near {rm : Nat} {neg : Bool} {y : ℚ} {q : Nat} (h : RoundsTo rm neg y q) : |y - q| < 1 := by
  unfold RoundsTo at h
  split_ifs at h
  · linarith [h.1]
  · rw [abs_lt]
    constructor <;> linarith [h.1, h.2]
  · rw [abs_lt]
    constructor <;> linarith [h.1, h.2]

theorem roundsUp_towardZero {rm : Nat} {neg : Bool} (h : TowardZero rm neg) (odd : Bool) (c : Ordering) (inexact : Bool) :
    roundsUp rm neg odd c inexact = false := by
  rcases h with rfl | ⟨rfl, rfl⟩ | ⟨rfl, rfl⟩ <;> rfl

theorem roundsUp_away {rm : Nat} {neg : Bool} (mode : rm < 4) (near : rm ≠ 0) (h : ¬TowardZero rm neg) (odd : Bool) (c : Ordering)
    (inexact : Bool) : roundsUp rm neg odd c inexact = inexact := by
  match rm, mode, near with
  | 1, _, _ => exact absurd (.inl rfl) h
  | 2, _, _ => cases neg with
    | false => exact absurd (.inr (.inl ⟨rfl, rfl⟩)) h
    | true => rfl
  | 3, _, _ => cases neg with
    | true => exact absurd (.inr (.inr ⟨rfl, rfl⟩)) h
    | false => rfl

/-- Dropping bits without a remainder below them: the quotient or the next number. -/
theorem roundAt_eq (rm : Nat) (neg : Bool) (m sh : Nat) : roundAt rm neg m sh false =
    (if roundsUp rm neg (m / 2 ^ sh % 2 == 1) (compare (2 * (m % 2 ^ sh)) (2 ^ sh)) (m % 2 ^ sh != 0) then m / 2 ^ sh + 1
      else m / 2 ^ sh, m % 2 ^ sh != 0) := by
  simp only [roundAt, Bool.or_false, Nat.shiftRight_eq_div_pow]
  by_cases none : sh = 0
  · subst none
    simp only [pow_zero, Nat.mod_one, if_true]
    rfl
  · rw [if_neg none]
    cases compare (2 * (m % 2 ^ sh)) (2 ^ sh) <;> rfl

/-- A number over a power of two: its integer part and what is dropped. -/
theorem div_two_pow_split (m sh : Nat) :
    (m : ℚ) / 2 ^ sh = (m / 2 ^ sh : Nat) + ((m % 2 ^ sh : Nat) : ℚ) / 2 ^ sh ∧ ((m % 2 ^ sh : Nat) : ℚ) / 2 ^ sh < 1 := by
  have pos : (0 : ℚ) < 2 ^ sh := by positivity
  constructor
  · rw [div_eq_iff pos.ne', add_mul, div_mul_cancel₀ _ pos.ne']
    exact_mod_cast (Nat.div_add_mod' m (2 ^ sh)).symm
  · rw [div_lt_one pos]
    exact_mod_cast Nat.mod_lt m (Nat.two_pow_pos sh)

/-- The nearest integer to one with a part below it, by how twice that part compares with 1. -/
theorem nearest_of_compare (g : Nat) {y d : ℚ} (split : y = g + d) (least : 0 ≤ d) (below : d < 1) {c : Ordering}
    (lt : c = .lt → d < 1 / 2) (eq : c = .eq → d = 1 / 2) (gt : c = .gt → 1 / 2 < d) (neg inexact : Bool) :
    RoundsTo 0 neg y (if roundsUp 0 neg (g % 2 == 1) c inexact then g + 1 else g) := by
  subst split
  rw [RoundsTo, if_pos rfl]
  have down : |(g : ℚ) + d - g| = d := by rw [add_sub_cancel_left, abs_of_nonneg least]
  have up : |(g : ℚ) + d - (g + 1 : Nat)| = 1 - d := by
    rw [Nat.cast_add, Nat.cast_one, add_sub_add_left_eq_sub, abs_sub_comm, abs_of_pos (by linarith)]
  cases c with
  | lt =>
    have small := lt rfl
    simp only [roundsUp, Bool.false_eq_true, if_false, down]
    exact ⟨small.le, fun e => absurd e small.ne⟩
  | gt =>
    have large := gt rfl
    simp only [roundsUp, if_true, up]
    exact ⟨by linarith, fun e => absurd e (by linarith)⟩
  | eq =>
    have half := eq rfl
    simp only [roundsUp, beq_iff_eq]
    split
    · rw [up]
      exact ⟨by linarith, fun _ => by omega⟩
    · rw [down]
      exact ⟨half.le, fun _ => by omega⟩

theorem roundAt_roundsTo {rm : Nat} (mode : rm < 4) (neg : Bool) (m sh : Nat) :
    RoundsTo rm neg (m / 2 ^ sh) (roundAt rm neg m sh false).1 := by
  obtain ⟨split, below⟩ := div_two_pow_split m sh
  have pos : (0 : ℚ) < 2 ^ sh := by positivity
  have least : (0 : ℚ) ≤ ((m % 2 ^ sh : Nat) : ℚ) / 2 ^ sh := by positivity
  rw [roundAt_eq]
  by_cases near : rm = 0
  · subst near
    have half (x : ℚ) : x / 2 ^ sh < 1 / 2 ↔ 2 * x < 2 ^ sh := by rw [div_lt_div_iff₀ pos two_pos, one_mul, mul_comm]
    have half' (x : ℚ) : 1 / 2 < x / 2 ^ sh ↔ 2 ^ sh < 2 * x := by rw [div_lt_div_iff₀ two_pos pos, one_mul, mul_comm x]
    refine nearest_of_compare _ split least below (fun lt => ?_) (fun eq => ?_) (fun gt => ?_) neg _
    · rw [half]
      exact_mod_cast Nat.compare_eq_lt.1 lt
    · rw [div_eq_div_iff pos.ne' two_ne_zero, one_mul, mul_comm]
      exact_mod_cast Nat.compare_eq_eq.1 eq
    · rw [half']
      exact_mod_cast Nat.compare_eq_gt.1 gt
  · rw [RoundsTo, if_neg near, split]
    by_cases zero : TowardZero rm neg
    · rw [if_pos zero, roundsUp_towardZero zero, if_neg Bool.false_ne_true]
      constructor <;> linarith
    · rw [if_neg zero, roundsUp_away mode near zero]
      by_cases none : m % 2 ^ sh = 0
      · simp [none]
      · have some : (0 : ℚ) < ((m % 2 ^ sh : Nat) : ℚ) / 2 ^ sh := div_pos (by exact_mod_cast Nat.pos_of_ne_zero none) pos
        simp only [bne_iff_ne, ne_eq, none, not_false_eq_true, if_true, Nat.cast_add, Nat.cast_one]
        constructor <;> linarith

/-- A rounding is exact where nothing is dropped. -/
theorem roundAt_inexact {rm : Nat} (mode : rm < 4) (neg : Bool) (m sh : Nat) :
    (roundAt rm neg m sh false).2 = true ↔ ((roundAt rm neg m sh false).1 : ℚ) ≠ m / 2 ^ sh := by
  have near := (roundAt_roundsTo mode neg m sh).near
  obtain ⟨split, below⟩ := div_two_pow_split m sh
  have pos : (0 : ℚ) < 2 ^ sh := by positivity
  have dropped : (roundAt rm neg m sh false).2 = (m % 2 ^ sh != 0) := by rw [roundAt_eq]
  generalize (roundAt rm neg m sh false).1 = q at near
  rw [dropped, bne_iff_ne, not_iff_not, split]
  rw [split, abs_lt] at near
  by_cases none : m % 2 ^ sh = 0
  · rw [none, Nat.cast_zero, zero_div, add_zero] at near ⊢
    obtain ⟨above, under⟩ := near
    have low : q < m / 2 ^ sh + 1 := by exact_mod_cast (by linarith : (q : ℚ) < (m / 2 ^ sh : Nat) + 1)
    have high : m / 2 ^ sh < q + 1 := by exact_mod_cast (by linarith : ((m / 2 ^ sh : Nat) : ℚ) < q + 1)
    have same : q = m / 2 ^ sh := by omega
    simp [same]
  · have some : (0 : ℚ) < ((m % 2 ^ sh : Nat) : ℚ) / 2 ^ sh := div_pos (by exact_mod_cast Nat.pos_of_ne_zero none) pos
    refine ⟨fun e => absurd e none, fun e => ?_⟩
    have low : m / 2 ^ sh < q := by exact_mod_cast (by linarith : ((m / 2 ^ sh : Nat) : ℚ) < q)
    have high : q < m / 2 ^ sh + 1 := by exact_mod_cast (by linarith : (q : ℚ) < (m / 2 ^ sh : Nat) + 1)
    omega

end Sys2Proof.Machine

namespace Sys2Proof.Machine

/-! ### Finite values rounded to integers (R149) -/

/-- Magnitudes below one half, not zero, round alike. -/
theorem RoundsTo.of_small {rm : Nat} {neg : Bool} {y y' : ℚ} {q : Nat} (h : RoundsTo rm neg y q) (pos : 0 < y) (small : y < 1 / 2)
    (pos' : 0 < y') (small' : y' < 1 / 2) : RoundsTo rm neg y' q := by
  have near := h.near
  rw [abs_lt] at near
  have low : q < 2 := by exact_mod_cast (by linarith : (q : ℚ) < 2)
  unfold RoundsTo at h ⊢
  interval_cases q
  · norm_num at h ⊢
    split_ifs at h ⊢
    · rw [abs_of_pos pos']
      exact small'.le
    · exact ⟨pos'.le, by linarith⟩
    · linarith [h.1]
  · norm_num at h ⊢
    split_ifs at h ⊢
    · rw [abs_of_neg (by linarith)] at h
      linarith [h.1]
    · linarith [h.1]
    · exact ⟨by linarith, pos'⟩

/-- A magnitude far below one is rounded as 1/8 is. -/
theorem roundAt_far {rm : Nat} (mode : rm < 4) (neg : Bool) {m sh : Nat} (far : Nat.log2 m + 3 < sh) :
    let r := roundAt rm neg (if m = 0 then 0 else 1) 3 false
    RoundsTo rm neg (m / 2 ^ sh) r.1 ∧ (r.2 = true ↔ (r.1 : ℚ) ≠ m / 2 ^ sh) := by
  intro r
  by_cases zero : m = 0
  · have exact := roundAt_roundsTo mode neg 0 3
    have inexact := roundAt_inexact mode neg 0 3
    simp only [r, zero, if_true, Nat.cast_zero, zero_div] at exact inexact ⊢
    exact ⟨exact, inexact⟩
  · have eighth := roundAt_roundsTo mode neg 1 3
    have inexact := roundAt_inexact mode neg 1 3
    simp only [r, zero, if_false]
    have pos : (0 : ℚ) < m / 2 ^ sh := div_pos (by exact_mod_cast Nat.pos_of_ne_zero zero) (by positivity)
    have small : (m : ℚ) / 2 ^ sh < 1 / 2 := by
      have top : m < 2 ^ (Nat.log2 m + 1) := Nat.lt_log2_self
      have room : 2 ^ (Nat.log2 m + 1) * 2 ≤ 2 ^ sh := by
        rw [← pow_succ]
        exact Nat.pow_le_pow_right two_pos (by omega)
      rw [div_lt_div_iff₀ (by positivity) two_pos, one_mul]
      exact_mod_cast (by omega : m * 2 < 2 ^ sh)
    refine ⟨eighth.of_small (by norm_num) (by norm_num) pos small, ?_⟩
    have fraction {y : ℚ} (pos : 0 < y) (small : y < 1 / 2) (q : Nat) : (q : ℚ) ≠ y := by
      rintro rfl
      have above : 0 < q := by exact_mod_cast pos
      have below : q < 1 := by exact_mod_cast (by linarith : (q : ℚ) < 1)
      omega
    rw [inexact]
    exact iff_of_true (fraction (by norm_num) (by norm_num) _) (fraction pos small _)

/-- A finite value rounded to an integer: its magnitude rounded once, with its sign. -/
theorem roundToInt_spec {rm : Nat} (mode : rm < 4) (neg : Bool) (m : Nat) (e : Int) :
    ∃ q : Nat, (roundToInt rm neg m e).1 = (if neg then -(q : Int) else q) ∧ RoundsTo rm neg (m * (2 : ℚ) ^ e) q ∧
      ((roundToInt rm neg m e).2 = true ↔ (q : ℚ) ≠ m * (2 : ℚ) ^ e) := by
  by_cases whole : 0 ≤ e
  · have value : (m : ℚ) * 2 ^ e = (m * 2 ^ e.toNat : Nat) := by
      rw [Nat.cast_mul, Nat.cast_pow, Nat.cast_ofNat, ← zpow_natCast, Int.toNat_of_nonneg whole]
    refine ⟨m * 2 ^ e.toNat, ?_⟩
    rw [value]
    simp only [roundToInt, if_pos whole]
    exact ⟨trivial, roundsTo_self rm neg _, by simp⟩
  · have value : (m : ℚ) * 2 ^ e = m / 2 ^ (-e).toNat := by
      rw [div_eq_mul_inv, ← zpow_natCast, ← zpow_neg, Int.toNat_of_nonneg (by omega), neg_neg]
    rw [value]
    by_cases far : Nat.log2 m + 3 < (-e).toNat
    · refine ⟨(roundAt rm neg (if m = 0 then 0 else 1) 3 false).1, ?_⟩
      simp only [roundToInt, if_neg whole, if_pos far]
      exact ⟨trivial, roundAt_far mode neg far⟩
    · refine ⟨(roundAt rm neg m (-e).toNat false).1, ?_⟩
      simp only [roundToInt, if_neg whole, if_neg far]
      exact ⟨trivial, roundAt_roundsTo mode neg m _, roundAt_inexact mode neg m _⟩

/-! ### CVT (R149, R181) -/

theorem cvtWritesTheConvertedValue : CvtWritesTheConvertedValue := fun f =>
  writesOne_of_run (fun c =>
    let r := cvtValue f.tag.toNat f.pos.toNat f.rm.toNat (f.sat == 1) (c.rd (c.iss.reg (c.iss.aF f.a)))
    ⟨[(BitVec.ofNat 32 r.bits, Tag.ofCode f.tag.toNat)], r.fl, r.ist⟩) (fun _ => rfl) (fun _ => ⟨rfl, rfl, rfl, fun _ => rfl⟩)
    fun _ => ⟨rfl, rfl, rfl⟩

/-- What a rounded magnitude says of the signed value: its distance, and the side on which the directed modes leave it. -/
theorem RoundsTo.signed {rm : Nat} {neg : Bool} {y : ℚ} {q : Nat} (h : RoundsTo rm neg y q) (least : 0 ≤ y) :
    let v : Int := if neg then -(q : Int) else q
    let x : ℚ := (if neg then -1 else 1) * y
    |(v : ℚ) - x| < 1 ∧ (rm = 0 → |(v : ℚ) - x| ≤ 1 / 2 ∧ (|(v : ℚ) - x| = 1 / 2 → v % 2 = 0)) ∧ (rm = 1 → |(v : ℚ)| ≤ |x|) ∧
      (rm = 2 → (v : ℚ) ≤ x) ∧ (rm = 3 → x ≤ v) := by
  intro v x
  have near := h.near
  have dist : |(v : ℚ) - x| = |y - q| := by
    simp only [v, x]
    split_ifs
    · rw [Int.cast_neg, Int.cast_natCast, neg_one_mul, sub_neg_eq_add, add_comm, ← sub_eq_add_neg]
    · rw [Int.cast_natCast, one_mul, abs_sub_comm]
  have size : |(v : ℚ)| = q ∧ |x| = y := by
    simp only [v, x]
    split_ifs <;> simp [abs_of_nonneg least]
  rw [dist, size.1, size.2]
  refine ⟨near, ?_, ?_, ?_, ?_⟩
  · rintro rfl
    rw [RoundsTo, if_pos rfl] at h
    refine ⟨h.1, fun tie => ?_⟩
    have even := h.2 tie
    simp only [v]
    split_ifs <;> omega
  · rintro rfl
    rw [RoundsTo, if_neg one_ne_zero, if_pos (.inl rfl)] at h
    exact h.1
  · rintro rfl
    cases neg <;> simp [RoundsTo, v, x] at h ⊢
    · exact h.1
    · exact h.1
  · rintro rfl
    cases neg <;> simp [RoundsTo, v, x] at h ⊢
    · exact h.1
    · exact h.1

/-- A value clipped to a range. -/
theorem clipped {lo hi v : Int} (range : lo ≤ hi) :
    max lo (min hi v) = if v < lo then lo else if v > hi then hi else v := by
  split_ifs <;> omega

theorem conversionToIntegersRoundsAndClips : ConversionToIntegersRoundsAndClips := by
  intro f _ rm mode lo hi a n m e _ low high _ unpacked x
  obtain ⟨q, value, rounds, inexact⟩ := roundToInt_spec mode n m e
  obtain ⟨near, nearest, zero, down, up⟩ := rounds.signed (by positivity)
  rw [← value] at near nearest zero down up
  have scaled : (if n then -1 else 1) * ((m : ℚ) * 2 ^ e) = x := (mul_assoc _ _ _).symm
  rw [scaled] at near nearest zero down up
  have exact : (roundToInt rm n m e).2 = true ↔ ((roundToInt rm n m e).1 : ℚ) ≠ x := by
    rw [inexact, value, ← scaled]
    cases n <;> simp
  refine ⟨(roundToInt rm n m e).1, near, nearest, zero, down, up, ?_⟩
  cases pair : roundToInt rm n m e with
  | mk v ix =>
    rw [pair] at exact
    simp only [fpToInt, unpacked, pair, clipped (low.trans high.le)]
    by_cases below : v < lo
    · simp only [below, if_true, true_or]
    · by_cases above : hi < v
      · simp only [below, above, if_true, if_false, or_true]
      · cases ix
        · have same : (v : ℚ) = x := by simpa using exact
          simp [below, above, same]
        · have other : (v : ℚ) ≠ x := by simpa using exact
          simp [below, above, other]

/-- Settles O50: CVT writes what its conversion gives, and a conversion to integers is one rounding (`roundToInt_spec`), clipped. -/
theorem conversionsRoundAndClip : Obligations.ConversionsRoundAndClip :=
  ⟨cvtWritesTheConvertedValue, conversionToIntegersRoundsAndClips⟩

end Sys2Proof.Machine

namespace Sys2Proof.Machine

/-! ### The values of a format in order (R139) -/

/-- What rounding needs of a format: its widths fit together, and infinity's bits stand for the power of two beyond its range. -/
structure Fmt.Sound (f : Fmt) : Prop where
  frac : 0 < f.fracBits
  prec : f.prec = f.fracBits + 1
  order : f.emin < f.emax
  inf : (f.infBits : Int) = (f.emax - f.emin + 2) * 2 ^ f.fracBits

theorem formats_sound : ∀ f ∈ [fmtF32, fmtF16, fmtB16], f.Sound := by
  simp only [List.forall_mem_cons]
  exact ⟨⟨by decide, by decide, by decide, by decide⟩, ⟨by decide, by decide, by decide, by decide⟩,
    ⟨by decide, by decide, by decide, by decide⟩, fun _ none => absurd none List.not_mem_nil⟩

section
variable {f : Fmt}

/-- The place value of the last bit of the magnitudes `k` binades above the smallest normal ones. -/
def Fmt.ulp (f : Fmt) (k : Nat) : ℚ := 2 ^ (f.emin - f.fracBits + k)

theorem Fmt.ulp_pos (f : Fmt) (k : Nat) : 0 < f.ulp k := zpow_pos two_pos _

theorem Fmt.ulp_succ (f : Fmt) (k : Nat) : f.ulp (k + 1) = 2 * f.ulp k := by
  rw [Fmt.ulp, Fmt.ulp, Nat.cast_succ, ← add_assoc, zpow_add_one₀ two_ne_zero, mul_comm]

theorem Fmt.val_subnormal (f : Fmt) {q : Nat} (h : q / 2 ^ f.fracBits = 0) : f.val q = q * f.ulp 0 := by
  simp [Fmt.val, Fmt.val.unpackMag, h, Num.rat, Fmt.ulp]

theorem Fmt.val_normal (f : Fmt) {q k : Nat} (h : q / 2 ^ f.fracBits = k + 1) :
    f.val q = (q % 2 ^ f.fracBits + 2 ^ f.fracBits : Nat) * f.ulp k := by
  simp [Fmt.val, Fmt.val.unpackMag, h, Num.rat, Fmt.ulp]

/-- A magnitude's bits from its binade and its mantissa, which may have come to the next power of two. -/
theorem Fmt.val_code (f : Fmt) {k j : Nat} (high : j ≤ 2 ^ (f.fracBits + 1)) (low : k = 0 ∨ 2 ^ f.fracBits ≤ j) :
    f.val (k * 2 ^ f.fracBits + j) = j * f.ulp k := by
  have pos : 0 < 2 ^ f.fracBits := Nat.two_pow_pos _
  rw [pow_succ] at high
  rcases Nat.lt_or_ge j (2 ^ f.fracBits) with small | large
  · obtain rfl : k = 0 := low.resolve_right (not_le.2 small)
    rw [Nat.zero_mul, Nat.zero_add, f.val_subnormal (Nat.div_eq_of_lt small)]
  · obtain ⟨i, rfl⟩ := Nat.exists_eq_add_of_le large
    have code : k * 2 ^ f.fracBits + (2 ^ f.fracBits + i) = i + 2 ^ f.fracBits * (k + 1) := by ring
    rcases Nat.lt_or_ge i (2 ^ f.fracBits) with inside | next
    · have binade : (i + 2 ^ f.fracBits * (k + 1)) / 2 ^ f.fracBits = k + 1 := by
        rw [Nat.add_mul_div_left _ _ pos, Nat.div_eq_of_lt inside, Nat.zero_add]
      rw [code, f.val_normal binade, Nat.add_mul_mod_self_left, Nat.mod_eq_of_lt inside, Nat.add_comm i]
    · obtain rfl : i = 2 ^ f.fracBits := by omega
      have binade : (2 ^ f.fracBits + 2 ^ f.fracBits * (k + 1)) / 2 ^ f.fracBits = k + 1 + 1 := by
        rw [Nat.add_mul_div_left _ _ pos, Nat.div_self pos, Nat.add_comm]
      rw [code, f.val_normal binade, Nat.add_mul_mod_self_left, Nat.mod_self, Nat.zero_add, f.ulp_succ]
      push_cast
      ring

/-- The next bits stand for the next value in the place of the last bit. -/
theorem Fmt.val_succ (f : Fmt) (q : Nat) : ∃ k, f.val (q + 1) = f.val q + f.ulp k := by
  have pos : 0 < 2 ^ f.fracBits := Nat.two_pow_pos _
  obtain ⟨k, j, rfl, high, low⟩ : ∃ k j, q = k * 2 ^ f.fracBits + j ∧ j + 1 ≤ 2 ^ (f.fracBits + 1) ∧ (k = 0 ∨ 2 ^ f.fracBits ≤ j) := by
    have split := Nat.div_add_mod' q (2 ^ f.fracBits)
    have inside := Nat.mod_lt q pos
    rw [pow_succ]
    cases binade : q / 2 ^ f.fracBits with
    | zero =>
      rw [binade] at split
      exact ⟨0, q % 2 ^ f.fracBits, split.symm, by omega, .inl rfl⟩
    | succ k =>
      rw [binade, Nat.succ_mul] at split
      exact ⟨k, 2 ^ f.fracBits + q % 2 ^ f.fracBits, by omega, by omega, .inr (Nat.le_add_right _ _)⟩
  refine ⟨k, ?_⟩
  rw [Nat.add_assoc, f.val_code high (low.imp_right fun h => h.trans (Nat.le_succ j)), f.val_code ((Nat.le_succ j).trans high) low]
  push_cast
  ring

theorem Fmt.val_strictMono (f : Fmt) : StrictMono f.val := by
  refine strictMono_nat_of_lt_succ fun q => ?_
  obtain ⟨k, next⟩ := f.val_succ q
  rw [next]
  linarith [f.ulp_pos k]

/-- The bits of infinity stand for the power of two beyond the range. -/
theorem Fmt.val_inf (sound : f.Sound) : f.val f.infBits = 2 ^ (f.emax + 1) := by
  obtain ⟨k, range⟩ := Int.eq_ofNat_of_zero_le (sub_nonneg.2 sound.order.le)
  have bits : f.infBits = k * 2 ^ f.fracBits + 2 ^ (f.fracBits + 1) := by
    have inf := sound.inf
    rw [range] at inf
    have whole : (f.infBits : Int) = (k * 2 ^ f.fracBits + 2 ^ (f.fracBits + 1) : Nat) := by
      rw [inf]
      push_cast
      ring
    exact_mod_cast whole
  rw [bits, f.val_code le_rfl (.inr (Nat.pow_le_pow_right two_pos (Nat.le_succ _))), Fmt.ulp, Nat.cast_pow, Nat.cast_ofNat,
    ← zpow_natCast, ← zpow_add₀ two_ne_zero]
  congr 1
  push_cast
  omega

end

/-! ### A rounded magnitude between its neighbours (R140) -/

section
variable {f : Fmt} {u y : ℚ} {G g b : Nat}

/-- Of two neighbouring values the one that the nearest mantissa picks is the nearest of the format. -/
theorem Fmt.nearest_of_neighbours (pos : 0 < u) (lower : f.val G = g * u) (upper : f.val (G + 1) = (g + 1) * u) (above : g ≤ y)
    (below : y < g + 1) (parity : G % 2 = g % 2) (one : b ≤ 1) (picked : f.val (G + b) = ((g + b : Nat) : ℚ) * u)
    (half : |y - (g + b : Nat)| ≤ 1 / 2) (even : |y - (g + b : Nat)| = 1 / 2 → (g + b) % 2 = 0) (p : Nat) :
    |y * u - f.val (G + b)| ≤ |y * u - f.val p| ∧
      (|y * u - f.val (G + b)| = |y * u - f.val p| → p ≠ G + b → (G + b) % 2 = 0) := by
  have mono := f.val_strictMono
  have from_below (h : p ≤ G) : (y - g) * u + (f.val G - f.val p) ≤ |y * u - f.val p| := by
    rw [lower]
    exact le_trans (by linarith) (le_abs_self _)
  have from_above (h : G + 1 ≤ p) : (g + 1 - y) * u + (f.val p - f.val (G + 1)) ≤ |y * u - f.val p| := by
    rw [upper, abs_sub_comm]
    exact le_trans (by linarith) (le_abs_self _)
  rw [picked, ← sub_mul, abs_mul, abs_of_pos pos]
  interval_cases b
  · rw [Nat.add_zero, abs_of_nonneg (by linarith)] at half even ⊢
    rcases Nat.lt_or_ge G p with after | upto
    · have far := from_above after
      have order := mono.monotone after
      have nearer : (y - g) * u ≤ (g + 1 - y) * u := mul_le_mul_of_nonneg_right (by linarith) pos.le
      refine ⟨by linarith, fun same _ => ?_⟩
      have tie : g + 1 - y ≤ y - g := le_of_mul_le_mul_right (by linarith) pos
      exact parity.trans (even (by linarith))
    · have far := from_below upto
      refine ⟨by linarith [mono.monotone upto], fun same other => ?_⟩
      linarith [mono (lt_of_le_of_ne upto other)]
  · have dist : |y - (g + 1 : Nat)| = g + 1 - y := by
      rw [Nat.cast_add, Nat.cast_one, abs_of_nonpos (by linarith), neg_sub]
    rw [dist] at half even ⊢
    rcases Nat.lt_or_ge G p with after | upto
    · have far := from_above after
      refine ⟨by linarith [mono.monotone after], fun same other => ?_⟩
      linarith [mono (lt_of_le_of_ne after (Ne.symm other))]
    · have far := from_below upto
      have order := mono.monotone upto
      have nearer : (g + 1 - y) * u ≤ (y - g) * u := mul_le_mul_of_nonneg_right (by linarith) pos.le
      refine ⟨by linarith, fun same _ => ?_⟩
      have tie : y - g ≤ g + 1 - y := le_of_mul_le_mul_right (by linarith) pos
      have even := even (by linarith)
      omega

/-- Between two neighbouring values, the one that a rounding of the mantissa picks is the rounded value of the format. -/
theorem Fmt.rounds_of_roundsTo {rm : Nat} {neg : Bool} (pos : 0 < u) (lower : f.val G = g * u)
    (upper : f.val (G + 1) = (g + 1) * u) (above : g ≤ y) (below : y < g + 1) (parity : G % 2 = g % 2) (finite : G < f.infBits)
    (one : b ≤ 1) (h : RoundsTo rm neg y (g + b)) : f.rounds rm neg (y * u) (G + b) := by
  have maxBits : f.maxBits = f.infBits - 1 := rfl
  have picked : f.val (G + b) = ((g + b : Nat) : ℚ) * u := by
    interval_cases b
    · rw [Nat.add_zero, Nat.add_zero, lower]
    · rw [upper, Nat.cast_add, Nat.cast_one]
  refine ⟨by omega, ?_⟩
  unfold RoundsTo at h
  split_ifs at h ⊢ with near zero
  · exact fun p _ => Fmt.nearest_of_neighbours pos lower upper above below parity one picked h.1 h.2 p
  · obtain ⟨least, -⟩ := h
    have none : b = 0 := by
      have : g + b < g + 1 := by exact_mod_cast least.trans_lt below
      omega
    subst none
    rw [Nat.add_zero, lower, upper]
    exact ⟨mul_le_mul_of_nonneg_right above pos.le, by omega, .inr (mul_lt_mul_of_pos_right below pos)⟩
  · obtain ⟨most, least⟩ := h
    refine ⟨.inl (picked ▸ mul_le_mul_of_nonneg_right most pos.le), ?_⟩
    interval_cases b
    · have same : y = g := le_antisymm most above
      rcases Nat.eq_zero_or_pos G with zero | some
      · exact .inl zero
      · refine .inr ?_
        rw [same, ← lower, Nat.add_zero]
        exact f.val_strictMono (Nat.sub_lt some one_pos)
    · refine .inr ?_
      rw [Nat.add_sub_cancel, lower]
      push_cast at least
      exact mul_lt_mul_of_pos_right (by linarith) pos

end

end Sys2Proof.Machine

namespace Sys2Proof.Machine

/-! ### Mantissas of an exact magnitude (R140, R142) -/

/-- The magnitude `m` over `2 ^ sh`, rounded once, and whether that was inexact. -/
def shiftRound (rm : Nat) (neg : Bool) (m : Nat) (sh : Int) : Nat × Bool :=
  if 0 ≤ sh then roundAt rm neg m sh.toNat false else (m <<< (-sh).toNat, false)

theorem shiftRound_spec {rm : Nat} (mode : rm < 4) (neg : Bool) (m : Nat) (sh : Int) :
    RoundsTo rm neg (m * (2 : ℚ) ^ (-sh)) (shiftRound rm neg m sh).1 ∧
      ((shiftRound rm neg m sh).2 = true ↔ ((shiftRound rm neg m sh).1 : ℚ) ≠ m * (2 : ℚ) ^ (-sh)) := by
  unfold shiftRound
  split_ifs with right
  · have value : (m : ℚ) * 2 ^ (-sh) = m / 2 ^ sh.toNat := by
      rw [div_eq_mul_inv, ← zpow_natCast, ← zpow_neg, Int.toNat_of_nonneg right]
    rw [value]
    exact ⟨roundAt_roundsTo mode neg m _, roundAt_inexact mode neg m _⟩
  · have value : (m : ℚ) * 2 ^ (-sh) = (m <<< (-sh).toNat : Nat) := by
      rw [Nat.shiftLeft_eq, Nat.cast_mul, Nat.cast_pow, Nat.cast_ofNat, ← zpow_natCast, Int.toNat_of_nonneg (by omega)]
    rw [value]
    exact ⟨roundsTo_self rm neg _, by simp⟩

/-- The exponent of the leading bit of `m * 2 ^ e`. -/
def leadOf (m : Nat) (e : Int) : Int := Nat.log2 m + e

theorem leadOf_bounds {m : Nat} (some : 0 < m) (e : Int) :
    (2 : ℚ) ^ leadOf m e ≤ m * 2 ^ e ∧ (m : ℚ) * 2 ^ e < 2 ^ (leadOf m e + 1) := by
  have pos : (0 : ℚ) < 2 ^ e := zpow_pos two_pos e
  have least : 2 ^ Nat.log2 m ≤ m := Nat.log2_self_le some.ne'
  have most : m < 2 ^ (Nat.log2 m + 1) := Nat.lt_log2_self
  unfold leadOf
  rw [add_right_comm, zpow_add₀ two_ne_zero, zpow_add₀ two_ne_zero, ← Nat.cast_succ, zpow_natCast, zpow_natCast]
  exact ⟨mul_le_mul_of_nonneg_right (by exact_mod_cast least) pos.le, mul_lt_mul_of_pos_right (by exact_mod_cast most) pos⟩

/-- The exponent after a rounding to the precision as if the exponent were unbounded. -/
def topOf (f : Fmt) (rm : Nat) (neg : Bool) (m : Nat) (e : Int) : Int :=
  if 2 ^ f.prec ≤ (shiftRound rm neg m (Nat.log2 m - f.fracBits)).1 then leadOf m e + 1 else leadOf m e

theorem leadOf_le_topOf (f : Fmt) (rm : Nat) (neg : Bool) (m : Nat) (e : Int) :
    leadOf m e ≤ topOf f rm neg m e ∧ topOf f rm neg m e ≤ leadOf m e + 1 := by
  unfold topOf
  split_ifs <;> omega

/-- The binade of a magnitude above the smallest normal ones. -/
def binadeOf (f : Fmt) (m : Nat) (e : Int) : Nat := (leadOf m e - f.emin).toNat

/-- Its mantissa there, rounded once. -/
def mantissaOf (f : Fmt) (rm : Nat) (neg : Bool) (m : Nat) (e : Int) : Nat × Bool :=
  shiftRound rm neg m (f.emin - f.fracBits + binadeOf f m e - e)

/-- What an exact nonzero magnitude is rounded to. -/
theorem roundMag_eq (f : Fmt) (rm : Nat) (neg : Bool) {m : Nat} (some : 0 < m) (e : Int) :
    roundMag f rm neg m e false =
      if f.emax < topOf f rm neg m e then ⟨overflowTo f rm neg, flagOF ||| flagNX⟩
      else ⟨signed f neg (binadeOf f m e * 2 ^ f.fracBits + (mantissaOf f rm neg m e).1),
        (if (mantissaOf f rm neg m e).2 then flagNX else 0) |||
          (if (mantissaOf f rm neg m e).2 && topOf f rm neg m e < f.emin then flagUF else 0)⟩ := by
  have lsb : max ((Nat.log2 m : Int) + e - f.fracBits) (f.emin - f.fracBits) = f.emin - f.fracBits + binadeOf f m e := by
    unfold binadeOf leadOf
    omega
  rw [roundMag, if_neg some.ne']
  extract_lets lead shU unb leadU lsb' sh
  have same : lsb' = f.emin - f.fracBits + binadeOf f m e := lsb
  have unbounded : unb = (shiftRound rm neg m (Nat.log2 m - f.fracBits)).1 := by
    have shift : shU = Nat.log2 m - f.fracBits := by
      simp only [shU, lead]
      omega
    simp only [unb, shift, shiftRound]
    split <;> rfl
  have top : leadU = topOf f rm neg m e := by
    simp only [leadU, unbounded, topOf, ge_iff_le]
    rfl
  have mantissa : (if 0 ≤ sh then roundAt rm neg m sh.toNat false else (m <<< (-sh).toNat, false)) = mantissaOf f rm neg m e := by
    simp only [sh, same]
    rfl
  have code : (if lsb' = f.emin - f.fracBits then (mantissaOf f rm neg m e).1
      else (lsb' - (f.emin - f.fracBits)).toNat * 2 ^ f.fracBits + (mantissaOf f rm neg m e).1) =
      binadeOf f m e * 2 ^ f.fracBits + (mantissaOf f rm neg m e).1 := by
    rw [same, add_sub_cancel_left, Int.toNat_natCast]
    split
    · rename_i lowest
      have none : binadeOf f m e = 0 := by omega
      rw [none, Nat.zero_mul, Nat.zero_add]
    · rfl
  simp only [mantissa, top, code]

/-! ### The rounded value and its flags (R140, R142) -/

section
variable {f : Fmt} {rm : Nat} {neg : Bool} {m : Nat} {e : Int} {x : ℚ}

theorem mantissaOf_spec (mode : rm < 4) (some : 0 < m) :
    ∃ y : ℚ, (m : ℚ) * 2 ^ e = y * f.ulp (binadeOf f m e) ∧ RoundsTo rm neg y (mantissaOf f rm neg m e).1 ∧
      ((mantissaOf f rm neg m e).2 = true ↔ ((mantissaOf f rm neg m e).1 : ℚ) ≠ y) ∧
      0 ≤ y ∧ y < 2 ^ (f.fracBits + 1) ∧ (binadeOf f m e = 0 ∨ 2 ^ f.fracBits ≤ y) := by
  obtain ⟨rounds, inexact⟩ := shiftRound_spec mode neg m (f.emin - f.fracBits + binadeOf f m e - e)
  obtain ⟨least, most⟩ := leadOf_bounds some e
  have pos := f.ulp_pos (binadeOf f m e)
  have value : (m : ℚ) * 2 ^ e = m * (2 : ℚ) ^ (-(f.emin - f.fracBits + binadeOf f m e - e)) * f.ulp (binadeOf f m e) := by
    rw [Fmt.ulp, mul_assoc, ← zpow_add₀ two_ne_zero]
    congr 2
    omega
  refine ⟨_, value, rounds, inexact, by positivity, ?_, ?_⟩
  · refine lt_of_mul_lt_mul_right (a := f.ulp (binadeOf f m e)) ?_ pos.le
    rw [← value]
    refine most.trans_le ?_
    rw [Fmt.ulp, ← zpow_natCast, ← zpow_add₀ two_ne_zero]
    refine zpow_le_zpow_right₀ one_le_two ?_
    unfold binadeOf
    omega
  · rcases Nat.eq_zero_or_pos (binadeOf f m e) with zero | normal
    · exact .inl zero
    · refine .inr (le_of_mul_le_mul_right (a := f.ulp (binadeOf f m e)) ?_ pos)
      rw [← value]
      refine le_trans ?_ least
      rw [Fmt.ulp, ← zpow_natCast, ← zpow_add₀ two_ne_zero]
      refine zpow_le_zpow_right₀ one_le_two ?_
      unfold binadeOf at normal ⊢
      omega

/-- The rounded magnitude's bits, the exponent's range put aside. -/
def codeOf (f : Fmt) (rm : Nat) (neg : Bool) (m : Nat) (e : Int) : Nat :=
  binadeOf f m e * 2 ^ f.fracBits + (mantissaOf f rm neg m e).1

/-- Within the range the rounded magnitude's bits are those of the value rounded in the format. -/
theorem codeOf_rounds (sound : f.Sound) (mode : rm < 4) (some : 0 < m) (range : leadOf m e ≤ f.emax) :
    f.rounds rm neg (m * (2 : ℚ) ^ e) (codeOf f rm neg m e) ∧
      ((mantissaOf f rm neg m e).2 = true ↔ f.val (codeOf f rm neg m e) ≠ m * (2 : ℚ) ^ e) ∧
      (mantissaOf f rm neg m e).1 ≤ 2 ^ (f.fracBits + 1) := by
  obtain ⟨y, value, rounds, inexact, least, most, normal⟩ := mantissaOf_spec (f := f) (neg := neg) (e := e) mode some
  have pos := f.ulp_pos (binadeOf f m e)
  have above := Nat.floor_le least
  have below := Nat.lt_floor_add_one y
  have near := abs_lt.1 rounds.near
  have high : ⌊y⌋₊ + 1 ≤ 2 ^ (f.fracBits + 1) := (Nat.floor_lt least).2 (by exact_mod_cast most)
  have low : binadeOf f m e = 0 ∨ 2 ^ f.fracBits ≤ ⌊y⌋₊ := normal.imp_right fun h => Nat.le_floor (by exact_mod_cast h)
  obtain ⟨b, one, picked⟩ : ∃ b ≤ 1, (mantissaOf f rm neg m e).1 = ⌊y⌋₊ + b := by
    generalize (mantissaOf f rm neg m e).1 = q at near
    have under : ⌊y⌋₊ < q + 1 := by exact_mod_cast (by linarith : (⌊y⌋₊ : ℚ) < q + 1)
    have beyond : q < ⌊y⌋₊ + 2 := by exact_mod_cast (by linarith : (q : ℚ) < ⌊y⌋₊ + 2)
    exact ⟨q - ⌊y⌋₊, by omega, by omega⟩
  have lower : f.val (binadeOf f m e * 2 ^ f.fracBits + ⌊y⌋₊) = ⌊y⌋₊ * f.ulp (binadeOf f m e) := f.val_code (by omega) low
  have upper : f.val (binadeOf f m e * 2 ^ f.fracBits + ⌊y⌋₊ + 1) = (⌊y⌋₊ + 1) * f.ulp (binadeOf f m e) := by
    rw [Nat.add_assoc, f.val_code high (low.imp_right fun h => h.trans (Nat.le_succ _)), Nat.cast_succ]
  have parity : (binadeOf f m e * 2 ^ f.fracBits + ⌊y⌋₊) % 2 = ⌊y⌋₊ % 2 := by
    obtain ⟨k, frac⟩ := Nat.exists_eq_succ_of_ne_zero sound.frac.ne'
    rw [frac, pow_succ, ← mul_assoc]
    omega
  have finite : binadeOf f m e * 2 ^ f.fracBits + ⌊y⌋₊ < f.infBits := by
    rw [← f.val_strictMono.lt_iff_lt, lower, f.val_inf sound]
    calc ⌊y⌋₊ * f.ulp (binadeOf f m e) ≤ y * f.ulp (binadeOf f m e) := mul_le_mul_of_nonneg_right above pos.le
      _ = m * 2 ^ e := value.symm
      _ < 2 ^ (leadOf m e + 1) := (leadOf_bounds some e).2
      _ ≤ 2 ^ (f.emax + 1) := zpow_le_zpow_right₀ one_le_two (by omega)
  have mantissa : f.val (codeOf f rm neg m e) = (mantissaOf f rm neg m e).1 * f.ulp (binadeOf f m e) :=
    f.val_code (by omega) (low.imp_right fun h => by omega)
  refine ⟨?_, ?_, by omega⟩
  · rw [codeOf, value, picked, ← Nat.add_assoc]
    exact Fmt.rounds_of_roundsTo pos lower upper above below parity finite one (picked ▸ rounds)
  · rw [inexact, mantissa, value, ne_eq, ne_eq, mul_left_inj' pos.ne']

/-- The rounding to the precision leaves the range exactly where the rounded magnitude's bits are infinity's. -/
theorem emax_lt_topOf_iff (sound : f.Sound) (high : (mantissaOf f rm neg m e).1 ≤ 2 ^ (f.fracBits + 1))
    (range : leadOf m e ≤ f.emax) : f.emax < topOf f rm neg m e ↔ codeOf f rm neg m e = f.infBits := by
  have order := sound.order
  have inf := sound.inf
  have same (normal : f.emin ≤ leadOf m e) :
      mantissaOf f rm neg m e = shiftRound rm neg m (Nat.log2 m - f.fracBits) := by
    unfold mantissaOf
    congr 1
    unfold binadeOf
    unfold leadOf at normal ⊢
    omega
  have pos : (0 : Int) < 2 ^ f.fracBits := by positivity
  have code : (codeOf f rm neg m e : Int) = binadeOf f m e * 2 ^ f.fracBits + (mantissaOf f rm neg m e).1 := by
    rw [codeOf]
    push_cast
    rfl
  have high : ((mantissaOf f rm neg m e).1 : Int) ≤ 2 * 2 ^ f.fracBits := by
    rw [← pow_succ']
    exact_mod_cast high
  constructor
  · intro beyond
    unfold topOf at beyond
    split_ifs at beyond with carry
    · have last : leadOf m e = f.emax := by omega
      rw [← same (by omega), sound.prec] at carry
      have carry : 2 * 2 ^ f.fracBits ≤ ((mantissaOf f rm neg m e).1 : Int) := by
        rw [← pow_succ']
        exact_mod_cast carry
      have binade : (binadeOf f m e : Int) = f.emax - f.emin := by
        unfold binadeOf
        omega
      have whole : (codeOf f rm neg m e : Int) = f.infBits := by
        rw [code, inf, binade]
        linarith
      exact_mod_cast whole
    · omega
  · intro whole
    rw [← Int.natCast_inj, code, inf] at whole
    have binade : f.emax - f.emin ≤ binadeOf f m e :=
      le_of_mul_le_mul_right (a := 2 ^ f.fracBits) (by linarith) pos
    have last : leadOf m e = f.emax := by
      unfold binadeOf at binade
      omega
    have full : (binadeOf f m e : Int) = f.emax - f.emin := by
      unfold binadeOf
      omega
    have carry : 2 ^ f.prec ≤ (mantissaOf f rm neg m e).1 := by
      rw [full] at whole
      rw [sound.prec, pow_succ']
      exact_mod_cast (by linarith : 2 * 2 ^ f.fracBits ≤ ((mantissaOf f rm neg m e).1 : Int))
    rw [same (by omega)] at carry
    rw [topOf, if_pos carry, last]
    exact lt_add_one _

/-- A magnitude below an even bound is rounded below it: up to the last tie, wherever it lies, or up to the last integer. -/
theorem RoundsTo.lt_iff {y : ℚ} {q n : Nat} (h : RoundsTo rm neg y q) (most : y < n) (even : n % 2 = 0) :
    q < n ↔ if rm = 0 then y < n - 1 / 2 else if TowardZero rm neg then y < n else y ≤ n - 1 := by
  have cast : q < n ↔ (q : ℚ) ≤ n - 1 := by
    rw [← Nat.succ_le_iff, ← Nat.cast_le (α := ℚ), Nat.cast_succ, le_sub_iff_add_le]
  have uncast : n ≤ q → (n : ℚ) ≤ q := fun h => by exact_mod_cast h
  unfold RoundsTo at h
  split_ifs at h ⊢
  · obtain ⟨half, tie⟩ := h
    constructor
    · intro below
      have top := cast.1 below
      refine lt_of_le_of_ne (by linarith [(abs_le.1 half).2]) fun last => ?_
      have odd : q + 1 = n := by
        refine le_antisymm below ?_
        exact_mod_cast (by linarith [(abs_le.1 half).2] : (n : ℚ) ≤ q + 1)
      have even' := tie (by rw [last, ← odd]; push_cast; norm_num [add_sub_assoc])
      omega
    · intro below
      by_contra carry
      linarith [uncast (not_lt.1 carry), (abs_le.1 half).1]
  · refine iff_of_true ?_ most
    exact_mod_cast h.1.trans_lt most
  · constructor
    · intro below
      linarith [cast.1 below]
    · intro below
      by_contra carry
      linarith [uncast (not_lt.1 carry)]

theorem Fmt.tiny_lt (h : f.tiny rm neg x) : x < 2 ^ f.emin := by
  have pos : (0 : ℚ) < 2 ^ (f.emin - f.prec) := zpow_pos two_pos _
  unfold Fmt.tiny at h
  simp only at h
  split_ifs at h <;> linarith

theorem Fmt.limit_eq (f : Fmt) : (2 : ℚ) ^ f.emin = (2 ^ f.prec : Nat) * 2 ^ (f.emin - f.prec) := by
  rw [Nat.cast_pow, Nat.cast_ofNat, ← zpow_natCast, ← zpow_add₀ two_ne_zero, add_sub_cancel]

/-- Tininess read off a mantissa in the place just below the smallest normal number's. -/
theorem Fmt.tiny_iff_mantissa (f : Fmt) (rm : Nat) (neg : Bool) (y : ℚ) :
    f.tiny rm neg (y * 2 ^ (f.emin - f.prec)) ↔ if rm = 0 then y < (2 ^ f.prec : Nat) - 1 / 2
      else if TowardZero rm neg then y < (2 ^ f.prec : Nat) else y ≤ (2 ^ f.prec : Nat) - 1 := by
  have pos : (0 : ℚ) < 2 ^ (f.emin - f.prec) := zpow_pos two_pos _
  unfold Fmt.tiny
  simp only [f.limit_eq]
  generalize ((2 ^ f.prec : Nat) : ℚ) = n
  generalize (2 : ℚ) ^ (f.emin - f.prec) = u at pos
  split_ifs
  · rw [show n * u - u / 2 = (n - 1 / 2) * u by ring, mul_lt_mul_iff_left₀ pos]
  · rw [mul_lt_mul_iff_left₀ pos]
  · rw [show n * u - u = (n - 1) * u by ring, mul_le_mul_iff_left₀ pos]

/-- A magnitude is tiny where its rounding to the precision stays below the smallest normal number. -/
theorem tiny_iff (sound : f.Sound) (mode : rm < 4) (some : 0 < m) :
    f.tiny rm neg (m * (2 : ℚ) ^ e) ↔ topOf f rm neg m e < f.emin := by
  obtain ⟨least, most⟩ := leadOf_bounds some e
  obtain ⟨noLower, carried⟩ := leadOf_le_topOf f rm neg m e
  rcases lt_trichotomy (leadOf m e) (f.emin - 1) with below | last | normal
  · have small : (m : ℚ) * 2 ^ e < 2 ^ (f.emin - 1) := most.trans_le (zpow_le_zpow_right₀ one_le_two (by omega))
    have double : (2 : ℚ) ^ f.emin = 2 * 2 ^ (f.emin - 1) := by
      rw [mul_comm, ← zpow_add_one₀ two_ne_zero, sub_add_cancel]
    have ulp : (2 : ℚ) ^ (f.emin - f.prec) ≤ 2 ^ (f.emin - 1) := zpow_le_zpow_right₀ one_le_two (by have := sound.prec; omega)
    refine iff_of_true ?_ ?_
    · unfold Fmt.tiny
      simp only
      split_ifs <;> linarith [zpow_pos (two_pos (α := ℚ)) (f.emin - 1)]
    · omega
  · obtain ⟨rounds, -⟩ := shiftRound_spec mode neg m (Nat.log2 m - f.fracBits)
    have pos : (0 : ℚ) < 2 ^ (f.emin - f.prec) := zpow_pos two_pos _
    have prec := sound.prec
    have value : (m : ℚ) * 2 ^ e = m * (2 : ℚ) ^ (-((Nat.log2 m : Int) - f.fracBits)) * 2 ^ (f.emin - f.prec) := by
      rw [mul_assoc, ← zpow_add₀ two_ne_zero]
      congr 2
      unfold leadOf at last
      omega
    rw [last, sub_add_cancel, value, f.limit_eq] at most
    have carry := rounds.lt_iff (lt_of_mul_lt_mul_right most pos.le) (by rw [prec, pow_succ, Nat.mul_mod_left])
    have top : topOf f rm neg m e < f.emin ↔ (shiftRound rm neg m (Nat.log2 m - f.fracBits)).1 < 2 ^ f.prec := by
      unfold topOf
      split_ifs <;> omega
    rw [top, carry, value, f.tiny_iff_mantissa]
  · refine iff_of_false (fun tiny => ?_) ?_
    · have large : (2 : ℚ) ^ f.emin ≤ m * 2 ^ e := le_trans (zpow_le_zpow_right₀ one_le_two (by omega)) least
      exact absurd (Fmt.tiny_lt tiny) (not_lt.2 large)
    · omega

/-! ### Overflow (R142) -/

theorem overflowTo_eq (mode : rm < 4) (f : Fmt) (neg : Bool) :
    overflowTo f rm neg = signed f neg (if TowardZero rm neg then f.maxBits else f.infBits) := by
  interval_cases rm <;> cases neg <;> rfl

theorem Fmt.infBits_pos (sound : f.Sound) : 0 < f.infBits := by
  have inf := sound.inf
  have order := sound.order
  have pos : (0 : Int) < (f.emax - f.emin + 2) * 2 ^ f.fracBits := mul_pos (by omega) (by positivity)
  omega

/-- A magnitude beyond the range is rounded to infinity's bits or to the largest finite ones. -/
theorem Fmt.rounds_beyond (sound : f.Sound) (mode : rm < 4) (beyond : f.val f.infBits ≤ x) :
    f.rounds rm neg x (if TowardZero rm neg then f.maxBits else f.infBits) := by
  have some := Fmt.infBits_pos sound
  have maxBits : f.maxBits = f.infBits - 1 := rfl
  have last : f.val (f.infBits - 1) < f.val f.infBits := f.val_strictMono (by omega)
  by_cases zero : TowardZero rm neg
  · have far : rm ≠ 0 := by omega
    rw [if_pos zero]
    refine ⟨by omega, ?_⟩
    rw [if_neg far, if_pos zero, maxBits]
    exact ⟨last.le.trans beyond, le_rfl, .inl rfl⟩
  · rw [if_neg zero]
    refine ⟨le_rfl, ?_⟩
    split_ifs with near
    · intro p upto
      have order := f.val_strictMono.monotone upto
      rw [abs_of_nonneg (sub_nonneg.2 beyond), abs_of_nonneg (by linarith)]
      exact ⟨by linarith, fun same other => absurd (f.val_strictMono.injective (by linarith)) other⟩
    · exact ⟨.inr rfl, .inr (last.trans_le beyond)⟩

theorem overflow_flags : (flagOF ||| flagNX).getLsbD 4 = true ∧ (flagOF ||| flagNX).getLsbD 3 = false ∧
    (flagOF ||| flagNX).getLsbD 2 = true ∧ (flagOF ||| flagNX).getLsbD 1 = false ∧ (flagOF ||| flagNX).getLsbD 0 = false := by
  decide

theorem inexact_flags : ∀ inexact tiny : Bool,
    let fl := (if inexact then flagNX else 0) ||| (if inexact && tiny then flagUF else 0)
    fl.getLsbD 4 = inexact ∧ fl.getLsbD 3 = (inexact && tiny) ∧ fl.getLsbD 2 = false ∧ fl.getLsbD 1 = false ∧
      fl.getLsbD 0 = false := by
  decide

/-- An exact magnitude that is rounded past the largest finite one delivers R142's overflow value. -/
theorem Fmt.delivers_overflow (sound : f.Sound) (mode : rm < 4) (normal : (2 : ℚ) ^ f.emin ≤ x)
    (rounds : f.rounds rm neg x (if TowardZero rm neg then f.maxBits else f.infBits))
    (beyond : TowardZero rm neg → f.val f.infBits ≤ x) : f.delivers rm neg x ⟨overflowTo f rm neg, flagOF ||| flagNX⟩ := by
  obtain ⟨nx, uf, ovf, dz, nv⟩ := overflow_flags
  have maxBits : f.maxBits = f.infBits - 1 := rfl
  have last : f.val f.maxBits < f.val f.infBits := f.val_strictMono (by have := Fmt.infBits_pos sound; omega)
  refine ⟨_, overflowTo_eq mode f neg, rounds, iff_of_true nx ?_, iff_of_false (uf.symm ▸ Bool.false_ne_true) ?_, iff_of_true ovf ?_, dz, nv⟩
  · split_ifs with zero
    · exact .inl (last.trans_le (beyond zero)).ne
    · exact .inr rfl
  · exact fun underflow => not_lt.2 normal (Fmt.tiny_lt underflow.2)
  · split_ifs with zero
    · exact .inr (beyond zero)
    · exact .inl rfl

/-- Every exact nonzero magnitude is rounded once, with the flags of R142. -/
theorem roundMag_delivers (sound : f.Sound) (mode : rm < 4) (some : 0 < m) :
    f.delivers rm neg (m * (2 : ℚ) ^ e) (roundMag f rm neg m e false) := by
  obtain ⟨least, most⟩ := leadOf_bounds some e
  have order := sound.order
  have inf := f.val_inf sound
  have tiny : f.tiny rm neg (m * (2 : ℚ) ^ e) ↔ topOf f rm neg m e < f.emin := tiny_iff sound mode some
  obtain ⟨noLower, carried⟩ := leadOf_le_topOf f rm neg m e
  rw [roundMag_eq f rm neg some]
  rcases lt_or_ge f.emax (leadOf m e) with past | range
  · have beyond : f.val f.infBits ≤ m * (2 : ℚ) ^ e := inf ▸ (zpow_le_zpow_right₀ one_le_two past).trans least
    have top : f.emax < topOf f rm neg m e := past.trans_le noLower
    rw [if_pos top]
    exact Fmt.delivers_overflow sound mode ((zpow_le_zpow_right₀ one_le_two (by omega)).trans least)
      (Fmt.rounds_beyond sound mode beyond) fun _ => beyond
  · obtain ⟨rounds, inexact, high⟩ := codeOf_rounds (f := f) (neg := neg) sound mode some range
    have below : (m : ℚ) * 2 ^ e < f.val f.infBits := inf ▸ most.trans_le (zpow_le_zpow_right₀ one_le_two (by omega))
    have top := emax_lt_topOf_iff (rm := rm) (neg := neg) sound high range
    by_cases carry : f.emax < topOf f rm neg m e
    · rw [if_pos carry]
      have full := top.1 carry
      have away : ¬ TowardZero rm neg := fun zero => by
        obtain ⟨-, rounds⟩ := rounds
        have maxBits : f.maxBits = f.infBits - 1 := rfl
        have some := Fmt.infBits_pos sound
        have near : rm ≠ 0 := by omega
        rw [if_neg near, if_pos zero, full] at rounds
        obtain ⟨-, finite, -⟩ := rounds
        omega
      refine Fmt.delivers_overflow sound mode ?_ ?_ fun zero => absurd zero away
      · refine (zpow_le_zpow_right₀ one_le_two ?_).trans least
        omega
      · rw [if_neg away, ← full]
        exact rounds
    · rw [if_neg carry]
      have finite : codeOf f rm neg m e ≠ f.infBits := fun full => carry (top.2 full)
      obtain ⟨nx, uf, ovf, dz, nv⟩ := inexact_flags (mantissaOf f rm neg m e).2 (topOf f rm neg m e < f.emin)
      refine ⟨codeOf f rm neg m e, rfl, rounds, ?_, ?_, iff_of_false (ovf.symm ▸ Bool.false_ne_true) ?_, dz, nv⟩
      · rw [nx, inexact, or_iff_left finite]
      · rw [uf, Bool.and_eq_true, inexact, decide_eq_true_iff, tiny]
      · exact not_or.2 ⟨finite, not_le.2 below⟩

end

/-- Settles O4: the mantissa rounded in its binade is the format's value next to the exact one that the mode picks, and the
rounding to the precision passes `emax`, or stays below `emin`, exactly where R142 calls the value overflowed, or tiny. -/
theorem roundingIsCorrect : Obligations.RoundingIsCorrect :=
  fun f format _ mode _ _ _ some => roundMag_delivers (formats_sound f format) mode some

end Sys2Proof.Machine

namespace Sys2Proof.Machine

/-! ### Words whose results are computed from their operands (R169, R175 to R180) -/

/-- Settles O1: each word computes the exact result of its rule (`integerArithmetic_computes`) and writes it in its one place
(`TwoSource.Computes.writes`). -/
theorem integerArithmeticIsExact : Obligations.IntegerArithmeticIsExact := by
  intro r hr
  obtain ⟨op, computes⟩ := integerArithmetic_computes r hr
  exact computes.writes

/-- Settles O3: exec of an F32 word is the register word of its delivered value (`fpWords_run`), which writes one operand
(`writesOne_of_run`). -/
theorem floatWordsWriteTheDeliveredValue : Obligations.FloatWordsWriteTheDeliveredValue := fun r hr f =>
  writesOne_of_run (r.result f) (fpWords_run r hr f) (fun c => (r.result f c).eff_writes c _) fun _ => ⟨rfl, rfl, rfl⟩

/-- Settles O5: RED's and WRED's results are those of their trees, and a lane's value of a SCAN is the combination of the places
up to it (`scanResult_rule`), in every thread of the bundle (`crossWord_writes`). -/
theorem reductionsAndScansCombineTheTile : Obligations.ReductionsAndScansCombineTheTile := by
  refine ⟨fun f => ?_, fun f => ?_, fun f => ?_⟩
  · exact crossWord_writes (redResult f) (fun _ => rfl) (fun _ _ _ same => by subst same; rfl) fun _ _ => ⟨rfl, rfl, rfl⟩
  · exact crossWord_writes (scanResult f) (fun _ => rfl) (fun _ _ _ same => by subst same; rfl) (scanResult_rule f)
  · exact crossWord_writes (wredResult f) (fun _ => rfl) (fun _ _ _ same => by subst same; rfl) fun _ _ => ⟨rfl, rfl, rfl⟩

end Sys2Proof.Machine

namespace Sys2Proof.Machine

/-! ### Votes and shuffles (R188 to R190) -/

/-- A tile's mask has exactly the bits of the lanes chosen. -/
theorem XTile.maskOf_getLsbD (x : XTile) (p : Nat → Bool) {i : Nat} (h : i < 32) :
    (x.maskOf p).getLsbD i = true ↔ ∃ l ∈ x.live, laneIndex x.prot l = i ∧ p l = true := by
  have fold : x.maskOf p = ((x.live.filter p).map (laneIndex x.prot)).foldl
      (fun m i => if (fun _ => true) i then m ||| BitVec.ofNat 32 (2 ^ i) else m) 0 := by
    rw [List.foldl_map]
    rfl
  rw [fold, getLsbD_foldl_bit (fun _ => true) _ 0 h]
  simp only [BitVec.ofNat_eq_ofNat, BitVec.getLsbD_zero, Bool.false_or, Bool.and_true, decide_eq_true_eq, List.mem_map,
    List.mem_filter]
  exact exists_congr fun l => by rw [and_assoc, and_comm (a := p l = true)]

theorem shuffled_shuffles (x : XTile) (c : Ctx) (a : Opnd) (i : Nat) : shuffles [shuffled x c a i] x c a i := by
  unfold shuffled shuffles
  exact ⟨fun live => by simp [live], fun none => by simp [none]⟩

/-- What VOTE says of its tile. -/
def voteOf (f : P3) (x : XTile) (c : Ctx) : Bool :=
  let vs := x.live.map fun l => (c.at l).isTrue (c.iss.predA f.a f.ea)
  match f.cond.toNat with
  | 0 => vs.all id
  | 1 => vs.any id
  | _ => vs.all id || !vs.any id

theorem voteOf_iff (f : P3) (x : XTile) (c : Ctx) :
    let p := fun l => (c.at l).isTrue (c.iss.predA f.a f.ea) = true
    voteOf f x c = true ↔ match f.cond.toNat with
      | 0 => ∀ l ∈ x.live, p l
      | 1 => ∃ l ∈ x.live, p l
      | _ => (∀ l ∈ x.live, p l) ∨ ∀ l ∈ x.live, ¬p l := by
  unfold voteOf
  rcases f.cond.toNat with _ | _ | _ <;> simp

theorem votesAndMasksCoverTheTile : VotesAndMasksCoverTheTile := by
  refine ⟨fun f => ?_, fun f => ?_, fun f => ?_⟩
  · exact crossWord_writes (fun x c => { ws := (predRes (f.pdst c.iss) (voteOf f x c)).2 }) (fun _ => rfl)
      (fun _ _ _ same => by subst same; rfl) fun x c => ⟨rfl, rfl, oneBit_ite _ (voteOf_iff f x c)⟩
  · exact crossWord_writes (fun x c => { ws := [(x.maskOf fun l => (c.at l).isTrue (c.iss.predA f.a f.ea), .mask)] })
      (fun _ => rfl) (fun _ _ _ same => by subst same; rfl) fun x c => ⟨rfl, rfl, _, rfl, fun _ h => x.maskOf_getLsbD _ h⟩
  · refine crossWord_writes (fun x c =>
        { ws := [(x.maskOf fun l => (c.at l).rd (f.srcA c.iss none) == c.rd (f.srcA c.iss none), .mask)] })
      (fun _ => rfl) (fun _ _ _ same => by subst same; rfl) fun x c => ⟨rfl, rfl, _, rfl, fun i h => ?_⟩
    simp only [x.maskOf_getLsbD _ h, beq_iff_eq]

/-- A shuffle with an immediate whose choice of the source is the one its entry gives. -/
theorem shufflesBy_of {op : AI → Instr} {pick : AI → Nat → Nat → Nat → Nat} {source : Nat → Nat → Nat → Nat → Nat}
    (hx : ∀ f s, exec (op f) s = shuffleImm f (op f).wf (pick f) s) (same : ∀ f i b w, pick f i b w = source i b w f.imm.toNat) :
    shufflesBy op source := by
  intro f
  refine crossWord_writes (fun x c =>
      { ws := [shuffled x c (AI.src f c.iss) (source (laneIndex x.prot c.l) x.base x.w f.imm.toNat)] })
    (hx f) (fun iss x c own => ?_) fun x c => ⟨rfl, rfl, shuffled_shuffles _ _ _ _⟩
  subst own
  rw [same]
  rfl

theorem shufflesReadTheNamedLane : ShufflesReadTheNamedLane := by
  refine ⟨fun f => ?_, ?_, ?_, ?_, fun f => ?_⟩
  · exact crossWord_writes (fun x c =>
        { ws := [shuffled x c (f.srcA c.iss none) (x.base + (c.rd (f.srcB c.iss tIN)).toNat % x.w)] })
      (fun _ => rfl) (fun _ _ _ own => by subst own; rfl) fun x c => ⟨rfl, rfl, shuffled_shuffles _ _ _ _⟩
  · exact shufflesBy_of (pick := fun f i b _ => if b + f.imm.toNat ≤ i then i - f.imm.toNat else i) (fun _ _ => rfl)
      fun f i b w => by split_ifs <;> omega
  · exact shufflesBy_of (pick := fun f i b w => if i + f.imm.toNat < b + w then i + f.imm.toNat else i) (fun _ _ => rfl)
      fun f i b w => by split_ifs <;> omega
  · exact shufflesBy_of (pick := fun f i b w => if b ≤ i ^^^ f.imm.toNat ∧ i ^^^ f.imm.toNat < b + w then i ^^^ f.imm.toNat else i)
      (fun _ _ => rfl) fun f i b w => rfl
  · exact crossWord_writes (fun x c => { ws := [shuffled x c (AI.src f c.iss) (x.base + f.imm.toNat)] })
      (fun _ => rfl) (fun _ _ _ own => by subst own; rfl) fun x c => ⟨rfl, rfl, shuffled_shuffles _ _ _ _⟩

/-- Settles O36: masks hold the bits of the lanes chosen (`XTile.maskOf_getLsbD`), a shuffle gives the value of its source
(`shuffled_shuffles`), in every thread of the bundle (`crossWord_writes`). -/
theorem votesAndShufflesCoverTheTile : Obligations.VotesAndShufflesCoverTheTile :=
  ⟨votesAndMasksCoverTheTile, shufflesReadTheNamedLane⟩

end Sys2Proof.Machine

namespace Sys2Proof.Machine

/-! ### What the unary and immediate words compute (R169 to R172) -/

theorem iabs_toNat (a : Word) : (if a.msb then 0 - a else a).toNat = a.toInt.natAbs := by
  have size := a.isLt
  rw [BitVec.toInt_eq_msb_cond]
  cases sign : a.msb
  · simp
  · have high : 2 ^ 31 ≤ a.toNat := by simpa [BitVec.msb_eq_decide] using sign
    rw [if_pos rfl, if_pos rfl, BitVec.toNat_sub]
    simp only [BitVec.ofNat_eq_ofNat, BitVec.toNat_ofNat]
    omega

theorem ineg_sum (a : Word) : ((0 - a).toNat + a.toNat) % 2 ^ 32 = 0 := by
  rw [BitVec.toNat_sub]
  have := a.isLt
  simp
  omega

theorem popcountW_toNat (a : Word) :
    (BitVec.ofNat 32 (popcountW a)).toNat = ((List.range 32).filter fun i => a.getLsbD i).length := by
  have most : popcountW a ≤ 32 := (List.length_filter_le _ _).trans (List.length_range).le
  rw [BitVec.toNat_ofNat, Nat.mod_eq_of_lt (most.trans_lt (by norm_num))]
  rfl

theorem clzW_rule (a : Word) :
    let x := BitVec.ofNat 32 (clzW a)
    x.toNat ≤ 32 ∧ (∀ i < x.toNat, a.getLsbD (31 - i) = false) ∧ (x.toNat < 32 → a.getLsbD (31 - x.toNat) = true) := by
  by_cases zero : a = 0
  · subst zero
    simp [clzW]
  · have some : a.toNat ≠ 0 := fun e => zero (BitVec.eq_of_toNat_eq e)
    have top : Nat.log2 a.toNat < 32 := (Nat.log2_lt some).2 a.isLt
    have value : (BitVec.ofNat 32 (clzW a)).toNat = 31 - Nat.log2 a.toNat := by
      rw [clzW, if_neg zero, BitVec.toNat_ofNat, Nat.mod_eq_of_lt (by omega)]
    simp only [value]
    refine ⟨by omega, fun i h => ?_, fun _ => ?_⟩
    · exact Nat.testBit_lt_two_pow (Nat.lt_log2_self.trans_le (Nat.pow_le_pow_right two_pos (by omega)))
    · rw [show 31 - (31 - Nat.log2 a.toNat) = Nat.log2 a.toNat by omega]
      exact Nat.testBit_log2 some

theorem brevW_bit (a : Word) (i : Nat) (h : i < 32) : (brevW a).getLsbD i = a.getLsbD (31 - i) := by
  rw [brevW, BitVec.getLsbD_reverse, BitVec.getMsbD_eq_getLsbD, decide_eq_true h, Bool.true_and]

theorem bfiW_bit (a b d : Word) (i : Nat) (h : i < 32) : (bfiW a b d).getLsbD i =
    if fieldPos b ≤ i ∧ i < fieldPos b + fieldLen b then a.getLsbD (i - fieldPos b) else d.getLsbD i := by
  have mask : (BitVec.ofNat 32 ((2 ^ fieldLen b - 1) * 2 ^ fieldPos b)).getLsbD i =
      (decide (fieldPos b ≤ i) && decide (i < fieldPos b + fieldLen b)) := by
    rw [BitVec.getLsbD_ofNat, ← Nat.shiftLeft_eq, Nat.testBit_shiftLeft, Nat.testBit_two_pow_sub_one, decide_eq_true h,
      Bool.true_and]
    by_cases low : fieldPos b ≤ i <;> simp [low]
    omega
  simp only [bfiW, BitVec.getLsbD_or, BitVec.getLsbD_and, BitVec.getLsbD_not, BitVec.getLsbD_shiftLeft, mask, decide_eq_true h,
    Bool.true_and]
  by_cases low : fieldPos b ≤ i <;> by_cases high : i < fieldPos b + fieldLen b <;> simp [low, high]

/-- A sign-extended number differs from the number by a multiple of the modulus. -/
theorem signExtend_toNat_modEq {n w : Nat} (h : n ≤ w) (m : BitVec n) :
    ∃ j : Int, ((m.signExtend w).toNat : Int) = m.toInt + 2 ^ w * j := by
  have same : (m.signExtend w).toInt = m.toInt := BitVec.toInt_signExtend_of_le h
  rw [BitVec.toInt_eq_toNat_cond] at same
  split at same
  · exact ⟨0, by rw [← same]; simp⟩
  · exact ⟨1, by rw [← same]; push_cast; ring⟩

theorem sext_bit (m : BitVec 10) (i : Nat) (h : i < 32) : (m.signExtend 32).getLsbD i = m.getLsbD (min i 9) := by
  rw [BitVec.getLsbD_signExtend, decide_eq_true h, Bool.true_and, BitVec.msb_eq_getLsbD_last]
  split
  · rw [Nat.min_eq_left (by omega)]
  · rw [Nat.min_eq_right (by omega)]

/-- What wraps is what is exact but for a multiple of the modulus. -/
theorem wrapped_exact (x : Nat) {y j : Int} (h : (x : Int) = y + 2 ^ 32 * j) : ∃ k : Int, ((x % 2 ^ 32 : Nat) : Int) = y + 2 ^ 32 * k :=
  ⟨j - (x / 2 ^ 32 : Nat), by omega⟩

theorem iaddi_rule (a : Word) (m : BitVec 10) : ∃ k : Int, ((a + m.signExtend 32).toNat : Int) = a.toNat + m.toInt + 2 ^ 32 * k := by
  obtain ⟨j, same⟩ := signExtend_toNat_modEq (w := 32) (by norm_num) m
  rw [BitVec.toNat_add]
  exact wrapped_exact _ (j := j) (by push_cast; linarith)

theorem imuli_rule (a : Word) (m : BitVec 10) : ∃ k : Int, ((a * m.signExtend 32).toNat : Int) = a.toNat * m.toInt + 2 ^ 32 * k := by
  obtain ⟨j, same⟩ := signExtend_toNat_modEq (w := 32) (by norm_num) m
  rw [BitVec.toNat_mul]
  refine wrapped_exact _ (j := a.toNat * j) ?_
  rw [Nat.cast_mul, same]
  ring

theorem sarW_toInt (a : Word) (n : Nat) : (sarW a n).toInt = a.toInt / 2 ^ n := by
  rw [← sar_toInt]
  split
  · rename_i out
    have all : sarW a n = if a.msb then 0xFFFFFFFF else 0 := by
      rw [sarW, Nat.min_eq_right (by omega)]
      refine BitVec.eq_of_getLsbD_eq fun i h => ?_
      have sign : (if 31 + i < 32 then a.getLsbD (31 + i) else a.msb) = a.msb := by
        split
        · rw [show i = 0 by omega, BitVec.msb_eq_getLsbD_last]
        · rfl
      have ones : ∀ i < 32, (0xFFFFFFFF : Word).getLsbD i = true := by decide
      rw [BitVec.getLsbD_sshiftRight, sign]
      cases a.msb
      · simp
      · rw [if_pos rfl, ones i h, decide_eq_false (by omega)]
        rfl
    rw [all]
  · rfl

theorem movh_toNat (m : BitVec 17) (d : Word) : (m.extractLsb' 0 16 ++ d.extractLsb' 0 16).toNat =
    (m.toNat % 2 ^ 16) * 2 ^ 16 + d.toNat % 2 ^ 16 := by
  rw [BitVec.toNat_append, BitVec.extractLsb'_toNat, BitVec.extractLsb'_toNat, Nat.shiftRight_zero, Nat.shiftRight_zero,
    ← Nat.shiftLeft_add_eq_or_of_lt (Nat.mod_lt _ (Nat.two_pow_pos 16)), Nat.shiftLeft_eq]


/-! ### Conditions and pairs (R105, R173, R174) -/

theorem condHolds_compare {α : Type} [LinearOrder α] (a b : α) {val : α → Int} (mono : StrictMono val) (cond : BitVec 4)
    (int : intCond cond = true) : condHolds cond.toNat (some (compare a b)) = true ↔ intCondition cond.toNat (val a) (val b) := by
  have lt : compare a b = .lt ↔ val a < val b := compare_lt_iff_lt.trans mono.lt_iff_lt.symm
  have gt : compare a b = .gt ↔ val b < val a := compare_gt_iff_gt.trans mono.lt_iff_lt.symm
  have eq : compare a b = .eq ↔ val a = val b := compare_eq_iff_eq.trans mono.injective.eq_iff.symm
  have range := cond.isLt
  simp only [intCond, Bool.or_eq_true, decide_eq_true_eq] at int
  generalize cond.toNat = n at int range
  interval_cases n <;> simp [condHolds, intCondition, lt, gt, eq] at int ⊢ <;> omega

end Sys2Proof.Machine

namespace Sys2Proof.Machine

/-! ### The other integer words and the address words (R169 to R174) -/

/-- The one-source word `r` computes `op` of its source, as its rule says. -/
structure OneSource.Computes (r : OneSource) (op : Word → Word) : Prop where
  exec : ∀ f s, exec (r.op f) s = int1 f (r.op f).wf r.ta r.tag op s
  rule : ∀ a, r.rule a (op a)

theorem OneSource.Computes.writes {r : OneSource} {op : Word → Word} (h : r.Computes op) : r.writes := fun f =>
  writesOne_of_run (fun c => { ws := [(op (c.rd (f.srcA c.iss r.ta)), r.tag (c.tag (f.srcA c.iss r.ta)))] }) (h.exec f)
    (fun _ => ⟨rfl, rfl, rfl, fun _ => rfl⟩) fun _ => ⟨_, rfl, rfl, rfl, h.rule _⟩

theorem integerUnary_computes : ∀ r ∈ integerUnary, ∃ op, r.Computes op := by
  simp only [integerUnary, List.forall_mem_cons]
  exact ⟨
    ⟨fun a => if a.msb then 0 - a else a, fun _ _ => rfl, iabs_toNat⟩,
    ⟨fun a => 0 - a, fun _ _ => rfl, ineg_sum⟩,
    ⟨fun a => ~~~a, fun _ _ => rfl, fun a i h => by simp [h]⟩,
    ⟨fun a => BitVec.ofNat 32 (popcountW a), fun _ _ => rfl, popcountW_toNat⟩,
    ⟨fun a => BitVec.ofNat 32 (clzW a), fun _ _ => rfl, clzW_rule⟩,
    ⟨brevW, fun _ _ => rfl, brevW_bit⟩,
    fun _ none => absurd none List.not_mem_nil⟩

/-- A word that computes `op` of its sources and its old destination. -/
theorem readsDest_of {mk : A3 → Instr} {ta tb td : Option (List Tag)} {tag : Tag → Tag}
    {rule : Word → Word → Word → Word → Prop} (op : Word → Word → Word → Word) (hx : ∀ f s, exec (mk f) s = int3 f (mk f).wf ta tb td tag op s)
    (rules : ∀ a b d, rule a b d (op a b d)) : readsDest mk ta tb td tag rule := fun f =>
  writesOne_of_run (fun c => { ws := [(op (c.rd (f.srcA c.iss ta)) (c.rd (f.srcB c.iss tb)) (c.rd (f.dst c.iss)),
      tag (c.tag (f.dst c.iss)))] }) (hx f)
    (fun _ => ⟨rfl, rfl, rfl, fun _ => rfl⟩) fun _ => ⟨_, rfl, rfl, rfl, rules _ _ _⟩

theorem imadAndBfiReadTheirDestination : ImadAndBfiReadTheirDestination := by
  refine ⟨readsDest_of (fun a b d => a * b + d) (fun _ _ => rfl) fun a b d => ?_, readsDest_of bfiW (fun _ _ => rfl) bfiW_bit⟩
  rw [BitVec.toNat_add, BitVec.toNat_mul, Nat.mod_add_mod]

/-- The word `r` with an immediate computes `op` of its source and the immediate, as its rule says. -/
structure ImmWord.Computes (r : ImmWord) (op : Word → BitVec 10 → Word) : Prop where
  exec : ∀ f s, exec (r.op f) s = intImm f (r.op f).wf r.ta r.tag (fun a => op a f.imm) s
  rule : ∀ a m, r.rule a m (op a m)

theorem ImmWord.Computes.writes {r : ImmWord} {op : Word → BitVec 10 → Word} (h : r.Computes op) : r.writes := fun f =>
  writesOne_of_run (fun c => { ws := [(op (c.rd (AI.src f c.iss)) f.imm, r.tag (c.tag (AI.src f c.iss)))] }) (h.exec f)
    (fun _ => ⟨rfl, rfl, rfl, fun _ => rfl⟩) fun _ => ⟨_, rfl, rfl, rfl, h.rule _ _⟩

theorem integerImmediate_computes : ∀ r ∈ integerImmediate, ∃ op, r.Computes op := by
  simp only [integerImmediate, List.forall_mem_cons]
  exact ⟨
    ⟨fun a m => a + m.signExtend 32, fun _ _ => rfl, iaddi_rule⟩,
    ⟨fun a m => a * m.signExtend 32, fun _ _ => rfl, imuli_rule⟩,
    ⟨fun a m => a &&& m.signExtend 32, fun _ _ => rfl, fun a m i h => by rw [BitVec.getLsbD_and, sext_bit m i h]⟩,
    ⟨fun a m => a ||| m.signExtend 32, fun _ _ => rfl, fun a m i h => by rw [BitVec.getLsbD_or, sext_bit m i h]⟩,
    ⟨fun a m => a ^^^ m.signExtend 32, fun _ _ => rfl, fun a m i h => by rw [BitVec.getLsbD_xor, sext_bit m i h]⟩,
    ⟨fun a m => shlW a m.toNat, fun _ _ => rfl, fun a m => shlW_toNat a m.toNat⟩,
    ⟨fun a m => shrW a m.toNat, fun _ _ => rfl, fun a m => shrW_toNat a m.toNat⟩,
    ⟨fun a m => sarW a m.toNat, fun _ _ => rfl, fun a m => sarW_toInt a m.toNat⟩,
    fun _ none => absurd none List.not_mem_nil⟩

theorem immediateWordsWriteTheirResult : ImmediateWordsWriteTheirResult := by
  refine ⟨fun r hr => ?_, fun f => ?_, fun f => ?_⟩
  · obtain ⟨op, computes⟩ := integerImmediate_computes r hr
    exact computes.writes
  · exact writesOne_of_run (fun _ => { ws := [(f.imm.signExtend 32, .i32)] }) (fun _ => rfl)
      (fun _ => ⟨rfl, rfl, rfl, fun _ => rfl⟩) fun _ => ⟨_, rfl, BitVec.toInt_signExtend_of_le (by norm_num), rfl, rfl⟩
  · exact writesOne_of_run (fun c => { ws := [(f.imm.extractLsb' 0 16 ++ (c.rd (dstOf f.d c.iss)).extractLsb' 0 16,
        c.tag (dstOf f.d c.iss))] }) (fun _ => rfl)
      (fun _ => ⟨rfl, rfl, rfl, fun _ => rfl⟩) fun _ => ⟨_, rfl, rfl, rfl, movh_toNat _ _⟩

/-- A register word that writes into its predicate whether its condition holds of two integers, as an order of values that go up
with them decides it. -/
theorem writesOne_condition {i : Instr} {fm : Issue → Form} {run : Issue → Ctx → Eff} {o : Issue → Opnd} {cond : BitVec 4}
    {α : Type} [LinearOrder α] {val : α → Int} (a b : Ctx → α) (mono : StrictMono val) (int : intCond cond = true)
    (hx : ∀ s, exec i s = regWord fm run s)
    (compares : ∀ c, run c.iss c = { regs := [predRes (o c.iss) (condHolds cond.toNat (some (compare (a c) (b c))))] }) :
    WritesOne i fm o fun c ws fl ist => fl = 0 ∧ ist = 0 ∧ oneBit ws (intCondition cond.toNat (val (a c)) (val (b c))) := by
  refine writesOne_of_run (fun c => { ws := (predRes (o c.iss) (condHolds cond.toNat (some (compare (a c) (b c))))).2 }) hx
    (fun c => ?_) fun c => ⟨rfl, rfl, oneBit_ite _ (condHolds_compare _ _ mono cond int)⟩
  rw [compares]
  exact ⟨rfl, rfl, rfl, fun _ => rfl⟩

theorem integerComparesWriteTheCondition : IntegerComparesWriteTheCondition := by
  have signed : StrictMono (fun x : Int => x) := strictMono_id
  have unsigned : StrictMono (fun x : Nat => (x : Int)) := Nat.strictMono_cast
  refine ⟨fun f int => ?_, fun f int => ?_, fun f int => ?_, fun f int => ?_⟩
  · exact writesOne_condition (fun c => (c.rd (f.srcA c.iss tI)).toInt) (fun c => (c.rd (f.srcB c.iss tI)).toInt) signed int
      (fun _ => rfl) fun _ => rfl
  · exact writesOne_condition (fun c => (c.rd (f.srcA c.iss (some [.n32, .mask]))).toNat)
      (fun c => (c.rd (f.srcB c.iss (some [.n32, .mask]))).toNat) unsigned int (fun _ => rfl) fun _ => rfl
  · refine writesOne_condition (fun c => (c.rd ((c.iss.reg (c.iss.aF f.a)).src tI)).toInt) (fun _ => f.imm.toInt) signed int
      (fun _ => rfl) fun c => ?_
    simp only [orderS, BitVec.toInt_signExtend_of_le (show 10 ≤ 32 by norm_num)]
  · exact writesOne_condition (fun c => c.pair (f.srcA c.iss tA)) (fun c => c.pair (f.srcB c.iss tA)) unsigned int
      (fun _ => rfl) fun _ => rfl

theorem addrHalves_pairOf {x y : Nat} (same : x % 2 ^ 64 = y % 2 ^ 64) : pairOf (addrHalves x) y := by
  refine ⟨_, _, rfl, ?_⟩
  simp only [BitVec.toNat_ofNat]
  omega

/-- A register word that writes a 64-bit result into its pair. -/
theorem writesOne_pair {i : Instr} {fm : Issue → Form} {run : Issue → Ctx → Eff} {o : Issue → Opnd} {y : Ctx → Nat}
    (x : Ctx → Nat) (hx : ∀ s, exec i s = regWord fm run s)
    (gives : ∀ c, run c.iss c = { regs := [(o c.iss, addrHalves (x c))] }) (same : ∀ c, x c % 2 ^ 64 = y c % 2 ^ 64) :
    WritesOne i fm o fun c ws fl ist => fl = 0 ∧ ist = 0 ∧ pairOf ws (y c) := by
  refine writesOne_of_run (fun c => { ws := addrHalves (x c) }) hx (fun c => ?_) fun c => ⟨rfl, rfl, addrHalves_pairOf (same c)⟩
  rw [gives]
  exact ⟨rfl, rfl, rfl, fun _ => rfl⟩

/-- A number and an integer congruent to it modulo 2^64 are the same number of 64 bits. -/
theorem toNat_emod_of_congruent {x : Nat} {y j : Int} (h : (x : Int) = y + 2 ^ 64 * j) : x % 2 ^ 64 = (y % 2 ^ 64).toNat % 2 ^ 64 := by
  omega

theorem addressWordsComputeModulo64Bits : AddressWordsComputeModulo64Bits := by
  simp only [AddressWordsComputeModulo64Bits, List.forall_mem_cons]
  refine ⟨⟨fun f => ?_, fun f => ?_, fun _ none => absurd none List.not_mem_nil⟩,
    ⟨fun f => ?_, fun f => ?_, fun _ none => absurd none List.not_mem_nil⟩,
    ⟨fun f => ?_, fun f => ?_, fun _ none => absurd none List.not_mem_nil⟩, fun f => ?_⟩
  · exact writesOne_pair (fun c => c.pair (f.srcA c.iss tA) + c.pair (f.srcB c.iss tA)) (fun _ => rfl) (fun _ => rfl) fun _ => rfl
  · exact writesOne_pair (fun c => c.pair (f.srcA c.iss tA) + (2 ^ 64 - c.pair (f.srcB c.iss tA))) (fun _ => rfl) (fun _ => rfl)
      fun _ => rfl
  · refine writesOne_pair (fun c => c.pair ((c.iss.reg (c.iss.aF f.a)).src tA) + (f.imm.signExtend 64).toNat) (fun _ => rfl)
      (fun _ => rfl) fun c => ?_
    obtain ⟨j, same⟩ := signExtend_toNat_modEq (w := 64) (by norm_num) f.imm
    exact toNat_emod_of_congruent (j := j) (by rw [Nat.cast_add, same, add_assoc])
  · refine writesOne_pair (fun c => c.pair ((c.iss.reg (c.iss.aF f.a)).src tA) * 2 ^ f.imm.toNat) (fun _ => rfl)
      (fun _ => rfl) fun c => toNat_emod_of_congruent (j := 0) (by push_cast; ring)
  · refine writesOne_pair (fun c => ((c.rd (f.srcA c.iss tI)).signExtend 64).toNat) (fun _ => rfl) (fun _ => rfl) fun c => ?_
    obtain ⟨j, same⟩ := signExtend_toNat_modEq (w := 64) (by norm_num) (c.rd (f.srcA c.iss tI))
    exact toNat_emod_of_congruent same
  · exact writesOne_pair (fun c => (c.rd (f.srcA c.iss tN)).toNat) (fun _ => rfl) (fun _ => rfl) fun _ => rfl
  · exact writesOne_of_run (fun c => { ws := [(c.rd (f.srcA c.iss none), c.tag (f.srcA c.iss none)),
        (c.rd (f.srcA c.iss none) 1, c.tag (f.srcA c.iss none) 1)] }) (fun _ => rfl)
      (fun _ => ⟨rfl, rfl, rfl, fun _ => rfl⟩) fun _ => ⟨rfl, rfl, rfl⟩

/-- Settles O30: each word computes what its rule says (the `_computes` lemmas, `condHolds_compare`, `addrHalves_pairOf`) and
writes one operand (`writesOne_of_run`). -/
theorem otherIntegerWordsWriteTheirResult : Obligations.OtherIntegerWordsWriteTheirResult := by
  refine ⟨fun r hr => ?_, fun r hr => ?_, imadAndBfiReadTheirDestination, immediateWordsWriteTheirResult,
    integerComparesWriteTheCondition, addressWordsComputeModulo64Bits⟩
  · obtain ⟨op, computes⟩ := integerBits_computes r hr
    exact computes.writes
  · obtain ⟨op, computes⟩ := integerUnary_computes r hr
    exact computes.writes

end Sys2Proof.Machine

namespace Sys2Proof.Machine

/-! ### Packed words, signs, classes and compares (R177 to R180) -/

theorem PackedWord.result_gives {r : PackedWord} (hr : r ∈ packedWords) (f : A3) (c : Ctx) :
    r.gives f c (r.result f c).ws (r.result f c).fl (r.result f c).ist := by
  obtain ⟨low, high⟩ := halves_halves (packedWords_lt r hr c.th.rm (loHalf_lt _) (loHalf_lt _))
    (packedWords_lt r hr c.th.rm (hiHalf_lt _) (hiHalf_lt _))
  exact ⟨_, rfl, low, high, rfl, rfl⟩

theorem PackedWord.run_writes (r : PackedWord) (f : A3) (c : Ctx) : (r.run f c.iss c).Writes c (f.dst c.iss) (r.result f c) := by
  simp only [PackedWord.run, half_zero, half_one]
  exact (r.result f c).eff_writes c _

theorem packedWordsActOnEachElement : PackedWordsActOnEachElement := fun r hr f =>
  writesOne_of_run (r.result f) (packedWords_run r hr f) (r.run_writes f) (r.result_gives hr f)

theorem fabs_bit (a : Word) (i : Nat) : (a &&& 0x7FFFFFFF).getLsbD i = (decide (i ≠ 31) && a.getLsbD i) := by
  by_cases inside : i < 32
  · have mask : ∀ i < 32, (0x7FFFFFFF : Word).getLsbD i = decide (i ≠ 31) := by decide
    rw [BitVec.getLsbD_and, mask i inside, Bool.and_comm]
  · rw [BitVec.getLsbD_of_ge _ _ (Nat.le_of_not_lt inside), BitVec.getLsbD_of_ge _ _ (Nat.le_of_not_lt inside), Bool.and_false]

theorem fneg_bit (a : Word) (i : Nat) (h : i < 32) : (a ^^^ 0x80000000).getLsbD i = (a.getLsbD i != decide (i = 31)) := by
  have mask : ∀ i < 32, (0x80000000 : Word).getLsbD i = decide (i = 31) := by decide
  rw [BitVec.getLsbD_xor, mask i h]

/-- The classes of R178 by the fields of a pattern: exponent, fraction and sign. -/
theorem fpClass_f32 (x : Nat) : fpClass fmtF32 x =
    if x / 8388608 % 256 = 255 then
      if x % 8388608 = 0 then if x / 2147483648 % 2 = 1 then 0 else 7 else if x % 8388608 / 4194304 % 2 = 1 then 9 else 8
    else if x / 8388608 % 256 = 0 then
      if x % 8388608 = 0 then if x / 2147483648 % 2 = 1 then 3 else 4 else if x / 2147483648 % 2 = 1 then 2 else 5
    else if x / 2147483648 % 2 = 1 then 1 else 6 := by
  have bit (y i : Nat) : bitAt y i = decide (y / 2 ^ i % 2 = 1) := by
    rw [bitAt, Nat.shiftRight_eq_div_pow, beq_eq_decide]
  have fields : unpack fmtF32 x =
      if x / 8388608 % 256 = 255 then
        if x % 8388608 = 0 then .inf (bitAt x 31) else .nan (!bitAt (x % 8388608) 22)
      else if x / 8388608 % 256 = 0 then .fin (bitAt x 31) (x % 8388608) (-126 - (23 : Nat))
      else .fin (bitAt x 31) (x % 8388608 + 8388608) (-126 - (23 : Nat) + (x / 8388608 % 256 - 1 : Nat)) := rfl
  have top : 2 ^ fmtF32.fracBits = 8388608 := rfl
  have least : x % 8388608 < 8388608 := Nat.mod_lt _ (by norm_num)
  rw [fpClass, fields, top, bit, bit]
  norm_num only
  by_cases ones : x / 8388608 % 256 = 255
  · by_cases whole : x % 8388608 = 0
    · simp [ones, whole]
    · simp only [ones, whole, if_true, if_false]
      by_cases quiet : x % 8388608 / 4194304 % 2 = 1 <;> simp [quiet]
  · by_cases zeros : x / 8388608 % 256 = 0
    · by_cases whole : x % 8388608 = 0
      · simp [zeros, whole]
      · simp [zeros, whole, least]
    · simp [ones, zeros]

theorem fclass_rule {x : Nat} (h : x < 2 ^ 32) :
    let k := fpClass fmtF32 x
    k < 10 ∧
      (k = 0 ↔ x = 0xFF800000) ∧ (k = 1 ↔ 0x80800000 ≤ x ∧ x < 0xFF800000) ∧ (k = 2 ↔ 0x80000001 ≤ x ∧ x < 0x80800000) ∧
      (k = 3 ↔ x = 0x80000000) ∧ (k = 4 ↔ x = 0) ∧ (k = 5 ↔ 1 ≤ x ∧ x < 0x00800000) ∧
      (k = 6 ↔ 0x00800000 ≤ x ∧ x < 0x7F800000) ∧ (k = 7 ↔ x = 0x7F800000) ∧
      (k = 8 ↔ 0x7F800001 ≤ x % 2 ^ 31 ∧ x % 2 ^ 31 < 0x7FC00000) := by
  intro k
  have fields : k = _ := fpClass_f32 x
  clear_value k
  norm_num only at h ⊢
  split_ifs at fields <;> refine ⟨?_, ?_, ?_, ?_, ?_, ?_, ?_, ?_, ?_, ?_⟩ <;> omega

theorem condHolds_fp (cond : BitVec 4) (o : Option Ordering) : condHolds cond.toNat o = true ↔ fpCondition cond.toNat o := by
  have range := cond.isLt
  generalize cond.toNat = n at range
  rcases o with _ | _ | _ | _ <;> interval_cases n <;> simp [condHolds, fpCondition]

theorem floatBitAndClassWords : FloatBitAndClassWords := by
  refine ⟨fun f => ?_, fun f => ?_, fun f => ?_, fun f => ?_, fun f => ?_, fun f => ?_⟩
  · exact writesOne_of_run (fun c => { ws := [(c.rd (f.srcA c.iss none) &&& 0x7FFFFFFF, c.tag (f.srcA c.iss none))] })
      (fun _ => rfl) (fun _ => ⟨rfl, rfl, rfl, fun _ => rfl⟩) fun _ => ⟨rfl, rfl, _, rfl, fabs_bit _⟩
  · exact writesOne_of_run (fun c => { ws := [(c.rd (f.srcA c.iss none) ^^^ 0x80000000, c.tag (f.srcA c.iss none))] })
      (fun _ => rfl) (fun _ => ⟨rfl, rfl, rfl, fun _ => rfl⟩) fun _ => ⟨rfl, rfl, _, rfl, fneg_bit _⟩
  · exact writesOne_of_run (fun c =>
        { ws := [(BitVec.ofNat 32 (2 ^ fpClass fmtF32 (c.rd (f.srcA c.iss tF)).toNat), .mask)] }) (fun _ => rfl)
      (fun _ => ⟨rfl, rfl, rfl, fun _ => rfl⟩) fun _ => ⟨rfl, rfl, _, _, rfl, rfl, fclass_rule (BitVec.isLt _)⟩
  · exact writesOne_of_run (fun c =>
        let a := (c.rd (f.srcA c.iss tF)).toNat
        let b := (c.rd (f.srcB c.iss tF)).toNat
        { ws := (predRes (f.pdst c.iss) (condHolds f.cond.toNat (fpOrder fmtF32 a b))).2
          fl := if (unpack fmtF32 a).isSnan || (unpack fmtF32 b).isSnan then flagNV else 0 }) (fun _ => rfl)
      (fun _ => ⟨rfl, rfl, rfl, fun _ => rfl⟩) fun _ => ⟨rfl, rfl, oneBit_ite _ (condHolds_fp _ _)⟩
  · exact writesOne_of_run (fun c =>
        let x := fpRoundInt fmtF32 f.imm.toNat (c.rd (AI.src f c.iss)).toNat
        { ws := [(wordOf x, .f32)], fl := x.fl }) (fun _ => rfl)
      (fun _ => ⟨rfl, rfl, rfl, fun _ => rfl⟩) fun _ => ⟨rfl, _, rfl, rfl, rfl⟩
  · exact writesOne_of_run (fun c =>
        let x := fpLdexp fmtF32 c.th.rm (c.rd (f.srcA c.iss tF)).toNat (c.rd (f.srcB c.iss (some [.i32]))).toInt
        { ws := [(wordOf x, .f32)], fl := x.fl }) (fun _ => rfl)
      (fun _ => ⟨rfl, rfl, rfl, fun _ => rfl⟩) fun _ => ⟨rfl, _, rfl, rfl, rfl⟩

/-- Settles O32: a packed word's halves are its two results (`halves_halves`), and the words on bits, classes and conditions give
what `fabs_bit`, `fneg_bit`, `fclass_rule` and `condHolds_fp` say. -/
theorem packedAndBitWords : Obligations.PackedAndBitWords := ⟨packedWordsActOnEachElement, floatBitAndClassWords⟩

end Sys2Proof.Machine

namespace Sys2Proof.Machine

/-! ### Exact sums and products (R175) -/

theorem mantAt_rat (neg : Bool) (m : Nat) {e e0 : Int} (h : e0 ≤ e) :
    (mantAt neg m e e0 : ℚ) * 2 ^ e0 = (Num.fin neg m e).rat := by
  have shift : (2 : ℚ) ^ e = 2 ^ (e - e0).toNat * 2 ^ e0 := by
    rw [← zpow_natCast, Int.toNat_of_nonneg (sub_nonneg.2 h), ← zpow_add₀ two_ne_zero, sub_add_cancel]
  simp only [mantAt, Num.rat, shift]
  split_ifs <;> (push_cast; ring)

theorem Num.ofInt_rat (v e : Int) : (Num.ofInt v e).rat = v * 2 ^ e := by
  have size : (v.natAbs : ℚ) = |(v : ℚ)| := by rw [Nat.cast_natAbs, Int.cast_abs]
  simp only [Num.ofInt, Num.rat, size, decide_eq_true_eq]
  split_ifs with neg
  · rw [abs_of_neg (by exact_mod_cast neg), neg_one_mul, neg_neg]
  · rw [abs_of_nonneg (by exact_mod_cast not_lt.1 neg), one_mul]

/-- The sum of two finite values is finite and exact; a zero sum has the sign it is given. -/
theorem addSigned_fin (neg na nb : Bool) (ma mb : Nat) (ea eb : Int) :
    ∃ n m e, addSigned neg (.fin na ma ea) (.fin nb mb eb) = some (.fin n m e) ∧
      (Num.fin n m e).rat = (Num.fin na ma ea).rat + (Num.fin nb mb eb).rat ∧ (m = 0 → n = neg) := by
  rw [← mantAt_rat na ma (min_le_left ea eb), ← mantAt_rat nb mb (min_le_right ea eb), ← add_mul, ← Int.cast_add]
  simp only [addSigned]
  generalize mantAt na ma ea (min ea eb) + mantAt nb mb eb (min ea eb) = v
  split_ifs with zero
  · exact ⟨neg, 0, _, rfl, by simp [Num.rat, zero], fun _ => rfl⟩
  · exact ⟨_, _, _, rfl, Num.ofInt_rat v _, fun none => absurd (Int.natAbs_eq_zero.1 none) zero⟩

theorem Num.negate_rat (x : Num) : x.negate.rat = -x.rat := by
  rcases x with s | n | ⟨n, m, e⟩
  · simp [Num.negate, Num.rat]
  · simp [Num.negate, Num.rat]
  · cases n <;> simp [Num.negate, Num.rat]

theorem exactSumsAndProducts : ExactSumsAndProducts := by
  intro rm na nb ma mb ea eb
  have sign : zeroSign rm (.fin na ma ea) (.fin nb mb eb) = (rm == 2 || (na && ma == 0 && nb && mb == 0)) := by
    simp only [zeroSign, Num.isNegZero, Bool.and_assoc]
  refine ⟨?_, ?_, ?_⟩
  · rw [← sign]
    exact addSigned_fin _ na nb ma mb ea eb
  · rw [← sign, sub_eq_add_neg, ← Num.negate_rat]
    exact addSigned_fin _ na (!nb) ma mb ea eb
  · refine ⟨_, _, _, rfl, ?_, rfl⟩
    simp only [Num.rat]
    rw [zpow_add₀ two_ne_zero]
    cases na <;> cases nb <;> simp <;> ring

/-! ### Quotients (R140, R175, R177) -/

/-- How twice a remainder compares with the unit once a part beyond it is counted (R140). -/
def stickyOrder : Ordering → Ordering
  | .lt => .lt
  | _ => .gt

/-- Dropping bits with a remainder below them. -/
theorem roundAt_sticky_eq (rm : Nat) (neg : Bool) (q : Nat) {sh : Nat} (some : 0 < sh) : roundAt rm neg q sh true =
    (if roundsUp rm neg (q / 2 ^ sh % 2 == 1) (stickyOrder (compare (2 * (q % 2 ^ sh)) (2 ^ sh))) true then q / 2 ^ sh + 1
      else q / 2 ^ sh, true) := by
  simp only [roundAt, Bool.or_true, Nat.shiftRight_eq_div_pow, if_neg some.ne', if_true]
  cases compare (2 * (q % 2 ^ sh)) (2 ^ sh) <;> rfl

theorem stickyOrder_compare {r h u t : Nat} (pos : 0 < t) (part : t < u) :
    compare (2 * (r * u + t)) (2 * h * u) = stickyOrder (compare (2 * r) (2 * h)) := by
  rcases lt_trichotomy r h with below | rfl | above
  · rw [Nat.compare_eq_lt.2 (show 2 * r < 2 * h by omega)]
    exact Nat.compare_eq_lt.2 (by nlinarith)
  · rw [Nat.compare_eq_eq.2 rfl]
    exact Nat.compare_eq_gt.2 (by nlinarith)
  · rw [Nat.compare_eq_gt.2 (show 2 * h < 2 * r by omega)]
    exact Nat.compare_eq_gt.2 (by nlinarith)

/-- Where at least one bit is dropped, whatever nonzero part lies below the bits rounds as a sticky bit does. -/
theorem roundAt_sticky (rm : Nat) (neg : Bool) {q sh j t : Nat} (some : 0 < sh) (pos : 0 < t) (part : t < 2 ^ j) :
    roundAt rm neg (q * 2 ^ j + t) (sh + j) false = roundAt rm neg q sh true := by
  have unit : 0 < 2 ^ j := Nat.two_pow_pos j
  have quotient : (q * 2 ^ j + t) / 2 ^ (sh + j) = q / 2 ^ sh := by
    rw [pow_add, mul_comm (2 ^ sh), ← Nat.div_div_eq_div_mul, mul_comm q, Nat.mul_add_div unit, Nat.div_eq_of_lt part, add_zero]
  have rest : (q * 2 ^ j + t) % 2 ^ (sh + j) = q % 2 ^ sh * 2 ^ j + t := by
    rw [pow_add, mul_comm (2 ^ sh), Nat.mod_mul, mul_comm q, Nat.mul_add_mod, Nat.mod_eq_of_lt part, Nat.mul_add_div unit,
      Nat.div_eq_of_lt part, add_zero, mul_comm (2 ^ j), add_comm]
  have inexact : q % 2 ^ sh * 2 ^ j + t ≠ 0 := by omega
  have order : compare (2 * (q % 2 ^ sh * 2 ^ j + t)) (2 ^ (sh + j)) = stickyOrder (compare (2 * (q % 2 ^ sh)) (2 ^ sh)) := by
    obtain ⟨n, rfl⟩ := Nat.exists_eq_succ_of_ne_zero some.ne'
    rw [pow_add, pow_succ', stickyOrder_compare pos part]
  rw [roundAt_eq, roundAt_sticky_eq rm neg q some, quotient, rest, order, bne_iff_ne.2 inexact]

theorem log2_mul_two_pow_add {q j t : Nat} (some : 0 < q) (part : t < 2 ^ j) : Nat.log2 (q * 2 ^ j + t) = Nat.log2 q + j := by
  have least := Nat.log2_self_le some.ne'
  have most : q + 1 ≤ 2 ^ (Nat.log2 q + 1) := Nat.lt_log2_self
  have unit : 0 < 2 ^ j := Nat.two_pow_pos j
  rw [Nat.log2_eq_iff (by positivity)]
  constructor
  · rw [pow_add]
    exact (Nat.mul_le_mul_right _ least).trans (Nat.le_add_right _ _)
  · rw [Nat.add_right_comm, pow_add]
    exact lt_of_lt_of_le (by linarith) (Nat.mul_le_mul_right (2 ^ j) most)

section
variable {f : Fmt} {rm : Nat} {neg : Bool} {x y z : ℚ}

/-- A quotient with more bits than the precision is rounded alike whatever part lies beyond it. -/
theorem roundMag_sticky (prec : f.prec = f.fracBits + 1) {q j t : Nat} (wide : 2 ^ f.prec ≤ q) (pos : 0 < t) (part : t < 2 ^ j)
    (e : Int) : roundMag f rm neg (q * 2 ^ j + t) (e - j) false = roundMag f rm neg q e true := by
  have some : 0 < q := (Nat.two_pow_pos _).trans_le wide
  have top : f.fracBits < Nat.log2 q := by
    have := (Nat.le_log2 some.ne').2 wide
    omega
  have lead : (Nat.log2 (q * 2 ^ j + t) : Int) + (e - j) = Nat.log2 q + e := by
    rw [log2_mul_two_pow_add some part]
    push_cast
    ring
  have shifted {n : Int} (above : e < n) :
      0 ≤ n - (e - j) ∧ 0 ≤ n - e ∧ roundAt rm neg (q * 2 ^ j + t) (n - (e - j)).toNat false = roundAt rm neg q (n - e).toNat true := by
    refine ⟨by omega, by omega, ?_⟩
    rw [show (n - (e - j)).toNat = (n - e).toNat + j by omega]
    exact roundAt_sticky rm neg (by omega) pos part
  obtain ⟨first, first', unbounded⟩ := shifted (n := Nat.log2 q + e - f.fracBits) (by omega)
  obtain ⟨last, last', mantissa⟩ := shifted (n := max (Nat.log2 q + e - f.fracBits) (f.emin - f.fracBits)) (by omega)
  simp only [roundMag, if_neg some.ne', if_neg (show q * 2 ^ j + t ≠ 0 by omega), lead, if_pos first, if_pos first', unbounded,
    if_pos last, if_pos last', mantissa]

/-- What lies between two values that are as near to `a` as to `b` is nearer to `a`. -/
theorem nearer_between {a b : ℚ} (other : a ≠ b) (low : |y - a| ≤ |y - b|) (high : |z - a| ≤ |z - b|) (above : y < x)
    (below : x < z) : |x - a| < |x - b| := by
  rw [← sq_le_sq] at low high
  rw [← sq_lt_sq]
  rcases lt_or_gt_of_ne other with less | more
  · have : 2 * z ≤ a + b := by nlinarith
    nlinarith
  · have : a + b ≤ 2 * y := by nlinarith
    nlinarith

theorem Fmt.rounds_between {q : Nat} (low : f.rounds rm neg y q) (high : f.rounds rm neg z q) (above : y < x) (below : x < z) :
    f.rounds rm neg x q := by
  obtain ⟨finite, low⟩ := low
  obtain ⟨-, high⟩ := high
  refine ⟨finite, ?_⟩
  split_ifs at low high ⊢
  · intro p inside
    by_cases same : p = q
    · subst same
      exact ⟨le_rfl, fun _ other => absurd rfl other⟩
    · have nearer := nearer_between (f.val_strictMono.injective.ne (Ne.symm same)) (low p inside).1 (high p inside).1 above below
      exact ⟨nearer.le, fun tie => absurd tie nearer.ne⟩
  · obtain ⟨least, max, -⟩ := low
    obtain ⟨-, -, next⟩ := high
    exact ⟨least.trans above.le, max, next.imp_right below.trans⟩
  · obtain ⟨-, last⟩ := low
    obtain ⟨most, -⟩ := high
    exact ⟨most.imp_left below.le.trans, last.imp_right fun h => h.trans above⟩

theorem Fmt.tiny_of_le (h : f.tiny rm neg y) (le : x ≤ y) : f.tiny rm neg x := by
  unfold Fmt.tiny at h ⊢
  simp only at h ⊢
  split_ifs at h ⊢ <;> linarith

theorem signed_injective (f : Fmt) (neg : Bool) : Function.Injective (signed f neg) := by
  intro p q same
  unfold signed at same
  split at same <;> omega

/-- A result delivered for a value and for a larger one is delivered for what lies between them and is no value of the format. -/
theorem Fmt.delivers_between (sound : f.Sound) {r : FpRes} (low : f.delivers rm neg y r) (high : f.delivers rm neg z r)
    (above : y < x) (below : x < z) (other : ∀ q, f.val q ≠ x) : f.delivers rm neg x r := by
  obtain ⟨q, bits, rounds, nx, uf, ovf, dz, nv⟩ := low
  obtain ⟨q', bits', rounds', nx', uf', ovf', -, -⟩ := high
  obtain rfl : q = q' := signed_injective f neg (bits.symm.trans bits')
  have order : (2 : ℚ) ^ f.emin < f.val f.infBits := by
    rw [f.val_inf sound]
    exact zpow_lt_zpow_right₀ one_lt_two (by have := sound.order; omega)
  have inexact : r.fl.getLsbD 4 = true := by
    by_cases same : f.val q = y
    · exact nx'.2 (.inl (by rw [same]; exact (above.trans below).ne))
    · exact nx.2 (.inl same)
  refine ⟨q, bits, Fmt.rounds_between rounds rounds' above below, iff_of_true inexact (.inl (other q)), ?_, ?_, dz, nv⟩
  · refine ⟨fun raised => ⟨other q, Fmt.tiny_of_le (uf'.1 raised).2 below.le⟩, fun ⟨_, tiny⟩ => ?_⟩
    have tiny := Fmt.tiny_of_le tiny above.le
    refine uf.2 ⟨fun same => ?_, tiny⟩
    have full := (nx.1 inexact).resolve_left (not_not.2 same)
    have small := Fmt.tiny_lt tiny
    rw [← same, full] at small
    exact lt_asymm small order
  · refine ⟨fun raised => (ovf.1 raised).imp_right fun h => h.trans above.le, fun h => ?_⟩
    exact ovf'.2 (h.imp_right fun h => h.trans below.le)

/-- Every value of a format is a whole number times a power of two. -/
theorem Fmt.val_dyadic (f : Fmt) (p : Nat) : ∃ (m : Nat) (e : Int), f.val p = m * (2 : ℚ) ^ e := by
  cases binade : p / 2 ^ f.fracBits with
  | zero => exact ⟨p, f.emin - f.fracBits + (0 : Nat), f.val_subnormal binade⟩
  | succ k => exact ⟨p % 2 ^ f.fracBits + 2 ^ f.fracBits, f.emin - f.fracBits + k, f.val_normal binade⟩

end

/-- A power of two takes away the whole even part of a divisor once it is as large. -/
theorem dvd_of_dvd_mul_two_pow {num den k n : Nat} (pos : den ≠ 0) (large : Nat.log2 den ≤ k) (h : den ∣ num * 2 ^ n) :
    den ∣ num * 2 ^ k := by
  obtain ⟨i, odd, isOdd, rfl⟩ := Nat.exists_eq_two_pow_mul_odd pos
  have shift : i ≤ k := by
    refine le_trans ((Nat.le_log2 pos).2 ?_) large
    exact Nat.le_mul_of_pos_right _ isOdd.pos
  have coprime (n : Nat) : Nat.Coprime odd (2 ^ n) := (Nat.coprime_two_right.2 isOdd).pow_right n
  have dvd : odd ∣ num := (coprime n).dvd_of_dvd_mul_right ((Dvd.intro_left _ rfl).trans h)
  rw [mul_comm (2 ^ i)]
  exact mul_dvd_mul dvd (pow_dvd_pow 2 shift)

/-- A quotient that is a whole number times a power of two leaves no remainder after enough doublings. -/
theorem dvd_of_quotient_dyadic {num den k m : Nat} {e e' : Int} (pos : den ≠ 0) (large : Nat.log2 den ≤ k)
    (h : (m : ℚ) * 2 ^ e' = num / den * 2 ^ e) : den ∣ num * 2 ^ k := by
  have some : (den : ℚ) ≠ 0 := by exact_mod_cast pos
  have scaled : (num : ℚ) * 2 ^ (e - e') = den * m := by
    rw [zpow_sub₀ two_ne_zero]
    field_simp at h ⊢
    linarith
  rcases le_total 0 (e - e') with up | down
  · obtain ⟨n, shift⟩ := Int.eq_ofNat_of_zero_le up
    rw [shift, zpow_natCast] at scaled
    exact dvd_of_dvd_mul_two_pow (n := n) pos large ⟨m, by exact_mod_cast scaled⟩
  · obtain ⟨n, shift⟩ := Int.eq_ofNat_of_zero_le (neg_nonneg.2 down)
    have whole : (num : ℚ) = den * (m * 2 ^ n) := by
      rw [← mul_assoc, ← scaled, mul_assoc, ← zpow_natCast, ← shift, ← zpow_add₀ two_ne_zero, add_neg_cancel,
        zpow_zero, mul_one]
    exact Dvd.dvd.mul_right ⟨m * 2 ^ n, by exact_mod_cast whole⟩ _

/-- A quotient that leaves a remainder lies strictly between its digits with the least and with the greatest part of `j` bits
beyond them that is not nothing. -/
theorem quotient_between {num den q r j : Nat} (split : num = q * den + r) (some : 0 < r) (less : r < den) (deep : den < 2 ^ j) :
    ((q * 2 ^ j + 1 : Nat) : ℚ) < num / den * 2 ^ j ∧ num / den * 2 ^ j < ((q * 2 ^ j + (2 ^ j - 1) : Nat) : ℚ) := by
  have pos : (0 : ℚ) < den := by exact_mod_cast some.trans less
  rw [div_mul_eq_mul_div, lt_div_iff₀ pos, div_lt_iff₀ pos]
  obtain ⟨u, unit⟩ : ∃ u, 2 ^ j = u + 1 := ⟨2 ^ j - 1, by omega⟩
  constructor
  · have : (q * 2 ^ j + 1) * den < num * 2 ^ j := by rw [split]; nlinarith
    exact_mod_cast this
  · have : num * 2 ^ j < (q * 2 ^ j + (2 ^ j - 1)) * den := by
      rw [split, unit, Nat.add_sub_cancel]
      nlinarith
    exact_mod_cast this

/-- A quotient of whole numbers times a power of two is rounded once, with the flags of R142. -/
theorem roundFrac_delivers {f : Fmt} (sound : f.Sound) {rm : Nat} (mode : rm < 4) (neg : Bool) {num den : Nat} (e : Int)
    (some : 0 < num) (pos : 0 < den) : f.delivers rm neg (num / den * (2 : ℚ) ^ e) (roundFrac f rm neg num den e) := by
  obtain ⟨k, digits⟩ : ∃ k, k = Nat.log2 den + 2 * f.prec + 8 := ⟨_, rfl⟩
  have result : roundFrac f rm neg num den e =
      roundMag f rm neg (num * 2 ^ k / den) (e - k) (num * 2 ^ k % den != 0) := by
    rw [digits, ← Nat.shiftLeft_eq]
    rfl
  have deep : den < 2 ^ (Nat.log2 den + 1) := Nat.lt_log2_self
  have wide : 2 ^ f.prec ≤ num * 2 ^ k / den := by
    rw [Nat.le_div_iff_mul_le pos]
    calc 2 ^ f.prec * den ≤ 2 ^ f.prec * 2 ^ (Nat.log2 den + 1) := Nat.mul_le_mul_left _ deep.le
      _ = 2 ^ (f.prec + (Nat.log2 den + 1)) := (pow_add _ _ _).symm
      _ ≤ 2 ^ k := Nat.pow_le_pow_right two_pos (by omega)
      _ ≤ num * 2 ^ k := Nat.le_mul_of_pos_left _ some
  have split : num * 2 ^ k = num * 2 ^ k / den * den + num * 2 ^ k % den := (Nat.div_add_mod' _ _).symm
  have value : (num : ℚ) / den * 2 ^ e = (num * 2 ^ k : Nat) / den * 2 ^ (e - k) := by
    rw [Nat.cast_mul, Nat.cast_pow, Nat.cast_ofNat, zpow_sub₀ two_ne_zero, zpow_natCast]
    field_simp
  rw [result]
  by_cases whole : num * 2 ^ k % den = 0
  · have exact : ((num * 2 ^ k : Nat) : ℚ) / den = (num * 2 ^ k / den : Nat) :=
      (Nat.cast_div (Nat.dvd_of_mod_eq_zero whole) (by exact_mod_cast pos.ne')).symm
    rw [value, exact, whole]
    exact roundMag_delivers sound mode ((Nat.two_pow_pos _).trans_le wide)
  · obtain ⟨above, below⟩ := quotient_between split (Nat.pos_of_ne_zero whole) (Nat.mod_lt _ pos) deep
    generalize Nat.log2 den + 1 = j at deep above below
    have unit : (0 : ℚ) < 2 ^ (e - k - j) := zpow_pos two_pos _
    have scaled : (num : ℚ) / den * 2 ^ e = (num * 2 ^ k : Nat) / den * 2 ^ j * 2 ^ (e - k - j) := by
      rw [value, zpow_sub₀ two_ne_zero (e - k), zpow_natCast]
      field_simp
    have other (p : Nat) : f.val p ≠ num / den * (2 : ℚ) ^ e := fun same => by
      obtain ⟨m, e', dyadic⟩ := f.val_dyadic p
      exact whole (Nat.mod_eq_zero_of_dvd (dvd_of_quotient_dyadic pos.ne' (by omega) (dyadic.symm.trans same)))
    have delivered {t : Nat} (part : 0 < t) (inside : t < 2 ^ j) := roundMag_delivers (e := e - k - j) (neg := neg) sound mode
      (show 0 < num * 2 ^ k / den * 2 ^ j + t by omega)
    simp only [bne_iff_ne.2 whole]
    rw [scaled] at other ⊢
    have room : 2 ≤ 2 ^ j := by omega
    refine Fmt.delivers_between sound (y := (num * 2 ^ k / den * 2 ^ j + 1 : Nat) * 2 ^ (e - k - j))
      (z := (num * 2 ^ k / den * 2 ^ j + (2 ^ j - 1) : Nat) * 2 ^ (e - k - j)) ?_ ?_
      (mul_lt_mul_of_pos_right above unit) (mul_lt_mul_of_pos_right below unit) other
    · rw [← roundMag_sticky sound.prec wide one_pos (by omega : 1 < 2 ^ j)]
      exact delivered one_pos (by omega)
    · rw [← roundMag_sticky sound.prec wide (by omega : 0 < 2 ^ j - 1) (by omega : 2 ^ j - 1 < 2 ^ j)]
      exact delivered (by omega) (by omega)

theorem quotientsAreCorrectlyRounded : QuotientsAreCorrectlyRounded := fun _ mode neg _ _ e some _ pos _ =>
  roundFrac_delivers (formats_sound fmtF32 (by simp)) mode neg e some pos

/-- Settles O33: a sum of mantissas at the smaller exponent is exact (`addSigned_fin`), and a quotient's sticky bit stands for
every part beyond its digits (`roundMag_sticky`), below and above the exact value (`Fmt.delivers_between`). -/
theorem sumsProductsAndQuotientsAreExactThenRounded : Obligations.SumsProductsAndQuotientsAreExactThenRounded :=
  ⟨exactSumsAndProducts, quotientsAreCorrectlyRounded⟩

end Sys2Proof.Machine

namespace Sys2Proof.Machine

/-! ### The gates of an access (R276, R279) -/

/-- An access that may go meets no gate, in a thread or in class 0. -/
theorem State.memGate_open {f : M2} {s : State} {c : Ctx} (may : mayAccess f s c) :
    s.memGate c f.order.toNat f.scope.toNat = none := by
  obtain ⟨free, released⟩ := may
  simp only [State.memGate, free, Bool.false_eq_true, if_false, ite_eq_right_iff]
  intro releases
  have own : (if c.iss.cls = 0 ∨ false = true then 32 else c.l) = c.own := by simp [Ctx.own]
  have done : (c.th.relDone || s.relReady c.t.id c.w c.own f.scope.toNat) = true :=
    Bool.or_eq_true _ _ ▸ released.resolve_left (by omega)
  simp only [State.releaseGate, own, done, if_true]

theorem State.writeGate_open {f : M2} {s : State} {c : Ctx} (may : mayWrite f s c) :
    s.writeGate c f.order.toNat f.scope.toNat = none := by
  simp [State.writeGate, State.memGate_open may.1, may.2]

theorem State.pairGate_unpaired {s : State} {c : Ctx} (alone : unpaired s c) (len : Nat) (access : List Nat)
    (go : State → Ctx → State × LaneRes) : s.pairGate c len access go = go s c := by
  rcases alone with single | scalar
  · simp [State.pairGate, single]
  · simp [State.pairGate, scalar]

/-- A store that is performed as it issues, once nothing holds it. -/
theorem localStore_goes {f : M2} {s : State} {c : Ctx} (may : mayWrite f s c) (alone : unpaired s c) (addr : Ctx → List Nat)
    (go : State → Ctx → State × LaneRes) : localStore f addr go s c = go s c := by
  simp only [localStore, State.writeGate_open may, State.pairGate_unpaired alone]

/-! ### Loads of scratchpads and of the tile buffer (R236, R240) -/

theorem ldsReadsItsBytes (f : M2) : Effects (.lds f) (fun iss => m2Form .mem0 (Instr.lds f).wf false [f.regA iss, f.dst iss] none)
    (fun _ c => scratchCheck c (f.addr32 c) f.bytes) (mayAccess f)
    (fun c => boundLoadOf f c (scratchWords c.t f (f.addr32 c)) none) := by
  refine effects_of_done (fun _ => rfl) fun iss c s own _ may => ?_
  subst own
  simp only [State.memGate_open may]
  exact ⟨trivial, rfl⟩

theorem ldcReadsItsBytes (f : M2) (u : Team) :
    Effects (.ldc f) (fun iss => m2Form .mem0 (Instr.ldc f).wf false [f.regA iss, f.dst iss] none)
      (fun _ c => cohortCheck c (f.addr32 c) f.bytes)
      (fun s c => mayAccess f s c ∧ s.cohortTeam? c.t (cohTeam (f.addr32 c)) = some u)
      (fun c => boundLoadOf f c (scratchWords u f (cohOffset (f.addr32 c))) (acqOf f.order.toNat f.scope.toNat)) := by
  refine effects_of_done (fun _ => rfl) fun iss c s own _ ⟨may, team⟩ => ?_
  subst own
  simp only [State.memGate_open may, team]
  exact ⟨trivial, rfl⟩

theorem localLoadsReadTheirBytes : LocalLoadsReadTheirBytes := by
  refine ⟨ldsReadsItsBytes, ldcReadsItsBytes, fun f p k s iss t w l acts clear may slot => ?_⟩
  refine ⟨_, withIssue_of acts.issue _, Form.perform_done acts clear ?_⟩
  have gate := State.memGate_open (s := { s with issue := none }) may
  have tile : (t.tileSlot.bind fun x => (({ s with issue := none } : State).pass? x.1).map fun p => (p, x.2)) = some (p, k) := slot
  simp only [gate, tile]
  rfl

/-! ### Stores of scratchpads and of the tile buffer (R238 to R240) -/

theorem stsWritesItsBytes (f : M2) : Effects (.sts f) (fun iss => storeForm .mem0 (.sts f) f [f.regA iss] iss)
    (fun _ c => scratchCheck c (f.addr32 c) f.bytes) (fun s c => mayWrite f s c ∧ unpaired s c)
    (fun c s => s.writeScratch c.t.id (f.addr32 c) (f.storeBytes c)) := by
  refine effects_of_done (fun _ => rfl) fun iss c s _ _ ⟨may, alone⟩ => ?_
  simp only [localStore_goes may alone, and_self]

theorem stcWritesItsBytes (f : M2) (u : Team) : Effects (.stc f) (fun iss => storeForm .mem0 (.stc f) f [f.regA iss] iss)
    (fun _ c => cohortCheck c (f.addr32 c) f.bytes)
    (fun s c => mayWrite f s c ∧ unpaired s c ∧ s.cohortTeam? c.t (cohTeam (f.addr32 c)) = some u)
    (fun c s => s.writeScratch u.id (cohOffset (f.addr32 c)) (f.storeBytes c)) := by
  refine effects_of_done (fun _ => rfl) fun iss c s _ _ ⟨may, alone, team⟩ => ?_
  simp only [team, localStore_goes may alone, and_self]

theorem stcmWritesItsBytes (f : M2) (us : List Team) :
    Effects (.stcm f) (fun iss => storeForm .mem (.stcm f) f [f.offsetA iss, f.maskA iss] iss) (stcmCause f)
      (fun s c => mayWrite f s c ∧ unpaired s c ∧ Ctx.masked s c (c.rd (f.maskA c.iss)).toNat = us.map some)
      (fun c s => us.foldl (fun s u => s.writeScratch u.id (f.addr32 c) (f.storeBytes c)) s) := by
  refine effects_of_done (fun _ => rfl) fun iss c s own _ ⟨may, alone, teams⟩ => ?_
  subst own
  rw [Ctx.masked] at teams
  have all : (us.map some).any (·.isNone) = false := by simp
  have named : (us.map some).filterMap id = us := by simp [List.filterMap_map]
  simp only [teams, all, named, Bool.false_eq_true, if_false, localStore_goes may alone, and_self]

theorem localStoresWriteTheirBytes : LocalStoresWriteTheirBytes := by
  refine ⟨stsWritesItsBytes, stcWritesItsBytes, stcmWritesItsBytes,
    fun f p k s iss t w l acts clear may alone slot => ⟨_, withIssue_of acts.issue _, Form.perform_done acts clear ?_⟩⟩
  rw [localStore_goes (s := { s with issue := none }) may alone]
  simp only [slot]

/-! ### What a store leaves alone (R238) -/

theorem ofWords_length (ws : List Word) : (ofWords ws).length = 4 * ws.length := by
  induction ws with
  | nil => rfl
  | cons w ws ih =>
    have four : (wordBytes w).length = 4 := rfl
    simp only [ofWords, List.length_append, List.length_cons, ih, four]
    omega

/-- The group of a width has room for its bytes. -/
theorem bytes_le_cnt (f : M2) : f.bytes ≤ 4 * f.cnt := by
  unfold M2.bytes M2.cnt
  split
  case isTrue narrow => exact Nat.pow_le_pow_right two_pos narrow
  case isFalse wide =>
    obtain ⟨k, width⟩ : ∃ k, f.width.toNat = k + 2 := ⟨f.width.toNat - 2, by omega⟩
    rw [width, Nat.pow_add, Nat.add_sub_cancel, Nat.mul_comm]

theorem storeBytes_length (f : M2) (c : Ctx) : (f.storeBytes c).length = f.bytes := by
  simp [M2.storeBytes, ofWords_length, bytes_le_cnt]

/-- The team once `bs` are written at `a` of its scratchpad. -/
def Team.writesScratch (t : Team) (a : Nat) (bs : List Byte) : Team :=
  { t with scratch := Memory.writeBytes t.scratch a (t.mask a bs)
           scratchBad := t.scratchBad.filter fun g => !(a ≤ g && g + 32 ≤ a + bs.length) }

theorem State.writeScratch_team? {s : State} {t : Team} {tm : Nat} (found : s.team? tm = some t) (a : Nat) (bs : List Byte) :
    (s.writeScratch tm a bs).team? tm = some (t.writesScratch a bs) :=
  State.team?_updTeam_self found _ fun _ => rfl

section
variable {t : Team} (hm : Memory.wf t.scratch = true) (a : Nat) (bs : List Byte)
include hm

theorem Team.writesScratch_read : (t.writesScratch a bs).readScratch a bs.length = bs := by
  have written := Memory.readBytes_writeBytes hm a (t.mask a bs)
  rw [Team.mask_length] at written
  calc (t.writesScratch a bs).readScratch a bs.length
      = t.mask a (Memory.readBytes (Memory.writeBytes t.scratch a (t.mask a bs)) a bs.length) := rfl
    _ = bs := by rw [written, Team.mask_mask]

theorem Team.writesScratch_frame {x : Nat} (apart : x < a ∨ a + bs.length ≤ x) :
    (t.writesScratch a bs).readScratch x 1 = t.readScratch x 1 := by
  have same : Memory.read (t.writesScratch a bs).scratch x = Memory.read t.scratch x :=
    (Memory.read_writeBytes _ hm a x).trans (if_neg (by rw [Team.mask_length]; omega))
  calc (t.writesScratch a bs).readScratch x 1 = t.mask x [Memory.read (t.writesScratch a bs).scratch x] := rfl
    _ = t.readScratch x 1 := by rw [same]; rfl

end

theorem Team.readScratch_of_data {t t' : Team} (h : t'.data = t.data) (a n : Nat) : t'.readScratch a n = t.readScratch a n :=
  have reads (t : Team) : t.readScratch a n = t.data.readScratch a n := rfl
  (reads t').trans ((congrArg (Team.readScratch · a n) h).trans (reads t).symm)

theorem scratchStoresFrame : ScratchStoresFrame := by
  intro f s iss t w l acts clear may alone hm c
  obtain ⟨s', run, data⟩ := stsWritesItsBytes f s iss t w l acts clear ⟨may, alone⟩
  have found : ({ s with issue := none } : State).team? t.id = some t := acts.team_id ▸ acts.team
  obtain ⟨t', found', same⟩ := State.team?_of_data data (State.writeScratch_team? found (f.addr32 c) (f.storeBytes c))
  have reads (a n : Nat) := Team.readScratch_of_data same a n
  have written := Team.writesScratch_read hm (f.addr32 c) (f.storeBytes c)
  rw [storeBytes_length] at written
  have mem := congrArg State.mem data
  have stores := congrArg State.stores data
  have loads := congrArg State.loads data
  refine ⟨s', run, mem, stores, loads, t', found', (reads ..).trans written, fun a apart => ?_⟩
  rw [reads]
  exact Team.writesScratch_frame hm _ _ (by rwa [storeBytes_length])

/-- Settles O37: the gates that an access passes (`State.memGate_open`, `localStore_goes`), then what each load binds and
each store writes, and a scratchpad after a write (`Team.writesScratch_read`, `Team.writesScratch_frame`). -/
theorem scratchpadAccessesKeepTheirBytes : Obligations.ScratchpadAccessesKeepTheirBytes :=
  ⟨localLoadsReadTheirBytes, localStoresWriteTheirBytes, scratchStoresFrame⟩

end Sys2Proof.Machine

namespace Sys2Proof.Machine

/-! ### The words on a resource (R248 to R254) -/

section
variable {a : BitVec 7} {s : State} {k : Ctx} (may : lodMay a s k) (note : Bool) (missing : State → State × LaneRes)
  (go : State → Resource → State × LaneRes)
include may

theorem State.lodWord_unusable (unusable : lodUnusable a s k) :
    s.lodWord k (lodA k.iss a) note missing go = missing (lodDesc a s k).1 := by
  obtain ⟨canon, settled⟩ := may
  have desc : s.readDesc k (k.pair (lodA k.iss a)) = ((lodDesc a s k).1, .missing) := Prod.ext rfl unusable
  simp only [State.lodWord, canon, settled, desc, Bool.not_true, Bool.false_eq_true, if_false]

theorem State.lodWord_usable {r : Resource} (usable : (lodDesc a s k).2 = .ok r) :
    s.lodWord k (lodA k.iss a) note missing go = go (if note then lodAfter a s k else (lodDesc a s k).1) r := by
  obtain ⟨canon, settled⟩ := may
  have desc : s.readDesc k (k.pair (lodA k.iss a)) = ((lodDesc a s k).1, .ok r) := Prod.ext rfl usable
  simp only [State.lodWord, canon, settled, desc, Bool.not_true, Bool.false_eq_true, if_false]
  rfl

end

section
variable {i : Instr} {d a c : BitVec 7} {tags : List Tag} {wf : Bool} {act : Issue → State → Ctx → State × LaneRes}
  {cond : State → Ctx → Prop}

/-- A level-of-detail word whose action is done with the effect `eff`. That its lanes go in order does not touch its checks. -/
theorem effects_of_lod {results : Option (BitVec 7 × Nat)} {eff : Ctx → State → State}
    (run : ∀ s, exec i s = withIssue s fun iss =>
      ({ lodForm a c tags results iss with wf := wf, inOrder := true } : Form).perform iss (descCheck (lodA iss a)) (act iss))
    (whole : wf = true) (done : ∀ s k, lodMay a s k → cond s k → act k.iss s k = (eff k s, .done)) :
    Effects i (lodForm a c tags results) (fun iss => descCheck (lodA iss a)) (fun s k => lodMay a s k ∧ cond s k) eff := by
  subst whole
  intro s iss t w l acts clear ⟨may, met⟩
  exact ⟨_, (run s).trans (withIssue_of acts.issue _), Form.perform_done acts clear
    (done { s with issue := none } ⟨t, w, l, iss⟩ may met)⟩

/-- A level-of-detail word whose action binds the results of `out`. -/
theorem lodWrites_of {n : Nat} {out : Ctx → State → State × List (Word × Tag)}
    (run : ∀ s, exec i s = withIssue s fun iss =>
      ({ lodForm a c tags (some (d, n)) iss with wf := wf, inOrder := true } : Form).perform iss (descCheck (lodA iss a))
        (act iss))
    (whole : wf = true)
    (binds : ∀ s k, lodMay a s k → cond s k → act k.iss s k = (out k s).1.lodBind k (lodD k.iss d n) (out k s).2) :
    LodWrites i d a c n tags cond out := by
  refine fun length => effects_of_lod run whole fun s k may met => ?_
  rw [binds s k may met, State.lodBind, lodBound, length]

end

/-! ### LDL (R250) -/

theorem ldlReadsTheFinestResidentLevel : LdlReadsTheFinestResidentLevel := by
  refine fun d a c => ⟨lodWrites_of (fun _ => rfl) rfl fun s k may unusable => ?_, fun r =>
    ⟨lodWrites_of (fun _ => rfl) rfl fun s k may ⟨usable, outside⟩ => ?_, fun v st =>
      lodWrites_of (fun _ => rfl) rfl fun s k may ⟨usable, inX, inY, served⟩ => ?_⟩⟩
  · simp only [State.lodWord_unusable may _ _ _ unusable]
    rfl
  · simp only [State.lodWord_usable may _ _ _ usable, if_true]
    exact if_pos outside
  · have served' : ldlServed r c k (lodAfter a s k) = ((ldlServed r c k (lodAfter a s k)).1, .ok (v, st)) :=
      Prod.ext rfl served
    simp only [State.lodWord_usable may _ _ _ usable, if_true]
    rw [if_neg (by simp only [lodXY] at inX inY; omega)]
    change (match ldlServed r c k (lodAfter a s k) with
      | (s, .ok (v, st)) => s.lodBind k (lodD k.iss d 2) [texelReg r (v.texels.getD 0 (0, false)), (st, .stat)]
      | (s, .missing) => s.lodBind k (lodD k.iss d 2) [(0, .raw), (statNone, .stat)]
      | (s, .again w) => (s, .stay w)) = _
    rw [served']

/-! ### SMPL and GATH4 (R251, R252) -/

/-- SMPL's value as the word computes it. -/
theorem smplValue_eq (c : BitVec 7) (filt : BitVec 2) (k : Ctx) (r : Resource) (v : Served) :
    smplValue c filt k r v =
      if v.none || !smplBil filt r then texelReg r (if v.none then (0, false) else v.texels.getD 0 (0, false))
      else if v.texels.any (·.2) then (0, .poison)
      else (bilinear (v.texels.map (·.1)) (scaleBil (k.rd (lodC k.iss c (some [.f32])) 0) (r.w v.level)).2
        (scaleBil (k.rd (lodC k.iss c (some [.f32])) 1) (r.h v.level)).2, r.etag) := by
  cases none : v.none
  case true => simp [smplValue, none, texelReg]
  case false => cases bil : smplBil filt r <;> simp [smplValue, none, bil]

theorem samplersReadTheirFootprint : SamplersReadTheirFootprint := by
  refine fun d a c => ⟨fun filt whole => ⟨lodWrites_of (fun _ => rfl) whole fun s k may unusable => ?_, fun r v st border =>
    lodWrites_of (fun _ => rfl) whole fun s k may ⟨usable, served⟩ => ?_⟩,
    lodWrites_of (fun _ => rfl) rfl fun s k may unusable => ?_, fun r v st border four =>
    lodWrites_of (fun _ => rfl) rfl fun s k may ⟨usable, served⟩ => ?_⟩
  · simp only [State.lodWord_unusable may _ _ _ unusable]
    rfl
  · have sampled : (lodAfter a s k).sample k r (lodC k.iss c (some [.f32])) (smplBil filt r) =
        ((smplServed a c (smplBil filt r) r s k).1, .ok (v, st, border)) := Prod.ext rfl served
    rw [smplBil] at sampled
    simp only [State.lodWord_usable may _ _ _ usable, if_true, sampled, smplValue_eq]
    rfl
  · simp only [State.lodWord_unusable may _ _ _ unusable]
    rfl
  · have sampled : (lodAfter a s k).sample k r (lodC k.iss c (some [.f32])) true =
        ((smplServed a c true r s k).1, .ok (v, st, border)) := Prod.ext rfl served
    simp only [State.lodWord_usable may _ _ _ usable, if_true, sampled]

/-! ### RESQ and FBCK (R253, R254) -/

/-- RESQ's answer inside level 0. -/
theorem resqFields (r : Resource) (missed : Bool) (finest : Nat) :
    b2n missed 12 + (r.tail * 2 ^ 8 + r.levels * 2 ^ 4) + finest =
      (if missed then 0x1000 else 0) + r.tail * 256 + r.levels * 16 + finest := by
  cases missed <;> simp only [b2n, if_true, if_false, Bool.false_eq_true] <;> omega

theorem residencyAndFeedbackWords : ResidencyAndFeedbackWords := by
  refine fun d a c => ⟨⟨effects_of_lod (fun _ => rfl) rfl fun s k may unusable => ?_, fun r =>
    ⟨effects_of_lod (fun _ => rfl) rfl fun s k may ⟨usable, outside⟩ => ?_, fun finest missed =>
      effects_of_lod (fun _ => rfl) rfl fun s k may ⟨usable, inX, inY, map⟩ => ?_⟩⟩,
    effects_of_lod (fun _ => rfl) rfl fun s k may unusable => ?_, fun r =>
    ⟨effects_of_lod (fun _ => rfl) rfl fun s k may ⟨usable, idle⟩ => ?_,
      effects_of_lod (fun _ => rfl) rfl fun s k may ⟨usable, logs, inX, inY⟩ => ?_⟩⟩
  · exact State.lodWord_unusable may _ _ _ unusable
  · simp only [lodXY] at outside
    have fields : 2 ^ 13 + (r.tail * 2 ^ 8 + r.levels * 2 ^ 4) + r.tail = 0x2000 + r.tail * 256 + r.levels * 16 + r.tail := by omega
    simp only [State.lodWord_usable may _ _ _ usable]
    rw [if_pos outside, fields]
    rfl
  · have read : (lodDesc a s k).1.readMap k r (lodXY c k 0) (lodXY c k 1) =
        (((lodDesc a s k).1.readMap k r (lodXY c k 0) (lodXY c k 1)).1, .ok (finest, missed)) := Prod.ext rfl map
    simp only [lodXY] at inX inY read
    simp only [State.lodWord_usable may _ _ _ usable]
    rw [if_neg (by omega)]
    simp only [Bool.false_eq_true, if_false]
    rw [read, ← resqFields]
    rfl
  · exact State.lodWord_unusable may _ _ _ unusable
  · simp only [State.lodWord_usable may _ _ _ usable]
    simp only [lodXY] at idle
    exact if_pos (by simpa using idle)
  · simp only [State.lodWord_usable may _ _ _ usable]
    simp only [lodXY] at inX inY
    rw [if_neg (by simp [logs]; omega)]
    rfl

/-! ### Serving (R225) -/

/-- One more texel of a level is read, unless one before it has stopped the reading. -/
def nextTexel (c : Ctx) (tacq : Nat) (r : Resource) (l : Nat) (done : State × LodRes (List (Word × Bool)))
    (t : Option (Nat × Nat)) : State × LodRes (List (Word × Bool)) :=
  match done.2, t with
  | .ok ws, none => (done.1, .ok (ws ++ [(r.border, false)]))
  | .ok ws, some (x, y) =>
    match done.1.lodRead c tacq (r.elem l x y) 4 with
    | (s, .ok (bs, bad)) => (s, .ok (ws ++ [(BitVec.ofNat 32 (leNat bs), bad)]))
    | (s, .missing) => (s, .missing)
    | (s, .again w) => (s, .again w)
  | stop, _ => (done.1, stop)

theorem State.readTexels_eq (s : State) (c : Ctx) (tacq : Nat) (r : Resource) (l : Nat) (ts : List (Option (Nat × Nat))) :
    s.readTexels c tacq r l ts = ts.foldl (nextTexel c tacq r l) (s, .ok []) := rfl

section
variable {c : Ctx} {tacq : Nat} {r : Resource} {foot : Nat → List (Option (Nat × Nat))}

theorem nextTexel_ok {l : Nat} {done : State × LodRes (List (Word × Bool))} {t : Option (Nat × Nat)} {s : State}
    {ws : List (Word × Bool)} (h : nextTexel c tacq r l done t = (s, .ok ws)) :
    ∃ before, done.2 = .ok before ∧ ws.length = before.length + 1 := by
  obtain ⟨s0, stop⟩ := done
  cases stop with
  | ok before =>
    refine ⟨before, rfl, ?_⟩
    cases t with
    | none =>
      cases h
      exact List.length_append
    | some xy =>
      simp only [nextTexel] at h
      split at h <;> cases h
      exact List.length_append
  | missing => cases t <;> cases h
  | again w => cases t <;> cases h

theorem foldl_nextTexel_ok {l : Nat} (ts : List (Option (Nat × Nat))) {done : State × LodRes (List (Word × Bool))} {s : State}
    {ws : List (Word × Bool)} (h : ts.foldl (nextTexel c tacq r l) done = (s, .ok ws)) :
    ∃ before, done.2 = .ok before ∧ ws.length = before.length + ts.length := by
  induction ts generalizing done with
  | nil => exact ⟨ws, congrArg Prod.snd h, rfl⟩
  | cons t ts ih =>
    obtain ⟨mid, is, rest⟩ := ih h
    obtain ⟨before, first, one⟩ := nextTexel_ok (Prod.ext rfl is)
    exact ⟨before, first, by rw [rest, one, List.length_cons]; omega⟩

/-- A level that is read whole gives one word for each texel. -/
theorem State.readTexels_length {s s' : State} {l : Nat} {ts : List (Option (Nat × Nat))} {ws : List (Word × Bool)}
    (h : s.readTexels c tacq r l ts = (s', .ok ws)) : ws.length = ts.length := by
  obtain ⟨before, first, length⟩ := foldl_nextTexel_ok ts h
  cases first
  simpa using length

theorem triedFrom_succ (l : Nat) (s : State) (n : Nat) : triedFrom c tacq r foot l s (n + 1) =
    triedFrom c tacq r foot (l + 1) (s.readTexels c tacq r l (foot l)).1 n := by
  induction n with
  | zero => rfl
  | succ n ih => rw [triedFrom, ih, triedFrom, Nat.add_right_comm l 1 n, Nat.add_assoc l n 1]

theorem triedAt_self (l : Nat) (s : State) : triedAt c tacq r foot l s l = s.readTexels c tacq r l (foot l) := by
  rw [triedAt, Nat.sub_self, triedFrom]

theorem triedAt_above {l k : Nat} (s : State) (above : l < k) : triedAt c tacq r foot l s k =
    triedAt c tacq r foot (l + 1) (s.readTexels c tacq r l (foot l)).1 k := by
  have steps : k - l = k - (l + 1) + 1 := by omega
  rw [triedAt, steps, triedFrom_succ, triedAt]

/-- `v` is what serving from level `l` on gives, `stale` where a finer level has been missing before. -/
structure ServedFrom (c : Ctx) (tacq : Nat) (r : Resource) (foot : Nat → List (Option (Nat × Nat))) (l : Nat) (stale : Bool)
    (s s' : State) (v : Served) : Prop where
  from_ : l ≤ v.level
  upTo : v.level ≤ max l r.tail
  stale : v.stale = true ↔ stale = true ∨ l < v.level
  length : v.texels.length = (foot v.level).length
  missed : ∀ k, l ≤ k → k < v.level → (triedAt c tacq r foot l s k).2 = .missing
  found : v.none = false → (v.tailu = true ↔ r.tail ≤ v.level) ∧ triedAt c tacq r foot l s v.level = (s', .ok v.texels)
  nothing : v.none = true → v.tailu = true ∧ (∀ x ∈ v.texels, x = (0, false)) ∧ r.tail ≤ v.level ∧
    triedAt c tacq r foot l s v.level = (s', .missing)

/-- A level that is missing hands on to the next one. -/
theorem ServedFrom.above {l : Nat} {stale : Bool} {s s1 s' : State} {v : Served}
    (missing : s.readTexels c tacq r l (foot l) = (s1, .missing)) (finer : l < r.tail)
    (rest : ServedFrom c tacq r foot (l + 1) true s1 s' v) : ServedFrom c tacq r foot l stale s s' v where
  from_ := by have := rest.from_; omega
  upTo := by have := rest.upTo; omega
  stale := by have := rest.from_; simp [rest.stale]; omega
  length := rest.length
  missed k low high := by
    rcases Nat.eq_or_lt_of_le low with rfl | above
    · rw [triedAt_self, missing]
    · rw [triedAt_above s above, missing]
      exact rest.missed k above high
  found some := by
    rw [triedAt_above s rest.from_, missing]
    exact rest.found some
  nothing none := by
    rw [triedAt_above s rest.from_, missing]
    exact rest.nothing none

theorem State.serve_served (fuel : Nat) {l : Nat} {stale : Bool} {s s' : State} {v : Served} (room : max l r.tail < l + fuel)
    (h : State.serve c tacq r foot fuel l stale s = (s', .ok v)) : ServedFrom c tacq r foot l stale s s' v := by
  induction fuel generalizing l stale s with
  | zero => omega
  | succ fuel ih =>
    rw [State.serve] at h
    split at h
    · next s1 ws whole =>
      cases h
      exact ⟨Nat.le_refl _, Nat.le_max_left _ _, by simp, State.readTexels_length whole,
        fun k low high => absurd (Nat.lt_of_le_of_lt low high) (Nat.lt_irrefl _),
        fun _ => ⟨by simp, (triedAt_self l s).trans whole⟩, nofun⟩
    · cases h
    · next s1 missing =>
      split at h
      · next coarse =>
        cases h
        exact ⟨Nat.le_refl _, Nat.le_max_left _ _, by simp [nothingServed], by simp [nothingServed],
          fun k low high => absurd (Nat.lt_of_le_of_lt low high) (Nat.lt_irrefl _), nofun,
          fun _ => ⟨rfl, fun x hx => List.eq_of_mem_replicate hx, coarse, (triedAt_self l s).trans missing⟩⟩
      · next finer => exact (ih (by omega) h).above missing (Nat.lt_of_not_le finer)

end

theorem levelsAreTriedUpToTheFirstResidentOne : LevelsAreTriedUpToTheFirstResidentOne := by
  intro c tacq r foot fuel l s s' v room served
  obtain ⟨from_, upTo, stale, length, missed, found, nothing⟩ := State.serve_served fuel room served
  refine ⟨from_, upTo, by simpa using stale, length, missed, found, fun none => ?_⟩
  obtain ⟨tailu, zeros, coarse, tried⟩ := nothing none
  exact ⟨tailu, zeros, by omega, tried⟩

/-! ### Fallbacks that are logged (R224 to R228) -/

theorem fallbacksAreLogged : FallbacksAreLogged := by
  intro c r foot w x y s s' v st tail served
  rw [State.lodServe] at served
  split at served
  · cases served
  · cases served
  next s1 f missed map =>
  split at served
  · cases served
  · cases served
  next s2 v' tried =>
  have up := (State.serve_served 16 (by omega) tried).from_
  by_cases coarser : v'.level > w ∧ r.log = true
  case pos =>
    have logs : (decide (v'.level > w) && r.log) = true := by simpa using coarser
    simp only [logs, if_true, Prod.mk.injEq, LodRes.ok.injEq] at served
    obtain ⟨rfl, rfl, rfl⟩ := served
    exact ⟨s1, s2, f, missed, map, tried, le_trans (le_max_left _ _) up,
      fun same => by obtain ⟨above, logs⟩ := coarser; rcases same with same | same <;> simp_all, fun _ _ => ⟨rfl, rfl⟩⟩
  case neg =>
    have quiet : (decide (v'.level > w) && r.log) = false := by simpa using coarser
    simp only [quiet, Bool.false_eq_true, if_false, Prod.mk.injEq, LodRes.ok.injEq] at served
    obtain ⟨rfl, rfl, rfl⟩ := served
    refine ⟨s1, s2, f, missed, map, tried, le_trans (le_max_left _ _) up, fun _ => ⟨rfl, rfl⟩, fun other logs => ?_⟩
    exact absurd ⟨Nat.lt_of_le_of_ne (le_trans (le_max_left _ _) up) (Ne.symm other), logs⟩ coarser

/-! ### The ring (R226 to R228) -/

theorem filter_any_iff {s : State} {c : Ctx} {r : Resource} {w : Want} :
    (!r.nofilt && (s.core c.iss.cl c.iss.co).filter.any fun e =>
      e.resid == r.resid && e.lvl == w.lvl && e.px == w.px && e.py == w.py) = true ↔ wantKnown s c r w := by
  simp [wantKnown, and_assoc]

@[simp] theorem State.hitStore_stores (s : State) (o : StoreOp) (bs : List Byte) : (s.hitStore o bs).stores = s.stores := rfl

/-- What a want does to a ring whose header's words are `q`. -/
def State.enterWant (s : State) (c : Ctx) (r : Resource) (w : Want) (q : Nat → Nat) : State × Bool × Bool :=
  let slots := 2 ^ (q 2 % 2 ^ 5)
  let prod := q 0 % 2 ^ 32
  if slots ≤ (prod + 2 ^ 32 - q 1 % 2 ^ 32) % 2 ^ 32 then (s.ringOverflow c r.ring (q 3), false, true)
  else match s.ringWrite c r.ring (leBytes (prod + 1) 4) with
  | (s, none) => (s, false, true)
  | (s, some g) =>
    let entry := leBytes (2 ^ 63 + w.py % 4096 * 2 ^ 48 + w.px % 4096 * 2 ^ 36 + w.lvl * 2 ^ 32 + r.resid) 8
      ++ leBytes s.time 8
    let va := (q 4 + 16 * (prod % slots)) % 2 ^ 64
    match s.ringXlat c va with
    | (s, none) => (s.ringOverflow c r.ring (q 3), false, true)
    | (s, some x) =>
      let s := s.ringEntry c va x entry g
      let e : FiltEntry := { resid := r.resid, lvl := w.lvl, px := w.px, py := w.py, time := s.time }
      (if r.nofilt then s else s.updCore c.iss.cl c.iss.co fun k =>
        { k with filter := (k.filter ++ [e]).drop (k.filter.length + 1 - 64) }, true, false)

section
variable {s s1 : State} {c : Ctx} {r : Resource} {w : Want}

theorem State.logWant_enters {bs : List Byte} (unknown : ¬ wantKnown s c r w) (read : s.ringRead c r.ring = (s1, some bs))
    (formed : ringFormed (fun i => leNat ((bs.drop (8 * i)).take 8)) = true) :
    s.logWant c r w = s1.enterWant c r w fun i => leNat ((bs.drop (8 * i)).take 8) := by
  rw [State.logWant, if_neg (mt filter_any_iff.1 unknown)]
  simp only [read]
  exact if_neg (by simpa using formed)

theorem State.enterWant_stores {q : Nat → Nat} {s2 s3 : State} {g : Nat} {x : Xlat}
    (room : (q 0 % 2 ^ 32 + 2 ^ 32 - q 1 % 2 ^ 32) % 2 ^ 32 < 2 ^ (q 2 % 2 ^ 5))
    (wrote : s1.ringWrite c r.ring (leBytes (q 0 % 2 ^ 32 + 1) 4) = (s2, some g))
    (xl : s2.ringXlat c ((q 4 + 16 * (q 0 % 2 ^ 32 % 2 ^ (q 2 % 2 ^ 5))) % 2 ^ 64) = (s3, some x)) :
    (s1.enterWant c r w q).2 = (true, false) ∧ ∃ o : StoreOp, (s1.enterWant c r w q).1.stores = s3.stores ++ [o] ∧
      o.va = (q 4 + 16 * (q 0 % 2 ^ 32 % 2 ^ (q 2 % 2 ^ 5))) % 2 ^ 64 ∧ o.xl = x ∧ o.notBefore = g ∧
      o.op = .store (leBytes (2 ^ 63 + w.py % 4096 * 2 ^ 48 + w.px % 4096 * 2 ^ 36 + w.lvl * 2 ^ 32 + r.resid) 8
        ++ leBytes s2.time 8) := by
  have enters : s1.enterWant c r w q = _ := if_neg (Nat.not_le_of_lt room)
  simp only [wrote, xl] at enters
  rw [enters]
  refine ⟨rfl, ?_⟩
  cases r.nofilt <;> exact ⟨_, rfl, rfl, rfl, rfl, rfl⟩

end

theorem wantsEnterTheRing : WantsEnterTheRing := by
  intro s c r w
  refine ⟨fun known => ?_, fun unknown s1 absent => ?_, ?_⟩
  · rw [State.logWant, if_pos (filter_any_iff.2 known)]
  · rw [State.logWant, if_neg (mt filter_any_iff.1 unknown)]
    simp only [absent]
  · intro unknown s1 bs read q used va formed
    have enters := State.logWant_enters unknown read formed
    refine ⟨fun full => enters.trans (if_pos full), fun room s2 g s3 x wrote xl => ?_⟩
    rw [enters]
    exact State.enterWant_stores room wrote xl

theorem servingFallsBackToAResidentLevel : ServingFallsBackToAResidentLevel :=
  ⟨levelsAreTriedUpToTheFirstResidentOne, fallbacksAreLogged, wantsEnterTheRing⟩

/-- Settles O39: the descriptor that the words share (`State.lodWord_usable`), the levels that serving tries in turn
(`State.serve_served`), and what a want does to the ring (`wantsEnterTheRing`). -/
theorem textureWordsReadWhatIsResident : Obligations.TextureWordsReadWhatIsResident :=
  ⟨ldlReadsTheFinestResidentLevel, servingFallsBackToAResidentLevel, samplersReadTheirFootprint, residencyAndFeedbackWords⟩

end Sys2Proof.Machine

namespace Sys2Proof.Machine

/-! ### The windows and the filter (R213, R228, R362, R403) -/

theorem exec_pageRequestPop {s : State} : exec .pageRequestPop s = .next (if s.start.safe then s else match s.requests with
    | [] => s
    | r :: rest => { s with requests := rest, ptime := r.time }) := rfl

theorem exec_healthLogPop {s : State} : exec .healthLogPop s = .next (if s.start.safe then s else match s.health.log with
    | [] => s
    | e :: rest => { s with health := { s.health with log := rest, info := e.2 } }) := rfl

theorem exec_oasisInvalidateAll {s : State} (works : s.start.safe = false) :
    exec .oasisInvalidateAll s = .next (s.oasisCommand (2 ^ 12)) := by
  have run : exec .oasisInvalidateAll s = execOasisInvalidateAll s := rfl
  rw [run, execOasisInvalidateAll, works]
  rfl

/-- A domain has twelve bits. -/
theorem bits_domain {v : Nat} (low : v < 4096) : bits v 0 12 = v := Nat.mod_eq_of_lt low

theorem exec_oasisInvalidateDomain {s : State} (works : s.start.safe = false) (low : s.target.value < 4096) :
    exec .oasisInvalidateDomain s = .next (s.oasisCommand s.target.value) := by
  have run : exec .oasisInvalidateDomain s = execOasisInvalidateDomain s := rfl
  rw [run, execOasisInvalidateDomain, works, bits_domain low]
  rfl

theorem State.mem_oasisCommand (s : State) (v : Nat) (e : OasisEntry) :
    e ∈ (s.oasisCommand v).oasis.entries ↔ e ∈ s.oasis.entries ∧ bitAt v 12 = false ∧ e.dom ≠ bits v 0 12 := by
  simp [State.oasisCommand, Oasis.invalidate]

theorem windowsPopAndInvalidate : WindowsPopAndInvalidate := by
  refine ⟨fun r rest s ⟨works, queue⟩ => ?_, fun s idle => ?_, fun e rest s ⟨works, log⟩ => ?_, fun s idle => ?_,
    fun s works => ⟨_, exec_oasisInvalidateAll works, ?_, rfl, rfl⟩,
    fun s ⟨works, low⟩ => ⟨_, exec_oasisInvalidateDomain works low, fun e => ?_, rfl⟩,
    fun s ⟨hcl, hco⟩ => ⟨_, rfl, State.core_updCore_of_lt hcl hco _, rfl⟩⟩
  · rw [exec_pageRequestPop, works, queue]
    rfl
  · rw [exec_pageRequestPop]
    rcases idle with safe | empty
    · rw [safe]
      rfl
    · rw [empty, ite_self]
      rfl
  · rw [exec_healthLogPop, works, log]
    rfl
  · rw [exec_healthLogPop]
    rcases idle with safe | empty
    · rw [safe]
      rfl
    · rw [empty, ite_self]
      rfl
  · refine List.eq_nil_iff_forall_not_mem.2 fun e kept => ?_
    have all : bitAt (2 ^ 12) 12 = true := by decide
    obtain ⟨-, off, -⟩ := (s.mem_oasisCommand _ e).1 kept
    exact nomatch all.symm.trans off
  · have domain : bitAt s.target.value 12 = false := by
      rw [bitAt, Nat.shiftRight_eq_div_pow, Nat.div_eq_of_lt low]
      rfl
    rw [s.mem_oasisCommand, bits_domain low]
    simp [domain]

/-! ### Correctable errors (R400) -/

/-- The count of a unit is dropped. -/
def State.uncounted (s : State) (u : HwUnit) : State :=
  { s with health := { s.health with counts := s.health.counts.filter fun x => x.1 != u } }

section
variable {s : State} {u : HwUnit} (is : HwUnit.counted s.target.unit = u) (fresh : u ∉ s.health.disabled)
  {c : Nat × Nat} (next : nextCount s.health.window s.time (s.errors u) = c)
include is fresh next

/-- An error below the threshold is counted. -/
theorem correctableError_counts (few : c.1 < s.health.thresh) : exec .correctableError s =
    .next { s with health := { s.health with counts := (u, c) :: s.health.counts.filter fun x => x.1 != u } } := by
  have run : exec .correctableError s = execCorrectableError s := rfl
  subst is next
  simp only [run, execCorrectableError]
  rw [if_neg (by simpa using fresh)]
  exact congrArg _ (if_neg (Nat.not_le_of_lt few))

/-- The error that reaches the threshold retires its unit. -/
theorem correctableError_retires (many : s.health.thresh ≤ c.1) : exec .correctableError s =
    .next (((s.uncounted u).logUnit u).disable u) := by
  have run : exec .correctableError s = execCorrectableError s := rfl
  subst is next
  simp only [run, execCorrectableError]
  rw [if_neg (by simpa using fresh)]
  exact congrArg _ (if_pos many)

end

theorem State.errors_counted (s : State) (u : HwUnit) (c : Nat × Nat) (rest : List (HwUnit × Nat × Nat)) :
    State.errors { s with health := { s.health with counts := (u, c) :: rest } } u = some c := by
  simp [State.errors]

theorem nextCount_first {window now : Nat} {old : Option (Nat × Nat)}
    (past : ∀ n t, old = some (n, t) → t + window * 1000000 ≤ now) : nextCount window now old = (1, now) := by
  rcases old with _ | ⟨n, t⟩
  · rfl
  · exact if_neg (Nat.not_lt_of_le (past n t rfl))

theorem nextCount_within {window now n t : Nat} (within : now < t + window * 1000000) :
    nextCount window now (some (n, t)) = (n + 1, t) := if_pos within

/-! #### Units that go out of use -/

/-- The health log takes an entry for the unit while it has room; nothing else that the unit's retirement reads changes. -/
theorem State.logUnit_eq (s : State) (u : HwUnit) : ∃ entry info, s.logUnit u = s.logHealth entry info := by
  cases u <;> exact ⟨_, _, rfl⟩

theorem State.logUnit_keeps (s : State) (u : HwUnit) : (s.logUnit u).health.disabled = s.health.disabled ∧
    (s.logUnit u).mem = s.mem ∧ (s.logUnit u).ports = s.ports ∧ (s.logUnit u).inrush = s.inrush ∧
    (s.logUnit u).peers = s.peers ∧ (s.logUnit u).timer = s.timer := by
  obtain ⟨entry, info, log⟩ := s.logUnit_eq u
  rw [log, State.logHealth]
  split <;> exact ⟨rfl, rfl, rfl, rfl, rfl, rfl⟩

theorem State.logUnit_log {s : State} (room : s.health.log.length < 4096) (u : HwUnit) :
    (s.logUnit u).health.log.length = s.health.log.length + 1 := by
  obtain ⟨entry, info, log⟩ := s.logUnit_eq u
  rw [log, State.logHealth, if_neg (Nat.not_le_of_lt room)]
  simp

/-! #### Ports and routes (R401) -/

/-- Peers that leave lock keep all but the copies of their lines. -/
theorem losePeers_eq (chips : List Nat) (s : State) :
    (chips.foldl State.losePeer s).mem = s.mem ∧ (chips.foldl State.losePeer s).health = s.health ∧
    (chips.foldl State.losePeer s).ports = s.ports ∧ (chips.foldl State.losePeer s).inrush = s.inrush ∧
    (chips.foldl State.losePeer s).peers =
      (s.peers.map fun p => if chips.contains p.chip then { p with locked := false } else p) ∧
    (chips.foldl State.losePeer s).timer = { s.timer with
      lossUntil := if chips = [] then s.timer.lossUntil else max s.timer.lossUntil (s.time + 64020) } := by
  induction chips generalizing s with
  | nil => simp
  | cons chip chips ih =>
    obtain ⟨mem, health, ports, inrush, peers, timer⟩ := ih (s.losePeer chip)
    refine ⟨mem, health, ports, inrush, peers.trans ?_, timer.trans ?_⟩
    · simp only [State.losePeer, State.dropCopies, List.map_map]
      refine List.map_congr_left fun p _ => ?_
      by_cases this : p.chip = chip <;> by_cases other : chips.contains p.chip = true <;> simp_all
    · simp only [State.losePeer, State.dropCopies, State.time]
      split <;> simp

theorem State.postWake_port (s : State) (n : Nat) : ∃ q, s.postWake (.port n) = { s with inrush := q } ∧
    ((s.ports.getD n {}).powered = false → s.inrush.length < 16 → .port n ∈ q) := by
  simp only [State.postWake]
  split
  · next on => exact ⟨s.inrush, rfl, fun off => absurd (on.symm.trans off) (by simp)⟩
  · split
    · next queued => exact ⟨s.inrush, rfl, fun _ room => by
        rcases queued with there | full
        · simpa using there
        · omega⟩
    · exact ⟨_, rfl, fun _ _ => by simp⟩

/-- The routing tables after a change of the ports: what a peer's entry comes to. -/
theorem State.reroute_eq (s : State) : s.reroute.mem = s.mem ∧ s.reroute.health = s.health ∧ s.reroute.ports = s.ports ∧
    s.reroute.inrush = s.inrush ∧ s.reroute.peers.map (·.chip) = s.peers.map (·.chip) ∧
    (∀ x ∈ s.reroute.peers, x.routed = s.reaches x ∧ (x.routed = false → x.locked = false)) ∧
    s.reroute.timer = { s.timer with
      lossUntil := if (s.peers.any fun p => p.locked && !s.reaches p) then max s.timer.lossUntil (s.time + 64020)
        else s.timer.lossUntil } := by
  obtain ⟨mem, health, ports, inrush, peers, timer⟩ := losePeers_eq ((s.peers.filter fun p => p.locked && !s.reaches p).map (·.chip))
    { s with peers := s.peers.map fun p => { p with routed := s.reaches p } }
  refine ⟨mem, health, ports, inrush, ?_, fun x hx => ?_, timer.trans ?_⟩
  · rw [State.reroute, peers, List.map_map, List.map_map]
    refine List.map_congr_left fun p _ => ?_
    simp only [Function.comp_apply]
    split <;> rfl
  · rw [State.reroute, peers, List.map_map] at hx
    obtain ⟨p, hp, rfl⟩ := List.mem_map.1 hx
    simp only [Function.comp_apply]
    split
    · exact ⟨rfl, fun _ => rfl⟩
    · next kept =>
      refine ⟨rfl, fun cut => ?_⟩
      refine Bool.eq_false_iff.2 fun locked => kept ?_
      exact List.contains_iff_mem.2 (List.mem_map.2 ⟨p, List.mem_filter.2 ⟨hp, by simp [show s.reaches p = false from cut,
        show p.locked = true from locked]⟩, rfl⟩)
  · have cut : (s.peers.filter fun p => p.locked && !s.reaches p).map (·.chip) = [] ↔
        (s.peers.any fun p => p.locked && !s.reaches p) = false := by simp
    by_cases lost : (s.peers.any fun p => p.locked && !s.reaches p) = true
    · simp only [lost, if_true, mt cut.1 (by simp [lost]), if_false]
    · simp only [lost, cut.2 (by simpa using lost), if_true, if_false, Bool.false_eq_true]

/-- A port after one of its lanes has dropped. -/
def LinkPort.narrowed (x : LinkPort) : LinkPort :=
  { x with lanes := if 8 ≤ x.lanes then 4 else if 4 ≤ x.lanes then 2 else 0 }

/-- The ports after a lane of port `p` has dropped, with the port's wake posted and the routes drawn anew. -/
def State.narrow (s : State) (p : Nat) : State :=
  (({ s with ports := updAt s.ports p LinkPort.narrowed } : State).postWake (.port p)).reroute

theorem State.dropLane_eq (s : State) (p : Nat) : s.dropLane p =
    if (s.narrow p).ports.all fun x => x.lanes == 0 then
      { (s.narrow p).loseLock with peers := (s.narrow p).loseLock.peers.map fun x => { x with locked := false, routed := false } }
    else s.narrow p := rfl

theorem State.loseLock_keeps (s : State) : s.loseLock.mem = s.mem ∧ s.loseLock.health = s.health ∧ s.loseLock.ports = s.ports ∧
    s.loseLock.inrush = s.inrush ∧ s.loseLock.peers = s.peers ∧ s.loseLock.timer.lock = false := by
  unfold State.loseLock
  split
  · exact ⟨rfl, rfl, rfl, rfl, rfl, rfl⟩
  · next off => exact ⟨rfl, rfl, rfl, rfl, rfl, by simpa using off⟩

/-- What a lane's drop leaves of port `p`, of the peers and of the timer (log 54 for a chip whose every port is down). -/
structure LaneDropped (s s' : State) (p : Nat) : Prop where
  mem : s'.mem = s.mem
  ports : s'.ports = updAt s.ports p LinkPort.narrowed
  wakes : (s.ports.getD p {}).powered = false → s.inrush.length < 16 → .port p ∈ s'.inrush
  chips : s'.peers.map (·.chip) = s.peers.map (·.chip)
  routes : ∀ x ∈ s'.peers, (x.routed = true ↔ s'.reaches x = true) ∧ (x.routed = false → x.locked = false)
  timer : if ∀ x ∈ s'.ports, x.lanes = 0 then s'.timer.lock = false
    else s'.timer = { s.timer with
      lossUntil := if (s.peers.any fun x => x.locked && !s'.reaches x) then max s.timer.lossUntil (s.time + 64020)
        else s.timer.lossUntil }

theorem State.narrow_eq (s : State) (p : Nat) : (s.narrow p).mem = s.mem ∧ (s.narrow p).health = s.health ∧
    (s.narrow p).ports = updAt s.ports p LinkPort.narrowed ∧
    ((s.ports.getD p {}).powered = false → s.inrush.length < 16 → .port p ∈ (s.narrow p).inrush) ∧
    (s.narrow p).peers.map (·.chip) = s.peers.map (·.chip) ∧
    (∀ x ∈ (s.narrow p).peers, x.routed = (s.narrow p).reaches x ∧ (x.routed = false → x.locked = false)) ∧
    (s.narrow p).timer = { s.timer with
      lossUntil := if (s.peers.any fun x => x.locked && !(s.narrow p).reaches x) then max s.timer.lossUntil (s.time + 64020)
        else s.timer.lossUntil } := by
  obtain ⟨q, wake, queued⟩ := State.postWake_port { s with ports := updAt s.ports p LinkPort.narrowed } p
  obtain ⟨mem, health, ports, inrush, chips, routes, timer⟩ :=
    State.reroute_eq { s with ports := updAt s.ports p LinkPort.narrowed, inrush := q }
  have narrow : s.narrow p = State.reroute { s with ports := updAt s.ports p LinkPort.narrowed, inrush := q } :=
    congrArg State.reroute wake
  have reaches (x : Peer) : (s.narrow p).reaches x =
      State.reaches { s with ports := updAt s.ports p LinkPort.narrowed, inrush := q } x := by
    simp only [State.reaches, narrow, ports]
  simp only [reaches]
  rw [narrow]
  refine ⟨mem, health, ports, fun off room => ?_, chips, routes, timer⟩
  rw [inrush]
  refine queued ?_ room
  simp only [updAt_getD]
  split
  · exact off
  · exact off

/-- Without a lane left, no route reaches a chip. -/
theorem State.reaches_of_down {s : State} (down : ∀ x ∈ s.ports, x.lanes = 0) (p : Peer) : s.reaches p = false := by
  refine List.any_eq_false.2 fun k _ => ?_
  cases port : s.ports[k]? with
  | none => simp
  | some x => simp [LinkPort.up, down x (List.mem_of_getElem? port)]

theorem State.dropLane_health (s : State) (p : Nat) : (s.dropLane p).health = s.health := by
  obtain ⟨-, health, -⟩ := s.narrow_eq p
  rw [State.dropLane_eq]
  split
  · obtain ⟨-, health', -⟩ := (s.narrow p).loseLock_keeps
    exact health'.trans health
  · exact health

theorem State.dropLane_dropped (s : State) (p : Nat) : LaneDropped s (s.dropLane p) p := by
  obtain ⟨mem, -, ports, wakes, chips, routes, timer⟩ := s.narrow_eq p
  rw [State.dropLane_eq]
  split
  · next down =>
    obtain ⟨mem', -, ports', inrush', peers', lock⟩ := (s.narrow p).loseLock_keeps
    have none : ∀ x ∈ (s.narrow p).loseLock.ports, x.lanes = 0 := fun x hx => by
      simpa using List.all_eq_true.1 down x (ports' ▸ hx)
    refine ⟨mem'.trans mem, ports'.trans ports, fun off room => inrush' ▸ wakes off room, ?_, fun x hx => ?_,
      (if_pos none).mpr lock⟩
    · simp only [List.map_map, peers', ← chips]
      rfl
    · obtain ⟨y, -, rfl⟩ := List.mem_map.1 hx
      exact ⟨⟨nofun, fun reached => nomatch (State.reaches_of_down none y).symm.trans reached⟩, fun _ => rfl⟩
  · next up =>
    refine ⟨mem, ports, wakes, chips, fun x hx => ?_, ?_⟩
    · obtain ⟨routed, cut⟩ := routes x hx
      exact ⟨by rw [routed], cut⟩
    · rw [if_neg (by simpa using up)]
      exact timer

/-- A unit other than a core that goes out of use touches neither memory nor the rest of the health window. -/
theorem State.disable_keeps {u : HwUnit} (other : ∀ cl co, u ≠ .core cl co) (s : State) :
    (s.disable u).health = { s.health with disabled := u :: s.health.disabled } ∧ (s.disable u).mem = s.mem := by
  cases u with
  | core cl co => exact absurd rfl (other cl co)
  | lane p l => exact ⟨State.dropLane_health _ _, (State.dropLane_dropped _ _).mem⟩
  | slice n => exact ⟨rfl, rfl⟩
  | frame pa => exact ⟨rfl, rfl⟩
  | oasisWay w => exact ⟨rfl, rfl⟩
  | tileSlot cl n => exact ⟨rfl, rfl⟩

theorem exec_linkLaneDrop {s : State} {p : BitVec 2} {l : BitVec 3} (port : s.target.id = p.toNat)
    (lane : s.target.value = l.toNat) (fresh : HwUnit.lane p l ∉ s.health.disabled) :
    exec .linkLaneDrop s = .next ((s.logUnit (.lane p l)).disable (.lane p l)) := by
  have run : exec .linkLaneDrop s = execLinkLaneDrop s := rfl
  simp only [run, execLinkLaneDrop, port, lane, BitVec.ofNat_toNat, BitVec.setWidth_eq]
  rw [if_neg (by simpa using fresh)]

/-- A lane's drop, with its entry in the health log made before. -/
theorem State.disable_lane (s : State) (p : BitVec 2) (l : BitVec 3) :
    LaneDropped s ((s.logUnit (.lane p l)).disable (.lane p l)) p.toNat := by
  obtain ⟨-, mem, ports, inrush, peers, timer⟩ := s.logUnit_keeps (.lane p l)
  have drops : LaneDropped _ ((s.logUnit (.lane p l)).disable (.lane p l)) p.toNat := State.dropLane_dropped _ _
  obtain ⟨mem', ports', wakes, chips, routes, timer'⟩ := drops
  simp only [mem, ports, inrush, peers, timer, State.time] at mem' ports' wakes chips timer'
  exact ⟨mem', ports', wakes, chips, routes, timer'⟩

/-! ### Soft errors (R320, R340, R359, R458) -/

theorem exec_softError {s : State} {e : ErrSite} (site : s.target.site = e) : exec .softError s = .next (s.strike e) := by
  subst site
  rfl

theorem softError_granule (pa : Nat) : Leaves .softError (fun s => s.target.site = .granule pa ∧ pa < s.moduleBytes)
    fun s s' => s'.mem = s.mem ∧ ∀ g, g ∈ s'.badGranules ↔ g = pa / 32 * 32 ∨ g ∈ s.badGranules := by
  intro s ⟨site, inside⟩
  refine ⟨_, exec_softError site, ?_⟩
  simp only [State.strike]
  split
  · next known =>
    have there : pa / 32 * 32 ∈ s.badGranules := by
      have low : ¬ s.moduleBytes ≤ pa / 32 * 32 := by omega
      simpa [low] using known
    exact ⟨rfl, fun g => ⟨.inr, fun h => h.elim (· ▸ there) id⟩⟩
  · exact ⟨rfl, fun g => List.mem_cons⟩

theorem softError_scratch (tm a : Nat) (t : Team) : Leaves .softError
    (fun s => s.target.site = .scratch tm a ∧ s.team? tm = some t ∧ a < t.prog.scratch)
    fun s s' => s'.mem = s.mem ∧ ∃ t', s'.team? tm = some t' ∧ t'.scratch = t.scratch ∧ t'.warps = t.warps ∧
      ∀ g, g ∈ t'.scratchBad ↔ g = a / 32 * 32 ∨ g ∈ t.scratchBad := by
  intro s ⟨site, found, inside⟩
  refine ⟨_, exec_softError site, rfl, _, State.team?_updTeam_self found _ fun t => ?_, ?_⟩
  · split <;> rfl
  · rw [if_pos inside]
    refine ⟨rfl, rfl, fun g => ?_⟩
    by_cases same : g = a / 32 * 32 <;> simp [same]

theorem softError_oasis (set way : Nat) : Leaves .softError (fun s => s.target.site = .oasis set way)
    fun s s' => s'.mem = s.mem ∧ ∀ e, e ∈ s'.oasis.entries ↔ e ∈ s.oasis.entries ∧ ¬ (e.set = set ∧ e.way = way) := by
  intro s site
  refine ⟨_, exec_softError site, rfl, fun e => ?_⟩
  simp [State.strike, -Bool.not_and]

theorem softError_tile (tm n : Nat) (t : Team) : Leaves .softError
    (fun s => s.target.site = .tile tm n ∧ s.team? tm = some t ∧ n < 32 ∧ n % 8 < t.prog.acc)
    fun s s' => s'.mem = s.mem ∧ ∃ t', s'.team? tm = some t' ∧ t' = t.updTile n fun x => { x with bad := true } := by
  intro s ⟨site, found, low, declared⟩
  refine ⟨_, exec_softError site, rfl, _, State.team?_updTeam_self found _ fun t => ?_, ?_⟩
  · split <;> rfl
  · exact if_pos (by simp [low, declared])

theorem softError_plane (tm n : Nat) (t : Team) : Leaves .softError
    (fun s => s.target.site = .plane tm n ∧ s.team? tm = some t ∧ n < 16 ∧ n % 4 < t.prog.planes)
    fun s s' => s'.mem = s.mem ∧ ∃ t', s'.team? tm = some t' ∧ t' = t.updPlane n fun x => { x with bad := true } := by
  intro s ⟨site, found, low, declared⟩
  refine ⟨_, exec_softError site, rfl, _, State.team?_updTeam_self found _ fun t => ?_, ?_⟩
  · split <;> rfl
  · exact if_pos (by simp [low, declared])

theorem errorsAreCountedAndUnitsRetired : ErrorsAreCountedAndUnitsRetired := by
  refine ⟨fun s ⟨fresh, above, past⟩ => ?_, fun n t s ⟨fresh, count, within, few⟩ => ?_,
    fun n t s ⟨fresh, count, within, many, room, other⟩ => ?_, fun cl co n t s ⟨fresh, core, count, within, many⟩ => ?_,
    fun p l s ⟨port, lane, fresh, there⟩ => ?_, softError_granule, softError_scratch, softError_oasis, softError_tile,
    softError_plane, fun s _ => rfl⟩
  · exact ⟨_, correctableError_counts rfl fresh (nextCount_first past) above, s.errors_counted _ _ _, rfl, rfl, rfl⟩
  · have next := (congrArg (nextCount s.health.window s.time) count).trans (nextCount_within within)
    exact ⟨_, correctableError_counts rfl fresh next few, s.errors_counted _ _ _, rfl, rfl, rfl⟩
  · have next := (congrArg (nextCount s.health.window s.time) count).trans (nextCount_within within)
    refine ⟨_, correctableError_retires rfl fresh next many, ?_⟩
    obtain ⟨health, mem⟩ :=
      State.disable_keeps other ((s.uncounted (HwUnit.counted s.target.unit)).logUnit (HwUnit.counted s.target.unit))
    obtain ⟨disabled, mem', -⟩ :=
      (s.uncounted (HwUnit.counted s.target.unit)).logUnit_keeps (HwUnit.counted s.target.unit)
    refine ⟨?_, ?_, mem.trans mem'⟩
    · rw [health, disabled]
      rfl
    · rw [health]
      exact State.logUnit_log (s := s.uncounted (HwUnit.counted s.target.unit)) room _
  · have unit : HwUnit.counted s.target.unit = .core cl co := by rw [core]; rfl
    have next := (congrArg (nextCount s.health.window s.time) count).trans (nextCount_within within)
    exact correctableError_retires unit (unit ▸ fresh) next many
  · obtain ⟨mem, ports, wakes, chips, routes, timer⟩ := s.disable_lane p l
    obtain ⟨health, -⟩ := State.disable_keeps (u := .lane p l) nofun (s.logUnit (.lane p l))
    refine ⟨_, exec_linkLaneDrop port lane fresh, ?_, ?_, fun k other => ?_, wakes, chips, routes, timer, mem⟩
    · rw [health]
      exact List.mem_cons_self
    · rw [ports, updAt_getD, if_pos ⟨rfl, there⟩]
      rfl
    · rw [ports, updAt_getElem?, if_neg (Ne.symm other)]

/-! ### The host and the peers (R205, R273, R294, R400) -/

theorem State.writeHome_own (s : State) (pa : Nat) (bs : List Byte) :
    (s.writeHome { home := .own, pa := pa } bs).timer = s.timer ∧
    ∀ g, g ∈ (s.writeHome { home := .own, pa := pa } bs).badGranules ↔ g ∈ s.badGranules ∧ ¬ (pa ≤ g ∧ g + 32 ≤ pa + bs.length) := by
  refine ⟨rfl, fun g => ?_⟩
  simp [State.writeHome, State.touchWatch, -Bool.not_and]

theorem storedBytes_of_mem {s s' : State} {k : Nat} {bs : List Byte} (hm : Memory.wf s.mem = true)
    (mem : s'.mem = Memory.writeBytes s.mem k bs) : StoredBytes s s' k bs := by
  constructor
  · intro i hi
    rw [mem, Memory.read_writeBytes bs hm, if_pos (by omega), Nat.add_sub_cancel_left]
  · intro a apart
    rw [mem, Memory.read_writeBytes bs hm, if_neg (by omega)]

/-- A write from outside that the chip takes. -/
theorem outsideWrite_stores {i : Instr} {due : State → Prop}
    (run : ∀ s, due s → s.target.addr + s.target.data.length ≤ s.moduleBytes →
      exec i s = .next (s.writeHome { home := .own, pa := s.target.addr } s.target.data)) :
    Leaves i (fun s => due s ∧ s.target.addr + s.target.data.length ≤ s.moduleBytes ∧ s.MemOk)
      fun s s' => StoredBytes s s' s.target.addr s.target.data ∧ s'.teams = s.teams ∧ s'.timer = s.timer ∧
        ∀ g, g ∈ s'.badGranules ↔ g ∈ s.badGranules ∧ ¬ (s.target.addr ≤ g ∧ g + 32 ≤ s.target.addr + s.target.data.length) := by
  intro s ⟨meets, inside, hm, _⟩
  obtain ⟨timer, bad⟩ := s.writeHome_own s.target.addr s.target.data
  exact ⟨_, run s meets inside, storedBytes_of_mem hm (s.writeHome_mem _ _), s.writeHome_teams _ _, timer, bad⟩

theorem exec_hostWindowWrite {s : State} : exec .hostWindowWrite s =
    .next (if !s.start.safe && s.target.addr + s.target.data.length ≤ s.moduleBytes
      then s.writeHome { home := .own, pa := s.target.addr } s.target.data else s) := rfl

/-- The access names a peer that a route reaches. -/
def State.peerRouted (s : State) : Prop := ∃ p ∈ s.peers, p.chip = s.target.id ∧ p.routed = true

theorem State.peerRouted_iff (s : State) : s.peerRouted ↔ (s.peers.any fun p => p.chip == s.target.id && p.routed) = true := by
  simp [State.peerRouted]

theorem exec_peerAccess_write {s : State} (write : s.target.isRead = false) (works : s.start.safe = false) (routed : s.peerRouted)
    (inside : s.target.addr + s.target.data.length ≤ s.moduleBytes) :
    exec .peerAccess s = .next (s.writeHome { home := .own, pa := s.target.addr } s.target.data) := by
  have run : exec .peerAccess s = execPeerAccess s := rfl
  simp only [run, execPeerAccess, works, s.peerRouted_iff.1 routed, write, inside, Bool.not_true, Bool.or_false,
    Bool.false_eq_true, if_false, if_true]

theorem exec_peerAccess_read {s : State} (read : s.target.isRead = true) (works : s.start.safe = false) (routed : s.peerRouted)
    (lock : s.timer.lock = true) (inside : s.target.addr < s.moduleBytes)
    (locked : ∃ p ∈ s.peers, p.chip = s.target.id ∧ p.locked = true) :
    exec .peerAccess s = .next (s.raiseMark s.target.addr (s.time + leaseNs (s.target.value % 4))) := by
  have run : exec .peerAccess s = execPeerAccess s := rfl
  have both : (s.peers.any fun p => p.chip == s.target.id && p.locked) = true := by simpa using locked
  simp only [run, execPeerAccess, works, s.peerRouted_iff.1 routed, read, lock, both, inside, decide_true, Bool.not_true,
    Bool.or_false, Bool.and_true, Bool.false_eq_true, if_false, if_true]

theorem exec_peerAccess_idle {s : State} (idle : s.start.safe = true ∨ ¬ s.peerRouted) : exec .peerAccess s = .next s := by
  have run : exec .peerAccess s = execPeerAccess s := rfl
  rw [run, execPeerAccess]
  refine congrArg _ (if_pos ?_)
  rcases idle with safe | unrouted
  · simp [safe]
  · have none : (s.peers.any fun p => p.chip == s.target.id && p.routed) = false := by simpa [State.peerRouted] using unrouted
    simp [none]

theorem State.raiseMark_watermark (s : State) (key t : Nat) :
    (s.raiseMark key t).watermark key = max t (s.watermark key) ∧
    ∀ k, k / 128 ≠ key / 128 → (s.raiseMark key t).watermark k = s.watermark k := by
  refine ⟨by simp [State.raiseMark, State.watermark], fun k other => ?_⟩
  have skip : (key / 128 == k / 128) = false := by simpa using Ne.symm other
  simp only [State.raiseMark, State.watermark, List.find?_cons, skip, List.find?_filter]
  congr 3
  funext w
  by_cases same : w.1 = k / 128 <;> simp [same, other]

theorem hostAndPeersReachMemory : HostAndPeersReachMemory := by
  refine ⟨outsideWrite_stores fun s works inside => ?_, fun s safe => ?_,
    outsideWrite_stores fun s ⟨write, works, routed⟩ inside => exec_peerAccess_write write works routed inside,
    fun s idle => exec_peerAccess_idle idle, fun s ⟨read, works, routed, lock, inside, locked⟩ => ?_, fun s locked => ?_,
    fun s unlocked => ?_⟩
  · rw [exec_hostWindowWrite, works]
    simp [inside]
  · rw [exec_hostWindowWrite, safe]
    rfl
  · obtain ⟨mark, others⟩ := s.raiseMark_watermark s.target.addr (s.time + leaseNs (s.target.value % 4))
    exact ⟨_, exec_peerAccess_read read works routed lock inside locked, mark, others, rfl⟩
  · have run : exec .peerLockLossNotice s = .next (s.losePeer s.target.id) :=
      congrArg _ (if_pos (by simpa using locked))
    refine ⟨_, run, fun x hx => ?_, fun p hp chip => ?_, rfl, rfl, rfl⟩
    · have out := (List.mem_filter.1 hx).2
      simp [Home.key] at out
      omega
    · obtain ⟨q, -, rfl⟩ := List.mem_map.1 hp
      by_cases lost : q.chip = s.target.id
      · simp [lost]
      · exact absurd chip (by simp [lost])
  · exact congrArg _ (if_neg (by simpa using unlocked))

/-- Settles O51: the windows (`windowsPopAndInvalidate`), errors counted and units retired, with the ports and routes that a
lane's drop leaves (`State.dropLane_dropped`), and what the host and the peers do to memory (`outsideWrite_stores`). -/
theorem windowsErrorsAndOutsidersAct : Obligations.WindowsErrorsAndOutsidersAct :=
  ⟨windowsPopAndInvalidate, errorsAreCountedAndUnitsRetired, hostAndPeersReachMemory⟩

end Sys2Proof.Machine

namespace Sys2Proof.Machine

/-! ### Stores by their number -/

theorem State.store?_id {s : State} {id : Nat} {o : StoreOp} (found : s.store? id = some o) : o.id = id := by
  simpa using List.find?_some found

theorem State.storeIs_self {s : State} {o : StoreOp} (here : s.storeIs o) : s.store? o.id = some o := by
  rw [State.store?_id here]
  exact here

theorem State.store?_setStore {s : State} {x o : StoreOp} (found : s.store? o.id = some x) : (s.setStore o).store? o.id = some o := by
  have named : ((·.id == o.id) ∘ fun x : StoreOp => if x.id == o.id then o else x) = fun x => x.id == o.id := by
    funext x
    simp only [Function.comp_apply]
    split <;> simp_all
  have found' : s.stores.find? (·.id == o.id) = some x := found
  simp only [State.store?, State.setStore, List.find?_map, named, found', Option.map_some, Option.some.injEq, ite_eq_left_iff]
  exact fun other => absurd (by simpa using List.find?_some found') other

theorem State.store?_dropStore (s : State) (id : Nat) : (s.dropStore id).store? id = none := by
  simp [State.store?, State.dropStore, List.find?_filter]

theorem State.mem_dropStore (s : State) (id : Nat) (x : StoreOp) : x ∈ (s.dropStore id).stores ↔ x ∈ s.stores ∧ x.id ≠ id := by
  simp [State.dropStore]

/-! ### What a translation leaves (R210) -/

/-- The state without its caches and their lease marks, all that a translation changes. -/
def State.apartCaches (s : State) : State := { s with clusters := [], watermarks := [] }

theorem State.translate_apartCaches (s : State) (cl co ctx : Nat) (priv : Bool) (a : Acc) (va : Nat) :
    (s.translate cl co ctx priv a va).1.apartCaches = s.apartCaches := by
  unfold State.translate
  split
  · rfl
  · simp only
    split
    next e _ => split_ifs <;> rfl
    next =>
      split
      next x base size range ls _ =>
        have marks (ends : List (Nat × Nat)) : (ends.foldl (fun s y => s.raiseMark y.1 y.2) s).apartCaches = s.apartCaches :=
          foldl_of_step State.apartCaches (fun s (y : Nat × Nat) => s.raiseMark y.1 y.2) (fun _ _ => rfl) ends s
        split_ifs <;> exact marks _
      all_goals rfl

/-- A translation that meets an absent unit leaves the state as it was. -/
theorem State.translate_absent {s s1 : State} {cl co ctx va b n w : Nat} {priv : Bool} {a : Acc}
    (absent : s.translate cl co ctx priv a va = (s1, .absent b n w)) : s1 = s := by
  unfold State.translate at absent
  split at absent
  · cases absent
  · simp only at absent
    split at absent
    next e _ => split_ifs at absent <;> cases absent
    next =>
      split at absent
      next x base size range ls _ => split_ifs at absent <;> cases absent
      all_goals cases absent
      rfl

/-! ### A store whose turn has come (R211, R217 to R219) -/

theorem exec_storeTranslated {s : State} {o : StoreOp} (here : s.storeIs o) (issued : o.st = .issued) :
    exec .storeTranslated s = .next (if s.storeTurn o then s.translateStore o else s) := by
  have run : exec .storeTranslated s = execStoreTranslated s := rfl
  have found : s.store? s.target.id = some o := here
  simp only [run, execStoreTranslated, found, State.translateStep, issued]

theorem exec_storeTranslated_turn {s : State} {o : StoreOp} (turn : s.storeIs o ∧ o.st = .issued ∧ s.storeTurn o = true) :
    exec .storeTranslated s = .next (s.translateStore o) := by
  obtain ⟨here, issued, turn⟩ := turn
  rw [exec_storeTranslated here issued, if_pos turn]

/-- What the store's translation meets. -/
def State.storeXlat (s : State) (o : StoreOp) : State × Trans :=
  s.translate o.cl o.co o.ctx (((s.team? o.team).map (·.priv)).getD false) .write o.va

section
variable {s s1 : State} {o : StoreOp}

theorem State.storeXlat_keeps {r : Trans} (meets : s.storeXlat o = (s1, r)) :
    s1.mem = s.mem ∧ s1.stores = s.stores ∧ s1.teams = s.teams := by
  have kept := s.translate_apartCaches o.cl o.co o.ctx (((s.team? o.team).map (·.priv)).getD false) .write o.va
  rw [← State.storeXlat, meets] at kept
  have mem := congrArg State.mem kept
  have stores := congrArg State.stores kept
  have teams := congrArg State.teams kept
  exact ⟨mem, stores, teams⟩

theorem State.translateStore_ok {x : Xlat} (free : s.heldUnit o = none) (meets : s.storeXlat o = (s1, .ok x))
    (writable : x.imm = false ∨ x.doorbell = true) :
    (s.translateStore o).mem = s.mem ∧
    (s.translateStore o).stores = (s.stores.filter fun y => y.id != o.id) ++ [{ o with xl := x, st := .translated }] := by
  obtain ⟨mem, stores, -⟩ := State.storeXlat_keeps meets
  rw [State.storeXlat] at meets
  have open_ : (x.imm && !x.doorbell) = false := by
    rcases writable with plain | doorbell
    · simp [plain]
    · simp [doorbell]
  simp only [State.translateStore, free, meets, open_, Bool.false_eq_true, if_false]
  rw [← mem, ← stores]
  split <;> exact ⟨rfl, rfl⟩

theorem State.translateStore_prot (free : s.heldUnit o = none)
    (meets : s.storeXlat o = (s1, .prot) ∨ ∃ x, s.storeXlat o = (s1, .ok x) ∧ x.imm = true ∧ x.doorbell = false) :
    s.translateStore o = s1.storeProtected o := by
  rw [State.storeXlat] at meets
  rcases meets with prot | ⟨x, ok, imm, plain⟩
  · simp only [State.translateStore, free, prot]
  · simp only [State.translateStore, free, ok, imm, plain, Bool.not_false, Bool.and_self, if_true]

theorem State.translateStore_absent {b n w : Nat} (free : s.heldUnit o = none) (meets : (s.storeXlat o).2 = .absent b n w) :
    s.translateStore o = s.holdStore o b n w := by
  have absent : s.storeXlat o = ((s.storeXlat o).1, .absent b n w) := Prod.ext rfl meets
  rw [State.translate_absent absent, State.storeXlat] at absent
  simp only [State.translateStore, free, absent]

theorem State.translateStore_held {b n w : Nat} (held : s.heldUnit o = some (b, n, some w)) :
    s.translateStore o = s.holdStore o b n w := by
  simp only [State.translateStore, held]

theorem State.storeProtected_recorded {t : Team} (first : s.earlierStore o = false) (found : s.team? o.team = some t)
    (room : t.sfq.length < 16) : s.storeProtected o =
      (s.updTeam o.team fun t => { t with sfq := t.sfq ++ [o.record] }).dropStore o.id := by
  have record : s.appendRecord o.team o.record = (s.updTeam o.team fun t => { t with sfq := t.sfq ++ [o.record] }, true) := by
    simp only [State.appendRecord, found]
    exact if_neg (Nat.not_le_of_lt room)
  simp only [State.storeProtected, first, record, Bool.false_eq_true, if_false]

theorem State.storeProtected_blocked (later : s.earlierStore o = true) :
    s.storeProtected o = s.setStore { o with st := .blocked } := if_pos later

end

/-! ### Held stores (R211, R459) -/

section
variable {s : State} {ctx va base size watch acc : Nat}

theorem State.joinFault_keeps (ws : List Waiter) : (s.joinFault ctx va base size watch acc ws).1.mem = s.mem ∧
    (s.joinFault ctx va base size watch acc ws).1.stores = s.stores ∧
    (s.joinFault ctx va base size watch acc ws).1.unlisted = s.unlisted := by
  unfold State.joinFault
  split
  · exact ⟨rfl, rfl, rfl⟩
  · split <;> exact ⟨rfl, rfl, rfl⟩

/-- With room in the table a waiter enters the entry of its unit. -/
theorem State.joinFault_enters (room : s.faultFull = false) (w : Waiter) :
    (s.joinFault ctx va base size watch acc [w]).2 = true ∧
    ∃ e ∈ (s.joinFault ctx va base size watch acc [w]).1.faults, e.ctx = ctx ∧ e.base = base ∧ e.size = size ∧
      w ∈ e.waiters := by
  unfold State.joinFault
  split
  · next e known =>
    have there := List.mem_of_find?_eq_some known
    have unit := List.find?_some known
    simp only [Bool.and_eq_true, beq_iff_eq] at unit
    obtain ⟨⟨ctx, base⟩, size⟩ := unit
    refine ⟨rfl, _, List.mem_map_of_mem there, ?_⟩
    rw [if_pos (beq_self_eq_true e.id)]
    refine ⟨ctx, base, size, ?_⟩
    by_cases waits : w ∈ e.waiters <;> simp [waits]
  · rw [room]
    exact ⟨rfl, _, List.mem_append_right _ (List.mem_singleton_self _), rfl, rfl, rfl, List.mem_singleton_self _⟩

theorem State.joinFault_full (full : s.faultFull = true) (unknown : s.faultOf ctx base size = none) (ws : List Waiter) :
    s.joinFault ctx va base size watch acc ws = (s, false) := by
  simp only [State.joinFault, unknown, full, if_true]

end

section
variable {s : State} {o : StoreOp}

theorem State.holdStore_keeps (here : s.storeIs o) (b n w : Nat) : (s.holdStore o b n w).mem = s.mem ∧
    (s.holdStore o b n w).store? o.id = some { o with st := .held, wasHeld := true } := by
  obtain ⟨mem, stores, -⟩ := s.joinFault_keeps (ctx := o.ctx) (va := o.va) (base := b) (size := n) (watch := w) (acc := 1)
    [.store o.id]
  have joined : (s.joinOrWait o.ctx o.va b n w 1 (.store o.id)).mem = s.mem ∧
      (s.joinOrWait o.ctx o.va b n w 1 (.store o.id)).stores = s.stores := by
    simp only [State.joinOrWait]
    split <;> exact ⟨mem, stores⟩
  refine ⟨joined.1, State.store?_setStore (x := o) (o := { o with st := .held, wasHeld := true }) ?_⟩
  rw [State.store?, joined.2]
  exact State.storeIs_self here

/-- A store held with room in the table stands in the entry of its unit. -/
theorem State.holdStore_listed (room : s.faultFull = false) (b n w : Nat) : ∃ e ∈ (s.holdStore o b n w).faults,
    e.ctx = o.ctx ∧ e.base = b ∧ e.size = n ∧ .store o.id ∈ e.waiters := by
  obtain ⟨listed, entry⟩ := State.joinFault_enters (ctx := o.ctx) (va := o.va) (base := b) (size := n) (watch := w) (acc := 1) room
    (.store o.id)
  have same : (s.holdStore o b n w).faults = (s.joinFault o.ctx o.va b n w 1 [.store o.id]).1.faults := by
    simp only [State.holdStore, State.setStore, State.joinOrWait, listed, if_true]
  rw [same]
  exact entry

/-- One held with the table full waits beside it. -/
theorem State.holdStore_unlisted {b n : Nat} (full : s.faultFull = true) (unknown : s.faultOf o.ctx b n = none) (w : Nat) :
    (.store o.id, o.ctx, o.va) ∈ (s.holdStore o b n w).unlisted := by
  simp [State.holdStore, State.setStore, State.joinOrWait, State.joinFault_full full unknown]

end

theorem storesAreTranslated : StoresAreTranslated := by
  unfold StoresAreTranslated
  intro turn due outcome prot held
  have protects {s : State} {o : StoreOp} (is : prot s o) : (outcome s o = ((outcome s o).1, .prot) ∨
      ∃ x, outcome s o = ((outcome s o).1, .ok x) ∧ x.imm = true ∧ x.doorbell = false) :=
    is.imp (Prod.ext rfl) fun ⟨x, ok, kind⟩ => ⟨x, Prod.ext rfl ok, kind⟩
  have holds {s : State} {o : StoreOp} (is : turn s o) (room : s.faultFull = false) (b n w : Nat) :
      held s (s.holdStore o b n w) o b n := by
    obtain ⟨mem, here⟩ := State.holdStore_keeps is.1 b n w
    exact ⟨mem, here, State.holdStore_listed room b n w⟩
  refine ⟨fun o x s ⟨⟨is, free⟩, ok, writable⟩ => ?_, fun o t s ⟨⟨is, free⟩, fails, first, found, room⟩ => ?_,
    fun o s ⟨⟨is, free⟩, fails, later⟩ => ?_,
    fun o b n w s ⟨⟨is, free⟩, absent, room⟩ => ⟨_, exec_storeTranslated_turn is,
      (State.translateStore_absent free absent).symm ▸ holds is room b n w⟩,
    fun o b n w s ⟨is, unit, room⟩ => ⟨_, exec_storeTranslated_turn is,
      (State.translateStore_held unit).symm ▸ holds is room b n w⟩,
    fun o b n w s ⟨⟨is, free⟩, absent, full, unknown⟩ => ⟨_, exec_storeTranslated_turn is, ?_⟩,
    fun o s ⟨here, issued, early⟩ => ?_⟩
  · obtain ⟨mem, stores⟩ := State.translateStore_ok free (Prod.ext rfl ok : s.storeXlat o = ((s.storeXlat o).1, .ok x)) writable
    refine ⟨_, exec_storeTranslated_turn is, mem, ?_, fun y hy other => ?_⟩
    · have none : (s.stores.filter fun y => y.id != o.id).find? (·.id == o.id) = none := s.store?_dropStore o.id
      rw [State.store?, stores, List.find?_append, none]
      simp
    · rw [stores]
      simp [hy, other]
  · obtain ⟨mem, stores, teams⟩ := State.storeXlat_keeps (s := s) (o := o) (s1 := (outcome s o).1) rfl
    have found' := (State.team?_of_teams teams o.team).trans found
    have first' : (outcome s o).1.earlierStore o = false :=
      (congrArg (fun st => State.earlierStore { s with stores := st } o) stores).trans first
    refine ⟨_, exec_storeTranslated_turn is, ?_⟩
    rw [State.translateStore_prot free (protects fails), State.storeProtected_recorded first' found' room]
    exact ⟨mem, State.store?_dropStore _ _, _, State.team?_updTeam_self found' _ fun _ => rfl, rfl, rfl⟩
  · obtain ⟨mem, stores, teams⟩ := State.storeXlat_keeps (s := s) (o := o) (s1 := (outcome s o).1) rfl
    have later' : (outcome s o).1.earlierStore o = true :=
      (congrArg (fun st => State.earlierStore { s with stores := st } o) stores).trans later
    refine ⟨_, exec_storeTranslated_turn is, ?_⟩
    rw [State.translateStore_prot free (protects fails), State.storeProtected_blocked later']
    refine ⟨mem, State.store?_setStore (x := o) (o := { o with st := .blocked }) ?_, teams⟩
    rw [State.store?, stores]
    exact State.storeIs_self is.1
  · rw [State.translateStore_absent free absent]
    obtain ⟨mem, here⟩ := State.holdStore_keeps is.1 b n w
    exact ⟨mem, here, State.holdStore_unlisted full unknown w⟩
  · rw [exec_storeTranslated here issued, early]
    rfl

end Sys2Proof.Machine

namespace Sys2Proof.Machine

/-! ### A 4 KiB part copied (R51) -/

namespace Memory

/-- What is left of a memory when the cells of some addresses are dropped. -/
theorem read_filter (q : Nat → Bool) {m : Memory} {lo : Nat} (hm : wfFrom lo m = true) (y : Nat) :
    read (m.filter fun x => q x.1) y = if q y then read m y else 0 := by
  induction m generalizing lo with
  | nil => simp [read]
  | cons c m ih =>
    obtain ⟨a, b⟩ := c
    obtain ⟨-, -, ht⟩ := wfFrom_tail hm
    rw [List.filter_cons]
    split
    · next kept =>
      simp only [read, ih ht]
      by_cases there : a = y
      · simp_all
      · split_ifs <;> rfl
    · next dropped =>
      rw [ih ht]
      simp only [read]
      by_cases there : a = y
      · simp_all
      · split_ifs with _ below
        · exact read_below ht (by omega)
        · rfl
        · rfl

/-- Cells from `src` on, written at the same distance from `dst`. -/
theorem read_moved {src dst : Nat} {cells : Memory} {lo : Nat} (hc : wfFrom lo cells = true) (from_ : ∀ x ∈ cells, src ≤ x.1)
    {m : Memory} (hm : wf m = true) (y : Nat) :
    read (cells.foldl (fun m x => m.write (dst + (x.1 - src)) x.2) m) y =
      if dst ≤ y ∧ read cells (src + (y - dst)) ≠ 0 then read cells (src + (y - dst)) else read m y := by
  induction cells generalizing lo m with
  | nil => simp [read]
  | cons c cells ih =>
    obtain ⟨a, b⟩ := c
    obtain ⟨-, hb, ht⟩ := wfFrom_tail hc
    have first : src ≤ a := from_ _ List.mem_cons_self
    rw [List.foldl_cons, ih ht (fun x hx => from_ x (List.mem_cons_of_mem _ hx)) (wf_write _ _ hm), read_write hm]
    by_cases above : dst ≤ y
    · by_cases here : a = src + (y - dst)
      · have past : read cells (src + (y - dst)) = 0 := read_below ht (by omega)
        have at_ : y = dst + (a - src) := by omega
        have head : read ((a, b) :: cells) (src + (y - dst)) = b := if_pos here
        rw [head, past, if_neg (by simp), if_pos at_, if_pos ⟨above, hb⟩]
      · have other : y ≠ dst + (a - src) := by omega
        have tail : read ((a, b) :: cells) (src + (y - dst)) = read cells (src + (y - dst)) := by
          simp only [read, if_neg here]
          split
          · exact (read_below ht (by omega)).symm
          · rfl
        simp only [tail, if_neg other]
    · have other : y ≠ dst + (a - src) := by omega
      simp only [above, false_and, if_false, if_neg other]

/-- A part copied stands at both places, and nothing else changes. -/
theorem read_copyPart {m : Memory} (hm : wf m = true) (src dst y : Nat) :
    read (copyPart m src dst) y = if dst ≤ y ∧ y < dst + 4096 then read m (src + (y - dst)) else read m y := by
  have source (z : Nat) : read (m.filter fun x => src ≤ x.1 && x.1 < src + 4096) z =
      if src ≤ z ∧ z < src + 4096 then read m z else 0 :=
    (read_filter (fun a => src ≤ a && a < src + 4096) hm z).trans (by simp)
  have rest (z : Nat) : read (m.filter fun x => !(dst ≤ x.1 && x.1 < dst + 4096)) z =
      if dst ≤ z ∧ z < dst + 4096 then 0 else read m z :=
    (read_filter (fun a => !(dst ≤ a && a < dst + 4096)) hm z).trans (by
      simp only [Bool.not_eq_true', ← Bool.not_eq_true, ite_not, Bool.and_eq_true, decide_eq_true_eq])
  have from_ (x : Host.Cell) (hx : x ∈ m.filter fun x => src ≤ x.1 && x.1 < src + 4096) : src ≤ x.1 := by
    simp at hx
    exact hx.2.1
  rw [copyPart, read_moved (wf_filter _ hm) from_ (wf_filter _ hm), source, rest]
  by_cases inside : dst ≤ y ∧ y < dst + 4096
  · rw [if_pos inside, if_pos (by omega : src ≤ src + (y - dst) ∧ src + (y - dst) < src + 4096)]
    split_ifs with some
    · rfl
    · simpa [inside.1, eq_comm] using some
  · rw [if_neg inside, if_neg fun moved => moved.2 (if_neg (by omega))]
    exact (if_neg inside).symm

end Memory

/-- One part copied to the page of the pool that stands for it, if there is one. -/
def Memory.copyInto (pool : List (Nat × Nat)) (m : Memory) (p : Nat × Nat) : Memory :=
  match pool.find? (·.1 == p.1) with
  | some q => Memory.copyPart m p.2 q.2
  | none => m

namespace Memory

theorem wf_copyInto {m : Memory} (hm : wf m = true) (pool : List (Nat × Nat)) (p : Nat × Nat) : wf (copyInto pool m p) = true := by
  unfold copyInto
  split
  · exact wf_copyPart _ _ hm
  · exact hm

theorem wf_copies {m : Memory} (hm : wf m = true) (pool parts : List (Nat × Nat)) : wf (parts.foldl (copyInto pool) m) = true := by
  induction parts generalizing m with
  | nil => exact hm
  | cons p parts ih => exact ih (wf_copyInto hm pool p)

/-- Copies into a pool change no byte outside its pages. -/
theorem read_copies_outside {m : Memory} (hm : wf m = true) {pool parts : List (Nat × Nat)} {a : Nat}
    (outside : ∀ p ∈ parts, ∀ q ∈ pool, q.1 = p.1 → a < q.2 ∨ q.2 + 4096 ≤ a) :
    read (parts.foldl (copyInto pool) m) a = read m a := by
  induction parts generalizing m with
  | nil => rfl
  | cons p parts ih =>
    rw [List.foldl_cons, ih (wf_copyInto hm pool p) fun x hx => outside x (List.mem_cons_of_mem _ hx)]
    unfold copyInto
    split
    · next q found =>
      have same : q.1 = p.1 := by simpa using List.find?_some found
      have apart := outside p List.mem_cons_self q (List.mem_of_find?_eq_some found) same
      rw [read_copyPart hm, if_neg (by omega)]
    · rfl

/-- A part that is copied into a pool apart from it stands in its page of the pool. -/
theorem read_copies {m : Memory} (hm : wf m = true) {pool parts : List (Nat × Nat)} (named : parts.Pairwise fun a b => a.1 ≠ b.1)
    (pages : (pool.map (·.1)).Nodup) (spread : pool.Pairwise fun a b => a.2 + 4096 ≤ b.2 ∨ b.2 + 4096 ≤ a.2)
    (apart : ∀ p ∈ parts, ∀ q ∈ pool, p.2 + 4096 ≤ q.2 ∨ q.2 + 4096 ≤ p.2) {p q : Nat × Nat} (hp : p ∈ parts) (hq : q ∈ pool)
    (same : q.1 = p.1) {i : Nat} (hi : i < 4096) : read (parts.foldl (copyInto pool) m) (q.2 + i) = read m (p.2 + i) := by
  obtain ⟨before, after, rfl⟩ := List.append_of_mem hp
  have found : pool.find? (·.1 == p.1) = some q := by
    cases first : pool.find? (·.1 == p.1) with
    | none => exact absurd (by simpa using same) (List.find?_eq_none.1 first q hq)
    | some x =>
      have key : x.1 = p.1 := by simpa using List.find?_some first
      rw [List.inj_on_of_nodup_map pages (List.mem_of_find?_eq_some first) hq (key.trans same.symm)]
  have other {x y : Nat × Nat} (hx : x ∈ pool) (hy : y ∈ pool) (ne : x.1 ≠ y.1) : x.2 + 4096 ≤ y.2 ∨ y.2 + 4096 ≤ x.2 :=
    have : Std.Symm fun a b : Nat × Nat => a.2 + 4096 ≤ b.2 ∨ b.2 + 4096 ≤ a.2 := ⟨fun _ _ => Or.symm⟩
    spread.forall hx hy fun e => ne (congrArg _ e)
  obtain ⟨-, rest, -⟩ := List.pairwise_append.1 named
  have later := (List.pairwise_cons.1 rest).1
  have hb := wf_copies hm pool before
  rw [List.foldl_append, List.foldl_cons, read_copies_outside (wf_copyInto hb pool p)]
  · simp only [copyInto, found]
    rw [read_copyPart hb, if_pos (by omega), Nat.add_sub_cancel_left, read_copies_outside hm]
    intro x hx y hy _
    have := apart p hp y hy
    omega
  · intro x hx y hy at_
    have := other hq hy fun e => later x hx (by rw [← same, e, at_])
    omega

end Memory

end Sys2Proof.Machine

namespace Sys2Proof.Machine

/-! ### The snapshot that a write makes due (R30, R51) -/

section
variable (s : State) (id : Nat)

theorem State.badAt_dropStore : (s.dropStore id).badAt = s.badAt := rfl
theorem State.mem64_dropStore : (s.dropStore id).mem64 = s.mem64 := rfl
theorem State.inModule_dropStore : (s.dropStore id).inModule = s.inModule := rfl
theorem c64Ok_dropStore : c64Ok (s.dropStore id) = c64Ok s := rfl
theorem xlatOf_dropStore : xlatOf (s.dropStore id) = xlatOf s := rfl

theorem tableWalk_dropStore (base off n : Nat) : tableWalk (s.dropStore id) base off n = tableWalk s base off n := by
  induction n with
  | zero => rfl
  | succ n ih =>
    funext table
    unfold tableWalk
    rw [ih, State.badAt_dropStore, State.mem64_dropStore, State.inModule_dropStore, c64Ok_dropStore, xlatOf_dropStore]

theorem entryWalk_dropStore (va k16 : Nat) : entryWalk (s.dropStore id) va k16 = entryWalk s va k16 := by
  have table : tableWalk (s.dropStore id) = tableWalk s := by
    funext base off n
    exact tableWalk_dropStore s id base off n
  funext key pa
  unfold entryWalk
  rw [table, State.badAt_dropStore, State.mem64_dropStore, xlatOf_dropStore]

theorem nodeWalk_dropStore (va k16 fuel : Nat) : nodeWalk (s.dropStore id) va k16 fuel = nodeWalk s va k16 fuel := by
  have bytes : (s.dropStore id).mem = s.mem := rfl
  induction fuel with
  | zero => rfl
  | succ fuel ih =>
    funext root node
    unfold nodeWalk
    rw [ih, entryWalk_dropStore, State.badAt_dropStore, State.mem64_dropStore, State.inModule_dropStore, bytes]

end

theorem State.parts_dropStore (s : State) (id root va : Nat) : (s.dropStore id).parts root va = s.parts root va := by
  simp only [State.parts, State.pageKey, walk, nodeWalk_dropStore]

theorem State.copyParts_dropStore (s : State) (id : Nat) (pool parts : List (Nat × Nat)) :
    (s.dropStore id).copyParts pool parts = (s.copyParts pool parts).dropStore id := by
  induction parts generalizing s with
  | nil => rfl
  | cons p parts ih =>
    simp only [State.copyParts, List.foldl_cons] at ih ⊢
    rw [← ih]
    congr 1
    split <;> rfl

theorem State.updContext_dropStore (s : State) (id ctx : Nat) (f : Context → Context) :
    (s.dropStore id).updContext ctx f = (s.updContext ctx f).dropStore id := by
  have same : (s.dropStore id).contexts = s.contexts := rfl
  unfold State.updContext
  rw [same]
  split <;> rfl

/-- What is due before a write does not depend on the stores. -/
theorem State.beforeWrite_dropStore (s : State) (id launch va : Nat) :
    (s.dropStore id).beforeWrite launch va = (s.beforeWrite launch va).dropStore id := by
  have claimed (l : Launch) : (s.dropStore id).poolPage l = s.poolPage l := by
    simp only [State.poolPage, State.parts_dropStore]
    rfl
  have same : (s.dropStore id).launch? launch = s.launch? launch := rfl
  have root (n : Nat) : (s.dropStore id).context n = s.context n := rfl
  unfold State.beforeWrite
  rw [same]
  split
  · rfl
  · simp only [claimed, State.parts_dropStore, State.copyParts_dropStore, State.updContext_dropStore, root]
    split
    · split
      · split <;> rfl
      · split <;> rfl
    · rfl

/-- The state without what a copy or a write at home changes besides memory: cached lines, granules in error, watches. -/
def State.apartHome (s : State) : State := { s with mem := [], sysCache := [], remote := [], badGranules := [], faults := [] }

/-- The state without what a snapshot changes: what copies change, the context's count of pages and the launch's snapshots. -/
def State.apartSnapshot (s : State) : State := { s.apartHome with contexts := [], launches := [] }

theorem State.copyParts_apartHome (s : State) (pool parts : List (Nat × Nat)) : (s.copyParts pool parts).apartHome = s.apartHome := by
  refine foldl_of_step State.apartHome _ (fun s p => ?_) parts s
  split <;> rfl

theorem State.copyParts_mem (s : State) (pool parts : List (Nat × Nat)) :
    (s.copyParts pool parts).mem = parts.foldl (Memory.copyInto pool) s.mem := by
  induction parts generalizing s with
  | nil => rfl
  | cons p parts ih =>
    simp only [State.copyParts, List.foldl_cons] at ih ⊢
    rw [ih]
    congr 1
    unfold Memory.copyInto
    cases pool.find? (·.1 == p.1) <;> rfl

/-- The parts of a page have each its own number. -/
theorem State.parts_named (s : State) (root va : Nat) : (s.parts root va).Pairwise fun a b => a.1 ≠ b.1 := by
  refine List.pairwise_filterMap.2 (List.nodup_range.imp fun {i j} other a ha b hb => ?_)
  simp only [Option.map_eq_some_iff] at ha hb
  obtain ⟨x, -, rfl⟩ := ha
  obtain ⟨y, -, rfl⟩ := hb
  exact other

/-- Parts copied into a pool, whatever else changes but memory. -/
theorem State.copied {s s' : State} (hm : Memory.wf s.mem = true) {pool parts : List (Nat × Nat)}
    (named : parts.Pairwise fun a b => a.1 ≠ b.1) (mem : s'.mem = (s.copyParts pool parts).mem) : Copied s s' pool parts := by
  rw [State.copyParts_mem] at mem
  constructor
  · intro a outside
    rw [mem, Memory.read_copies_outside hm outside]
  · intro pages spread apart p hp q hq same i hi
    rw [mem, Memory.read_copies hm named pages spread apart hp hq same hi]

theorem State.updContext_eq (s : State) (ctx : Nat) (f : Context → Context) :
    ∃ cs, s.updContext ctx f = { s with contexts := cs } := by
  unfold State.updContext
  split <;> exact ⟨_, rfl⟩

/-! #### The five ways of a first write -/

theorem Launch.inWset_iff (l : Launch) (va : Nat) :
    l.inWset va ↔ (l.wset.any fun r => r.1 ≤ bits va 16 41 && bits va 16 41 < r.1 + r.2) = true := by
  simp [Launch.inWset]

section
variable {s : State} {id va : Nat} {l : Launch}

theorem State.beforeWrite_apart (s : State) (id va : Nat) : (s.beforeWrite id va).apartSnapshot = s.apartSnapshot := by
  have copied (pool parts : List (Nat × Nat)) : (s.copyParts pool parts).apartSnapshot = s.apartSnapshot :=
    congrArg (fun s : State => { s with contexts := [], launches := [] }) (s.copyParts_apartHome pool parts)
  unfold State.beforeWrite
  split
  · rfl
  · simp only
    split
    · split
      · split
        · rfl
        · exact copied _ _
      · split
        · next slot pool _ =>
          obtain ⟨cs, set⟩ := State.updContext_eq _ _ _
          rw [set]
          exact copied _ _
        · rfl
    · rfl

theorem State.beforeWrite_keeps (s : State) (id va : Nat) :
    let s' := s.beforeWrite id va
    s'.teams = s.teams ∧ s'.loads = s.loads ∧ s'.stores = s.stores ∧ s'.queues = s.queues ∧ s'.commands = s.commands ∧
      s'.clusters = s.clusters := by
  have kept := s.beforeWrite_apart id va
  have teams := congrArg State.teams kept
  have loads := congrArg State.loads kept
  have stores := congrArg State.stores kept
  have queues := congrArg State.queues kept
  have commands := congrArg State.commands kept
  have clusters := congrArg State.clusters kept
  exact ⟨teams, loads, stores, queues, commands, clusters⟩

theorem State.beforeWrite_outside (found : s.launch? id = some l) (out : ¬ l.inWset va) :
    s.beforeWrite id va = s.updLaunch id fun l => { l with replayable := false } := by
  rw [Launch.inWset_iff] at out
  unfold State.beforeWrite
  simp only [found]
  exact if_neg out

theorem State.beforeWrite_full (found : s.launch? id = some l) (inside : l.inWset va)
    (first : l.snaps.find? (·.page == bits va 16 41) = none) (full : s.poolPage l = none) :
    s.beforeWrite id va = s.updLaunch id fun l => { l with replayable := false } := by
  rw [Launch.inWset_iff] at inside
  unfold State.beforeWrite
  simp only [found, inside, first, full, if_true]

theorem State.beforeWrite_again {n : Snap} (found : s.launch? id = some l) (inside : l.inWset va)
    (known : l.snaps.find? (·.page == bits va 16 41) = some n) (there : (n.parts.any (·.1 == bits va 12 4)) = true) :
    s.beforeWrite id va = s := by
  rw [Launch.inWset_iff] at inside
  unfold State.beforeWrite
  simp only [found, inside, known, there, if_true]

theorem State.beforeWrite_part {n : Snap} {new : List (Nat × Nat)} (found : s.launch? id = some l) (inside : l.inWset va)
    (known : l.snaps.find? (·.page == bits va 16 41) = some n) (absent : (n.parts.any (·.1 == bits va 12 4)) = false)
    (here : (s.parts (s.context l.ctx).root (pageVA (bits va 16 41))).filter (·.1 == bits va 12 4) = new) :
    s.beforeWrite id va = (s.copyParts n.pool new).updLaunch id fun l =>
      { l with snaps := l.snaps.map fun x => if x.page == bits va 16 41 then { x with parts := x.parts ++ new } else x } := by
  rw [Launch.inWset_iff] at inside
  unfold State.beforeWrite
  simp only [found, inside, known, absent, here, if_true, Bool.false_eq_true, if_false]

theorem State.beforeWrite_first {slot : Nat} {pool parts : List (Nat × Nat)} (found : s.launch? id = some l) (inside : l.inWset va)
    (first : l.snaps.find? (·.page == bits va 16 41) = none) (free : s.poolPage l = some (slot, pool))
    (here : s.parts (s.context l.ctx).root (pageVA (bits va 16 41)) = parts) :
    ∃ cs, s.beforeWrite id va = ({ s.copyParts pool parts with contexts := cs } : State).updLaunch id fun l => { l with
      snaps := l.snaps ++ [{ page := bits va 16 41, slot := slot, pool := pool, parts := parts }], poolTaken := l.poolTaken + 1 } := by
  rw [Launch.inWset_iff] at inside
  obtain ⟨cs, set⟩ := (s.copyParts pool parts).updContext_eq l.ctx fun c => { c with used := c.used + 1 }
  refine ⟨cs, ?_⟩
  unfold State.beforeWrite
  simp only [found, inside, first, free, here, set, if_true]

end

theorem snapshotsTakeThePage : SnapshotsTakeThePage := by
  intro s id va l found ⟨hm, _⟩ page s' parts stays
  have copied (pool parts : List (Nat × Nat)) : (s.copyParts pool parts).launches = s.launches := by
    have same := congrArg State.launches (s.copyParts_apartHome pool parts)
    exact same
  have named : parts.Pairwise fun a b => a.1 ≠ b.1 := s.parts_named _ _
  refine ⟨fun inside first slot pool free => ?_, fun inside n known absent => ?_,
    fun inside n known there => State.beforeWrite_again found inside known there,
    fun inside first full => State.beforeWrite_full found inside first full, fun out => State.beforeWrite_outside found out⟩
  · obtain ⟨cs, taken⟩ := State.beforeWrite_first found inside first free rfl
    have mem := congrArg State.mem taken
    refine ⟨State.copied hm named mem, (congrArg State.launches taken).trans ?_, s.beforeWrite_keeps id va⟩
    simp only [State.updLaunch, copied]
    rfl
  · have taken := State.beforeWrite_part found inside known absent rfl
    have mem := congrArg State.mem taken
    refine ⟨State.copied hm (named.filter _) mem, (congrArg State.launches taken).trans ?_, s.beforeWrite_keeps id va⟩
    simp only [State.updLaunch, copied]
    rfl

/-- No copy is due: the page is not in the write set, or the snapshot of its page has the part. -/
theorem State.beforeWrite_mem_of_taken {s : State} {id va : Nat} (taken : ∀ l, s.launch? id = some l →
      (∀ r ∈ l.wset, ¬ (r.1 ≤ bits va 16 41 ∧ bits va 16 41 < r.1 + r.2)) ∨
        ∃ n ∈ l.snaps, n.page = bits va 16 41 ∧ ∀ k ∈ l.snaps, k.page = n.page → k = n ∧ (n.parts.any (·.1 == bits va 12 4)) = true) :
    (s.beforeWrite id va).mem = s.mem := by
  cases found : s.launch? id with
  | none =>
    unfold State.beforeWrite
    rw [found]
  | some l =>
    by_cases inside : l.inWset va
    · obtain out | ⟨n, hn, page, only⟩ := taken l found
      · obtain ⟨r, hr, within⟩ := inside
        exact absurd within (out r hr)
      · have there := (only n hn rfl).2
        have known : l.snaps.find? (·.page == bits va 16 41) = some n := by
          cases first : l.snaps.find? (·.page == bits va 16 41) with
          | none => exact absurd (by simpa using page) (List.find?_eq_none.1 first n hn)
          | some k =>
            have key : k.page = bits va 16 41 := by simpa using List.find?_some first
            rw [(only k (List.mem_of_find?_eq_some first) (key.trans page.symm)).1]
        rw [State.beforeWrite_again found inside known there]
    · rw [State.beforeWrite_outside found inside]
      rfl

theorem State.wf_beforeWrite {s : State} (hm : Memory.wf s.mem = true) (id va : Nat) :
    Memory.wf (s.beforeWrite id va).mem = true := by
  have copies (pool parts : List (Nat × Nat)) : Memory.wf (s.copyParts pool parts).mem = true := by
    rw [State.copyParts_mem]
    exact Memory.wf_copies hm pool parts
  unfold State.beforeWrite
  split
  · exact hm
  · simp only
    split
    · split
      · split
        · exact hm
        · exact copies _ _
      · split
        · obtain ⟨cs, set⟩ := State.updContext_eq _ _ _
          rw [set]
          exact copies _ _
        · exact hm
    · exact hm

end Sys2Proof.Machine

namespace Sys2Proof.Machine

/-! ### A store performed (R242 to R244, R273, R274) -/

theorem exec_storePerformedAtHome {s : State} {o : StoreOp} (here : s.storeIs o) :
    exec .storePerformedAtHome s = .next (s.homeStep o) := by
  have run : exec .storePerformedAtHome s = execStorePerformedAtHome s := rfl
  have found : s.store? s.target.id = some o := here
  simp only [run, execStorePerformedAtHome, found]

theorem State.homeStep_store {s : State} {o : StoreOp} {data : List Byte} (ready : o.ready s) (op : o.op = .store data) :
    s.homeStep o = s.performPlain o data := by
  obtain ⟨-, st, turn, loads, -⟩ := ready
  simp only [State.homeStep, st, op, turn, loads, ne_eq, not_true, if_false, Bool.not_false, Bool.and_self, if_true]

theorem State.homeStep_atom {s : State} {o : StoreOp} (ready : o.ready s) (op : ∀ data, o.op ≠ .store data)
    (alone : s.atomGroup o = [o]) : s.homeStep o = s.performAtom o := by
  obtain ⟨-, st, turn, loads, -⟩ := ready
  unfold State.homeStep
  rw [if_neg (by simp [st])]
  split
  · next data is => exact absurd is (op data)
  · simp [alone, turn, loads]

/-! #### What is left as it was -/

theorem State.noteGwct_keeps (s : State) (tm w l g : Nat) :
    (s.noteGwct tm w l g).mem = s.mem ∧ (s.noteGwct tm w l g).stores = s.stores ∧ (s.noteGwct tm w l g).loads = s.loads ∧
      (s.noteGwct tm w l g).queues = s.queues := by
  have kept : ((s.noteGwct tm w l g).mem, (s.noteGwct tm w l g).stores, (s.noteGwct tm w l g).loads, (s.noteGwct tm w l g).queues) =
      (s.mem, s.stores, s.loads, s.queues) :=
    foldl_of_step (fun s : State => (s.mem, s.stores, s.loads, s.queues))
      (fun s x => s.updThread tm w x fun th => { th with horizon := max th.horizon g }) (fun _ _ => rfl) _ s
  simpa only [Prod.mk.injEq] using kept

/-- The completion time of a write enters the horizon of a live thread (R274). -/
theorem State.noteGwct_horizon {s : State} {tm w l : Nat} (lane : l < 32) (live : (s.thread tm w l).exited = false) (g : Nat) :
    ((s.noteGwct tm w l g).thread tm w l).horizon = max (s.thread tm w l).horizon g := by
  have one : s.noteGwct tm w l g = s.updThread tm w l fun th => { th with horizon := max th.horizon g } := by
    rw [State.noteGwct, State.lanesOf, if_neg (by omega)]
    rfl
  rw [one, State.thread_updThread_of_live live]

theorem State.base_gwct (s : State) (o : StoreOp) (x : Xlat) : (s.base o).gwct x = s.gwct x := by
  have mark (s : State) : s.apartSnapshot.gwct x = s.gwct x := rfl
  rw [← mark, State.base, State.beforeWrite_apart, mark]

/-- The state in which the store is performed: without the store, after the snapshot that is due. -/
def State.unqueued (s : State) (o : StoreOp) : State := (s.base o).dropStore o.id

theorem State.unqueued_eq (s : State) (o : StoreOp) : (s.dropStore o.id).beforeWrite o.launch o.va = s.unqueued o :=
  s.beforeWrite_dropStore _ _ _

theorem State.unqueued_keeps (s : State) (o : StoreOp) : (s.unqueued o).mem = (s.base o).mem ∧
    (s.unqueued o).stores = (s.dropStore o.id).stores ∧ (s.unqueued o).teams = s.teams ∧ (s.unqueued o).loads = s.loads ∧
    (s.unqueued o).queues = s.queues := by
  obtain ⟨teams, loads, stores, queues, -⟩ := s.beforeWrite_keeps o.launch o.va
  exact ⟨rfl, congrArg (fun l => l.filter fun x : StoreOp => x.id != o.id) stores, teams, loads, queues⟩

theorem State.unqueued_gwct (s : State) (o : StoreOp) (x : Xlat) : (s.unqueued o).gwct x = s.gwct x := by
  have dropped (c : State) : (c.dropStore o.id).gwct x = c.gwct x := rfl
  rw [State.unqueued, dropped, State.base_gwct]

/-! #### The write and its completion time -/

/-- The store has its bytes in memory and is gone, and its thread's horizon has the write's completion time. -/
def StoreWritten (s s' : State) (o : StoreOp) (bs : List Byte) : Prop :=
  StoredBytes (s.base o) s' o.xl.key bs ∧ (∀ x, x ∈ s'.stores ↔ x ∈ s.stores ∧ x.id ≠ o.id) ∧
  (o.lane < 32 → (s.thread o.team o.warp o.lane).exited = false →
    (s'.thread o.team o.warp o.lane).horizon = max (s.thread o.team o.warp o.lane).horizon (s.gwct o.xl))

/-- The write at its home of a store that `c` no longer holds, with its completion time. -/
def State.write (c : State) (o : StoreOp) (bs : List Byte) : State :=
  (c.writeHome o.xl bs).noteGwct o.team o.warp o.lane (c.gwct o.xl)

theorem State.write_loads (c : State) (o : StoreOp) (bs : List Byte) : (c.write o bs).loads = c.loads := by
  obtain ⟨-, -, loads, -⟩ := (c.writeHome o.xl bs).noteGwct_keeps o.team o.warp o.lane (c.gwct o.xl)
  rw [State.write, loads, State.writeHome_loads]

section
variable {s c : State} {o : StoreOp}

theorem State.write_written (hm : s.MemOk) (mem : c.mem = (s.base o).mem) (stores : c.stores = (s.dropStore o.id).stores)
    (teams : c.teams = s.teams) (mark : c.gwct o.xl = s.gwct o.xl) (bs : List Byte) : StoreWritten s (c.write o bs) o bs := by
  obtain ⟨mem', stores', -⟩ := (c.writeHome o.xl bs).noteGwct_keeps o.team o.warp o.lane (c.gwct o.xl)
  refine ⟨storedBytes_of_mem (State.wf_beforeWrite hm.1 _ _) ?_, fun x => ?_, fun lane live => ?_⟩
  · rw [State.write, mem', State.writeHome_mem, mem]
  · rw [State.write, stores', State.writeHome_stores, stores, State.mem_dropStore]
  · have same : (c.writeHome o.xl bs).thread o.team o.warp o.lane = s.thread o.team o.warp o.lane := by
      simp only [State.thread, State.team?, State.writeHome_teams, teams]
    rw [State.write, State.noteGwct_horizon lane (same ▸ live), same, mark]

theorem State.write_unqueued (hm : s.MemOk) (bs : List Byte) : StoreWritten s ((s.unqueued o).write o bs) o bs := by
  obtain ⟨mem, stores, teams, -⟩ := s.unqueued_keeps o
  exact State.write_written hm mem stores teams (s.unqueued_gwct o o.xl) bs

end

section
variable {s : State} {o : StoreOp} {data : List Byte}

theorem State.performPlain_home (plain : o.xl.doorbell = false) : s.performPlain o data = (s.unqueued o).write o data := by
  simp only [State.performPlain, State.unqueued_eq, State.write, plain, Bool.false_eq_true, if_false]

theorem State.performPlain_bell (bell : o.xl.doorbell = true) (shape : o.xl.pa % 4096 = 0 ∧ (o.bytes = 4 ∨ o.bytes = 8)) :
    s.performPlain o data = ((s.unqueued o).updQueue (doorbellQueue o.xl.pa)
      (·.doorbell (BitVec.ofNat 32 (leNat (data.take 4))))).noteGwct o.team o.warp o.lane (s.unqueued o).time := by
  simp only [State.performPlain, State.unqueued_eq, bell, if_true]
  exact if_pos shape

theorem State.performPlain_idle (bell : o.xl.doorbell = true) (shape : ¬ (o.xl.pa % 4096 = 0 ∧ (o.bytes = 4 ∨ o.bytes = 8))) :
    s.performPlain o data = s.unqueued o := by
  simp only [State.performPlain, State.unqueued_eq, bell, if_true]
  exact if_neg shape

end

/-! #### Atomics and CAS -/

/-- The loads of an atomic have the old value, and its core's copies are gone (R244, R276). -/
def State.withOld (s : State) (o : StoreOp) (ws : List (Word × Tag)) : State :=
  ((s.unqueued o).bindTwins o.id ws).updCore o.cl o.co fun k =>
    { k with l1 := k.l1.filter fun (x : Sector) => !overlap x.key 64 o.xl.key o.bytes }

theorem State.withOld_keeps (s : State) (o : StoreOp) (ws : List (Word × Tag)) : (s.withOld o ws).mem = (s.unqueued o).mem ∧
    (s.withOld o ws).stores = (s.unqueued o).stores ∧ (s.withOld o ws).teams = (s.unqueued o).teams :=
  ⟨rfl, rfl, rfl⟩

theorem State.withOld_gwct (s : State) (o : StoreOp) (ws : List (Word × Tag)) (x : Xlat) : (s.withOld o ws).gwct x = s.gwct x := by
  have core (c : State) (f : Core → Core) : (c.updCore o.cl o.co f).gwct x = c.gwct x := rfl
  have twins (c : State) : (c.bindTwins o.id ws).gwct x = c.gwct x := rfl
  rw [State.withOld, core, twins, State.unqueued_gwct]

theorem State.withOld_loads {s : State} {o : StoreOp} {l : LoadOp} (here : l ∈ s.loads) (twin : l.twin = some o.id)
    (ws : List (Word × Tag)) : { l with st := .bound ws none } ∈ (s.withOld o ws).loads := by
  obtain ⟨-, -, -, loads, -⟩ := s.unqueued_keeps o
  have bound : (s.withOld o ws).loads =
      (s.unqueued o).loads.map fun (l : LoadOp) => if l.twin == some o.id then { l with st := .bound ws none } else l := rfl
  rw [bound, loads]
  exact List.mem_map.2 ⟨l, here, by simp [twin]⟩

section
variable {s : State} {o : StoreOp}

/-- The old value of the memory at the store's place. -/
def State.oldValue (s : State) (o : StoreOp) : Nat := leNat (Memory.readBytes s.mem o.xl.key o.bytes)

theorem State.write_withOld (hm : s.MemOk) (bs : List Byte) (ws : List (Word × Tag)) :
    StoreWritten s ((s.withOld o ws).write o bs) o bs := by
  obtain ⟨mem, stores, teams, -⟩ := s.unqueued_keeps o
  obtain ⟨mem', stores', teams'⟩ := s.withOld_keeps o ws
  exact State.write_written hm (mem'.trans mem) (stores'.trans stores) (teams'.trans teams) (s.withOld_gwct o ws o.xl) bs

theorem State.performAtom_atom {sub x ld : Nat} (good : s.xlatBad o.xl o.bytes = false) (plain : o.xl.doorbell = false)
    (op : o.op = .atom sub x ld) : s.performAtom o =
      (s.withOld o (oldWords o.bytes (s.oldValue o) (atomTags sub).2)).write o (leBytes (atomNew sub (s.oldValue o) x) o.bytes) := by
  have good' : (s.dropStore o.id).xlatBad o.xl o.bytes = false := good
  simp only [State.performAtom, good', State.unqueued_eq, State.homeBytes, plain, op, Bool.false_eq_true, if_false]
  rfl

theorem State.performAtom_swapped {cmp v ld : Nat} (good : s.xlatBad o.xl o.bytes = false) (plain : o.xl.doorbell = false)
    (op : o.op = .cas cmp v ld) (same : s.oldValue o = cmp) :
    s.performAtom o = (s.withOld o (oldWords o.bytes (s.oldValue o) .raw)).write o (leBytes v o.bytes) := by
  have good' : (s.dropStore o.id).xlatBad o.xl o.bytes = false := good
  subst same
  simp only [State.performAtom, good', State.unqueued_eq, State.homeBytes, State.oldValue, plain, op, Bool.false_eq_true, if_false,
    if_true]
  rfl

theorem State.performAtom_failed {cmp v ld : Nat} (good : s.xlatBad o.xl o.bytes = false) (plain : o.xl.doorbell = false)
    (op : o.op = .cas cmp v ld) (other : s.oldValue o ≠ cmp) :
    s.performAtom o = s.withOld o (oldWords o.bytes (s.oldValue o) .raw) := by
  have good' : (s.dropStore o.id).xlatBad o.xl o.bytes = false := good
  rw [State.oldValue] at other
  simp only [State.performAtom, good', State.unqueued_eq, State.homeBytes, State.oldValue, plain, op, other, Bool.false_eq_true, if_false]
  rfl

end

theorem storesArePerformed : StoresArePerformed := by
  unfold StoresArePerformed
  intro gone old alone late answered home
  have dropped {s s' : State} {o : StoreOp} (stores : s'.stores = (s.unqueued o).stores) : gone s s' o := fun x => by
    obtain ⟨-, stores', -⟩ := s.unqueued_keeps o
    rw [stores, stores', State.mem_dropStore]
  have twinned {s : State} {o : StoreOp} {tag : Tag} {bs : List Byte} :
      answered s ((s.withOld o (oldWords o.bytes (s.oldValue o) tag)).write o bs) o tag := fun l hl twin => by
    rw [State.write_loads]
    exact State.withOld_loads hl twin _
  refine ⟨fun o data s ⟨⟨ready, home⟩, op⟩ => ?_, fun o data s ⟨ready, bell, op, shape⟩ => ?_,
    fun o data s ⟨ready, bell, op, shape⟩ => ?_, fun o sub x ld s ⟨⟨ready, home⟩, ⟨single, good⟩, op⟩ => ?_,
    fun o cmp v ld s ⟨⟨ready, home⟩, ⟨single, good⟩, op, same⟩ => ?_,
    fun o cmp v ld s ⟨⟨ready, home⟩, ⟨single, good⟩, op, other⟩ => ?_, snapshotsTakeThePage,
    fun s launch va => State.beforeWrite_mem_of_taken, fun o s ⟨here, st⟩ => ?_⟩
  · have ⟨here, _, _, _, hm⟩ := ready
    refine ⟨_, exec_storePerformedAtHome here, ?_⟩
    rw [State.homeStep_store ready op, State.performPlain_home home]
    exact State.write_unqueued hm data
  · obtain ⟨mem, -, -, -, queues⟩ := s.unqueued_keeps o
    refine ⟨_, exec_storePerformedAtHome ready.1, ?_⟩
    rw [State.homeStep_store ready op, State.performPlain_bell bell shape]
    obtain ⟨mem', stores', -, queues'⟩ := ((s.unqueued o).updQueue (doorbellQueue o.xl.pa)
      (·.doorbell (BitVec.ofNat 32 (leNat (data.take 4))))).noteGwct_keeps o.team o.warp o.lane (s.unqueued o).time
    exact ⟨mem'.trans mem, dropped stores', queues'.trans (congrArg (updAt · _ _) queues)⟩
  · obtain ⟨mem, -, -, -, queues⟩ := s.unqueued_keeps o
    refine ⟨_, exec_storePerformedAtHome ready.1, ?_⟩
    rw [State.homeStep_store ready op, State.performPlain_idle bell shape]
    exact ⟨mem, dropped rfl, queues⟩
  · have ⟨here, _, _, _, hm⟩ := ready
    refine ⟨_, exec_storePerformedAtHome here, ?_⟩
    rw [State.homeStep_atom ready (by simp [op]) single, State.performAtom_atom good home op]
    obtain ⟨bytes, left, horizon⟩ := State.write_withOld hm (leBytes (atomNew sub (s.oldValue o) x) o.bytes)
      (oldWords o.bytes (s.oldValue o) (atomTags sub).2)
    exact ⟨bytes, left, horizon, twinned⟩
  · have ⟨here, _, _, _, hm⟩ := ready
    refine ⟨_, exec_storePerformedAtHome here, ?_⟩
    rw [State.homeStep_atom ready (by simp [op]) single, State.performAtom_swapped good home op same]
    obtain ⟨bytes, left, horizon⟩ := State.write_withOld hm (leBytes v o.bytes) (oldWords o.bytes (s.oldValue o) .raw)
    exact ⟨bytes, left, horizon, twinned⟩
  · refine ⟨_, exec_storePerformedAtHome ready.1, ?_⟩
    rw [State.homeStep_atom ready (by simp [op]) single, State.performAtom_failed good home op other]
    exact ⟨rfl, dropped rfl, fun l hl twin => State.withOld_loads hl twin _⟩
  · rw [exec_storePerformedAtHome here, State.homeStep, if_pos st]
    rfl

/-- Settles O57: the translation of a store (`storesAreTranslated`), the snapshot that its write makes due
(`snapshotsTakeThePage`) and what is performed at its home (`storesArePerformed`). -/
theorem storesReachTheirHomes : Obligations.StoresReachTheirHomes := ⟨storesAreTranslated, storesArePerformed⟩

end Sys2Proof.Machine
